-- ==== Sys2Proof/Word.lean ====
section
/-! DEFINITION. Word types and their plainest arithmetic. -/

namespace Sys2Proof

/-- The unit of memory (00_scope R4). -/
abbrev Byte := BitVec 8

/-- One lane of the vector datapath (10_group R217). -/
abbrev W32 := BitVec 32

/-- A scalar register or special register (14_formats R286, R289). -/
abbrev W64 := BitVec 64

/-- The widest datum of one thread (02_numbers R32). -/
abbrev W128 := BitVec 128

/-- Lanes or threads of a group, a paired group's 96 included (10_group R222). -/
abbrev Mask := BitVec 96

end Sys2Proof
end

