-- ==== Sys2Proof/Config.lean ====
section
/-! DEFINITION. The free values of the model: constants with no body, so that nothing can be proved of
them. Each is named in the assumption log (row 6). -/

namespace Sys2Proof.Config

/-- The value of a register of a new group that R220 leaves undefined: by the group's serial number
and the register's cell. Free value. -/
opaque undefWord : Nat → Nat → BitVec 64

/-- A scratchpad byte of a new team, which R91 leaves undefined: by the team's serial and the byte's
offset. Free value. -/
opaque undefByte : Nat → Nat → BitVec 8

/-- A value for which the spec states an effect but no result, by the counter of free values read and
the number of the place that reads it. Free value. -/
opaque freeWord : Nat → Nat → BitVec 128

/-- The GMAC nonce of a tree node (R106), by its number and its parent counter: the spec gives no layout. Free value. -/
opaque nodeNonce : Nat → Nat → BitVec 128

/-- The line number at which a version record stands (R141, R157), by its die and its counter. Free value. -/
opaque recordLine : Nat → Nat → Nat

/-- What the relocations section of an object (R200) says: for each relocation its place (in the text, or else in the data
section, by byte offset) and its target, an instruction index of the object. The spec gives no layout. Free value. -/
opaque relocEntries : List (BitVec 8) → List (Bool × Nat × Nat)

/-- The bytes that a relocation puts at its place (R204), by the number of the relocation and its target's address. The spec
gives no layout. Free value. -/
opaque relocBytes : Nat → Nat → List (BitVec 8)

/-- The fused SHA-384 digest of the public key that signs firmware images (R27). Fixed by the part. -/
opaque fusedDigest : BitVec 384

/-- EVSET of this part, the value PRFCTL resets to (R412). -/
abbrev partEvset : Nat := 1

end Sys2Proof.Config
end

