-- ==== Sys2Proof/Machine/Tab.lean ====
section
/-! DEFINITION. Tables: lists of key and value pairs in ascending key order, as plain data. -/

namespace Sys2Proof.Machine

/-- A table from natural-number keys. -/
abbrev Tab (α : Type) := List (Nat × α)

/-- The entry at a key. -/
def tabGet {α : Type} : Tab α → Nat → Option α
  | [], _ => none
  | (k, v) :: t, i => if k = i then some v else tabGet t i

/-- The entry at a key, or a default. -/
def tabGetD {α : Type} (t : Tab α) (i : Nat) (d : α) : α := (tabGet t i).getD d

/-- Sets the entry at a key, in key order. -/
def tabPut {α : Type} : Tab α → Nat → α → Tab α
  | [], i, x => [(i, x)]
  | (k, v) :: t, i, x =>
    if i < k then (i, x) :: (k, v) :: t
    else if i = k then (i, x) :: t
    else (k, v) :: tabPut t i x

/-- Removes the entry at a key. -/
def tabDel {α : Type} : Tab α → Nat → Tab α
  | [], _ => []
  | (k, v) :: t, i => if k = i then tabDel t i else (k, v) :: tabDel t i

/-- Changes the entry at a key where there is one. -/
def tabUpd {α : Type} (t : Tab α) (i : Nat) (f : α → α) : Tab α :=
  match tabGet t i with
  | some x => tabPut t i (f x)
  | none => t

/-- Keys of the entries that satisfy a test, ascending. -/
def tabKeys {α : Type} (t : Tab α) (p : Nat → α → Bool) : List Nat :=
  (t.filter (fun kv => p kv.1 kv.2)).map (·.1)

/-- Changes every entry. -/
def tabMap {α : Type} (t : Tab α) (f : Nat → α → α) : Tab α :=
  t.map (fun kv => (kv.1, f kv.1 kv.2))

/-- Inserts into a list in ascending key order, after equal keys. -/
def insertOn {α : Type} (key : α → Nat) (x : α) : List α → List α
  | [] => [x]
  | y :: t => if key x < key y then x :: y :: t else y :: insertOn key x t

/-- Sorts a list by ascending key, keeping the order of equal keys. -/
def sortOn {α : Type} (key : α → Nat) (l : List α) : List α := l.foldl (fun acc x => insertOn key x acc) []

end Sys2Proof.Machine
end

