-- ==== Sys2Proof/Syntax.lean ====
section
/-! DEFINITION. The abstract syntax of Swiux: operands, modifiers, instruction words, and `Instr`, one
constructor per row of spec/opcode_table.json. Encoded instructions carry the fields of their word
(14_formats R284 to R292); the part's other steps (95_what_each_step_holds) carry what selects the
step and what comes in from outside the package. -/

namespace Sys2Proof

/-- TYPE codes of R291, in code order. -/
inductive Ty where
  | b8 | b16 | b32 | b64 | b128 | si8 | si16 | si32 | si64 | ui8 | ui16 | ui32 | ui64
  | f16 | bf16 | f32 | e4m3 | e5m2 | e2m1 | e8m0 | sm8 | sm4 | cb2
  deriving DecidableEq, Repr

/-- Special registers, in the numbering of R289. -/
inductive SReg where
  | laneid | tid | gid | team | role | draw | seed | numctl | numflag | px | txcause | rasbase | schk
  deriving DecidableEq, Repr

/-- Rounding modifiers RND of R292. -/
inductive Rnd where
  | none | rn | ru | rd | rz
  deriving DecidableEq, Repr

/-- Scopes of R120, in the code order of R292. -/
inductive Scope where
  | grp | team | core | clu | die | pkg | pod | sys
  deriving DecidableEq, Repr

/-- ORD of R292. -/
inductive Ord4 where
  | none | acq | rel | ar
  deriving DecidableEq, Repr

/-- Operands of R287. -/
inductive Opnd where
  | v (i : BitVec 8) (abs neg : Bool)
  | s (i : BitVec 6) (abs neg : Bool)
  | imm (x : BitVec 13)
  | cbank (bank : BitVec 3) (word : BitVec 10)
  | pred (p : BitVec 3) (inv : Bool)
  | bar (i : BitVec 6)
  | chan (i : BitVec 6)
  | join (j : BitVec 3)
  | acc (a : BitVec 2)
  | sreg (r : SReg)
  | none
  deriving DecidableEq, Repr

/-- Destinations of R286. -/
inductive Dst where
  | v (i : BitVec 8)
  | s (i : BitVec 6)
  | p (i : BitVec 3)
  | acc (a : BitVec 2)
  | join (j : BitVec 3)
  | bar (i : BitVec 6)
  | sreg (r : SReg)
  | none
  deriving DecidableEq, Repr

/-- Guard and hints of R284: WAIT mask, SET slot (`none` is the encoding 7), YLD, STALL, guard. -/
structure Hdr where
  wait : BitVec 4
  set : Option (BitVec 2)
  yld : Bool
  stall : BitVec 4
  inv : Bool
  pred : BitVec 3
  deriving DecidableEq, Repr

/-- MOD of the integer class (R292): TYPE and bits 11:5. -/
structure IntM where
  ty : Ty
  x : BitVec 7
  deriving DecidableEq, Repr

/-- MOD of the floating class (R292): TYPE, RND and bits 11:8. -/
structure FltM where
  ty : Ty
  rnd : Rnd
  x : BitVec 4
  deriving DecidableEq, Repr

/-- MOD of the memory class (R292): TYPE, SPACE (`loc`), SCOPE, ORD and X. -/
structure MemM where
  ty : Ty
  loc : Bool
  scope : Scope
  ord : Ord4
  x : Bool
  deriving DecidableEq, Repr

/-- A word in form R (R285). -/
structure RWord (μ : Type) where
  hdr : Hdr
  m : μ
  d : Dst
  a : Opnd
  b : Opnd
  c : Opnd
  deriving DecidableEq, Repr

/-- A word in form M (R285): base operand, signed 16-bit byte offset, second datum. -/
structure MWord where
  hdr : Hdr
  m : MemM
  d : Dst
  a : Opnd
  off : BitVec 16
  c : Opnd
  deriving DecidableEq, Repr

/-- A word in form I or J (R285): operand A and IMM32. -/
structure IWord (μ : Type) where
  hdr : Hdr
  m : μ
  d : Dst
  a : Opnd
  imm : BitVec 32
  deriving DecidableEq, Repr

/-- A unit that stops and writes a stop record (R186, R187): UNIT kind, die, core or pump, index, slot. -/
structure UnitId where
  kind : Nat
  die : Nat
  core : Nat
  index : Nat
  slot : Nat
  deriving DecidableEq, Repr

/-- A memory access of a media engine: which bytes coding reads and writes is an input. -/
inductive MediaAcc where
  | read (va n : Nat)
  | write (va : Nat) (bytes : List (BitVec 8))
  deriving DecidableEq, Repr

/-- What a media engine reports of the row in progress (R257, R258), with the accesses that the row made: coded results are
inputs. -/
inductive MediaRow where
  | final (addr : Nat) (last : Bool) (accs : List MediaAcc)
  | recon (addr : Nat) (accs : List MediaAcc)
  | awaiting (addr : Nat) (accs : List MediaAcc)
  | fail (code : Nat) (accs : List MediaAcc)
  deriving DecidableEq, Repr

/-- What an arriving flit delivers to this package (R274, R278): the answer of a far home to a part of
an access, a far push to a queue of this package, a far free-count, or a far access performed here. -/
inductive Flit where
  /-- What a far home answers: the line's 128 bytes to a read, the old value to an atomic. -/
  | answer (acc part : Nat) (data : BitVec 1024)
  | refused (acc : Nat) (cause : Nat)
  | push (core queue ctx : Nat) (sender : BitVec 64) (entry : List (BitVec 8))
  | free (ctx : Nat) (sender : BitVec 64)
  /-- Accesses of a VF, or through a window slot, with the page's CMP. -/
  | read (vf : Nat) (win : Option Nat) (pa size : Nat)
  | write (vf : Nat) (win : Option Nat) (cmp : Bool) (pa : Nat) (bytes : List (BitVec 8))
  | atomic (vf : Nat) (win : Option Nat) (cmp : Bool) (pa : Nat) (ty : Ty) (op : BitVec 4) (value compare : BitVec 128)
  deriving DecidableEq, Repr

/-- A firmware image as it is received (R27): its bytes, and the public key and signature that come with it. -/
structure FwImage where
  bytes : List (BitVec 8)
  key : Nat × Nat
  sig : Nat × Nat
  deriving DecidableEq, Repr

/-- The word in which an uncorrectable error lies (R30): of memory, or a register of a group: a lane of v, s, or a
thread's bit of p. -/
inductive ErrWord where
  | mem (pa : Nat)
  | v (grp r lane : Nat)
  | s (grp r : Nat)
  | p (grp r thread : Nat)
  deriving DecidableEq, Repr

/-- One constructor per row of spec/opcode_table.json, in the table's order. -/
inductive Instr where
  /-- ZTRAP, R314. -/
  | ztrap
  /-- NOP, R314. -/
  | nop (w : RWord (BitVec 12))
  /-- BRA, R307. -/
  | bra (w : IWord (BitVec 12))
  /-- BRX, R307. -/
  | brx (w : RWord (BitVec 12))
  /-- BRD, R307. -/
  | brd (w : IWord (BitVec 12))
  /-- JARM, R308. -/
  | jarm (w : IWord (BitVec 12))
  /-- JARR, R308. -/
  | jarr (w : RWord (BitVec 12))
  /-- CALL, R310. -/
  | call (w : IWord (BitVec 12))
  /-- CALLX, R310. -/
  | callx (w : RWord (BitVec 12))
  /-- RET, R311. -/
  | ret (w : RWord (BitVec 12))
  /-- END, R314. -/
  | endI (w : RWord (BitVec 12))
  /-- TRAP, R314. -/
  | trap (w : IWord (BitVec 12))
  /-- BKPT, R314. -/
  | bkpt (w : IWord (BitVec 12))
  /-- BIND, R315. -/
  | bind (w : RWord (BitVec 12))
  /-- SPAWN, R316. -/
  | spawn (w : RWord (BitVec 12))
  /-- LAUNCH, R317. -/
  | launch (w : RWord (BitVec 12))
  /-- YIELD, R318. -/
  | yield (w : RWord (BitVec 12))
  /-- SLEEP, R318. -/
  | sleep (w : IWord (BitVec 12))
  /-- MARK, R318. -/
  | mark (w : IWord (BitVec 12))
  /-- RDEM, R319. -/
  | rdem (w : RWord (BitVec 12))
  /-- WREM, R319. -/
  | wrem (w : RWord (BitVec 12))
  /-- RDSR, R320. -/
  | rdsr (w : RWord (BitVec 12))
  /-- WRSR, R320. -/
  | wrsr (w : RWord (BitVec 12))
  /-- RDTS, R321. -/
  | rdts (w : RWord (BitVec 12))
  /-- RDCNT, R321. -/
  | rdcnt (w : RWord (BitVec 12))
  /-- EMP, R319. -/
  | emp (w : RWord (BitVec 12))
  /-- JRD, R308. -/
  | jrd (w : RWord (BitVec 12))
  /-- IADD, R328. -/
  | iadd (w : RWord IntM)
  /-- ISUB, R328. -/
  | isub (w : RWord IntM)
  /-- IMUL, R328. -/
  | imul (w : RWord IntM)
  /-- IMAD, R328. -/
  | imad (w : RWord IntM)
  /-- IMULW, R328. -/
  | imulw (w : RWord IntM)
  /-- IMADW, R328. -/
  | imadw (w : RWord IntM)
  /-- IMIN, R328. -/
  | imin (w : RWord IntM)
  /-- IMAX, R328. -/
  | imax (w : RWord IntM)
  /-- IABS, R328. -/
  | iabs (w : RWord IntM)
  /-- INEG, R328. -/
  | ineg (w : RWord IntM)
  /-- SHL, R329. -/
  | shl (w : RWord IntM)
  /-- SHR, R329. -/
  | shr (w : RWord IntM)
  /-- ROT, R329. -/
  | rot (w : RWord IntM)
  /-- BOP, R330. -/
  | bop (w : RWord IntM)
  /-- BFE, R331. -/
  | bfe (w : RWord IntM)
  /-- BFI, R331. -/
  | bfi (w : RWord IntM)
  /-- POPC, R331. -/
  | popc (w : RWord IntM)
  /-- CLZ, R331. -/
  | clz (w : RWord IntM)
  /-- BREV, R331. -/
  | brev (w : RWord IntM)
  /-- ISETP, R332. -/
  | isetp (w : RWord IntM)
  /-- SEL, R332. -/
  | sel (w : RWord IntM)
  /-- MOV, R333. -/
  | mov (w : RWord IntM)
  /-- MOVI, R333. -/
  | movi (w : IWord IntM)
  /-- MOVIH, R333. -/
  | movih (w : IWord IntM)
  /-- LEA, R334. -/
  | lea (w : RWord IntM)
  /-- PLOP, R330. -/
  | plop (w : RWord (BitVec 12))
  /-- ISAD, R334. -/
  | isad (w : RWord IntM)
  /-- IDOT, R334. -/
  | idot (w : RWord IntM)
  /-- SHFW, R329. -/
  | shfw (w : RWord IntM)
  /-- XLANE, R336. -/
  | xlane (w : RWord IntM)
  /-- PCOL, R337. -/
  | pcol (w : RWord (BitVec 12))
  /-- REDI, R339. -/
  | redi (w : RWord IntM)
  /-- BSEL, R334. -/
  | bsel (w : RWord (BitVec 12))
  /-- SCAN, R339. -/
  | scan (w : RWord IntM)
  /-- MATCH, R337. -/
  | matchI (w : RWord IntM)
  /-- RDLANE, R338. -/
  | rdlane (w : RWord IntM)
  /-- WRLANE, R338. -/
  | wrlane (w : RWord IntM)
  /-- FADD, R347. -/
  | fadd (w : RWord FltM)
  /-- FSUB, R347. -/
  | fsub (w : RWord FltM)
  /-- FMUL, R347. -/
  | fmul (w : RWord FltM)
  /-- FFMA, R347. -/
  | ffma (w : RWord FltM)
  /-- FDOT, R348. -/
  | fdot (w : RWord FltM)
  /-- FMIN, R349. -/
  | fmin (w : RWord FltM)
  /-- FMAX, R349. -/
  | fmax (w : RWord FltM)
  /-- FSETP, R350. -/
  | fsetp (w : RWord FltM)
  /-- FSEL, R349. -/
  | fsel (w : RWord FltM)
  /-- FCLASS, R349. -/
  | fclass (w : RWord FltM)
  /-- FDIV, R351. -/
  | fdiv (w : RWord FltM)
  /-- FSQRT, R351. -/
  | fsqrt (w : RWord FltM)
  /-- FRCP, R351. -/
  | frcp (w : RWord FltM)
  /-- FRSQ, R351. -/
  | frsq (w : RWord FltM)
  /-- FEXP2, R352. -/
  | fexp2 (w : RWord FltM)
  /-- FLOG2, R352. -/
  | flog2 (w : RWord FltM)
  /-- FSIN, R352. -/
  | fsin (w : RWord FltM)
  /-- FCOS, R352. -/
  | fcos (w : RWord FltM)
  /-- FTANH, R352. -/
  | ftanh (w : RWord FltM)
  /-- FCVT, R353. -/
  | fcvt (w : IWord FltM)
  /-- F2I, R354. -/
  | f2i (w : RWord FltM)
  /-- I2F, R354. -/
  | i2f (w : RWord FltM)
  /-- FRND, R355. -/
  | frnd (w : RWord FltM)
  /-- FSCALE, R355. -/
  | fscale (w : RWord FltM)
  /-- DIGITS, R356. -/
  | digits (w : RWord FltM)
  /-- SIBRD, R357. -/
  | sibrd (w : RWord FltM)
  /-- SIBWR, R357. -/
  | sibwr (w : RWord FltM)
  /-- SIBMED, R357. -/
  | sibmed (w : RWord FltM)
  /-- SIBMEAN, R357. -/
  | sibmean (w : RWord FltM)
  /-- SIBDIFF, R357. -/
  | sibdiff (w : RWord FltM)
  /-- FSGN, R349. -/
  | fsgn (w : RWord FltM)
  /-- FRED, R358. -/
  | fred (w : RWord FltM)
  /-- LD, R364. -/
  | ld (w : MWord)
  /-- ST, R365. -/
  | st (w : MWord)
  /-- LDX, R367. -/
  | ldx (w : MWord)
  /-- STX, R367. -/
  | stx (w : MWord)
  /-- AADD, R368. -/
  | aadd (w : MWord)
  /-- AMIN, R368. -/
  | amin (w : MWord)
  /-- AMAX, R368. -/
  | amax (w : MWord)
  /-- AAND, R368. -/
  | aand (w : MWord)
  /-- AOR, R368. -/
  | aor (w : MWord)
  /-- AXOR, R368. -/
  | axor (w : MWord)
  /-- AXCH, R368. -/
  | axch (w : MWord)
  /-- ACAS, R368. -/
  | acas (w : MWord)
  /-- AFADD, R368. -/
  | afadd (w : MWord)
  /-- RADD, R371. -/
  | radd (w : MWord)
  /-- RMIN, R371. -/
  | rmin (w : MWord)
  /-- RMAX, R371. -/
  | rmax (w : MWord)
  /-- RAND, R371. -/
  | rand (w : MWord)
  /-- ROR, R371. -/
  | ror (w : MWord)
  /-- RXOR, R371. -/
  | rxor (w : MWord)
  /-- RFADD, R371. -/
  | rfadd (w : MWord)
  /-- WAITA, R372. -/
  | waita (w : MWord)
  /-- FENCE, R373. -/
  | fence (w : RWord MemM)
  /-- CINV, R374. -/
  | cinv (w : MWord)
  /-- CTAG, R374. -/
  | ctag (w : MWord)
  /-- PREF, R374. -/
  | pref (w : MWord)
  /-- TXB, R375. -/
  | txb (w : RWord MemM)
  /-- TXC, R375. -/
  | txc (w : RWord MemM)
  /-- TXA, R375. -/
  | txa (w : RWord MemM)
  /-- SNAPPIN, R376. -/
  | snappin (w : RWord MemM)
  /-- SNAPREL, R376. -/
  | snaprel (w : RWord MemM)
  /-- CDRAIN, R374. -/
  | cdrain (w : RWord MemM)
  /-- PUSH, R383. -/
  | push (w : RWord (BitVec 12))
  /-- POP, R384. -/
  | pop (w : RWord (BitVec 12))
  /-- CAPRD, R385. -/
  | caprd (w : RWord (BitVec 12))
  /-- BINIT, R386. -/
  | binit (w : RWord (BitVec 12))
  /-- BARRIVE, R386. -/
  | barrive (w : RWord (BitVec 12))
  /-- BEXPECT, R386. -/
  | bexpect (w : RWord (BitVec 12))
  /-- BWAITP, R387. -/
  | bwaitp (w : RWord (BitVec 12))
  /-- BTEST, R387. -/
  | btest (w : RWord (BitVec 12))
  /-- BINVAL, R386. -/
  | binval (w : RWord (BitVec 12))
  /-- BCLOSE, R388. -/
  | bclose (w : RWord (BitVec 12))
  /-- BWAIT, R388. -/
  | bwait (w : RWord (BitVec 12))
  /-- BPOLL, R388. -/
  | bpoll (w : RWord (BitVec 12))
  /-- QFENCE, R389. -/
  | qfence (w : RWord (BitVec 12))
  /-- CPY, R394. -/
  | cpy (w : RWord (BitVec 12))
  /-- CPY_T, R395. -/
  | cpyT (w : RWord (BitVec 12))
  /-- CPY_CV, R395. -/
  | cpyCv (w : RWord (BitVec 12))
  /-- CPY_META, R396. -/
  | cpyMeta (w : RWord (BitVec 12))
  /-- GATHER, R397. -/
  | gather (w : RWord (BitVec 12))
  /-- MZERO, R401. -/
  | mzero (w : RWord (BitVec 12))
  /-- MLOOP, R400. -/
  | mloop (w : RWord (BitVec 12))
  /-- MLOOP_SP, R400. -/
  | mloopSp (w : RWord (BitVec 12))
  /-- MACC, R402. -/
  | macc (w : RWord (BitVec 12))
  /-- CBLOAD, R401. -/
  | cbload (w : RWord (BitVec 12))
  /-- XFM_R, R403. -/
  | xfmR (w : RWord (BitVec 12))
  /-- XFM_J, R404. -/
  | xfmJ (w : RWord (BitVec 12))
  /-- DECODE, R406. -/
  | decode (w : RWord (BitVec 12))
  /-- ILLEGAL_OP, R296. -/
  | illegalOp (w : BitVec 96)
  /-- FALLOFF, R204. -/
  | falloff
  /-- POWER_GOOD, R26. -/
  | powerGood
  /-- SELF_TEST_DONE, R26. -/
  | selfTestDone (pass : Bool) (unit : Nat)
  /-- IMAGE_RECEIVED, R26. -/
  | imageReceived
  /-- IMAGE_VERIFIED, R27. -/
  | imageVerified (image : FwImage)
  /-- THERMAL_TRIP, R22. -/
  | thermalTrip (die temp : Nat)
  /-- TRIP_CLEAR, R22. -/
  | tripClear (die : Nat)
  /-- FREEZE, R23. -/
  | freeze
  /-- THAW, R24. -/
  | thaw (gts : Nat)
  /-- CORE_FAILURE, R28. -/
  | coreFailure (core cause : Nat)
  /-- SOFT_ERROR, R29. -/
  | softError (die : Nat)
  /-- PATROL_SCRUB, R29. -/
  | patrolScrub (die line : Nat) (corrected : Bool)
  /-- UNCORRECTABLE_ERROR, R30. -/
  | uncorrectableError (w : ErrWord)
  /-- START_GRANT, R20. -/
  | startGrant (die : Nat)
  /-- BANK_ACCESS, R98. -/
  | bankAccess (acc part : Nat)
  /-- PUMP_FULL_WRITE, R107. -/
  | pumpFullWrite (acc line : Nat)
  /-- PUMP_PARTIAL_WRITE, R102. -/
  | pumpPartialWrite (acc line : Nat)
  /-- PUMP_READ, R108. -/
  | pumpRead (acc part : Nat)
  /-- PUMP_ATOMIC, R119. -/
  | pumpAtomic (acc part : Nat)
  /-- REENCRYPT_COMPLETE, R109. -/
  | reencryptComplete (grp : Nat)
  /-- MEMORY_RESPONSE, R232. -/
  | memoryResponse (acc : Nat)
  /-- STORE_ACK, R293. -/
  | storeAck (acc : Nat)
  /-- WKEY_LOAD, R112. -/
  | wkeyLoad (slot : Nat)
  /-- WKEY_REKEY, R112. -/
  | wkeyRekey (slot : Nat) (lines : List Nat)
  /-- WKEY_CLEAR, R112. -/
  | wkeyClear (slot : Nat)
  /-- REKEY_LINE, R112. -/
  | rekeyLine (slot line : Nat)
  /-- SNAPSHOT_WAIT_END, R143. -/
  | snapshotWaitEnd (acc : Nat)
  /-- TX_PREPARE, R152. -/
  | txPrepare (grp pump : Nat)
  /-- TX_VOTE, R149. -/
  | txVote (grp pump : Nat)
  /-- TX_COMMIT_WRITE, R154. -/
  | txCommitWrite (grp line : Nat)
  /-- TX_COMMIT_ACK, R154. -/
  | txCommitAck (grp pump : Nat)
  /-- LOCK_RELEASE, R149. -/
  | lockRelease (grp : Nat)
  /-- LWM_RECOMPUTE, R155. -/
  | lwmRecompute (die : Nat)
  /-- POOL_WAIT_TIMEOUT, R157. -/
  | poolWaitTimeout (acc : Nat)
  /-- POOL_WAIT_END, R157. -/
  | poolWaitEnd (acc : Nat)
  /-- PAGE_WALK, R159. -/
  | pageWalk (ctx die va : Nat)
  /-- SET_DIRTY, R170. -/
  | setDirty (ctx va : Nat)
  /-- FAULT_RECORD_WAIT_END, R172. -/
  | faultRecordWaitEnd (ctx : Nat)
  /-- FLTREPLAY_REPLAY, R174. -/
  | fltreplayReplay (vf seq : Nat)
  /-- FLTREPLAY_CANCEL, R174. -/
  | fltreplayCancel (vf seq : Nat)
  /-- TLBINV_RANGE, R176. -/
  | tlbinvRange (ctl : BitVec 64)
  /-- TLBINV_VF, R176. -/
  | tlbinvVf (ctl : BitVec 64)
  /-- TLBINV_ALL, R176. -/
  | tlbinvAll (ctl : BitVec 64)
  /-- TLBINV_TEXT, R176. -/
  | tlbinvText (ctl : BitVec 64)
  /-- TLBINV_COMPLETE, R177. -/
  | tlbinvComplete
  /-- PARTQ_ENABLE, R179. -/
  | partqEnable (part : Nat) (w : BitVec 64)
  /-- PARTQ_DISABLE, R179. -/
  | partqDisable (part : Nat) (w : BitVec 64)
  /-- CTX_CREATE, R181. -/
  | ctxCreate (vf : Nat) (cmd : BitVec 64)
  /-- CTX_SWITCH, R195. -/
  | ctxSwitch (vf : Nat) (cmd : BitVec 64)
  /-- CTX_HALT, R183. -/
  | ctxHalt (vf : Nat) (cmd : BitVec 64)
  /-- CTX_RESUME, R183. -/
  | ctxResume (vf : Nat) (cmd : BitVec 64)
  /-- CTX_TEARDOWN, R183. -/
  | ctxTeardown (vf : Nat) (cmd : BitVec 64)
  /-- RESTORE_START, R183. -/
  | restoreStart (part : Nat)
  /-- RESTORE_COMPLETE, R183. -/
  | restoreComplete (part : Nat)
  /-- SLICE_END, R194. -/
  | sliceEnd (part : Nat)
  /-- SAVE_COMPLETE, R191. -/
  | saveComplete (part : Nat)
  /-- HALT_LINE_RISE, R185. -/
  | haltLineRise (part cause : Nat)
  /-- UNIT_STOP, R186. -/
  | unitStop (part : Nat) (unit : UnitId)
  /-- VF_KEY_LOAD, R192. -/
  | vfKeyLoad (vf : Nat)
  /-- VF_KEY_CLEAR, R192. -/
  | vfKeyClear (vf : Nat)
  /-- TOKEN_ACCRUAL, R193. -/
  | tokenAccrual (vf : Nat)
  /-- RECLAIM, R197. -/
  | reclaim (part core : Nat)
  /-- RECLAIM_COMPLETE, R197. -/
  | reclaimComplete (part : Nat)
  /-- OBJECT_LOAD, R204. -/
  | objectLoad (ctx : Nat) (file : List (BitVec 8)) (id base : Nat) (frames : List Nat)
  /-- OBJECT_UNLOAD, R204. -/
  | objectUnload (ctx id : Nat)
  /-- GRID_ACCEPTANCE, R210. -/
  | gridAcceptance (req : Nat)
  /-- TEAM_PLACEMENT, R211. -/
  | teamPlacement (grid core : Nat) (slots : List Nat) (row bar : Nat)
  /-- GRID_COMPLETION, R212. -/
  | gridCompletion (grid : Nat)
  /-- BIND_RESOLVE, R215. -/
  | bindResolve (ctx pa : Nat) (target : Option Nat)
  /-- GROUP_STATE_LOADED, R220. -/
  | groupStateLoaded (grp : Nat)
  /-- ACTIVE_SET_ENTRY, R229. -/
  | activeSetEntry (sched : Nat)
  /-- FAIRNESS_EVICTION, R229. -/
  | fairnessEviction (sched : Nat)
  /-- GROUP_FREE, R220. -/
  | groupFree (grp : Nat)
  /-- SPAWN_BIN_TIMEOUT, R237. -/
  | spawnBinTimeout (core bin : Nat)
  /-- SPAWN_BIN_PLACE, R237. -/
  | spawnBinPlace (core bin slot : Nat)
  /-- SLEEP_EXPIRY, R318. -/
  | sleepExpiry (grp : Nat)
  /-- CAPDATA_WRITE, R242. -/
  | capdataWrite (vf : Nat) (w : BitVec 64)
  /-- CQ_CREATE, R243. -/
  | cqCreate (vf : Nat) (w : BitVec 64)
  /-- CQ_DESTROY, R243. -/
  | cqDestroy (vf : Nat) (w : BitVec 64)
  /-- QUEUE_APPEND, R244. -/
  | queueAppend (msg : Nat)
  /-- FREE_COUNT_RETURN, R246. -/
  | freeCountReturn (msg : Nat)
  /-- WQDOOR, R249. -/
  | wqdoor (vf : Nat) (w : BitVec 64)
  /-- WQ_BIND, R251. -/
  | wqBind (q : Nat) (w : BitVec 64)
  /-- WQ_PAUSE, R251. -/
  | wqPause (q : Nat)
  /-- WQ_RESUME, R251. -/
  | wqResume (q : Nat)
  /-- WQ_DRAIN, R251. -/
  | wqDrain (q : Nat)
  /-- WQ_CLOSE, R251. -/
  | wqClose (q : Nat)
  /-- WQ_UNBIND, R251. -/
  | wqUnbind (q : Nat)
  /-- WQ_LAUNCH_RECORD, R250. -/
  | wqLaunchRecord (q : Nat)
  /-- WQ_SIGNAL_RECORD, R250. -/
  | wqSignalRecord (q : Nat)
  /-- SIGNAL_WRITE, R250. -/
  | signalWrite (q : Nat)
  /-- MEDIA_OPEN_DEC, R258. -/
  | mediaOpenDec (eng : Nat)
  /-- MEDIA_OPEN_ENC, R258. -/
  | mediaOpenEnc (eng : Nat)
  /-- MEDIA_FRAME, R258. -/
  | mediaFrame (eng : Nat)
  /-- MEDIA_ROWBACK, R257. -/
  | mediaRowback (eng : Nat)
  /-- MEDIA_CLOSE, R258. -/
  | mediaClose (eng : Nat)
  /-- MEDIA_ROW_DONE, R257. -/
  | mediaRowDone (eng sess : Nat) (out : MediaRow)
  /-- BARDROP_CLEAR, R270. -/
  | bardropClear (core : Nat)
  /-- WAITA_REGISTER, R272. -/
  | waitaRegister (acc part : Nat)
  /-- WAITA_DEADLINE, R272. -/
  | waitaDeadline (acc part : Nat)
  /-- WAITA_WAKE, R372. -/
  | waitaWake (acc : Nat)
  /-- LINK_TRAIN, R276. -/
  | linkTrain (link : Nat)
  /-- LINK_DRAIN, R276. -/
  | linkDrain (link : Nat)
  /-- LINK_DISABLE, R276. -/
  | linkDisable (link : Nat)
  /-- ERRCNT_CLEAR, R275. -/
  | errcntClear (link : Nat)
  /-- LINK_TRAINED, R276. -/
  | linkTrained (link lanes peer : Nat)
  /-- TRAINING_TIMEOUT, R276. -/
  | trainingTimeout (link : Nat)
  /-- LANE_LOST, R276. -/
  | laneLost (link left : Nat)
  /-- PEER_LOST, R276. -/
  | peerLost (link : Nat)
  /-- FLIT_RECEIVED, R274. -/
  | flitReceived (link : Nat) (flit : Flit)
  /-- FLIT_CRC_FAIL, R274. -/
  | flitCrcFail (link : Nat) (vfs : List Nat)
  /-- FLIT_ACK, R274. -/
  | flitAck (link acc part : Nat)
  /-- ROUTE_TIMEOUT, R280. -/
  | routeTimeout (acc : Nat)
  /-- FUNCTION_LEVEL_RESET, R283. -/
  | functionLevelReset (fn : Nat)
  /-- ENGINE_OP_START, R390. -/
  | engineOpStart (op : Nat)
  /-- ENGINE_LINE_TRANSFER, R391. -/
  | engineLineTransfer (op : Nat)
  /-- SPARSITY_QUEUE_PUSH, R255. -/
  | sparsityQueuePush (op : Nat)
  /-- MLOOP_K_STEP, R400. -/
  | mloopKStep (op : Nat)
  /-- MACC_READOUT, R402. -/
  | maccReadout (op : Nat)
  /-- XFM_JOB_BLOCK, R404. -/
  | xfmJobBlock (op : Nat)
  /-- ENGINE_OP_COMPLETE, R254. -/
  | engineOpComplete (op : Nat)
  /-- DBG_STOP, R410. -/
  | dbgStop (die : Nat)
  /-- DEBUG_STOP_REACHED, R410. -/
  | debugStopReached (grp : Nat)
  /-- DBG_RESUME, R410. -/
  | dbgResume (die : Nat)
  /-- DBG_STEP, R410. -/
  | dbgStep (die : Nat)
  /-- DBG_READ, R411. -/
  | dbgRead (die : Nat)
  /-- DBG_WRITE, R411. -/
  | dbgWrite (die : Nat) (force : Bool)
  /-- DBG_DRAIN, R411. -/
  | dbgDrain (die : Nat)
  /-- DBG_BKEN, R410. -/
  | dbgBken (die : Nat)
  /-- DBG_BKDIS, R410. -/
  | dbgBkdis (die : Nat)
  /-- PRFCTL_WRITE, R412. -/
  | prfctlWrite (vf : Nat) (physical : Bool) (w : BitVec 64)
  /-- PROFILE_SAMPLE, R413. -/
  | profileSample (vf sched : Nat)
  /-- PRFSEL_WRITE, R416. -/
  | prfselWrite (vf n : Nat) (w : BitVec 64)
  /-- LCRCTL_WRITE, R415. -/
  | lcrctlWrite (vf : Nat) (w : BitVec 64)
  /-- PRFCNT_LOW_READ, R417. -/
  | prfcntLowRead (vf n : Nat) (physical : Bool)
  /-- REGISTER_WRITE, R6. -/
  | registerWrite (die offset : Nat) (physical : Bool) (w : BitVec 64)
  /-- PACKAGE_RESET, R26. -/
  | packageReset
  /-- TEXT_FAULT, R164. -/
  | textFault
  /-- MALFORMED_RECORD, R251. -/
  | malformedRecord (q : Nat)
  /-- VARIABLE_LATENCY_RESULT, R232. -/
  | variableLatencyResult (grp res : Nat)
  /-- IDLE_ISSUE_CYCLE, R414. -/
  | idleIssueCycle (sched : Nat)
  deriving DecidableEq, Repr

end Sys2Proof
end

