-- ==== Sys2Proof/Machine/State.lean ====
section
/-! DEFINITION. The state of one Nerrex package as plain data, the fault and refusal reasons, and the
state right after reset. Keys: a core is `die * 64 + core`, a scheduler `core * 4 + sched`, a group
`scheduler * 24 + slot`, a context `vf * 16 + slot`, a pump `die * 16 + pump`, a link `die * 3 + port`,
a media engine `die * 2 + engine`. Objects with no fixed place (grids, teams, accesses, engine
operations, messages) are named by serial numbers. -/

namespace Sys2Proof.Machine

open Sys2Proof

/-- What stops the model where the spec gives the step no object to act on. -/
inductive Fault where
  /-- An instruction is executed while no resident group is current: raised by every encoded
  instruction's meaning. Safe: the hardware issues only from a resident group (R219, R229). -/
  | noGroup
  deriving DecidableEq, Repr

/-- What the model turns away by name. -/
inductive Refusal where
  /-- The instruction has no meaning yet: raised by `exec` alone. Safe. -/
  | notModelled (mnemonic : String)
  deriving DecidableEq, Repr

/-- Boot states of R26, in the code order of DIESTAT.BOOT. -/
inductive Boot where
  | reset | rom | awaitImage | verify | run | failed
  deriving DecidableEq, Repr

/-- Group states of R219, in code order. -/
inductive GState where
  | free | ready | active | pending | wait | faultWait | stopped | retired
  deriving DecidableEq, Repr

/-- WAIT reasons of R219, in code order. -/
inductive Reason where
  | queue | barrier | batch | address | bind | sleep | spawn
  deriving DecidableEq, Repr

/-- Context states of R182, in code order. -/
inductive CtxState where
  | empty | loaded | running | halting | halted | saving | saved | restoring
  deriving DecidableEq, Repr

/-- Transaction states of R148. -/
inductive TxState where
  | none | open | doomed | preparing
  deriving DecidableEq, Repr

/-- Pin states of R147. -/
inductive PinState where
  | free | held | draining
  deriving DecidableEq, Repr

/-- Window key slot states of R111, in code order. -/
inductive WinState where
  | empty | active | rekeying
  deriving DecidableEq, Repr

/-- Host work queue states of R249, in code order. -/
inductive WqState where
  | unbound | open | paused | draining | error | closed
  deriving DecidableEq, Repr

/-- Link states of R275, in code order. -/
inductive LinkState where
  | down | training | active | degraded | fenced | draining
  deriving DecidableEq, Repr

/-- Media session states of R258 other than CLOSED (a closed session is not listed). -/
inductive SessState where
  | idle | busy | failed
  deriving DecidableEq, Repr

/-- A register cell: a lane of a v register, an s register, its upper half (MOVIH, R333), a thread's bit of a
p register. -/
inductive Cell where
  | v (r lane : Nat)
  | s (r : Nat)
  | sh (r : Nat)
  | p (r t : Nat)
  deriving DecidableEq, Repr

/-- A register write. -/
structure RegW where
  cell : Cell
  val : W64
  deriving DecidableEq, Repr

/-- What ends a path's long-latency wait, and what the wait then does. -/
inductive WaitOn where
  /-- BWAITP (R266): absolute barrier, token, predicate and threads written, scoreboard slot. -/
  | barrier (bar tok p : Nat) (threads : Mask) (slot : Option Nat)
  /-- BWAIT (R254): class and batch number. -/
  | batch (cls n : Nat)
  /-- A 65th BCLOSE of a class (R254): executes again. -/
  | batchFull (cls : Nat)
  /-- A POP on a cistern queue (R245): ticket in the queue's order, 0 for a peek; executes again. -/
  | pop (slot ticket : Nat)
  /-- A PUSH short of allowance (R246): instance and ticket; executes again. -/
  | push (inst : W64) (ticket : Nat)
  /-- WAITA (R372): its registration. -/
  | address (acc : Nat)
  /-- BIND (R215): physical address of the slot. -/
  | bind (pa : Nat)
  /-- SLEEP (R318): cycles left. -/
  | sleep (left : Nat)
  /-- SPAWN (R236): executes again. -/
  | spawn
  /-- A LINK push already sent from the core has no usable route to the package (R259, R280): executes again. -/
  | route (pkg : Nat)
  deriving DecidableEq, Repr

/-- The KIND of a path table entry (R225). -/
inductive PathKind where
  | runnable
  | joined (j : Nat)
  | waiting (r : Reason) (on : WaitOn)
  deriving DecidableEq, Repr

/-- A path table entry (R225). `rank` is 0 but for a path formed by a join (R227); `seq` is the order
of parking; `since` the cycle in which a wait began. -/
structure Path where
  kind : PathKind
  pc : Nat
  em : Mask
  rank : Nat
  seq : Nat
  since : Nat
  /-- The path's next fetch falls off its object's text range (R204). -/
  fall : Bool
  /-- Where a spilled entry stands among the spilled ones (R225), and what its PC has gone up by since it was spilled: a
  wait that ended. -/
  place : Nat
  bump : Nat
  deriving DecidableEq, Repr

/-- A join (R226). -/
structure Join where
  armed : Bool
  lost : Bool
  exp : Mask
  arr : Mask
  tgt : Nat
  deriving DecidableEq, Repr

/-- A return-address stack entry (R214): return index, and for a divergent CALLX its implicit join. -/
structure RasEnt where
  ret : Nat
  divergent : Bool
  exp : Mask
  arr : Mask
  deriving DecidableEq, Repr

/-- A mark (R188). -/
structure Mark where
  valid : Bool
  pc : Nat
  em : Mask
  draws : Tab Nat
  recipe : Nat
  deriving DecidableEq, Repr

/-- Batches of one class (R254). -/
structure Batches where
  next : Nat
  done : Nat
  openOps : List Nat
  closed : List (Nat × List Nat)
  deriving DecidableEq, Repr

/-- A line of a transaction buffer (R151): line number, byte mask, bytes. -/
structure TxLine where
  line : Nat
  mask : BitVec 128
  data : BitVec 1024
  /-- The page compresses its lines (R100). -/
  cmp : Bool
  /-- Virtual line of the first store (R177). -/
  va : Nat
  deriving DecidableEq, Repr

/-- A pump's vote (R152): yes with a proposal, or no with a CAUSE of R148. -/
inductive Vote where
  | yes (stamp : Nat)
  | no (cause : Nat)
  deriving DecidableEq, Repr

/-- The transaction of a group (R148 to R154). -/
structure Tx where
  state : TxState
  /-- Serial number of the outermost TXB. -/
  id : Nat
  depth : Nat
  excess : Nat
  cause : Nat
  doom : Nat
  ts : Nat
  lines : List TxLine
  /-- Cycle in which the commit was asked for (R157). -/
  since : Nat
  /-- Pumps asked and their votes, as they arrive. -/
  asked : List Nat
  sent : Tab Vote
  votes : Tab Vote
  /-- The commit stamp once past the commit point, and what remains to be written and acknowledged. -/
  stamp : Option Nat
  towrite : List Nat
  acked : List Nat
  /-- The predicate and threads TXC writes, and its scoreboard slot. -/
  pdst : Option Nat
  threads : Mask
  slot : Option Nat
  deriving DecidableEq, Repr

/-- The transaction in which an access was issued (R150): its serial number, T_S and the bytes buffered before it. -/
structure TxView where
  id : Nat
  ts : Nat
  lines : List TxLine
  deriving DecidableEq, Repr

/-- A fixed-latency result not yet due (R231): counted distance left, writes, scoreboard slot. The slot of an instruction
with no register result is released in a cycle of its own (R293). -/
structure Pend where
  left : Nat
  writes : List RegW
  slot : Option Nat
  freeAt : Option Nat
  deriving DecidableEq, Repr

/-- A variable-latency result of a non-memory unit that is outstanding (R232). -/
structure VRes where
  id : Nat
  writes : List RegW
  slot : Option Nat
  /-- The predicate of a PUSH.nb with a SET slot, by its PC: it is written before the slot goes down (R293). -/
  push : Option Nat
  deriving DecidableEq, Repr

/-- A group (R217 to R235). -/
structure Grp where
  serial : Nat
  ctx : Nat
  grid : Nat
  team : Nat
  role : Nat
  /-- Linear team id and team slot, which form sr.gid (R218). -/
  lin : Nat
  tslot : Nat
  triplex : Bool
  paired : Bool
  budget : Nat
  state : GState
  dbgStop : Bool
  dbgReq : Bool
  step : Bool
  bken : Bool
  yld : Bool
  placed : Nat
  readyAt : Nat
  activeAt : Nat
  nextAt : Nat
  pc : Nat
  em : Mask
  /-- 1: the group has a running path. -/
  running : Bool
  /-- 1: the path's sequential fetch passed the end of the object's text range (R204). -/
  fall : Bool
  paths : List Path
  spilled : List Path
  /-- The running path was spilled, and its entry (place and bump) is yet to be read back (R225). -/
  fromSpill : Option (Nat × Nat)
  joins : Tab Join
  ras : List RasEnt
  /-- Entries of the stack, from the bottom, that are spilled to memory (R214). -/
  rasSpilled : Nat
  absent : Mask
  ended : Mask
  /-- Registers: written v lanes by `r * 96 + lane`, s registers, p bits by `r * 96 + thread`. -/
  v : Tab W32
  s : Tab W64
  p : Tab Bool
  /-- `some n`: a register nothing wrote reads a free value (R220); `none`: it reads 0. -/
  undef : Option Nat
  tids : Tab Nat
  draws : Tab Nat
  seed : W64
  numctl : W64
  numflag : W64
  rasbase : W64
  px : Nat
  schk : Bool
  mark : Mark
  sb : Tab Nat
  pend : List Pend
  vres : List VRes
  batches : Tab Batches
  tx : Tx
  /-- What a long instruction in progress holds with PX (R235, R340). -/
  partial_ : List Nat
  /-- A rewound group enters its recipe routine; the mark's PC follows (R189). -/
  recovering : Bool
  /-- Lanes that have executed a FENCE.rel since their last write: their next write is a release (R122). -/
  relNext : Mask
  /-- Cycle in which a spill began to wait for a version record (R157). -/
  poolSince : Option Nat
  /-- Record and address that a spill, refill or slot read waits on (R172). -/
  waitRec : Option (Nat × Nat)
  /-- Cells that hold a poisoned word (R30). -/
  poison : List Cell
  /-- Instruction of an access that failed after its issue (R362), for the stop record. -/
  faultPc : Option Nat
  /-- Resumed after a save: its accesses with a lower serial number are performed before any later access (R116). -/
  fenced : Nat
  /-- Requeued by a reclaim: it enters the active set before the other groups of its priority (R197). -/
  front : Bool
  deriving DecidableEq, Repr

/-- What a memory access does (18_memory_ops). -/
inductive AccKind where
  | load | ldx | store | stx | atomic | red | waita | drain | pref
  deriving DecidableEq, Repr

/-- Operation of an atomic (R368). -/
inductive AOp where
  | add | min | max | and | or | xor | xch | cas | fadd
  deriving DecidableEq, Repr

/-- Where an access is performed (R98). -/
inductive Home where
  | bank (core : Nat)
  | pump (p : Nat)
  | remote (pkg : Nat)
  | host
  deriving DecidableEq, Repr

/-- The key under which a line is stored (R103). -/
inductive KeyId where
  | vf (v : Nat)
  | win (slot : Nat)
  deriving DecidableEq, Repr

/-- What holds a part of an access back: a replayable fault (its page and record), that fault waiting on a full
ring, the snapshot wait, a lock, a pool wait begun in a cycle, re-keying and re-encryption, the lack of a link
since a cycle, or a halt line that withdrew the access, which is issued again on resumption (R113, R157, R175). -/
inductive Hold where
  | no | page (page : Nat) (seq : Nat) | snap (since : Nat) | lock | pool (since : Nat) | rekey | ring (page : Nat) | link (since : Nat)
  | withdrawn
  deriving DecidableEq, Repr

/-- One thread's piece of an access: `data` is what it writes, or the bytes a transaction's buffer gives a load;
`data2` is the compare value, the layout and buffered-byte mask of a load, 4 above the layout for which a store's data were
formed, or a WAITA's status. -/
structure Part where
  lane : Nat
  va : Nat
  pa : Nat
  size : Nat
  home : Home
  key : KeyId
  ver : Bool
  cmp : Bool
  data : W128
  data2 : W128
  res : W128
  done : Bool
  hold : Hold
  /-- A miss in the L1: the line is filled when its home answers (R96). -/
  l1 : Bool
  /-- The access was replayed or issued again: those of one thread are performed in program order (R174). -/
  replayed : Bool
  deriving DecidableEq, Repr

/-- A memory access in flight. -/
structure Acc where
  kind : AccKind
  op : AOp
  grp : Nat
  gser : Nat
  ctx : Nat
  core : Nat
  pc : Nat
  ty : Ty
  d : Dst
  slot : Option Nat
  parts : Tab Part
  after : List Nat
  snap : Option Nat
  acq : Bool
  scope : Scope
  win : Bool
  acked : Bool
  /-- An access of it was held by a replayable fault: its registers are held until they are written (R234). -/
  held : Bool
  born : Nat
  /-- Writes of the response that a debugger has cancelled (R411). -/
  cancel : List Cell
  /-- The transaction in which it was issued (R150). -/
  tx : Option TxView
  deriving DecidableEq, Repr

/-- An armed wait table entry (R271, R272). -/
structure WaitEnt where
  home : Nat
  acc : Nat
  part : Nat
  ctx : Nat
  pa : Nat
  size : Nat
  mask : W64
  exp : W64
  cmp : Nat
  deadline : Nat
  deriving DecidableEq, Repr

/-- An engine operation (R253, R390 to R392): its instruction, the values its operands held at issue,
and its progress. -/
structure EngOp where
  i : Instr
  cls : Nat
  vals : List W128
  core : Nat
  ctx : Nat
  grp : Nat
  gser : Nat
  gid : Nat
  team : Nat
  pc : Nat
  snap : Option Nat
  bar : Option Nat
  sectors : Nat
  counted : Nat
  prog : Nat
  total : Nat
  started : Bool
  startReq : Bool
  granted : Bool
  slot : Option Nat
  threads : Mask
  /-- The batch that holds the operation once it is closed (R187, R254). -/
  batch : Nat
  held : Hold
  /-- Work kept between steps: partial sums, carried bytes, produced values. -/
  work : List W128
  /-- Sparsity entries taken for the accumulation group in progress (R400). -/
  entries : List (BitVec 1024)
  /-- Register writes that a debugger has cancelled (R411). -/
  cancel : List Cell
  deriving DecidableEq, Repr

/-- A message under way (R245, R246, R248, R252, R256, R259). -/
inductive Msg where
  | append (core queue ctx : Nat) (sender : W64) (entry : List Byte) (grp gser pc : Nat) (slot : Option Nat) (last : Bool)
  | link (pkg core queue ctx : Nat) (sender : W64) (entry : List Byte) (grp gser pc : Nat) (slot : Option Nat) (last : Bool)
  | card (eng ctx : Nat) (sender : W64) (entry : List Byte) (grp gser pc gid : Nat) (slot : Option Nat) (last : Bool)
  | record (wq ctx : Nat) (sender : W64) (entry : List Byte) (grp gser pc : Nat) (slot : Option Nat) (last : Bool)
  | freeCount (ctx : Nat) (sender : W64)
  deriving DecidableEq, Repr

/-- An instance of a capability entry (R239): entry, allowance, tickets and needs of waiting pushes, and for a
LOCAL entry its queue slot (R243). -/
structure Cap where
  entry : W64
  allow : Nat
  waiting : List (Nat × Nat)
  queue : Option Nat
  deriving DecidableEq, Repr

/-- A cistern queue slot (R243, R244); `team = none` is a context queue. -/
structure QSlot where
  ctx : Nat
  team : Option Nat
  err : Bool
  base : Nat
  esz : Nat
  depth : Nat
  head : Nat
  tail : Nat
  count : Nat
  senders : List W64
  /-- Which of the entries a unit outside the core appended: a media engine, or the launch unit (R134). -/
  units : List Bool
  /-- Tickets and needs of waiting POPs. -/
  waiting : List (Nat × Nat)
  deriving DecidableEq, Repr

/-- A thread in a spawn bin (R237): its id and its four argument words. -/
structure BinThread where
  tid : Nat
  args : List W32
  deriving DecidableEq, Repr

/-- A spawn bin (R236, R237). -/
structure Bin where
  team : Nat
  role : Nat
  entry : Nat
  threads : List BinThread
  age : Nat
  fired : Bool
  deriving DecidableEq, Repr

/-- An L1 line (R94, R96); a core lists its lines from the least to the most recently used (R97). -/
structure L1Line where
  vf : Nat
  line : Nat
  data : BitVec 1024
  deriving DecidableEq, Repr

/-- A core's shared units. -/
structure Core where
  failed : Bool
  /-- Barrier words by `partition * 64 + index` (assumption log, row 17). -/
  bars : Tab W128
  bardrop : Nat
  /-- Queue slots by `partition * 32 + slot` (assumption log, row 17). -/
  qslots : Tab QSlot
  bins : Tab Bin
  l1 : List L1Line
  /-- Cycle of the matrix sequencer's last step (R19). -/
  lastK : Option Nat
  deriving DecidableEq, Repr

/-- A context's state on one core that a save keeps (R191, R239). -/
structure CoreCtx where
  /-- Tile elements by `(acc * 3 + plane) * 4096 + elem`. -/
  tiles : Tab W32
  gcount : Tab Nat
  codebook : Tab W128
  sparse : List (BitVec 1024)
  latch : List Byte
  shared : Tab Cap
  deriving DecidableEq, Repr

/-- A cached translation (R168): the TLB that holds it, by level (1 per core, 2 per cluster, 3 per die) and by the
number of its core, cluster or die; page base, page size in bits, the leaf entry. -/
structure TlbEnt where
  level : Nat
  at_ : Nat
  vf : Nat
  text : Bool
  base : Nat
  bits : Nat
  pte : W64
  deriving DecidableEq, Repr

/-- An entry with L = 0 in a die's walk cache (R168): its table level, the address bits that select it, the entry. -/
structure WalkEnt where
  die : Nat
  vf : Nat
  text : Bool
  level : Nat
  base : Nat
  pte : W64
  deriving DecidableEq, Repr

/-- A die's registers and units. -/
structure Die where
  softcnt : Nat
  /-- Uncorrectable errors that the scrub found in lines that nothing consumed (R30). -/
  uncorr : Nat
  temp : Nat
  trip : Bool
  tripPending : Bool
  lastGrant : Nat
  grants : List Nat
  /-- Starts that the dispatcher reserved for placed teams: cycle and team (R19). -/
  reserved : List (Nat × Nat)
  lwm : Nat
  poolWaits : Nat
  poolUsed : Nat
  /-- Version records written: the counter of the next one's seal (R141). -/
  records : Nat
  dbgsel : W64
  dbgdata : W64
  dbgstatus : Nat
  dbgrun : Bool
  /-- The group whose variable-latency writes a DRAIN command waits for (R411). -/
  dbgdrain : Option Nat
  deriving DecidableEq, Repr

/-- A die after reset (R20, R31, R158, R409). -/
def Die.reset : Die :=
  ⟨0, 0, 0, false, false, 47, [], [], 0, 0, 0, 0, 0, 0, 0, false, none⟩

/-- A core after reset. -/
def Core.reset : Core := ⟨false, [], 0, [], [], [], none⟩

/-- A context's state on a core that nothing has used. -/
def CoreCtx.reset : CoreCtx := ⟨[], [], [], [], [], []⟩

/-- The package's own registers. -/
structure Pkg where
  id : Nat
  bridge : Bool
  boot : Boot
  /-- The verified firmware image that runs (R27). -/
  image : Option FwImage
  failedUnit : Option Nat
  frozen : Bool
  freezeGts : Nat
  l1rows : Nat
  pool : Nat
  keystage : List W64
  tlbinvVa : W64
  tlbinvCtl : W64
  tlbinvBusy : Bool
  /-- Accesses, and transactions by group and serial number, that a running invalidation waits for (R177). -/
  tlbinvWait : List Nat
  tlbinvTx : List (Nat × Nat)
  /-- Requests over links of no single access that it waits for, and the VA and CTL with which it began. -/
  tlbinvFars : List Nat
  tlbinvAt : W64
  tlbinvOp : W64
  tlbinvDone : Nat
  pfLatch : Tab Nat
  /-- GTS at which the last usable link went (R280). -/
  linkless : Nat
  /-- The bridge package of the host group (R281). -/
  bridgeId : Nat
  /-- The bridge has opened its PCIe port since its reset (R26). -/
  pcie : Bool
  deriving DecidableEq, Repr

/-- The package after reset. -/
def Pkg.reset : Pkg :=
  ⟨0, true, .reset, none, none, false, 0, 1024, 0, [0, 0, 0, 0], 0, 0, false, [], [], [], 0, 0, 0, [], 0, 0, false⟩

/-- A cause that a unit raised itself (R186): the unit, its cause, the address and the group of its record. -/
structure OwnCause where
  unit : UnitId
  cause : Nat
  addr : Nat
  gid : Nat
  deriving DecidableEq, Repr

/-- A raised halt line (R185): origin cause, unit, GID, GTS and the units that have stopped. -/
structure Halt where
  cause : Nat
  unit : UnitId
  gid : Nat
  gts : Nat
  /-- Cycle in which the line rose; skid bounds count from it (R186). -/
  cyc : Nat
  ctx : Nat
  own : List OwnCause
  /-- Pumps, media engines and link ports with work of the context when the line rose, which stop too (R186). -/
  work : List UnitId
  deriving DecidableEq, Repr

/-- A stop record (R187). -/
structure StopRec where
  unit : UnitId
  gts : Nat
  cause : Nat
  gstate : Nat
  origin : Bool
  gid : Nat
  pc : Nat
  sbpend : Nat
  em : W64
  prog : Nat
  addr : Nat
  batch : Nat
  half : Nat
  deriving DecidableEq, Repr

/-- A partition (R178). -/
structure Part48 where
  w0 : W64
  w1 : W64
  w2 : W64
  /-- The VF running, and the GTS at which its slice began. -/
  running : Option Nat
  sliceStart : Nat
  halt : Option Halt
  /-- The VF that runs once the save phase of the running one ends (R194). -/
  next : Option Nat
  /-- A reclaim of this partition's lent capacity under way (R197): the borrower's context, the serial numbers of the
  groups to be requeued, and the groups evicted. -/
  reclaim : Option (Nat × List Nat × Nat)
  deriving DecidableEq, Repr

/-- A partition after reset. -/
def Part48.reset : Part48 := ⟨0, 0, 0, none, 0, none, none, none⟩

/-- A VF's registers (R182, R193, R412 to R417). -/
structure Vf where
  cur : Nat
  gsp : Bool
  /-- The restore phase under way, or about to begin, is that of a guest switch (R195). -/
  switching : Bool
  /-- Refusal cause of the last command, 0 where it was accepted (R182, R184). -/
  cause : Nat
  bucket : Int
  cap : Nat
  rate : Nat
  /-- Fraction of a microsecond of credit not yet in BUCKET, in 1/1024 ns. -/
  credit : Nat
  chargedTo : Nat
  key : Option (BitVec 256)
  capidx : W64
  seq : Nat
  prfctl : W64
  prfbase : W64
  prfhead : Nat
  prftail : Nat
  prfsel : Tab W64
  prfcnt : Tab W64
  latch : Tab Nat
  lcrctl : W64
  lcridx : Nat
  lcr : Tab W64
  /-- Issue cycle at which the session began, and of each scheduler's last sample (R413). -/
  prfStart : Nat
  sampled : Tab Nat
  /-- Cycles that a halt line of its CUR context took from its schedulers' issue cycles (R229). -/
  halted : Nat
  deriving DecidableEq, Repr

/-- A VF after reset (R182; EVSET reads 1, R412). -/
def Vf.reset : Vf :=
  ⟨0, false, false, 0, 0, 0, 0, 0, 0, none, 0, 0, 0x100000000#64, 0, 0, 0, [], [], [], 0, 0, [], 0, [], 0⟩

/-- A ring's indices (R198). -/
structure Ring where
  head : Nat
  tail : Nat
  drops : Nat
  deriving DecidableEq, Repr

/-- A pin (R146). -/
structure Pin where
  state : PinState
  stamp : Nat
  refs : Nat
  deriving DecidableEq, Repr

/-- A kernel descriptor (R201). -/
structure Kern where
  triplex : Bool
  nrole : Nat
  role0 : Nat
  width : Nat
  bars : Nat
  scratch : Nat
  deriving DecidableEq, Repr

/-- A role entry (R201). -/
structure RoleEnt where
  entry : Nat
  groups : Nat
  regs : Nat
  matrix : Bool
  deriving DecidableEq, Repr

/-- A recipe entry (R201): routine and D-field designators. -/
structure Recipe where
  routine : Nat
  regs : List Nat
  deriving DecidableEq, Repr

/-- A loaded kernel object (R200 to R204). -/
structure KObj where
  unloading : Bool
  base : Nat
  size : Nat
  kernels : List Kern
  roles : List RoleEnt
  recipes : List Recipe
  /-- Constant words by `bank * 1024 + word`. -/
  consts : Tab W32
  /-- Frames that hold the text (R89, R165). -/
  frames : List Nat
  /-- Addresses of the binding slots that are resolved into the object (R204, R215). -/
  slots : List Nat
  /-- Frames that hold the data section, the data-section offsets of the kernels' and roles' names, and the binding entries:
  symbol name and slot, by data-section offset (R200, R201). -/
  datas : List Nat
  kernNames : List Nat
  roleNames : List Nat
  binds : List (Nat × Nat)
  deriving DecidableEq, Repr

/-- A fault record outstanding (R172, R173). -/
structure FaultRec where
  page : Nat
  seq : Nat
  /-- Not yet appended, because the ring was full. -/
  waiting : Bool
  words : List W64
  deriving DecidableEq, Repr

/-- Memory: physical address and byte, in the canonical form of Machine/Mem.lean. -/
abbrev Mem := List (Nat × Byte)

/-- A context (R180 to R191). -/
structure Ctx where
  state : CtxState
  /-- HALTING after a fault raised while saving or running; TEARDOWN follows (R183). -/
  teardown : Bool
  desc : List W64
  cause : Nat
  ev : Ring
  ne : Ring
  fl : Ring
  pins : Tab Pin
  shared : Tab W64
  objs : Tab KObj
  /-- The cause that the loader reported for the last object it refused (R202, R204); 0 after one that it loaded. -/
  loadCause : Nat
  faults : List FaultRec
  recs : List StopRec
  /-- Saved groups by serial number; barriers by `core * 4096 + barrier`, queues by `core * 2048 + queue`, bins by
  `core * 8 + bin`; bytes of quota rows by physical address. -/
  saved : Tab Grp
  savedBars : Tab W128
  savedQ : Tab QSlot
  savedRows : Mem
  savedPoison : List Nat
  savedBins : Tab Bin
  /-- Free-counts held until the restore, by channel identity (R246). -/
  heldMsgs : List W64
  core : Tab CoreCtx
  /-- The slot that becomes CUR once this one is saved (R195). -/
  switchTo : Option Nat
  /-- Addresses of writes of the launch unit that wait for a version record, with the cycle in which the wait began (R157). -/
  poolAsks : Tab Nat
  deriving DecidableEq, Repr

/-- A grid (R209 to R213). -/
structure Grid where
  ctx : Nat
  lpbAddr : Nat
  lpb : List W64
  obj : Nat
  kern : Kern
  roles : List RoleEnt
  snap : Option Nat
  pin : Option Nat
  /-- Position in the sequence of R211: plane and index. -/
  z : Nat
  d : Nat
  placed : Nat
  ended : Nat
  wq : Option Nat
  /-- Cycle in which the launch was accepted (R19). -/
  since : Nat
  deriving DecidableEq, Repr

/-- A team (R209, R217). -/
structure Team where
  grid : Nat
  ctx : Nat
  lin : Nat
  core : Nat
  row : Nat
  rows : Nat
  scratch : Nat
  txrows : Nat
  bar : Nat
  nbars : Nat
  /-- Group key of each team slot in use, both slots of a paired group; `2 ^ 32` and its serial number for a group that
  is saved. -/
  slots : Tab Nat
  caps : Tab Cap
  /-- The partition whose capacity the team borrows (R196), and the bytes of its rows, by offset, while it has none (R197). -/
  borrowed : Option Nat
  away : Option Mem
  /-- Poisoned words of those rows (R30). -/
  awayPoison : List Nat
  deriving DecidableEq, Repr

/-- A launch request not yet checked (R210). -/
structure Req where
  ctx : Nat
  addr : Nat
  words : List W64
  wq : Option Nat
  deriving DecidableEq, Repr

/-- A window key slot (R110 to R112). -/
structure Win where
  state : WinState
  /-- Lines of the window still to rewrite while REKEYING; LEFT is their number. -/
  todo : List Nat
  key : Option (BitVec 256)
  holders : List Nat
  deriving DecidableEq, Repr

/-- A host work queue (R249 to R251). -/
structure Wq where
  base : W64
  vf : Nat
  slot : Nat
  state : WqState
  head : Nat
  tail : Nat
  drainTo : Nat
  cause : Nat
  index : Nat
  /-- A SIGNAL record waiting for earlier grids: address and value (R250), and the context for which it was consumed. -/
  signal : Option (Nat × W64)
  signalCtx : Nat
  /-- Context and channel identity of records that programs pushed, by index (R252). -/
  senders : Tab (Nat × W64)
  deriving DecidableEq, Repr

/-- A work queue after reset. -/
def Wq.reset : Wq := ⟨0, 0, 0, .unbound, 0, 0, 0, 0, 0, none, 0, []⟩

/-- A media session that is not CLOSED (R256 to R258). -/
structure Sess where
  ctx : Nat
  num : Nat
  enc : Bool
  codec : Nat
  outch : Nat
  state : SessState
  stream : Nat
  len : Nat
  picture : Nat
  frameno : Nat
  row : Nat
  awaiting : Bool
  /-- A CLOSE card was taken while a row was in progress (R258). -/
  closing : Bool
  /-- A halt stopped the session after its row in progress (R186). -/
  paused : Bool
  core : Nat
  /-- The group whose card opened the session, or started its frame (R173), and what holds its row's accesses (R172). -/
  gid : Nat
  held : Hold
  deriving DecidableEq, Repr

/-- A job card received and not yet taken (R256). -/
structure Card where
  ctx : Nat
  sender : W64
  gid : Nat
  words : List W64
  deriving DecidableEq, Repr

/-- A media engine. -/
structure Media where
  cards : List Card
  sess : List Sess
  deriving DecidableEq, Repr

/-- A link (R275, R276). -/
structure Link where
  thresh : Nat
  errcnt : Nat
  peer : Nat
  lanes : Nat
  state : LinkState
  /-- Replayed flits of the current 1 ms window and its start. -/
  window : Nat
  windowAt : Nat
  /-- Requests sent on the link and not acknowledged: access and part. -/
  sent : List (Nat × Nat)
  /-- GTS at which training began (R276). -/
  since : Nat
  deriving DecidableEq, Repr

/-- A link after reset (R275). -/
def Link.reset : Link := ⟨0x100, 0, 0, 0, .down, 0, 0, [], 0⟩

/-- What this package knows of the far end of its routes to a package (R277): the links that are ACTIVE or DEGRADED there,
and the GTS at which the last usable one went. A package that is not listed has all 24 up. -/
structure Peer where
  up : List Nat
  since : Nat
  deriving DecidableEq, Repr

/-- A request to another package, or to the host over the bridge, that is no thread's access (R278): of an engine operation, of
a group's one-piece access, or of the launch unit, named by `owner`; the bytes it writes, its answer, and the cause with
which its home or its route refused it. -/
structure FarReq where
  owner : Nat
  ctx : Nat
  key : KeyId
  cmp : Bool
  pa : Nat
  size : Nat
  data : Option (BitVec 1024)
  res : Option (BitVec 1024)
  refused : Option Nat
  deriving DecidableEq, Repr

/-- What a stored line was sealed under (R104 to R106): the key slot and the key it held, counters, tag. -/
structure Seal where
  owner : KeyId
  key : BitVec 256
  major : Nat
  minor : Nat
  tag : BitVec 4
  deriving DecidableEq, Repr

/-- An older version of a line (R139): stamp and bytes, what its record was sealed under (R141), and which of its words are
poisoned (R30). -/
structure Version where
  stamp : Nat
  data : BitVec 1024
  sealed : Seal
  poison : BitVec 32
  deriving DecidableEq, Repr

/-- What a pump keeps of a line beside its bytes. -/
structure Line where
  tag : BitVec 4
  minor : Nat
  stamp : Nat
  older : List Version
  lock : Option (Nat × Nat)
  sealed : Option Seal
  /-- A write of the device covered a line that did not match: reads still fault (R108). -/
  bad : Bool
  deriving DecidableEq, Repr

/-- A line never written (R100, R139). -/
def Line.reset : Line := ⟨0, 0, 0, [], none, none, false⟩

/-- What a tree node's MAC was computed over (R105, R106): key, the node's eight counters, its parent counter. -/
structure NodeSeal where
  key : BitVec 256
  ctrs : List Nat
  parent : Nat
  deriving DecidableEq, Repr

/-- Line metadata, counters and poison. -/
structure LineSt where
  lines : Tab Line
  /-- Major counters by 8 KiB group; counters of the tree of a key on a die by level and index, and the MACs of its nodes;
  root counters by die and key (R105). -/
  majors : Tab Nat
  nodes : Tab Nat
  macs : Tab NodeSeal
  roots : Tab Nat
  poison : List Nat
  /-- Groups under re-encryption, with the key whose write began it (R109). -/
  reenc : Tab KeyId
  deriving DecidableEq, Repr

/-- A fault that a unit found in work of no single access (a walk, a fetch, a record): INTEGRITY under a key (R108), or a
consumed poisoned word (R30). The contexts are halted when the next cycle begins. -/
structure Raise where
  cause : Nat
  key : KeyId
  ctx : Nat
  pa : Nat
  deriving DecidableEq, Repr

/-- The profiling session of a VF, which the host moves from another part (R420). -/
structure Session where
  prfctl : W64
  prfbase : W64
  head : Nat
  tail : Nat
  sel : Tab W64
  cnt : Tab W64
  latch : Tab Nat
  lcrctl : W64
  lcr : Tab W64
  deriving DecidableEq, Repr

/-- What moves next: an issue of a scheduler, one of the part's other steps, a host write to memory with the key of the
page's owner or window and the page's VER and CMP, idle cycles, an L1 replacement, the VFs that the host lets hold a
window slot, the number of L1 rows it fixes (R93), a VF's profiling session that it moves
here (R420), the links that are up at another package (R277), the requests of other packages that still wait at their homes
(R278), an entry that reaches its unit in the cycle of the barrier event before it (R264), or an event some thirds of a
nanosecond into the cycle that began last (R17). Plain data; see the assumption log, row 3. -/
inductive Choice where
  | issue (sched : Nat)
  | event (i : Instr)
  | write (pa : Nat) (key : KeyId) (ver cmp : Bool) (bytes : List Byte)
  | idle (cycles : Nat)
  | evict (core line : Nat)
  | holders (slot : Nat) (vfs : List Nat)
  | l1rows (rows : Nat)
  | session (vf : Nat) (x : Session)
  | peer (pkg : Nat) (links : List Nat)
  | inbox
  | same (c : Choice)
  | within (thirds : Nat) (i : Instr)
  deriving DecidableEq, Repr

/-- A write that has been made and waits at its home for its line (R107, R109, R112, R157): of the host, behind which its later
commands wait (R134), or of the device for a context that has left (R212). `since`: the cycle in which it began to wait for a
version record. -/
structure Posted where
  host : Bool
  ctx : Nat
  key : KeyId
  ver : Bool
  cmp : Bool
  pa : Nat
  bytes : List Byte
  since : Option Nat
  deriving DecidableEq, Repr

/-- The state of the package. -/
structure State where
  pkg : Pkg
  cycle : Nat
  gts3 : Nat
  /-- Thirds of a nanosecond since the cycle began that events within it have passed (R17). -/
  sub : Nat
  dies : Tab Die
  cores : Tab Core
  groups : Tab Grp
  teams : Tab Team
  grids : Tab Grid
  reqs : Tab Req
  ctxs : Tab Ctx
  parts : Tab Part48
  vfs : Tab Vf
  mem : Mem
  lines : LineSt
  wins : Tab Win
  tlb : List TlbEnt
  walks : List WalkEnt
  raised : List Raise
  accs : Tab Acc
  ops : Tab EngOp
  msgs : Tab Msg
  waits : List WaitEnt
  wqs : Tab Wq
  medias : Tab Media
  links : Tab Link
  peers : Tab Peer
  fars : Tab FarReq
  /-- Requests that other packages sent and that are still to be performed, with the link of each (R274, R278). -/
  inbox : Tab (Nat × Flit)
  agenda : List Choice
  posted : List Posted
  /-- Commands and writes of the host behind a write of its own that waits (R134). -/
  later : List Choice
  /-- Schedulers that have issued in this cycle (R229). -/
  issued : List Nat
  /-- Barrier events of this cycle: core, barrier, place in the order of R264. -/
  barEvents : List (Nat × Nat × Nat)
  /-- Barriers that advanced in this cycle, by core: their waits are tested after its last event (R264). -/
  barDue : List (Nat × Nat)
  cur : Option Nat
  serial : Nat
  free : Nat
  deriving DecidableEq, Repr

/-- The package right after reset: boot state RESET, nothing loaded, nothing running (R26); registers
at their reset values, and those without one at the values of the assumption log, rows 2, 4 and 5. -/
def State.reset : State where
  pkg := Pkg.reset
  cycle := 0
  gts3 := 0
  sub := 0
  dies := []
  cores := []
  groups := []
  teams := []
  grids := []
  reqs := []
  ctxs := []
  parts := []
  vfs := []
  mem := []
  lines := ⟨[], [], [], [], [], [], []⟩
  wins := []
  tlb := []
  walks := []
  raised := []
  accs := []
  ops := []
  msgs := []
  waits := []
  wqs := []
  medias := []
  links := []
  peers := []
  fars := []
  inbox := []
  agenda := []
  posted := []
  later := []
  issued := []
  barEvents := []
  barDue := []
  cur := none
  serial := 0
  free := 0

end Sys2Proof.Machine
end

