-- ==== Sys2Proof/Machine/Base.lean ====
section
/-! DEFINITION. Fault causes by their codes, fields of words (R4), time (R17), and the state's parts read and replaced by
their keys. -/

namespace Sys2Proof.Machine

open Sys2Proof

/-- Fault causes, by the codes their chapters give. -/
abbrev fcIllegalOp : Nat := 0x01
abbrev fcIllegalMod : Nat := 0x02
abbrev fcIllegalOpnd : Nat := 0x03
abbrev fcRegRange : Nat := 0x04
abbrev fcFetchZero : Nat := 0x05
abbrev fcFalloff : Nat := 0x06
abbrev fcPcWrap : Nat := 0x07
abbrev fcTextFault : Nat := 0x08
abbrev fcStallShort : Nat := 0x09
abbrev fcMaskSplit : Nat := 0x0A
abbrev fcNonuniform : Nat := 0x0B
abbrev fcCap : Nat := 0x0C
abbrev fcCapPerm : Nat := 0x0D
abbrev fcIllegalMode : Nat := 0x0E
abbrev fcTranslation : Nat := 0x10
abbrev fcProtection : Nat := 0x11
abbrev fcTextStore : Nat := 0x12
abbrev fcNumxAccess : Nat := 0x13
abbrev fcMisalign : Nat := 0x14
abbrev fcWindowKey : Nat := 0x15
abbrev fcIntegrity : Nat := 0x16
abbrev fcVersionPool : Nat := 0x17
abbrev fcBarrierStore : Nat := 0x18
abbrev fcBarrierInvalid : Nat := 0x19
abbrev fcNumi : Nat := 0x1B
abbrev fcConv : Nat := 0x1A
abbrev fcQueueError : Nat := 0x1C
abbrev fcEngineError : Nat := 0x1D
abbrev fcWidth : Nat := 0x1E
abbrev fcBindFail : Nat := 0x1F
abbrev fcTrap : Nat := 0x20
abbrev fcBkpt : Nat := 0x21
abbrev fcHaltReq : Nat := 0x22
abbrev fcUncorrectable : Nat := 0x24
abbrev fcThermal : Nat := 0x25
abbrev fcPteFormat : Nat := 0x26
abbrev fcVersionRemote : Nat := 0x27

/-- Field x[hi:lo] of a value (R4). -/
def bits (x hi lo : Nat) : Nat := x / 2 ^ lo % 2 ^ (hi + 1 - lo)

/-- Field x[hi:lo] of a 64-bit word (R4). -/
def fld (w : W64) (hi lo : Nat) : Nat := bits w.toNat hi lo

/-- A word with field [hi:lo] replaced. -/
def setFld (w : W64) (hi lo v : Nat) : W64 :=
  BitVec.ofNat 64 (w.toNat - fld w hi lo * 2 ^ lo + v % 2 ^ (hi + 1 - lo) * 2 ^ lo)

/-- The global timestamp in nanoseconds (R17). -/
def State.gts (s : State) : Nat := s.gts3 / 3 % 2 ^ 64

/-- The core, scheduler and slot of a group key. -/
def coreOf (k : Nat) : Nat := k / 96
def schedOf (k : Nat) : Nat := k / 24
def dieOf (k : Nat) : Nat := k / 6144

/-- sr.gid (R218). -/
def gidOf (g : Grp) : Nat := (g.lin * 32 + g.tslot) % 2 ^ 32

/-- Groups. -/
def setGroup (s : State) (k : Nat) (g : Grp) : State := { s with groups := tabPut s.groups k g }
def updGroup (s : State) (k : Nat) (f : Grp → Grp) : State := { s with groups := tabUpd s.groups k f }

/-- Contexts. -/
def setCtx (s : State) (k : Nat) (c : Ctx) : State := { s with ctxs := tabPut s.ctxs k c }
def updCtx (s : State) (k : Nat) (f : Ctx → Ctx) : State := { s with ctxs := tabUpd s.ctxs k f }

/-- Dies, cores, partitions, VFs and links, which exist from reset on. -/
def getDie (s : State) (d : Nat) : Die := tabGetD s.dies d Die.reset
def updDie (s : State) (d : Nat) (f : Die → Die) : State := { s with dies := tabPut s.dies d (f (getDie s d)) }
def getCore (s : State) (c : Nat) : Core := tabGetD s.cores c Core.reset
def updCore (s : State) (c : Nat) (f : Core → Core) : State := { s with cores := tabPut s.cores c (f (getCore s c)) }
def getPart (s : State) (p : Nat) : Part48 := tabGetD s.parts p Part48.reset
def updPart (s : State) (p : Nat) (f : Part48 → Part48) : State := { s with parts := tabPut s.parts p (f (getPart s p)) }
def getVf (s : State) (v : Nat) : Vf := tabGetD s.vfs v Vf.reset
def updVf (s : State) (v : Nat) (f : Vf → Vf) : State := { s with vfs := tabPut s.vfs v (f (getVf s v)) }
def getLink (s : State) (l : Nat) : Link := tabGetD s.links l Link.reset
def updLink (s : State) (l : Nat) (f : Link → Link) : State := { s with links := tabPut s.links l (f (getLink s l)) }
def getWq (s : State) (q : Nat) : Wq := tabGetD s.wqs q Wq.reset
def updWq (s : State) (q : Nat) (f : Wq → Wq) : State := { s with wqs := tabPut s.wqs q (f (getWq s q)) }

/-- A context's state on a core. -/
def getCoreCtx (c : Ctx) (core : Nat) : CoreCtx := tabGetD c.core core CoreCtx.reset
def updCoreCtx (s : State) (ck core : Nat) (f : CoreCtx → CoreCtx) : State :=
  updCtx s ck (fun c => { c with core := tabPut c.core core (f (getCoreCtx c core)) })

/-- Word `i` of a context's descriptor (R180). -/
def descW (c : Ctx) (i : Nat) : W64 := c.desc.getD i 0

/-- The partition of a context (R180). -/
def ctxPart (c : Ctx) : Nat := fld (descW c 0) 55 50

/-- The VF of a context key. -/
def ctxVf (ck : Nat) : Nat := ck / 16

/-- A new serial number. -/
def fresh (s : State) : Nat × State := (s.serial, { s with serial := s.serial + 1 })

/-- Saturating 32-bit count. -/
def sat32 (n : Nat) : Nat := min n 0xFFFFFFFF

/-- Two's complement reading of `w` bits. -/
def toInt (w x : Nat) : Int := if x < 2 ^ (w - 1) then (x : Int) else (x : Int) - 2 ^ w

/-- An integer kept to `w` bits (wrap, R324). -/
def wrapInt (w : Nat) (x : Int) : Nat := (x % (2 ^ w : Int)).toNat

/-- Sign extension of `w` bits to `n` bits. -/
def sext (w n x : Nat) : Nat := wrapInt n (toInt w x)

end Sys2Proof.Machine
end

