-- ==== Sys2Proof/WellFormed.lean ====
section
/-! DEFINITION. Which encoded instructions are instructions: the modifier values, operand kinds, spans
and reserved combinations that each entry accepts (14_formats R285 to R292, R296 orders 4 and 5, and the
encoding tables R303, R327, R346, R363, R378, R390). -/

namespace Sys2Proof

/-- Width of a TYPE in bits (R291). -/
def Ty.bits : Ty → Nat
  | .b8 | .si8 | .ui8 | .e4m3 | .e5m2 | .e8m0 | .sm8 => 8
  | .b16 | .si16 | .ui16 | .f16 | .bf16 | .cb2 => 16
  | .b32 | .si32 | .ui32 | .f32 => 32
  | .b64 | .si64 | .ui64 => 64
  | .b128 => 128
  | .e2m1 | .sm4 => 4

/-- Signed integer types. -/
def Ty.isSi : Ty → Bool
  | .si8 | .si16 | .si32 | .si64 => true
  | _ => false

/-- Types whose operands accept abs and neg: signed integer, sign-magnitude ones among them, and floating (R33, R42, R287). -/
def Ty.negOk : Ty → Bool
  | .si8 | .si16 | .si32 | .si64 | .sm8 | .sm4 | .f16 | .bf16 | .f32 | .e4m3 | .e5m2 | .e2m1 | .e8m0 => true
  | _ => false

/-- v registers that one lane's value of a TYPE occupies (R32, R286). -/
def Ty.span (t : Ty) : Nat := (t.bits + 31) / 32

/-- Operand kinds (R287). -/
inductive OK where
  | v | s | imm | cbank | pred | bar | chan | join | acc | sreg | none
  deriving DecidableEq, Repr

/-- Destination kinds (R286). -/
inductive DK where
  | v | s | p | acc | join | bar | sreg | none
  deriving DecidableEq, Repr

/-- The kind of an operand. -/
def Opnd.kind : Opnd → OK
  | .v .. => .v | .s .. => .s | .imm _ => .imm | .cbank .. => .cbank | .pred .. => .pred
  | .bar _ => .bar | .chan _ => .chan | .join _ => .join | .acc _ => .acc | .sreg _ => .sreg
  | .none => .none

/-- The kind of a destination. -/
def Dst.kind : Dst → DK
  | .v _ => .v | .s _ => .s | .p _ => .p | .acc _ => .acc | .join _ => .join | .bar _ => .bar
  | .sreg _ => .sreg | .none => .none

/-- abs or neg is set on the operand. -/
def Opnd.marked : Opnd → Bool
  | .v _ a n | .s _ a n => a || n
  | _ => false

/-- An operand place: kinds accepted, v registers, s registers and constant words read, whether it is an
EM-valued operand (two s registers in a paired group, R304) and whether abs and neg are legal. -/
structure OSig where
  kinds : List OK
  vspan : Nat
  sspan : Nat
  cspan : Nat
  em : Bool
  neg : Bool
  deriving DecidableEq, Repr

/-- A destination place: kinds accepted, v and s registers written, EM-valued result. -/
structure DSig where
  kinds : List DK
  vspan : Nat
  sspan : Nat
  em : Bool
  /-- The place is read as a source (stores, masks in D). -/
  src : Bool
  deriving DecidableEq, Repr

/-- Latency of R295: fixed, variable, or no register result. -/
inductive Lat where
  | fix (n : Nat)
  | var
  | no
  deriving DecidableEq, Repr

/-- What the word of an instruction must satisfy. -/
structure Sig where
  lat : Lat
  modOk : Bool
  d : DSig
  a : OSig
  b : OSig
  c : OSig
  /-- Word-only operand checks of the entry (R296 order 5). -/
  opndOk : Bool
  deriving DecidableEq, Repr

/-- An absent operand. -/
def oNone : OSig := ⟨[.none], 0, 0, 0, false, false⟩

/-- A data operand of a TYPE (R324). -/
def oX (t : Ty) : OSig :=
  ⟨[.v, .s, .imm, .cbank], t.span, (t.bits + 63) / 64, t.span, false, t.negOk⟩

/-- The TYPE of the other signedness and the same width (R334). -/
def otherSign : Ty → Ty
  | .si8 => .ui8 | .ui8 => .si8 | .si16 => .ui16 | .ui16 => .si16 | t => t

/-- The TYPE in which IDOT reads B: with MIXED the other signedness (R334). -/
def idotB (m : IntM) : Ty := if m.x.getLsbD 0 then otherSign m.ty else m.ty

/-- An operand of the given kinds, one v register wide. -/
def oK (ks : List OK) : OSig := ⟨ks, 1, 1, 1, false, false⟩

/-- S, or V read as 64 bits (R303). -/
def oSV64 : OSig := ⟨[.s, .v], 2, 1, 2, false, false⟩

/-- No destination. -/
def dNone : DSig := ⟨[.none], 0, 0, false, false⟩

/-- A destination of the given kinds for a value of the given width. -/
def dK (ks : List DK) (bits : Nat) : DSig := ⟨ks, (bits + 31) / 32, (bits + 63) / 64, false, false⟩

/-- A v or s destination of a TYPE (R325). -/
def dVS (t : Ty) : DSig := dK [.v, .s] t.bits

/-- The operand's kind is accepted, its marks are legal, and its constant words exist (R296 order 5). -/
def OSig.ok (σ : OSig) (o : Opnd) : Bool :=
  σ.kinds.contains o.kind && (σ.neg || !o.marked) &&
    (match o with
     | .cbank _ w => w.toNat + σ.cspan ≤ 1024
     | _ => true)

/-- The destination's kind is accepted. -/
def DSig.ok (σ : DSig) (d : Dst) : Bool := σ.kinds.contains d.kind

/-- .si32 .ui32 .si64 .ui64. -/
def tyArith (t : Ty) : Bool := [Ty.si32, .ui32, .si64, .ui64].contains t

/-- .b32 .b64. -/
def tyBits (t : Ty) : Bool := [Ty.b32, .b64].contains t

/-- Bits of the integer class's MOD[11:5] that are zero outside a mask. -/
def only7 (x : BitVec 7) (mask : Nat) : Bool := x.toNat &&& mask == x.toNat

/-- Bits of MOD that are zero outside a mask. -/
def only12 (x : BitVec 12) (mask : Nat) : Bool := x.toNat &&& mask == x.toNat

/-- Control, group and system instructions (R303). -/
def sigControl : Instr → Option Sig
  | .nop w => some ⟨.no, w.m == 0, dNone, oNone, oNone, oNone, true⟩
  | .bra w => some ⟨.no, w.m == 0, dNone, oK [.pred, .none], oNone, oNone, true⟩
  | .brx w => some ⟨.no, w.m == 0, dNone, oSV64, oNone, oNone, true⟩
  | .brd w => some ⟨.no, w.m == 0, dNone, oK [.pred], oNone, oNone, true⟩
  | .jarm w => some ⟨.no, w.m == 0, ⟨[.s, .none], 0, 1, true, true⟩, oK [.join], oNone, oNone, true⟩
  | .jarr w => some ⟨.no, w.m == 0, dNone, oK [.join], oNone, oNone, true⟩
  | .call w => some ⟨.no, w.m == 0, dNone, oNone, oNone, oNone, true⟩
  | .callx w => some ⟨.no, w.m == 0, dNone, oSV64, oNone, oNone, true⟩
  | .ret w => some ⟨.no, w.m == 0, dNone, oNone, oNone, oNone, true⟩
  | .endI w => some ⟨.no, w.m == 0, dNone, oNone, oNone, oNone, true⟩
  | .trap w => some ⟨.no, w.m == 0, dNone, oNone, oNone, oNone, true⟩
  | .bkpt w => some ⟨.no, w.m == 0, dNone, oNone, oNone, oNone, true⟩
  | .bind w => some ⟨.no, w.m == 0, dNone, oSV64, oNone, oNone, true⟩
  | .spawn w => some ⟨.no, only12 w.m 7, dNone, oK [.v], ⟨[.v], 4, 0, 0, false, false⟩, oSV64, true⟩
  | .launch w => some ⟨.no, w.m == 0, dNone, oK [.s], oNone, oNone, true⟩
  | .yield w => some ⟨.no, w.m == 0, dNone, oNone, oNone, oNone, true⟩
  | .sleep w => some ⟨.no, w.m == 0, dNone, oNone, oNone, oNone, true⟩
  | .mark w => some ⟨.no, w.m == 0, dNone, oNone, oNone, oNone, true⟩
  | .rdem w => some ⟨.fix 4, w.m == 0, ⟨[.s], 0, 1, true, false⟩, oNone, oNone, oNone, true⟩
  | .wrem w => some ⟨.no, w.m == 0, dNone, ⟨[.s], 0, 1, 0, true, false⟩, oNone, oNone, true⟩
  | .rdsr w =>
    let per := w.a == .sreg .laneid || w.a == .sreg .tid || w.a == .sreg .draw
    some ⟨.fix 4, only12 w.m 1, dK (if per then [.v] else [.v, .s]) 32, oK [.sreg], oNone, oNone, true⟩
  | .wrsr w => some ⟨.no, w.m == 0, dK [.sreg] 64, ⟨[.s, .v, .imm, .cbank], 2, 1, 2, false, false⟩, oNone, oNone, true⟩
  | .rdts w => some ⟨.var, w.m == 0, dK [.v, .s] 64, oNone, oNone, oNone, true⟩
  | .rdcnt w => some ⟨.var, w.m == 0, dK [.v, .s] 64, oK [.imm, .s], oNone, oNone, true⟩
  | .emp w => some ⟨.no, w.m == 0, dNone, oK [.pred], oNone, oNone, true⟩
  | .jrd w =>
    let em := w.m == 0 || w.m == 1
    some ⟨.fix 4, w.m == 0 || w.m == 1 || w.m == 2, ⟨[.s], 0, 1, em, false⟩, oK [.join], oNone, oNone, true⟩
  | _ => none

/-- Integer, logical and lane instructions (R327). -/
def sigInteger : Instr → Option Sig
  | .iadd w | .isub w =>
    some ⟨.fix 4, tyArith w.m.ty && only7 w.m.x 1, dVS w.m.ty, oX w.m.ty, oX w.m.ty, oNone, true⟩
  | .imul w => some ⟨.fix 6, tyArith w.m.ty && only7 w.m.x 1, dVS w.m.ty, oX w.m.ty, oX w.m.ty, oNone, true⟩
  | .imad w => some ⟨.fix 6, tyArith w.m.ty && only7 w.m.x 1, dVS w.m.ty, oX w.m.ty, oX w.m.ty, oX w.m.ty, true⟩
  | .imulw w =>
    some ⟨.fix 6, [Ty.si32, .ui32].contains w.m.ty && w.m.x == 0, dK [.v, .s] 64, oX w.m.ty, oX w.m.ty, oNone, true⟩
  | .imadw w =>
    some ⟨.fix 6, [Ty.si32, .ui32].contains w.m.ty && w.m.x == 0, dK [.v, .s] 64, oX w.m.ty, oX w.m.ty,
      oX (if w.m.ty.isSi then .si64 else .ui64), true⟩
  | .imin w | .imax w =>
    some ⟨.fix 4, tyArith w.m.ty && w.m.x == 0, dVS w.m.ty, oX w.m.ty, oX w.m.ty, oNone, true⟩
  | .iabs w | .ineg w =>
    some ⟨.fix 4, [Ty.si32, .si64].contains w.m.ty && only7 w.m.x 1, dVS w.m.ty, oX w.m.ty, oNone, oNone, true⟩
  | .shl w | .shr w =>
    some ⟨.fix 4, (tyArith w.m.ty || tyBits w.m.ty) && only7 w.m.x 1, dVS w.m.ty, oX w.m.ty, oX .ui32, oNone, true⟩
  | .rot w => some ⟨.fix 4, tyBits w.m.ty && only7 w.m.x 1, dVS w.m.ty, oX w.m.ty, oX .ui32, oNone, true⟩
  | .bop w =>
    let op := w.m.x.toNat
    some ⟨.fix 4, tyBits w.m.ty && op < 16, dVS w.m.ty, oX w.m.ty, if op == 15 then oNone else oX w.m.ty,
      if 8 ≤ op && op ≤ 14 then oX w.m.ty else oNone, true⟩
  | .bfe w => some ⟨.fix 4, tyArith w.m.ty && w.m.x == 0, dVS w.m.ty, oX w.m.ty, oX .ui32, oNone, true⟩
  | .bfi w => some ⟨.fix 4, tyBits w.m.ty && w.m.x == 0, dVS w.m.ty, oX w.m.ty, oX .ui32, oX w.m.ty, true⟩
  | .popc w | .clz w => some ⟨.fix 4, tyBits w.m.ty && w.m.x == 0, dK [.v, .s] 32, oX w.m.ty, oNone, oNone, true⟩
  | .brev w => some ⟨.fix 4, tyBits w.m.ty && w.m.x == 0, dVS w.m.ty, oX w.m.ty, oNone, oNone, true⟩
  | .isetp w =>
    let comb := w.m.x.toNat / 8
    some ⟨.fix 4, tyArith w.m.ty && w.m.x.toNat % 8 < 6 && comb < 4, dK [.p] 1, oX w.m.ty, oX w.m.ty,
      if comb == 0 then oNone else oK [.pred], true⟩
  | .sel w =>
    some ⟨.fix 4, [Ty.b32, .b64, .b128].contains w.m.ty && w.m.x == 0, dVS w.m.ty, oX w.m.ty, oX w.m.ty, oK [.pred], true⟩
  | .mov w => some ⟨.fix 4, [Ty.b32, .b64, .b128].contains w.m.ty && w.m.x == 0, dVS w.m.ty, oX w.m.ty, oNone, oNone, true⟩
  | .movi w => some ⟨.fix 4, [Ty.b32, .si32].contains w.m.ty && w.m.x == 0, dK [.v, .s] 32, oNone, oNone, oNone, true⟩
  | .movih w => some ⟨.fix 4, w.m.ty == .b64 && w.m.x == 0, dK [.v, .s] 64, oNone, oNone, oNone, true⟩
  | .lea w =>
    some ⟨.fix 4, tyArith w.m.ty && w.m.x == 0, dK [.v, .s] 64, oX .ui64, oX w.m.ty, oK [.imm, .s], true⟩
  | .plop w =>
    let x := w.m.toNat
    some ⟨.fix 4, x % 32 == 0 && x / 32 % 8 < 5 && x / 256 < 4, dK [.p] 1, oK [.pred], oK [.pred],
      if x / 256 == 0 then oNone else oK [.pred], true⟩
  | .isad w =>
    some ⟨.fix 6, [Ty.ui8, .si8, .ui16, .si16].contains w.m.ty && w.m.x == 0, dK [.v, .s] 32, oX w.m.ty,
      oX w.m.ty, oX .ui32, true⟩
  | .idot w =>
    some ⟨.fix 6, [Ty.ui8, .si8, .ui16, .si16].contains w.m.ty && only7 w.m.x 3, dK [.v, .s] 32,
      oX w.m.ty, oX (idotB w.m), oX .si32, true⟩
  | .shfw w => some ⟨.fix 4, w.m.ty == .b32 && only7 w.m.x 3, dVS w.m.ty, oX .b32, oX .b32, oX .ui32, true⟩
  | .xlane w =>
    let sh := w.m.x.toNat == 4
    some ⟨.fix 8, tyBits w.m.ty && w.m.x.toNat < 5, dK [.v] w.m.ty.bits, oX w.m.ty,
      if w.m.x.toNat == 3 then oK [.imm] else oX (if sh then .si32 else .ui32), oK [.imm, .s], true⟩
  | .pcol w =>
    let md := w.m.toNat / 32
    some ⟨.fix 8, w.m.toNat % 32 == 0 && md < 6,
      if md < 4 then dK [.p] 1 else ⟨[.s], 0, 1, md == 4, false⟩, oK [.pred], oNone, oNone, true⟩
  | .redi w => some ⟨.var, tyArith w.m.ty && w.m.x.toNat < 6, dVS w.m.ty, oX w.m.ty, oNone, oNone, true⟩
  | .bsel w =>
    let reg := w.c.kind == .v || w.c.kind == .s
    some ⟨.fix 4, !reg || w.m == 0, dK [.v, .s] 32, oX .b32, oX .b32, oK [.none, .v, .s], true⟩
  | .scan w =>
    some ⟨.var, tyArith w.m.ty && w.m.x.toNat % 8 < 6 && w.m.x.toNat / 8 < 2, dK [.v] w.m.ty.bits, oX w.m.ty, oNone, oNone, true⟩
  | .matchI w => some ⟨.fix 8, tyBits w.m.ty && w.m.x == 0, dK [.v] 32, oX w.m.ty, oNone, oNone, true⟩
  | .rdlane w =>
    some ⟨.fix 8, tyBits w.m.ty && w.m.x == 0, dVS w.m.ty, { oX w.m.ty with kinds := [.v] }, oK [.imm, .s], oNone, true⟩
  | .wrlane w =>
    some ⟨.fix 8, tyBits w.m.ty && w.m.x == 0, dK [.v] w.m.ty.bits, oX w.m.ty, oK [.imm, .s], oNone, true⟩
  | _ => none

/-- TYPE codes in order (R291). -/
def tyCodes : List Ty :=
  [.b8, .b16, .b32, .b64, .b128, .si8, .si16, .si32, .si64, .ui8, .ui16, .ui32, .ui64,
   .f16, .bf16, .f32, .e4m3, .e5m2, .e2m1, .e8m0, .sm8, .sm4, .cb2]

/-- The TYPE of a code (R291); `none` for 23 to 31. -/
def tyOfCode (n : Nat) : Option Ty := tyCodes[n]?

/-- .f32, .f16 and .bf16. -/
def tyF (t : Ty) : Bool := [Ty.f32, .f16, .bf16].contains t

/-- The types FCVT converts (R353). -/
def tyCvt (t : Ty) : Bool :=
  [Ty.f32, .f16, .bf16, .e5m2, .e4m3, .e2m1, .e8m0, .sm8, .sm4, .si8, .si16, .si32, .si64,
   .ui8, .ui16, .ui32, .ui64].contains t

/-- Elements per lane of a conversion (R353). -/
def cvtCount (s d : Ty) : Nat := 32 / min (min s.bits d.bits) 32

/-- Integer types of F2I and I2F by ITYPE code (R354). -/
def itype (n : Nat) : Ty :=
  match n with
  | 0 => .si8 | 1 => .si16 | 2 => .si32 | 3 => .si64 | 4 => .ui8 | 5 => .ui16 | 6 => .ui32 | _ => .ui64

/-- Floating and triplex instructions (R346). -/
def sigFloat : Instr → Option Sig
  | .fadd w | .fsub w | .fmul w =>
    some ⟨.fix 5, tyF w.m.ty && w.m.x == 0, dVS w.m.ty, oX w.m.ty, oX w.m.ty, oNone, true⟩
  | .ffma w => some ⟨.fix 5, tyF w.m.ty && w.m.x == 0, dVS w.m.ty, oX w.m.ty, oX w.m.ty, oX w.m.ty, true⟩
  | .fdot w =>
    let n := 2 ^ (w.m.x.toNat % 4)
    some ⟨.fix 6, [Ty.f16, .bf16, .e5m2, .e4m3, .e2m1].contains w.m.ty && w.m.x.toNat < 4 && n * (32 / w.m.ty.bits) ≤ 16,
      dK [.v] 32, ⟨[.v], n, 0, 0, false, w.m.ty.negOk⟩, ⟨[.v], n, 0, 0, false, w.m.ty.negOk⟩, oX .f32, true⟩
  | .fmin w | .fmax w =>
    some ⟨.fix 5, tyF w.m.ty && w.m.x == 0 && w.m.rnd == .none, dVS w.m.ty, oX w.m.ty, oX w.m.ty, oNone, true⟩
  | .fsetp w =>
    some ⟨.fix 5, tyF w.m.ty && w.m.rnd == .none && (w.c.kind != .none || w.m.x.toNat < 8), dK [.p] 1, oX w.m.ty, oX w.m.ty,
      oK [.pred, .none], true⟩
  | .fsel w =>
    some ⟨.fix 5, tyF w.m.ty && w.m.x == 0 && w.m.rnd == .none, dVS w.m.ty, oX w.m.ty, oX w.m.ty, oK [.pred], true⟩
  | .fclass w =>
    some ⟨.fix 5, tyF w.m.ty && w.m.x == 0 && w.m.rnd == .none, dK [.v, .s] 32, oX w.m.ty, oNone, oNone, true⟩
  | .fdiv w => some ⟨.var, w.m.ty == .f32 && w.m.x == 0, dK [.v, .s] 32, oX .f32, oX .f32, oNone, true⟩
  | .fsqrt w | .frcp w | .frsq w | .fexp2 w | .flog2 w | .fsin w | .fcos w | .ftanh w =>
    some ⟨.var, w.m.ty == .f32 && w.m.x == 0, dK [.v, .s] 32, oX .f32, oNone, oNone, true⟩
  | .fcvt w =>
    let st := (tyOfCode (w.imm.toNat / 256 % 32)).getD .f32
    let n := cvtCount st w.m.ty
    some ⟨.fix 5, tyCvt w.m.ty && w.m.x == 0,
      ⟨if 32 ≤ st.bits && 32 ≤ w.m.ty.bits then [.v, .s] else [.v], max 1 (n * w.m.ty.bits / 32), 1, false, false⟩,
      ⟨[.v, .s, .cbank], max 1 (n * st.bits / 32), max 1 ((n * st.bits + 63) / 64), max 1 (n * st.bits / 32), false, st.negOk⟩,
      oNone, oNone, true⟩
  | .f2i w =>
    some ⟨.fix 5, tyF w.m.ty && w.m.x.toNat < 8, dK [.v, .s] (itype w.m.x.toNat).bits, oX w.m.ty, oNone, oNone, true⟩
  | .i2f w =>
    some ⟨.fix 5, tyF w.m.ty && w.m.x.toNat < 8, dK [.v, .s] 32, oX (itype w.m.x.toNat), oNone, oNone, true⟩
  | .frnd w => some ⟨.fix 5, tyF w.m.ty && w.m.x == 0, dVS w.m.ty, oX w.m.ty, oNone, oNone, true⟩
  | .fscale w => some ⟨.fix 5, tyF w.m.ty && w.m.x == 0, dVS w.m.ty, oX w.m.ty, oX .si32, oNone, true⟩
  | .digits w =>
    some ⟨.fix 8, tyF w.m.ty && w.m.x == 0 && w.m.rnd == .none, dK [.v] 32, { oX w.m.ty with kinds := [.v] }, oNone, oNone, true⟩
  | .sibrd w | .sibwr w =>
    some ⟨.fix 6, tyBits w.m.ty && w.m.x == 0 && w.m.rnd == .none, dK [.v] w.m.ty.bits, { oX w.m.ty with kinds := [.v] },
      oK [.imm], oNone, true⟩
  | .sibmed w =>
    some ⟨.fix 6, tyF w.m.ty && w.m.x == 0 && w.m.rnd == .none, dK [.v] 32, { oX w.m.ty with kinds := [.v] }, oNone, oNone, true⟩
  | .sibmean w | .sibdiff w =>
    some ⟨.fix 6, tyF w.m.ty && w.m.x == 0, dK [.v] 32, { oX w.m.ty with kinds := [.v] }, oNone, oNone, true⟩
  | .fsgn w =>
    some ⟨.fix 5, tyF w.m.ty && w.m.x.toNat < 3 && w.m.rnd == .none, dVS w.m.ty, oX w.m.ty, oX w.m.ty, oNone, true⟩
  | .fred w =>
    some ⟨.var, w.m.ty == .f32 && w.m.x.toNat < 3 && (w.m.x == 0 || w.m.rnd == .none), dK [.v, .s] 32,
      { oX .f32 with kinds := [.v] }, oNone, oNone, true⟩
  | _ => none

/-- Type set L of R363. -/
def tyL (t : Ty) : Bool :=
  [Ty.b8, .b16, .b32, .b64, .b128, .si8, .si16, .si32, .si64, .ui8, .ui16, .ui32, .ui64, .f16, .bf16, .f32].contains t

/-- Type set T of R363. -/
def tyT (t : Ty) : Bool :=
  [Ty.b8, .b16, .b32, .b64, .si8, .si16, .si32, .si64, .ui8, .ui16, .ui32, .ui64, .f16, .bf16, .f32,
   .e5m2, .e4m3, .e8m0, .sm8].contains t

/-- The base operand of an M form (R361). -/
def oBase (m : MemM) : OSig := ⟨[.s, .v], if m.loc then 1 else 2, 1, 0, false, false⟩

/-- ORD is accepted, and SCOPE is zero without one (R292, R363). -/
def ordOk (m : MemM) (os : List Ord4) : Bool := os.contains m.ord && (m.ord != .none || m.scope == .grp)

/-- Memory, atomic and transaction instructions (R363). -/
def sigMemory : Instr → Option Sig
  | .ld w => some ⟨.var, tyL w.m.ty && ordOk w.m [.none, .acq], dVS w.m.ty, oBase w.m, oNone, oNone, true⟩
  | .st w =>
    some ⟨.no, tyL w.m.ty && ordOk w.m [.none, .rel] && !w.m.x, { dVS w.m.ty with src := true }, oBase w.m, oNone, oNone, true⟩
  | .ldx w => some ⟨.var, tyT w.m.ty && ordOk w.m [.none], dK [.v] w.m.ty.bits, oBase w.m, oNone, oNone, true⟩
  | .stx w =>
    some ⟨.no, tyT w.m.ty && ordOk w.m [.none] && !w.m.x, { dK [.v] w.m.ty.bits with src := true }, oBase w.m, oNone, oNone, true⟩
  | .aadd w | .amin w | .amax w =>
    some ⟨.var, tyArith w.m.ty && !w.m.x, dK [.v] w.m.ty.bits, oBase w.m, oNone, oX w.m.ty, true⟩
  | .aand w | .aor w | .axor w | .axch w =>
    some ⟨.var, tyBits w.m.ty && !w.m.x, dK [.v] w.m.ty.bits, oBase w.m, oNone, oX w.m.ty, true⟩
  | .acas w => some ⟨.var, tyBits w.m.ty && !w.m.x, { dK [.v] w.m.ty.bits with src := true }, oBase w.m, oNone, oX w.m.ty, true⟩
  | .afadd w => some ⟨.var, tyF w.m.ty && !w.m.x, dK [.v] 32, oBase w.m, oNone, oX w.m.ty, true⟩
  | .radd w | .rmin w | .rmax w =>
    some ⟨.no, tyArith w.m.ty && !w.m.x && (w.m.ord == .none || w.m.ord == .rel), dNone, oBase w.m, oNone, oX w.m.ty, true⟩
  | .rand w | .ror w | .rxor w =>
    some ⟨.no, tyBits w.m.ty && !w.m.x && (w.m.ord == .none || w.m.ord == .rel), dNone, oBase w.m, oNone, oX w.m.ty, true⟩
  | .rfadd w =>
    some ⟨.no, tyF w.m.ty && !w.m.x && (w.m.ord == .none || w.m.ord == .rel), dNone, oBase w.m, oNone, oX w.m.ty, true⟩
  | .waita w =>
    some ⟨.var, tyBits w.m.ty && !w.m.x && (w.m.ord == .none || w.m.ord == .acq), ⟨[.v], w.m.ty.span + 1, 0, false, false⟩,
      oBase w.m, oNone, ⟨[.s], 0, 3, 0, false, false⟩, true⟩
  | .fence w =>
    some ⟨.no, w.m.ty == .b8 && !w.m.loc && w.m.ord != .none && (!w.m.x || w.m.ord == .ar), dNone, oNone, oNone, oNone, true⟩
  | .cinv w =>
    some ⟨.no, w.m.ty == .b8 && ordOk w.m [.none], dNone, if w.m.x then oNone else oBase w.m, oNone, oNone, true⟩
  | .ctag w => some ⟨.var, w.m.ty == .b32 && ordOk w.m [.none] && !w.m.x, dK [.v] 32, oBase w.m, oNone, oNone, true⟩
  | .pref w => some ⟨.no, w.m.ty == .b8 && ordOk w.m [.none] && !w.m.x, dNone, oBase w.m, oNone, oNone, true⟩
  | .txb w | .txa w | .cdrain w =>
    some ⟨.no, w.m.ty == .b8 && !w.m.loc && ordOk w.m [.none] && !w.m.x, dNone, oNone, oNone, oNone, true⟩
  | .txc w => some ⟨.var, w.m.ty == .b8 && !w.m.loc && ordOk w.m [.none] && !w.m.x, dK [.p] 1, oNone, oNone, oNone, true⟩
  | .snappin w =>
    some ⟨.var, w.m.ty == .b8 && !w.m.loc && ordOk w.m [.none] && !w.m.x, dK [.s] 128, oNone, oNone, oNone, true⟩
  | .snaprel w =>
    some ⟨.no, w.m.ty == .b8 && !w.m.loc && ordOk w.m [.none] && !w.m.x, dNone, oK [.s, .imm], oNone, oNone, true⟩
  | _ => none

/-- A count, token, batch, step or policy operand (R378). -/
def oCnt : OSig := oK [.imm, .s]

/-- A barrier operand or none (R382). -/
def oBar : OSig := oK [.bar, .none]

/-- An S operand naming the given number of registers (R378). -/
def oS (n : Nat) : OSig := ⟨[.s], 0, n, 0, false, false⟩

/-- Types MACC converts into (R402). -/
def tyMacc (t : Ty) : Bool := [Ty.f32, .f16, .bf16, .e5m2, .e4m3, .e2m1, .sm8, .sm4, .si32].contains t

/-- Channel, barrier and engine instructions (R381, R382). -/
def sigEngine : Instr → Option Sig
  | .push w =>
    let sz := 8 * 2 ^ (w.m.toNat % 4)
    some ⟨.var, only12 w.m 7, if w.m.toNat / 4 % 2 == 1 then dK [.p] 1 else dNone, oK [.chan],
      ⟨[.v, .s], sz / 4, sz / 8, 0, false, false⟩, oNone, true⟩
  | .pop w =>
    let sz := 8 * 2 ^ (w.m.toNat % 4)
    some ⟨.var, only12 w.m 15, ⟨[.v, .s], sz / 4, sz / 8, false, false⟩, oK [.chan],
      if w.m.toNat / 4 % 2 == 1 then oK [.pred] else oNone, oNone,
      match w.b with | .pred _ inv => !inv | _ => true⟩
  | .caprd w => some ⟨.fix 4, w.m == 0, dK [.s] 64, oK [.chan], oNone, oNone, true⟩
  | .binit w | .barrive w | .bexpect w => some ⟨.no, w.m == 0, dNone, oK [.bar], oCnt, oNone, true⟩
  | .bwaitp w => some ⟨.var, w.m == 0, dK [.p] 1, oK [.bar], oCnt, oNone, true⟩
  | .btest w => some ⟨.fix 4, w.m == 0, dK [.s] 64, oK [.bar], oNone, oNone, true⟩
  | .binval w => some ⟨.no, w.m == 0, dNone, oK [.bar], oNone, oNone, true⟩
  | .bclose w => some ⟨.fix 4, only12 w.m 3, dK [.s] 64, oNone, oNone, oNone, true⟩
  | .bwait w => some ⟨.no, only12 w.m 3, dNone, oCnt, oNone, oNone, true⟩
  | .bpoll w => some ⟨.fix 4, only12 w.m 3, dK [.p] 1, oCnt, oNone, oNone, true⟩
  | .qfence w => some ⟨.no, only12 w.m 15, dNone, oNone, oNone, oNone, true⟩
  | .cpy w =>
    let m := w.m.toNat
    some ⟨.no, only12 w.m 15 && m % 4 < 3, dNone, ⟨[.v], if m / 4 % 2 == 1 then 1 else 2, 0, 0, false, false⟩,
      ⟨[.v], if m / 8 % 2 == 1 then 1 else 2, 0, 0, false, false⟩, oBar, true⟩
  | .cpyT w => some ⟨.no, only12 w.m 3, dNone, oS 4, oNone, oBar, true⟩
  | .cpyCv w =>
    let d := tyOfCode (w.m.toNat % 32)
    let s := tyOfCode (w.m.toNat / 32 % 32)
    some ⟨.no, d.any tyCvt && s.any tyCvt &&
        !(((d.any (·.bits == 4)) && (s.any (·.bits == 64))) || ((d.any (·.bits == 64)) && (s.any (·.bits == 4)))),
      dNone, oS 4, oCnt, oBar, true⟩
  | .cpyMeta w => some ⟨.no, only12 w.m 1, dNone, oK [.chan], oS 1, oCnt, true⟩
  | .gather w => some ⟨.no, w.m == 0, dNone, oS 1, oCnt, oBar, true⟩
  | .mzero w => some ⟨.no, w.m == 0, dK [.acc] 0, oNone, oNone, oNone, true⟩
  | .mloop w | .mloopSp w =>
    some ⟨.no, only12 w.m 31 && w.m.toNat % 16 < 11, dK [.acc] 0, if w.m.toNat / 16 == 1 then oNone else oS 1, oS 1, oCnt, true⟩
  | .macc w =>
    let m := w.m.toNat
    let mem := m / 32 % 2 == 1
    some ⟨.var, only12 w.m 0x1ff && (tyOfCode (m % 32)).any tyMacc && (!mem || m / 128 % 4 == 0),
      if mem then dNone else ⟨[.v], 2 ^ (m / 128 % 4), 0, false, false⟩, oK [.acc], if mem then oS 1 else oCnt, oCnt, true⟩
  | .cbload w => some ⟨.no, w.m == 0, dNone, oS 1, oNone, oNone, true⟩
  | .xfmR w =>
    let m := w.m.toNat
    let fn := m % 8
    let ty := tyOfCode (m / 8 % 32)
    let blk := m / 256 % 8 + 1
    some ⟨.var, only12 w.m 0x7ff && fn < 4 &&
        (match fn with
         | 0 => ty.any tyCvt
         | 1 => ty.any tyF
         | 2 => m / 8 % 32 == 0
         | _ => m / 8 == 0),
      ⟨[.v], match fn with | 1 => blk * ((ty.getD .f32).bits / 2) | 2 => blk | 3 => 8 | _ => 1, 0, false, false⟩,
      ⟨[.v], match fn with | 1 => blk | 3 => 8 | _ => 1, 0, 0, false, false⟩, oCnt,
      if fn == 1 then oK [.v, .s, .cbank] else oNone, true⟩
  | .xfmJ w => some ⟨.no, w.m == 0, dNone, oS 1, oNone, oBar, true⟩
  | .decode w =>
    let m := w.m.toNat
    some ⟨.var, only12 w.m 15 && m % 8 < 5 && (m % 8 < 3 || m / 8 == 0), ⟨[.v], if m % 8 == 4 then 4 else 1, 0, false, false⟩,
      oS 2, oCnt, oNone, true⟩
  | _ => none

/-- The signature of an encoded instruction; `none` for a row that is no instruction word. -/
def sig (i : Instr) : Option Sig :=
  match sigControl i with
  | some σ => some σ
  | none =>
    match sigInteger i with
    | some σ => some σ
    | none =>
      match sigFloat i with
      | some σ => some σ
      | none =>
        match sigMemory i with
        | some σ => some σ
        | none => sigEngine i

/-- The destination and operand fields of an encoded instruction. -/
structure Fields where
  hdr : Hdr
  d : Dst
  a : Opnd
  b : Opnd
  c : Opnd

/-- The fields of an encoded instruction (R284, R285). -/
def fields : Instr → Option Fields
  | .nop w => some ⟨w.hdr, w.d, w.a, w.b, w.c⟩
  | .bra w => some ⟨w.hdr, w.d, w.a, .none, .none⟩
  | .brx w => some ⟨w.hdr, w.d, w.a, w.b, w.c⟩
  | .brd w => some ⟨w.hdr, w.d, w.a, .none, .none⟩
  | .jarm w => some ⟨w.hdr, w.d, w.a, .none, .none⟩
  | .jarr w => some ⟨w.hdr, w.d, w.a, w.b, w.c⟩
  | .call w => some ⟨w.hdr, w.d, w.a, .none, .none⟩
  | .callx w => some ⟨w.hdr, w.d, w.a, w.b, w.c⟩
  | .ret w => some ⟨w.hdr, w.d, w.a, w.b, w.c⟩
  | .endI w => some ⟨w.hdr, w.d, w.a, w.b, w.c⟩
  | .trap w => some ⟨w.hdr, w.d, w.a, .none, .none⟩
  | .bkpt w => some ⟨w.hdr, w.d, w.a, .none, .none⟩
  | .bind w => some ⟨w.hdr, w.d, w.a, w.b, w.c⟩
  | .spawn w => some ⟨w.hdr, w.d, w.a, w.b, w.c⟩
  | .launch w => some ⟨w.hdr, w.d, w.a, w.b, w.c⟩
  | .yield w => some ⟨w.hdr, w.d, w.a, w.b, w.c⟩
  | .sleep w => some ⟨w.hdr, w.d, w.a, .none, .none⟩
  | .mark w => some ⟨w.hdr, w.d, w.a, .none, .none⟩
  | .rdem w => some ⟨w.hdr, w.d, w.a, w.b, w.c⟩
  | .wrem w => some ⟨w.hdr, w.d, w.a, w.b, w.c⟩
  | .rdsr w => some ⟨w.hdr, w.d, w.a, w.b, w.c⟩
  | .wrsr w => some ⟨w.hdr, w.d, w.a, w.b, w.c⟩
  | .rdts w => some ⟨w.hdr, w.d, w.a, w.b, w.c⟩
  | .rdcnt w => some ⟨w.hdr, w.d, w.a, w.b, w.c⟩
  | .emp w => some ⟨w.hdr, w.d, w.a, w.b, w.c⟩
  | .jrd w => some ⟨w.hdr, w.d, w.a, w.b, w.c⟩
  | .iadd w => some ⟨w.hdr, w.d, w.a, w.b, w.c⟩
  | .isub w => some ⟨w.hdr, w.d, w.a, w.b, w.c⟩
  | .imul w => some ⟨w.hdr, w.d, w.a, w.b, w.c⟩
  | .imad w => some ⟨w.hdr, w.d, w.a, w.b, w.c⟩
  | .imulw w => some ⟨w.hdr, w.d, w.a, w.b, w.c⟩
  | .imadw w => some ⟨w.hdr, w.d, w.a, w.b, w.c⟩
  | .imin w => some ⟨w.hdr, w.d, w.a, w.b, w.c⟩
  | .imax w => some ⟨w.hdr, w.d, w.a, w.b, w.c⟩
  | .iabs w => some ⟨w.hdr, w.d, w.a, w.b, w.c⟩
  | .ineg w => some ⟨w.hdr, w.d, w.a, w.b, w.c⟩
  | .shl w => some ⟨w.hdr, w.d, w.a, w.b, w.c⟩
  | .shr w => some ⟨w.hdr, w.d, w.a, w.b, w.c⟩
  | .rot w => some ⟨w.hdr, w.d, w.a, w.b, w.c⟩
  | .bop w => some ⟨w.hdr, w.d, w.a, w.b, w.c⟩
  | .bfe w => some ⟨w.hdr, w.d, w.a, w.b, w.c⟩
  | .bfi w => some ⟨w.hdr, w.d, w.a, w.b, w.c⟩
  | .popc w => some ⟨w.hdr, w.d, w.a, w.b, w.c⟩
  | .clz w => some ⟨w.hdr, w.d, w.a, w.b, w.c⟩
  | .brev w => some ⟨w.hdr, w.d, w.a, w.b, w.c⟩
  | .isetp w => some ⟨w.hdr, w.d, w.a, w.b, w.c⟩
  | .sel w => some ⟨w.hdr, w.d, w.a, w.b, w.c⟩
  | .mov w => some ⟨w.hdr, w.d, w.a, w.b, w.c⟩
  | .movi w => some ⟨w.hdr, w.d, w.a, .none, .none⟩
  | .movih w => some ⟨w.hdr, w.d, w.a, .none, .none⟩
  | .lea w => some ⟨w.hdr, w.d, w.a, w.b, w.c⟩
  | .plop w => some ⟨w.hdr, w.d, w.a, w.b, w.c⟩
  | .isad w => some ⟨w.hdr, w.d, w.a, w.b, w.c⟩
  | .idot w => some ⟨w.hdr, w.d, w.a, w.b, w.c⟩
  | .shfw w => some ⟨w.hdr, w.d, w.a, w.b, w.c⟩
  | .xlane w => some ⟨w.hdr, w.d, w.a, w.b, w.c⟩
  | .pcol w => some ⟨w.hdr, w.d, w.a, w.b, w.c⟩
  | .redi w => some ⟨w.hdr, w.d, w.a, w.b, w.c⟩
  | .bsel w => some ⟨w.hdr, w.d, w.a, w.b, w.c⟩
  | .scan w => some ⟨w.hdr, w.d, w.a, w.b, w.c⟩
  | .matchI w => some ⟨w.hdr, w.d, w.a, w.b, w.c⟩
  | .rdlane w => some ⟨w.hdr, w.d, w.a, w.b, w.c⟩
  | .wrlane w => some ⟨w.hdr, w.d, w.a, w.b, w.c⟩
  | .fadd w => some ⟨w.hdr, w.d, w.a, w.b, w.c⟩
  | .fsub w => some ⟨w.hdr, w.d, w.a, w.b, w.c⟩
  | .fmul w => some ⟨w.hdr, w.d, w.a, w.b, w.c⟩
  | .ffma w => some ⟨w.hdr, w.d, w.a, w.b, w.c⟩
  | .fdot w => some ⟨w.hdr, w.d, w.a, w.b, w.c⟩
  | .fmin w => some ⟨w.hdr, w.d, w.a, w.b, w.c⟩
  | .fmax w => some ⟨w.hdr, w.d, w.a, w.b, w.c⟩
  | .fsetp w => some ⟨w.hdr, w.d, w.a, w.b, w.c⟩
  | .fsel w => some ⟨w.hdr, w.d, w.a, w.b, w.c⟩
  | .fclass w => some ⟨w.hdr, w.d, w.a, w.b, w.c⟩
  | .fdiv w => some ⟨w.hdr, w.d, w.a, w.b, w.c⟩
  | .fsqrt w => some ⟨w.hdr, w.d, w.a, w.b, w.c⟩
  | .frcp w => some ⟨w.hdr, w.d, w.a, w.b, w.c⟩
  | .frsq w => some ⟨w.hdr, w.d, w.a, w.b, w.c⟩
  | .fexp2 w => some ⟨w.hdr, w.d, w.a, w.b, w.c⟩
  | .flog2 w => some ⟨w.hdr, w.d, w.a, w.b, w.c⟩
  | .fsin w => some ⟨w.hdr, w.d, w.a, w.b, w.c⟩
  | .fcos w => some ⟨w.hdr, w.d, w.a, w.b, w.c⟩
  | .ftanh w => some ⟨w.hdr, w.d, w.a, w.b, w.c⟩
  | .fcvt w => some ⟨w.hdr, w.d, w.a, .none, .none⟩
  | .f2i w => some ⟨w.hdr, w.d, w.a, w.b, w.c⟩
  | .i2f w => some ⟨w.hdr, w.d, w.a, w.b, w.c⟩
  | .frnd w => some ⟨w.hdr, w.d, w.a, w.b, w.c⟩
  | .fscale w => some ⟨w.hdr, w.d, w.a, w.b, w.c⟩
  | .digits w => some ⟨w.hdr, w.d, w.a, w.b, w.c⟩
  | .sibrd w => some ⟨w.hdr, w.d, w.a, w.b, w.c⟩
  | .sibwr w => some ⟨w.hdr, w.d, w.a, w.b, w.c⟩
  | .sibmed w => some ⟨w.hdr, w.d, w.a, w.b, w.c⟩
  | .sibmean w => some ⟨w.hdr, w.d, w.a, w.b, w.c⟩
  | .sibdiff w => some ⟨w.hdr, w.d, w.a, w.b, w.c⟩
  | .fsgn w => some ⟨w.hdr, w.d, w.a, w.b, w.c⟩
  | .fred w => some ⟨w.hdr, w.d, w.a, w.b, w.c⟩
  | .ld w => some ⟨w.hdr, w.d, w.a, .none, w.c⟩
  | .st w => some ⟨w.hdr, w.d, w.a, .none, w.c⟩
  | .ldx w => some ⟨w.hdr, w.d, w.a, .none, w.c⟩
  | .stx w => some ⟨w.hdr, w.d, w.a, .none, w.c⟩
  | .aadd w => some ⟨w.hdr, w.d, w.a, .none, w.c⟩
  | .amin w => some ⟨w.hdr, w.d, w.a, .none, w.c⟩
  | .amax w => some ⟨w.hdr, w.d, w.a, .none, w.c⟩
  | .aand w => some ⟨w.hdr, w.d, w.a, .none, w.c⟩
  | .aor w => some ⟨w.hdr, w.d, w.a, .none, w.c⟩
  | .axor w => some ⟨w.hdr, w.d, w.a, .none, w.c⟩
  | .axch w => some ⟨w.hdr, w.d, w.a, .none, w.c⟩
  | .acas w => some ⟨w.hdr, w.d, w.a, .none, w.c⟩
  | .afadd w => some ⟨w.hdr, w.d, w.a, .none, w.c⟩
  | .radd w => some ⟨w.hdr, w.d, w.a, .none, w.c⟩
  | .rmin w => some ⟨w.hdr, w.d, w.a, .none, w.c⟩
  | .rmax w => some ⟨w.hdr, w.d, w.a, .none, w.c⟩
  | .rand w => some ⟨w.hdr, w.d, w.a, .none, w.c⟩
  | .ror w => some ⟨w.hdr, w.d, w.a, .none, w.c⟩
  | .rxor w => some ⟨w.hdr, w.d, w.a, .none, w.c⟩
  | .rfadd w => some ⟨w.hdr, w.d, w.a, .none, w.c⟩
  | .waita w => some ⟨w.hdr, w.d, w.a, .none, w.c⟩
  | .fence w => some ⟨w.hdr, w.d, w.a, w.b, w.c⟩
  | .cinv w => some ⟨w.hdr, w.d, w.a, .none, w.c⟩
  | .ctag w => some ⟨w.hdr, w.d, w.a, .none, w.c⟩
  | .pref w => some ⟨w.hdr, w.d, w.a, .none, w.c⟩
  | .txb w => some ⟨w.hdr, w.d, w.a, w.b, w.c⟩
  | .txc w => some ⟨w.hdr, w.d, w.a, w.b, w.c⟩
  | .txa w => some ⟨w.hdr, w.d, w.a, w.b, w.c⟩
  | .snappin w => some ⟨w.hdr, w.d, w.a, w.b, w.c⟩
  | .snaprel w => some ⟨w.hdr, w.d, w.a, w.b, w.c⟩
  | .cdrain w => some ⟨w.hdr, w.d, w.a, w.b, w.c⟩
  | .push w => some ⟨w.hdr, w.d, w.a, w.b, w.c⟩
  | .pop w => some ⟨w.hdr, w.d, w.a, w.b, w.c⟩
  | .caprd w => some ⟨w.hdr, w.d, w.a, w.b, w.c⟩
  | .binit w => some ⟨w.hdr, w.d, w.a, w.b, w.c⟩
  | .barrive w => some ⟨w.hdr, w.d, w.a, w.b, w.c⟩
  | .bexpect w => some ⟨w.hdr, w.d, w.a, w.b, w.c⟩
  | .bwaitp w => some ⟨w.hdr, w.d, w.a, w.b, w.c⟩
  | .btest w => some ⟨w.hdr, w.d, w.a, w.b, w.c⟩
  | .binval w => some ⟨w.hdr, w.d, w.a, w.b, w.c⟩
  | .bclose w => some ⟨w.hdr, w.d, w.a, w.b, w.c⟩
  | .bwait w => some ⟨w.hdr, w.d, w.a, w.b, w.c⟩
  | .bpoll w => some ⟨w.hdr, w.d, w.a, w.b, w.c⟩
  | .qfence w => some ⟨w.hdr, w.d, w.a, w.b, w.c⟩
  | .cpy w => some ⟨w.hdr, w.d, w.a, w.b, w.c⟩
  | .cpyT w => some ⟨w.hdr, w.d, w.a, w.b, w.c⟩
  | .cpyCv w => some ⟨w.hdr, w.d, w.a, w.b, w.c⟩
  | .cpyMeta w => some ⟨w.hdr, w.d, w.a, w.b, w.c⟩
  | .gather w => some ⟨w.hdr, w.d, w.a, w.b, w.c⟩
  | .mzero w => some ⟨w.hdr, w.d, w.a, w.b, w.c⟩
  | .mloop w => some ⟨w.hdr, w.d, w.a, w.b, w.c⟩
  | .mloopSp w => some ⟨w.hdr, w.d, w.a, w.b, w.c⟩
  | .macc w => some ⟨w.hdr, w.d, w.a, w.b, w.c⟩
  | .cbload w => some ⟨w.hdr, w.d, w.a, w.b, w.c⟩
  | .xfmR w => some ⟨w.hdr, w.d, w.a, w.b, w.c⟩
  | .xfmJ w => some ⟨w.hdr, w.d, w.a, w.b, w.c⟩
  | .decode w => some ⟨w.hdr, w.d, w.a, w.b, w.c⟩
  | _ => none


/-- The instruction's modifiers, kinds, spans and word-only operand limits are accepted (R296 orders 4
and 5). A row that is no instruction word is well formed. -/
def Instr.wf (i : Instr) : Bool :=
  match sig i, fields i with
  | some σ, some f =>
    σ.modOk && σ.d.ok f.d && σ.a.ok f.a && σ.b.ok f.b && σ.c.ok f.c && σ.opndOk
  | _, _ => true

end Sys2Proof
end

