-- ==== Sys2Proof/Machine/Operands.lean ====
section
/-! DEFINITION. Reading operands and forming register writes: lanes, threads and siblings (03_triplex
R57), the operand kinds (14_formats R287, R288), single-valued and uniform operands (R68, R70, R238).
Register values are natural numbers below 2 to the width read. -/

namespace Sys2Proof

/-- Floating types (R33). -/
def Ty.isFlt : Ty → Bool
  | .f16 | .bf16 | .f32 | .e4m3 | .e5m2 | .e2m1 => true
  | _ => false

/-- Bits a TYPE's value occupies in the registers of a lane: packed types fill their word (R32). -/
def Ty.width (t : Ty) : Nat := max 32 t.bits

/-- Exponent and fraction widths of a floating format (R33). -/
def Ty.expBits : Ty → Nat
  | .f32 => 8 | .f16 => 5 | .bf16 => 8 | .e5m2 => 5 | .e4m3 => 4 | .e2m1 => 2 | _ => 0

end Sys2Proof

namespace Sys2Proof.Machine

open Sys2Proof

/-- Lanes of a logical group (R206). -/
def nLanes (g : Grp) : Nat := if g.paired then 96 else 48

/-- Threads of a logical group (R57, R58). -/
def nThreads (g : Grp) : Nat := if g.triplex then nLanes g / 3 else nLanes g

/-- The thread of a lane (R9). -/
def threadOf (g : Grp) (lane : Nat) : Nat := if g.triplex then lane / 3 else lane

/-- The lanes of a thread, sibling 0 first (R57). -/
def lanesOf (g : Grp) (t : Nat) : List Nat := if g.triplex then [3 * t, 3 * t + 1, 3 * t + 2] else [t]

/-- All lanes of a thread as a mask. -/
def threadMask (g : Grp) (t : Nat) : Mask :=
  if g.triplex then BitVec.ofNat 96 (7 * 2 ^ (3 * t)) else BitVec.ofNat 96 (2 ^ t)

/-- The register a cell belongs to. -/
def Cell.reg : Cell → Cell
  | .sh r => .s r
  | c => c

/-- A cell's number among a group's registers. -/
def Cell.code : Cell → Nat
  | .v r l => r * 96 + l
  | .s r => 30000 + r
  | .sh r => 30000 + r
  | .p r t => 40000 + r * 96 + t

/-- What a register nothing wrote reads (R220; assumption log, rows 5 and 6). -/
def undefVal (g : Grp) (c : Cell) : W64 :=
  match g.undef with
  | none => 0
  | some n => Config.undefWord n c.code

/-- A lane of a v register. -/
def regV (g : Grp) (r lane : Nat) : W32 :=
  (tabGet g.v (r * 96 + lane)).getD ((undefVal g (.v r lane)).setWidth 32)

/-- An s register. -/
def regS (g : Grp) (r : Nat) : W64 := (tabGet g.s r).getD (undefVal g (.s r))

/-- A thread's bit of a p register; p7 reads false (R290). -/
def regP (g : Grp) (r t : Nat) : Bool :=
  if r = 7 then false else (tabGet g.p (r * 96 + t)).getD ((undefVal g (.p r t)).getLsbD 0)

/-- Writes a cell; p7 discards (R286). The write clears the cell's poison (R30). -/
def putCell (g0 : Grp) (w : RegW) : Grp :=
  let g := { g0 with poison := g0.poison.filter (· != w.cell) }
  match w.cell with
  | .v r l => { g with v := tabPut g.v (r * 96 + l) (w.val.setWidth 32) }
  | .s r => { g with s := tabPut g.s r w.val }
  | .sh r => { g with s := tabPut g.s r (BitVec.ofNat 64 (w.val.toNat % 2 ^ 32 * 2 ^ 32 + (regS g r).toNat % 2 ^ 32)) }
  | .p r t => if r = 7 then g else { g with p := tabPut g.p (r * 96 + t) (w.val.getLsbD 0) }

/-- Writes cells in order. -/
def putCells (g : Grp) (ws : List RegW) : Grp := ws.foldl putCell g

/-- A write that is still to land after a later instruction's write to its register has landed (R231): it no
longer writes what that one wrote. -/
def overtaken (ws : List RegW) (w : RegW) : Option RegW :=
  if ws.any (fun x => x.cell == w.cell) then none
  else
    match w.cell with
    | .s r =>
      match ws.find? (fun x => x.cell == .sh r) with
      | some x => some ⟨.s r, BitVec.ofNat 64 (x.val.toNat % 2 ^ 32 * 2 ^ 32 + w.val.toNat % 2 ^ 32)⟩
      | none => some w
    | .sh r => if ws.any (fun x => x.cell == .s r) then none else some w
    | _ => some w

/-- Writes that land now: writes of earlier instructions to the same cells that are still to land stay without effect,
so that a register keeps the value of the later instruction (R231, R232; assumption log, row 24). -/
def landCells (g : Grp) (ws : List RegW) : Grp :=
  putCells { g with pend := g.pend.map (fun p => { p with writes := p.writes.filterMap (overtaken ws) }) } ws

/-- What operands are read from: the group, its object's constants, its grid's LPB (bank 7, R203), and
the Active lanes. -/
structure Env where
  g : Grp
  consts : Tab W32
  lpb : List W64
  act : Mask

/-- The guard of a lane's thread (R290). -/
def guardOf (g : Grp) (h : Hdr) (t : Nat) : Bool := regP g h.pred.toNat t != h.inv

/-- The Active lanes (R9). -/
def activeMask (g : Grp) (h : Hdr) : Mask :=
  (List.range (nLanes g)).foldl
    (fun m l => if g.em.getLsbD l && guardOf g h (threadOf g l) then m ||| BitVec.ofNat 96 (2 ^ l) else m) 0

/-- The Active threads, ascending (R222). -/
def activeThreads (e : Env) : List Nat :=
  (List.range (nThreads e.g)).filter (fun t => (lanesOf e.g t).any e.act.getLsbD)

/-- The Active lanes, ascending. -/
def activeLanes (e : Env) : List Nat := (List.range (nLanes e.g)).filter e.act.getLsbD

/-- A constant-bank word (R288, R203). -/
def constWord (e : Env) (bank w : Nat) : Nat :=
  if bank = 7 then
    if w < 64 then (e.lpb.getD (w / 2) 0).toNat / 2 ^ (32 * (w % 2)) % 2 ^ 32 else 0
  else (tabGetD e.consts (bank * 1024 + w) 0).toNat

/-- Applies a function to each `w`-bit element of a value of `tw` bits (R32). -/
def mapElems (w tw : Nat) (f : Nat → Nat) (x : Nat) : Nat :=
  if w = 0 then x
  else (List.range (tw / w)).foldl (fun acc i => acc + f (x / 2 ^ (w * i) % 2 ^ w) % 2 ^ w * 2 ^ (w * i)) 0

/-- Element `i` of `w` bits (R32). -/
def elem (w i x : Nat) : Nat := x / 2 ^ (w * i) % 2 ^ w

/-- Formats with a sign bit (R33, R42). -/
def hasSign (t : Ty) : Bool := t.isFlt || t == .sm8 || t == .sm4

/-- abs then neg on each element (R287): two's complement for integers, the sign bit where the format has one. An E8M0 element has
none: the instruction that reads it negates its value. -/
def applyMarks (ty : Ty) (tw : Nat) (abs neg : Bool) (x : Nat) : Nat :=
  if (!abs && !neg) || ty == .e8m0 then x
  else
    let w := min ty.bits tw
    mapElems w tw (fun e =>
      if hasSign ty then
        let e := if abs then e % 2 ^ (w - 1) else e
        if neg then (if e < 2 ^ (w - 1) then e + 2 ^ (w - 1) else e - 2 ^ (w - 1)) else e
      else
        let i := toInt w e
        let i := if abs then (if i < 0 then -i else i) else i
        wrapInt w (if neg then -i else i)) x

/-- IMM13 on an operand (R288). -/
def immVal (ty : Ty) (tw : Nat) (x : Nat) : Nat :=
  match ty with
  | .f32 => x * 2 ^ 19
  | .f16 | .bf16 => x * 2 ^ 3 + x * 2 ^ 19
  | _ => sext 13 tw x

/-- The value of `tw` bits an operand gives a lane, in a TYPE (R287, R288, R324, R342). -/
def rdW (e : Env) (ty : Ty) (tw : Nat) (o : Opnd) (lane : Nat) : Nat :=
  match o with
  | .v i a n =>
    let x := (List.range ((tw + 31) / 32)).foldl (fun acc k => acc + (regV e.g (i.toNat + k) lane).toNat * 2 ^ (32 * k)) 0
    applyMarks ty tw a n (x % 2 ^ tw)
  | .s i a n =>
    let x := (List.range ((tw + 63) / 64)).foldl (fun acc k => acc + (regS e.g (i.toNat + k)).toNat * 2 ^ (64 * k)) 0
    applyMarks ty tw a n (x % 2 ^ tw)
  | .imm x => immVal ty tw x.toNat % 2 ^ tw
  | .cbank b w =>
    let x := (List.range ((tw + 31) / 32)).foldl (fun acc k => acc + constWord e b.toNat (w.toNat + k) * 2 ^ (32 * k)) 0
    x % 2 ^ tw
  | _ => 0

/-- The value an operand gives a lane, in a TYPE. -/
def rd (e : Env) (ty : Ty) (o : Opnd) (lane : Nat) : Nat := rdW e ty ty.width o lane

/-- A predicate operand for a thread (R287, R290). -/
def rdPred (e : Env) (o : Opnd) (t : Nat) : Bool :=
  match o with
  | .pred p inv => regP e.g p.toNat t != inv
  | _ => false

/-- An element is a NaN of its floating format (R35 to R38). -/
def isNanBits (ty : Ty) (x : Nat) : Bool :=
  let f := ty.bits - 1 - ty.expBits
  let m := x % 2 ^ (ty.bits - 1)
  match ty with
  | .e4m3 => m == 0x7F
  | .e2m1 => false
  | _ => ty.isFlt && m / 2 ^ f == 2 ^ ty.expBits - 1 && m % 2 ^ f != 0

/-- The order key of an element in Median3 (R70). -/
def medKey (ty : Ty) (w : Nat) (x : Nat) : Int :=
  if ty.isFlt then
    if isNanBits ty x then 2 ^ w
    else if x < 2 ^ (w - 1) then (x : Int) else -((x % 2 ^ (w - 1) : Nat) : Int) - 1
  else
    match ty with
    | .sm8 | .sm4 => if x < 2 ^ (w - 1) then (x : Int) else -((x % 2 ^ (w - 1) : Nat) : Int)
    | _ => if ty.isSi then toInt w x else (x : Int)

/-- Median3 by order keys (R9, R70): the lowest of the three that holds the middle key. -/
def med3 {α : Type} (key : α → Int) (a b c : α) : α :=
  let ka := key a
  let kb := key b
  let kc := key c
  let m := max (min ka kb) (min (max ka kb) kc)
  if ka = m then a else if kb = m then b else c

/-- Median3 of three values of `tw` bits in a TYPE (R70): per element for packed .f16 and .bf16. R70 does not speak of a 32-bit word
of packed integers (.si8, .si16, .ui8, .ui16) that is taken as one value: the model orders the whole word, as one 32-bit number of
the TYPE's signedness (DESIGN CHOICE, assumption log, row 96). -/
def median (ty : Ty) (tw : Nat) (a b c : Nat) : Nat :=
  let w := match ty with
    | .f16 | .bf16 => min 16 tw
    | _ => tw
  (List.range (tw / w)).foldl
    (fun acc i => acc + med3 (medKey ty w) (elem w i a) (elem w i b) (elem w i c) * 2 ^ (w * i)) 0

/-- A thread's one value of an operand, and whether its siblings differ (R68, R69). -/
def svW (e : Env) (ty : Ty) (tw : Nat) (o : Opnd) (t : Nat) : Nat × Bool :=
  if e.g.triplex then
    let a := rdW e ty tw o (3 * t)
    let b := rdW e ty tw o (3 * t + 1)
    let c := rdW e ty tw o (3 * t + 2)
    (median ty tw a b c, !(a == b && b == c))
  else (rdW e ty tw o t, false)

/-- Lanes of the threads for which a test holds. -/
def maskOf (g : Grp) (ts : List Nat) (p : Nat → Bool) : Mask :=
  ts.foldl (fun m t => if p t then m ||| threadMask g t else m) 0

/-- Single values of an operand over the Active threads, and the lanes that split (R68). -/
def svAll (e : Env) (ty : Ty) (tw : Nat) (o : Opnd) : List (Nat × Nat) × Mask :=
  let ts := activeThreads e
  (ts.map (fun t => (t, (svW e ty tw o t).1)), maskOf e.g ts (fun t => (svW e ty tw o t).2))

/-- A uniform operand (R238): its value, or `none` where the Active threads differ; and the split lanes. -/
def unW (e : Env) (ty : Ty) (tw : Nat) (o : Opnd) : Option Nat × Mask :=
  match svAll e ty tw o with
  | ([], m) => (some 0, m)
  | ((_, x) :: r, m) => (if r.all (fun p => p.2 == x) then some x else none, m)

/-- Writes of a value of `n` registers to a v destination of a lane (R32, R286). -/
def wrV (r lane n x : Nat) : List RegW :=
  (List.range n).map (fun k => ⟨.v (r + k) lane, BitVec.ofNat 64 (x / 2 ^ (32 * k) % 2 ^ 32)⟩)

/-- Writes of a value of `n` registers to an s destination. -/
def wrS (r n x : Nat) : List RegW :=
  (List.range n).map (fun k => ⟨.s (r + k), BitVec.ofNat 64 (x / 2 ^ (64 * k) % 2 ^ 64)⟩)

/-- Extension of a 32-bit result to an s register (R325): sign for .si types, zero otherwise. -/
def extS (ty : Ty) (w x : Nat) : Nat := if w ≤ 32 && ty.isSi then sext w 64 x else x

/-- The EM-valued operand of s registers as lanes (R304), or `none` where a bit 63:48 is set. -/
def rdMask (e : Env) (r : Nat) : Option Mask :=
  let lo := (regS e.g r).toNat
  let hi := if e.g.paired then (regS e.g (r + 1)).toNat else 0
  if lo < 2 ^ 48 && hi < 2 ^ 48 then some (BitVec.ofNat 96 (lo + hi * 2 ^ 48)) else none

/-- Writes of an EM-valued result (R304). -/
def wrMask (g : Grp) (r : Nat) (m : Mask) : List RegW :=
  ⟨.s r, BitVec.ofNat 64 (m.toNat % 2 ^ 48)⟩ :: (if g.paired then [⟨.s (r + 1), BitVec.ofNat 64 (m.toNat / 2 ^ 48)⟩] else [])

/-- The siblings of every thread carry equal bits (R71). -/
def siblingsAgree (g : Grp) (m : Mask) : Bool :=
  !g.triplex || (List.range (nThreads g)).all (fun t =>
    m.getLsbD (3 * t) == m.getLsbD (3 * t + 1) && m.getLsbD (3 * t) == m.getLsbD (3 * t + 2))

/-- Cells an operand reads for a lane set (R231, R232, R234). -/
def opndCells (g : Grp) (σ : OSig) (act : Mask) (o : Opnd) : List Cell :=
  match o with
  | .v i _ _ =>
    ((List.range σ.vspan).map (fun k =>
      ((List.range (nLanes g)).filter act.getLsbD).map (fun l => Cell.v (i.toNat + k) l))).flatten
  | .s i _ _ => (List.range (if σ.em && g.paired then 2 * σ.sspan else σ.sspan)).map (fun k => Cell.s (i.toNat + k))
  | .pred p _ => if p.toNat = 7 then [] else (List.range (nThreads g)).map (fun t => Cell.p p.toNat t)
  | _ => []

/-- Cells a destination writes for a lane set. -/
def dstCells (g : Grp) (σ : DSig) (act : Mask) (d : Dst) : List Cell :=
  match d with
  | .v i =>
    ((List.range σ.vspan).map (fun k =>
      ((List.range (nLanes g)).filter act.getLsbD).map (fun l => Cell.v (i.toNat + k) l))).flatten
  | .s i => (List.range (if σ.em && g.paired then 2 * σ.sspan else σ.sspan)).map (fun k => Cell.s (i.toNat + k))
  | .p r => if r.toNat = 7 then [] else (List.range (nThreads g)).map (fun t => Cell.p r.toNat t)
  | _ => []

end Sys2Proof.Machine
end

