-- ==== Sys2Proof/Machine/Flags.lean ====
section
/-! DEFINITION. The numerical-instability causes: what an instruction notes, the flags and records they
give, and when they halt (03_triplex R74 to R79). -/

namespace Sys2Proof.Machine

open Sys2Proof

/-- What an instruction noted (R76): lanes of the threads for which each cause held; for CANCEL the
threads with digits of the result and smallest operand digits, for DIVZ with digits of the divisor; for
LOST one entry for each join or return-address entry that completed as lost, with its missing lanes. -/
structure Notes where
  split : Mask
  cmp : Mask
  cancel : List (Nat × Nat × Nat)
  divz : List (Nat × Nat)
  lost : List (Nat × Mask)
  deriving DecidableEq, Repr

/-- Nothing noted. -/
def Notes.nil : Notes := ⟨0, 0, [], [], []⟩

/-- Notes of two parts of one instruction. -/
def Notes.join (a b : Notes) : Notes :=
  ⟨a.split ||| b.split, a.cmp ||| b.cmp, a.cancel ++ b.cancel, a.divz ++ b.divz, a.lost ++ b.lost⟩

/-- Split lanes alone. -/
def Notes.ofSplit (m : Mask) : Notes := { Notes.nil with split := m }

/-- A cause that held (R77): its code in the record, its lanes, RDIG, ODIG and JOIN, already one entry
for each half of a paired group. -/
structure NumEv where
  code : Nat
  half : Nat
  lanes : Nat
  rdig : Nat
  odig : Nat
  joinIdx : Nat
  deriving DecidableEq, Repr

/-- Splits a mask over the halves of a group and drops empty halves (R77). -/
def halves (g : Grp) (m : Mask) : List (Nat × Nat) :=
  if g.paired then
    ((if m.toNat % 2 ^ 48 = 0 then [] else [(0, m.toNat % 2 ^ 48)]) ++
     (if m.toNat / 2 ^ 48 = 0 then [] else [(1, m.toNat / 2 ^ 48)]))
  else if m = 0 then [] else [(0, m.toNat % 2 ^ 48)]

/-- The half a thread lies in. -/
def halfOf (g : Grp) (t : Nat) : Nat := if g.paired && nThreads g / 2 ≤ t then 1 else 0

/-- The events of one instruction in the order SPLIT, CMP, CANCEL, DIVZ, LOST (R77). -/
def numEvents (g : Grp) (n : Notes) : List NumEv :=
  let sp := (halves g n.split).map (fun (h, l) => NumEv.mk 3 h l 0 0 0)
  let cm := (halves g n.cmp).map (fun (h, l) => NumEv.mk 1 h l 0 0 0)
  let cl := (halves g (maskOf g (n.cancel.map (·.1)) (fun _ => true))).map (fun (h, l) =>
    match n.cancel.find? (fun x => halfOf g x.1 == h) with
    | some (_, r, o) => NumEv.mk 0 h l r o 0
    | none => NumEv.mk 0 h l 0 0 0)
  let dv := (halves g (maskOf g (n.divz.map (·.1)) (fun _ => true))).map (fun (h, l) =>
    match n.divz.find? (fun x => halfOf g x.1 == h) with
    | some (_, r) => NumEv.mk 2 h l r 0 0
    | none => NumEv.mk 2 h l 0 0 0)
  let lo := (n.lost.map (fun (j, m) => (halves g m).map (fun (h, l) => NumEv.mk 4 h l 0 0 (j % 8)))).flatten
  sp ++ cm ++ cl ++ dv ++ lo

/-- A numeric event record (R78). -/
def numRecord (gts pc gid : Nat) (halted : Bool) (e : NumEv) : List W64 :=
  [BitVec.ofNat 64 gts,
   BitVec.ofNat 64 (pc % 2 ^ 40 * 2 ^ 24 + e.code * 2 ^ 20 + (if halted then 2 ^ 19 else 0) + e.half * 2 ^ 18),
   BitVec.ofNat 64 e.lanes,
   BitVec.ofNat 64 (gid % 2 ^ 32 * 2 ^ 32 + e.rdig * 2 ^ 27 + e.odig * 2 ^ 22 + e.joinIdx * 2 ^ 19)]

/-- The cause is enabled (R74). -/
def numEnabled (g : Grp) (code : Nat) : Bool := g.numctl.getLsbD code

/-- The cause is enabled with action HALT (R74). -/
def numHalts (g : Grp) (code : Nat) : Bool := g.numctl.getLsbD code && g.numctl.getLsbD (8 + code)

/-- What the numerical causes of an instruction do (R77): the records of the first halting cause, or
the flags set and the records of the enabled causes. -/
inductive NumOut where
  | halt (recs : List NumEv)
  | go (flags : W64) (recs : List NumEv)
  deriving DecidableEq, Repr

/-- The order in which causes are evaluated (R77). -/
def numOrder : List Nat := [3, 1, 0, 2, 4]

/-- Evaluates the causes of an instruction (R77). -/
def numEval (g : Grp) (n : Notes) : NumOut :=
  let es := numEvents g n
  match numOrder.find? (fun c => numHalts g c && es.any (fun e => e.code == c)) with
  | some c => .halt (es.filter (fun e => e.code == c))
  | none =>
    .go (es.foldl (fun f e => f ||| BitVec.ofNat 64 (2 ^ e.code)) g.numflag)
      (es.filter (fun e => numEnabled g e.code))

end Sys2Proof.Machine
end

