-- ==== Sys2Proof/Machine/Crypto.lean ====
section
/-! DEFINITION. The ciphers that 04_memory R103 to R106 and 01_device R27 name: AES-256 (FIPS 197), GMAC (NIST SP 800-38D),
SHA-384 (FIPS 180-4) and ECDSA on P-384 (FIPS 186), over bytes and natural numbers. The spec names them and leaves
their definition to those standards (assumption log, row 10). -/

namespace Sys2Proof.Machine

/-- The big-endian value of bytes given as numbers. -/
def beNat (bs : List Nat) : Nat := bs.foldl (fun n b => n * 256 + b) 0

/-- The `n` big-endian bytes of a value. -/
def beBytes (n x : Nat) : List Nat := (List.range n).map (fun i => x / 256 ^ (n - 1 - i) % 256)

/-- Element-wise exclusive or. -/
def xorBytes (a b : List Nat) : List Nat := List.zipWith (· ^^^ ·) a b

/-! AES-256. -/

/-- Times x in the field of AES. -/
def gfTwice (a : Nat) : Nat := if a < 128 then 2 * a else (2 * a) ^^^ 0x11B

/-- Product in the field of AES, over the bits of the second factor that the first number counts. -/
def gfMul : Nat → Nat → Nat → Nat
  | 0, _, _ => 0
  | n + 1, a, b => (if b % 2 = 1 then a else 0) ^^^ gfMul n (gfTwice a) (b / 2)

/-- The inverse in the field, 0 for 0: the 254th power. -/
def gfInv (x : Nat) : Nat :=
  ((List.range 7).foldl (fun (p : Nat × Nat) _ => let q := gfMul 8 p.1 p.1; (q, gfMul 8 p.2 q)) (x, 1)).2

/-- A byte rotated left. -/
def rotByte (x n : Nat) : Nat := (x * 2 ^ n + x / 2 ^ (8 - n)) % 256

/-- The S-box. -/
def aesSub (x : Nat) : Nat :=
  let b := gfInv x
  b ^^^ rotByte b 1 ^^^ rotByte b 2 ^^^ rotByte b 3 ^^^ rotByte b 4 ^^^ 0x63

/-- The key schedule of AES-256: 60 words of four bytes, the newest first. -/
def aesWords (key : List Nat) : List (List Nat) :=
  let w0 := ((List.range 8).map (fun i => (key.drop (4 * i)).take 4)).reverse
  (List.range 52).foldl (fun ws j =>
    let i := j + 8
    let t := ws.headD []
    let t :=
      if i % 8 = 0 then xorBytes ((t.drop 1 ++ t.take 1).map aesSub) [2 ^ (i / 8 - 1), 0, 0, 0]
      else if i % 8 = 4 then t.map aesSub else t
    xorBytes (ws.getD 7 []) t :: ws) w0

/-- The fifteen round keys. -/
def aesKeys (key : List Nat) : List (List Nat) :=
  let ws := (aesWords key).reverse
  (List.range 15).map (fun r => ((ws.drop (4 * r)).take 4).flatten)

/-- The rows of a block shifted. -/
def aesShift (b : List Nat) : List Nat := (List.range 16).map (fun i => b.getD (i % 4 + 4 * ((i / 4 + i % 4) % 4)) 0)

/-- The columns of a block mixed. -/
def aesMix (b : List Nat) : List Nat :=
  (List.range 16).map (fun i =>
    let at' := fun r => b.getD (i / 4 * 4 + (i + r) % 4) 0
    gfTwice (at' 0) ^^^ (gfTwice (at' 1) ^^^ at' 1) ^^^ at' 2 ^^^ at' 3)

/-- AES-256 of one block under the round keys of a key. -/
def aesBlock (keys : List (List Nat)) (block : List Nat) : List Nat :=
  let b := (List.range 13).foldl (fun b r => xorBytes (aesMix (aesShift (b.map aesSub))) (keys.getD (r + 1) []))
    (xorBytes block (keys.headD []))
  xorBytes (aesShift (b.map aesSub)) (keys.getD 14 [])

/-! GMAC. -/

/-- Product of GHASH: bits of `x` from the most significant, `n` of them. -/
def ghMul : Nat → Nat → Nat → Nat
  | 0, _, _ => 0
  | n + 1, x, v => (if x / 2 ^ n % 2 = 1 then v else 0) ^^^ ghMul n x (if v % 2 = 1 then (v / 2) ^^^ (0xE1 * 2 ^ 120) else v / 2)

/-- GHASH of blocks of sixteen bytes. -/
def ghash (h : Nat) (blocks : List Nat) : Nat := blocks.foldl (fun y x => ghMul 128 (y ^^^ x) h) 0

/-- Bytes cut into blocks of sixteen, the last filled with zeros. -/
def blocks16 (bs : List Nat) : List Nat :=
  (List.range ((bs.length + 15) / 16)).map (fun i =>
    let b := (bs.drop (16 * i)).take 16
    beNat (b ++ List.replicate (16 - b.length) 0))

/-- GMAC of bytes under a key and a nonce of 128 bits: 128 bits. -/
def gmac (key : List Nat) (nonce : Nat) (data : List Nat) : Nat :=
  let ks := aesKeys key
  let h := beNat (aesBlock ks (List.replicate 16 0))
  let j0 := ghash h [nonce, 128]
  ghash h (blocks16 data ++ [8 * data.length * 2 ^ 64]) ^^^ beNat (aesBlock ks (beBytes 16 j0))

/-! SHA-384. -/

/-- The largest number whose `k`-th power is at most `x`, among numbers of `n` bits. -/
def rootBits (k x : Nat) : Nat → Nat → Nat
  | 0, r => r
  | n + 1, r => rootBits k x n (if (r + 2 ^ n) ^ k ≤ x then r + 2 ^ n else r)

/-- The first primes, by trial division. -/
def firstPrimes (n : Nat) : List Nat :=
  (List.range 512).foldl (fun ps x => if 2 ≤ x ∧ ps.length < n ∧ ps.all (fun p => x % p != 0) then ps ++ [x] else ps) []

/-- Round constants: the first 64 bits of the fractional parts of the cube roots of the first 80 primes. -/
def shaK : List Nat := (firstPrimes 80).map (fun p => rootBits 3 (p * 2 ^ 192) 68 0 % 2 ^ 64)

/-- The first hash value of SHA-384: as above, of the square roots of the ninth to the sixteenth prime. -/
def shaInit : List Nat := ((firstPrimes 16).drop 8).map (fun p => rootBits 2 (p * 2 ^ 128) 68 0 % 2 ^ 64)

/-- A 64-bit word rotated right. -/
def ror64 (x n : Nat) : Nat := x / 2 ^ n + x % 2 ^ n * 2 ^ (64 - n)

/-- The message schedule of one block of sixteen words: 80 words, the newest first. -/
def shaSchedule (m : List Nat) : List Nat :=
  (List.range 64).foldl (fun w _ =>
    let a := w.getD 14 0
    let b := w.getD 1 0
    let s0 := ror64 a 1 ^^^ ror64 a 8 ^^^ a / 2 ^ 7
    let s1 := ror64 b 19 ^^^ ror64 b 61 ^^^ b / 2 ^ 6
    (s1 + w.getD 6 0 + s0 + w.getD 15 0) % 2 ^ 64 :: w) m.reverse

/-- One round on the eight working words. -/
def shaRound (v : List Nat) (kw : Nat) : List Nat :=
  let g := fun i => v.getD i 0
  let e := g 4
  let a := g 0
  let t1 := g 7 + (ror64 e 14 ^^^ ror64 e 18 ^^^ ror64 e 41) + ((e &&& g 5) ^^^ ((2 ^ 64 - 1 - e) &&& g 6)) + kw
  let t2 := (ror64 a 28 ^^^ ror64 a 34 ^^^ ror64 a 39) + ((a &&& g 1) ^^^ (a &&& g 2) ^^^ (g 1 &&& g 2))
  [(t1 + t2) % 2 ^ 64, a, g 1, g 2, (g 3 + t1) % 2 ^ 64, e, g 5, g 6]

/-- SHA-384 of bytes: 384 bits. -/
def sha384 (bs : List Nat) : Nat :=
  let n := bs.length
  let pad := bs ++ 0x80 :: List.replicate ((239 - n % 128) % 128) 0 ++ beBytes 16 (8 * n)
  let h := (List.range (pad.length / 128)).foldl (fun h i =>
    let blk := (pad.drop (128 * i)).take 128
    let m := (List.range 16).map (fun j => beNat ((blk.drop (8 * j)).take 8))
    let v := (List.zipWith (· + ·) shaK (shaSchedule m).reverse).foldl shaRound h
    List.zipWith (fun x y => (x + y) % 2 ^ 64) h v) shaInit
  (h.take 6).foldl (fun n w => n * 2 ^ 64 + w) 0

/-! ECDSA on P-384. -/

/-- The prime, the order, the coefficient b and the base point of P-384. -/
def p384p : Nat := 2 ^ 384 - 2 ^ 128 - 2 ^ 96 + 2 ^ 32 - 1
def p384n : Nat := 0xFFFFFFFFFFFFFFFFFFFFFFFFFFFFFFFFFFFFFFFFFFFFFFFFC7634D81F4372DDF581A0DB248B0A77AECEC196ACCC52973
def p384b : Nat := 0xB3312FA7E23EE7E4988E056BE3F82D19181D9C6EFE8141120314088F5013875AC656398D8A2ED19D2A85C8EDD3EC2AEF
def p384g : Nat × Nat :=
  (0xAA87CA22BE8B05378EB1C71EF320AD746E1D3B628BA79B9859F741E082542A385502F25DBF55296C3A545E3872760AB7,
   0x3617DE4A96262C6F5D9E98BF9292DC29F8F41DBD289A147CE9DA3113B5F0B8C00A60B1CE1D7E819D7A431D7C90EA0E5F)

/-- Power modulo `m`, over `n` bits of the exponent. -/
def powMod (m : Nat) : Nat → Nat → Nat → Nat
  | 0, _, _ => 1 % m
  | n + 1, b, e => (if e % 2 = 1 then b else 1) * powMod m n (b * b % m) (e / 2) % m

/-- The inverse modulo a prime of 384 bits. -/
def invMod (m x : Nat) : Nat := powMod m 384 (x % m) (m - 2)

/-- Sum of two points of the curve; `none` is the point at infinity. -/
def ecAdd : Option (Nat × Nat) → Option (Nat × Nat) → Option (Nat × Nat)
  | none, q => q
  | p, none => p
  | some (x1, y1), some (x2, y2) =>
    if x1 = x2 ∧ (y1 + y2) % p384p = 0 then none
    else
      let l :=
        if x1 = x2 then (3 * x1 * x1 + p384p - 3) * invMod p384p (2 * y1) % p384p
        else (y2 + p384p - y1) * invMod p384p (x2 + p384p - x1) % p384p
      let x := (l * l + 2 * p384p - x1 - x2) % p384p
      some (x, (l * (x1 + p384p - x) + p384p - y1) % p384p)

/-- Multiple of a point, over `n` bits of the factor. -/
def ecMul : Nat → Nat → Option (Nat × Nat) → Option (Nat × Nat)
  | 0, _, _ => none
  | n + 1, k, q => ecAdd (if k % 2 = 1 then q else none) (ecMul n (k / 2) (ecAdd q q))

/-- The point lies on the curve. -/
def ecOn (q : Nat × Nat) : Bool :=
  decide (q.1 < p384p) && decide (q.2 < p384p) && (q.2 * q.2 + 3 * q.1) % p384p == (q.1 * q.1 * q.1 + p384b) % p384p

/-- ECDSA verification of a digest's signature (r, s) under a public key. -/
def ecdsaOk (q : Nat × Nat) (z r s : Nat) : Bool :=
  decide (0 < r) && decide (r < p384n) && decide (0 < s) && decide (s < p384n) && ecOn q &&
    (let w := invMod p384n s
     match ecAdd (ecMul 384 (z * w % p384n) (some p384g)) (ecMul 384 (r * w % p384n) (some q)) with
     | none => false
     | some x => x.1 % p384n == r)

end Sys2Proof.Machine
end

