-- ==== Sys2Proof/Machine/Mem.lean ====
section
/-! DEFINITION. Memory bytes in their canonical form, the physical map (04_memory R92), and what a pump
keeps of each line: stored bytes and compression tag, ciphertext, counters, MACs (R100 to R109). -/

namespace Sys2Proof.Machine

open Sys2Proof

/-- What an unlisted byte reads as (assumption log, row 4). -/
def memDefault : Byte := 0

/-- The byte at a physical address. -/
def memByte : Mem → Nat → Byte
  | [], _ => memDefault
  | (k, v) :: t, a => if k = a then v else if a < k then memDefault else memByte t a

/-- Removes the byte at an address. -/
def memErase : Mem → Nat → Mem
  | [], _ => []
  | (k, v) :: t, a => if k = a then t else if a < k then (k, v) :: t else (k, v) :: memErase t a

/-- Lists a byte at an address, in address order. -/
def memInsert : Mem → Nat → Byte → Mem
  | [], a, b => [(a, b)]
  | (k, v) :: t, a, b =>
    if k = a then (a, b) :: t else if a < k then (a, b) :: (k, v) :: t else (k, v) :: memInsert t a b

/-- Writes one byte; a byte equal to what an unlisted address reads as is not listed. -/
def memPut (m : Mem) (a : Nat) (b : Byte) : Mem :=
  if b = memDefault then memErase m a else memInsert m a b

/-- Every listed address is above a bound, addresses rise strictly, no listed byte is the default. -/
def memWfFrom : Option Nat → Mem → Bool
  | _, [] => true
  | lo, (k, v) :: t => (match lo with | none => true | some l => decide (l < k)) && v != memDefault && memWfFrom (some k) t

/-- The canonical form of memory. -/
def Memory.wf (m : Mem) : Bool := memWfFrom none m

/-- Bytes from an address upward. -/
def memBytes (m : Mem) (a : Nat) : Nat → List Byte
  | 0 => []
  | n + 1 => memByte m a :: memBytes m (a + 1) n

/-- Writes bytes from an address upward. -/
def memWrite (m : Mem) (a : Nat) : List Byte → Mem
  | [] => m
  | b :: bs => memWrite (memPut m a b) (a + 1) bs

/-- Little-endian value of bytes (R4). -/
def leNat : List Byte → Nat
  | [] => 0
  | b :: bs => b.toNat + 256 * leNat bs

/-- Little-endian bytes of a value (R4). -/
def leBytes (x : Nat) : Nat → List Byte
  | 0 => []
  | n + 1 => BitVec.ofNat 8 (x % 256) :: leBytes (x / 256) n

/-- The value of `n` bytes at an address. -/
def memNat (m : Mem) (a n : Nat) : Nat := leNat (memBytes m a n)

/-- A 64-bit word of memory. -/
def memW64 (m : Mem) (a : Nat) : W64 := BitVec.ofNat 64 (memNat m a 8)

/-- What a physical address decodes to (R92): a well byte, a cistern byte of a core and row, management
space, a hole, host memory, or memory of another package. -/
inductive Place where
  | well (die off : Nat)
  | cistern (core row : Nat)
  | mgmt
  | hole
  | host
  | far (pkg : Nat)
  deriving DecidableEq, Repr

/-- The part of R92 below the package field. -/
def placeIn (pa : Nat) : Place :=
  let die := pa / 2 ^ 39 % 8
  let off := pa % 2 ^ 39
  if off < 0x0C00000000 then .well die off
  else if off < 0x4000000000 then .hole
  else if off < 0x4004000000 then .cistern (die * 64 + (off - 0x4000000000) / 0x100000) ((off - 0x4000000000) % 0x100000 / 128)
  else if off < 0x6000000000 then .hole
  else .mgmt

/-- The physical map (R92) as package `id` sees it. -/
def placeOf (id pa : Nat) : Place :=
  let pkg := pa / 2 ^ 42
  if pkg ≥ 1024 then .hole
  else if pkg ≥ 1020 then .host
  else if pkg ≥ 576 then .hole
  else if pkg = id then placeIn pa
  else
    match placeIn pa with
    | .well .. | .cistern .. => .far pkg
    | p => p

/-- The four host windows name one host address space (R281). -/
def hostPa (pa : Nat) : Nat := if 1020 ≤ pa / 2 ^ 42 ∧ pa / 2 ^ 42 < 1024 then 1020 * 2 ^ 42 + pa % 2 ^ 42 else pa

/-- Physical address of byte `b` of row `row` of a core on package `id` (R92, R93). -/
def rowAddr (id core row b : Nat) : Nat :=
  id * 2 ^ 42 + core / 64 * 2 ^ 39 + 0x4000000000 + core % 64 * 0x100000 + row * 128 + b

/-- Cores that a partition's placement map names (R178). -/
def placedCores (s : State) (w1 : W64) : List Nat :=
  (List.range 512).filter (fun c => (memByte s.mem (fld w1 51 6 * 64 + c / 64 * 8 + c % 64 / 8)).getLsbD (c % 8))

/-- The pump that owns a well line (R98), as `die * 16 + pump`. -/
def pumpOf (pa : Nat) : Nat :=
  (pa / 2 ^ 39 % 8) * 16 + ((pa / 2 ^ 7 % 16) ^^^ (pa / 2 ^ 11 % 16))

/-- The home of an address (R98). -/
def homeOf (id pa : Nat) : Home :=
  match placeOf id pa with
  | .cistern c _ => .bank c
  | .far p => .remote p
  | .host => .host
  | _ => .pump (pumpOf pa)

/-- The package to which a request for a home travels over a link: another one, or the bridge for the host (R98, R281). -/
def destOf (s : State) (h : Home) : Option Nat :=
  match h with
  | .remote p => some p
  | .host => if s.pkg.bridge then none else some s.pkg.bridgeId
  | _ => none

/-- Links of this package that carry traffic (R276), ascending. -/
def usableLinks (s : State) : List Nat :=
  (List.range 24).filter (fun l => (getLink s l).state == .active || (getLink s l).state == .degraded)

/-- U, the links usable to a package (R277). -/
def usableTo (s : State) (p : Nat) : List Nat :=
  match tabGet s.peers p with
  | some x => (usableLinks s).filter x.up.contains
  | none => usableLinks s

/-- GTS since which U to a package has been empty (R280). -/
def emptySince (s : State) (p : Nat) : Nat := (tabGet s.peers p).elim s.pkg.linkless (·.since)

/-- The key a slot or VF holds (R103); an empty slot counts as the zero key. An access that was translated while its slot was
ACTIVE and is performed after a CLEAR is not checked again: the spec gives no moment of its own for it, and the pump uses the
zero key (DESIGN CHOICE, assumption log, row 78). -/
def keyVal (s : State) : KeyId → BitVec 256
  | .vf v => ((tabGet s.vfs v).bind (·.key)).getD 0
  | .win w => ((tabGet s.wins w).bind (·.key)).getD 0

/-- A line's metadata. -/
def lineOf (s : State) (line : Nat) : Line := tabGetD s.lines.lines line Line.reset

/-- The line's 128 bytes as one value, byte 0 lowest. -/
def lineData (s : State) (line : Nat) : BitVec 1024 := BitVec.ofNat 1024 (memNat s.mem (128 * line) 128)

/-- Elements of `w` bytes of a line's bytes. -/
def lineElems (d : BitVec 1024) (w : Nat) : List Nat :=
  (List.range (128 / w)).map (fun i => d.toNat / 2 ^ (8 * w * i) % 2 ^ (8 * w))

/-- Every element is the first plus a sign-extended delta of `k` bytes (R100). -/
def fitsDelta (d : BitVec 1024) (w k : Nat) : Bool :=
  let es := lineElems d w
  let b := es.headD 0
  es.all (fun e =>
    let x := (e + 2 ^ (8 * w) - b) % 2 ^ (8 * w)
    x < 2 ^ (8 * k - 1) || 2 ^ (8 * w) - 2 ^ (8 * k - 1) ≤ x)

/-- The compression code of a line (R100, R101): fewest sectors, then the lowest code. -/
def compCode (d : BitVec 1024) : Nat :=
  if d = 0 then 0
  else if (lineElems d 8).all (· == (lineElems d 8).headD 0) then 1
  else if fitsDelta d 8 1 then 2
  else if fitsDelta d 8 2 then 3
  else if fitsDelta d 4 1 then 4
  else if fitsDelta d 4 2 then 5
  else if fitsDelta d 8 4 then 6
  else 7

/-- Sectors a code stores (R100). -/
def compSectors : Nat → Nat
  | 0 => 0 | 1 => 1 | 2 => 1 | 3 => 2 | 4 => 2 | 5 => 3 | 6 => 3 | _ => 4

/-- The delta of an element to the base, as `k` bytes (R100). -/
def deltaOf (w k b e : Nat) : Nat := (e + 2 ^ (8 * w) - b) % 2 ^ (8 * w) % 2 ^ (8 * k)

/-- A base of `w` bytes and a delta of `k` bytes for every element, as a little-endian value (R100). -/
def deltaLayout (d : BitVec 1024) (w k : Nat) : Nat :=
  let es := lineElems d w
  let b := es.headD 0
  b + 2 ^ (8 * w) * (es.zipIdx.foldl (fun n e => n + deltaOf w k b e.1 * 2 ^ (8 * k * e.2)) 0)

/-- Element and delta widths of a code of deltas (R100). -/
def codeWidths : Nat → Nat × Nat
  | 2 => (8, 1) | 3 => (8, 2) | 4 => (4, 1) | 5 => (4, 2) | _ => (8, 4)

/-- The stored bytes of a line under a code, as a little-endian value; bytes not listed are zero (R100). -/
def storedOf (code : Nat) (d : BitVec 1024) : Nat :=
  match code with
  | 0 => 0
  | 1 => d.toNat % 2 ^ 64
  | 7 => d.toNat
  | c => deltaLayout d (codeWidths c).1 (codeWidths c).2

/-- The line that stored bytes stand for (R100). -/
def lineOfStored (code x : Nat) : BitVec 1024 :=
  match code with
  | 0 => 0
  | 1 => BitVec.ofNat 1024 ((List.range 16).foldl (fun n i => n + x % 2 ^ 64 * 2 ^ (64 * i)) 0)
  | 7 => BitVec.ofNat 1024 x
  | c =>
    let (w, k) := codeWidths c
    let b := x % 2 ^ (8 * w)
    BitVec.ofNat 1024 ((List.range (128 / w)).foldl (fun n i =>
      let dl := x / 2 ^ (8 * w + 8 * k * i) % 2 ^ (8 * k)
      n + (b + sext (8 * k) (8 * w) dl) % 2 ^ (8 * w) * 2 ^ (8 * w * i)) 0)

/-- The code that a tag reads as: RAW where V = 0 (R101). -/
def tagCode (tag : BitVec 4) : Nat := if 8 ≤ tag.toNat then tag.toNat % 8 else 7

/-- The 8 KiB counter group of a line (R105). -/
def groupOf (line : Nat) : Nat := line / 64

/-- The block X of R104 for a line's sector `j` and half `h`. -/
def ctrBlock (line major minor j h : Nat) : Nat :=
  line % 2 ^ 45 * 2 ^ 82 + major % 2 ^ 64 * 2 ^ 18 + minor % 2 ^ 7 * 2 ^ 11 + j * 2 ^ 9 + h * 2 ^ 8

/-- The bytes of a key, byte 0 lowest (R111). -/
def keyBytes (k : BitVec 256) : List Nat := (List.range 32).map (fun i => k.toNat / 256 ^ i % 256)

/-- The keystream of a line's stored sectors (R104), two blocks a sector. -/
def keyStream (k : BitVec 256) (line major minor sectors : Nat) : List Nat :=
  let ks := aesKeys (keyBytes k)
  ((List.range (2 * sectors)).map (fun i => aesBlock ks (beBytes 16 (ctrBlock line major minor (i / 2) (i % 2))))).flatten

/-- Stored sectors under the keystream: ciphertext of plain bytes, and plain bytes of ciphertext (R104). -/
def cryptSectors (e : Seal) (line : Nat) (bs : List Nat) : List Nat :=
  xorBytes (keyStream e.key line e.major e.minor (compSectors (tagCode e.tag))) bs

/-- The ciphertext of a line's stored sectors as its seal left it (R104). -/
def cipherBytes (line : Nat) (e : Seal) (d : BitVec 1024) : List Nat :=
  let n := 32 * compSectors (tagCode e.tag)
  cryptSectors e line ((List.range n).map (fun i => storedOf (tagCode e.tag) d / 256 ^ i % 256))

/-- A line's MAC (R106): GMAC over A[51:7], tag, counters and ciphertext, its leftmost 56 bits. -/
def lineMac (line : Nat) (e : Seal) (cipher : List Nat) : Nat :=
  let head := ((line % 2 ^ 45 * 2 ^ 4 + e.tag.toNat) * 2 ^ 64 + e.major % 2 ^ 64) * 2 ^ 7 + e.minor % 2 ^ 7
  gmac (keyBytes e.key) (2 ^ 127 + ctrBlock line e.major e.minor 0 0) (beBytes 15 head ++ cipher) / 2 ^ 72

/-- What a line would be sealed under now: the key that reads it, the counters and the tag that the well holds. -/
def sealNow (s : State) (line : Nat) (k : KeyId) : Seal :=
  ⟨k, keyVal s k, tabGetD s.lines.majors (groupOf line) 0, (lineOf s line).minor, (lineOf s line).tag⟩

/-- Bytes sealed under `e` pass the MAC check of a reader that computes it under `n` (R108). -/
def macOk (line : Nat) (e n : Seal) (d : BitVec 1024) : Bool :=
  e == n || (let c := cipherBytes line e d; lineMac line n c == lineMac line e c)

/-- Number of a root counter on a die: VFs first, then window slots (R105). -/
def rootOf : KeyId → Nat
  | .vf v => v
  | .win w => 1024 + w
def rootAt (k : KeyId) (line : Nat) : Nat := line / 2 ^ 32 % 8 * 2048 + rootOf k

/-- Number of a counter above a counter block, in the tree of a key on the line's die (R105): eight counters a node, and the
eighth level of nodes above the counter blocks is the top, whose parent is the root counter. Each key's lines have a tree of
their own, since each key has a root counter of its own (DEDUCED, assumption log, row 94). -/
def nodeNum (k : KeyId) (line lv : Nat) : Nat := (rootAt k line * 16 + lv) * 2 ^ 28 + line % 2 ^ 32 / 64 / 8 ^ lv

/-- What the MAC of the node at a level above a line is computed over now (R106). -/
def nodeNow (s : State) (k : KeyId) (line lv : Nat) : NodeSeal :=
  ⟨keyVal s k, (List.range 8).map (fun i => tabGetD s.lines.nodes (nodeNum k line lv / 8 * 8 + i) 0),
    if lv = 7 then tabGetD s.lines.roots (rootAt k line) 0 else tabGetD s.lines.nodes (nodeNum k line (lv + 1)) 0⟩

/-- The MAC of a tree node (R106): GMAC over its eight counters, with its address and its parent counter as the nonce, the
leftmost 64 bits. -/
def nodeMac (node : Nat) (n : NodeSeal) : Nat :=
  let cs := (n.ctrs.zipIdx).foldl (fun x c => x + c.1 * 2 ^ (56 * c.2)) 0
  gmac (keyBytes n.key) (Config.nodeNonce node n.parent).toNat ((List.range 56).map (fun i => cs / 256 ^ i % 256)) / 2 ^ 64

/-- The nodes on the path from a line to the root of a key pass their MAC checks (R108). Which nodes a pump holds verified
the spec does not say: none (DESIGN CHOICE, assumption log, row 95). -/
def treeOk (s : State) (line : Nat) (k : KeyId) : Bool :=
  (List.range 8).all (fun lv =>
    let node := nodeNum k line lv / 8
    match tabGet s.lines.macs node with
    | none => true
    | some e => e == nodeNow s k line lv || nodeMac node e == nodeMac node (nodeNow s k line lv))

/-- The line's MAC matches the key and counters it is read under, and so do the nodes above it (R108); a line nothing sealed
passes. -/
def sealOk (s : State) (line : Nat) (k : KeyId) : Bool :=
  match (lineOf s line).sealed with
  | none => true
  | some e => !(lineOf s line).bad && macOk line e (sealNow s line k) (lineData s line) && treeOk s line k

/-- The line is sealed under exactly what the reader computes, or not at all: the plain bytes are what it reads. -/
def lineClear (s : State) (line : Nat) (k : KeyId) : Bool :=
  match (lineOf s line).sealed with
  | none => true
  | some e => e == sealNow s line k

/-- The line as a reader decrypts and decompresses it (R104, R108). -/
def lineView (s : State) (line : Nat) (k : KeyId) : BitVec 1024 :=
  match (lineOf s line).sealed with
  | none => lineData s line
  | some e =>
    let n := sealNow s line k
    if e == n then lineData s line
    else
      let bs := cryptSectors n line (cipherBytes line e (lineData s line))
      lineOfStored (tagCode n.tag) (bs.zipIdx.foldl (fun x b => x + b.1 * 256 ^ b.2) 0)

/-- The value of `n` bytes within a line as a reader gets them. -/
def viewNat (s : State) (k : KeyId) (pa n : Nat) : Nat :=
  if lineClear s (pa / 128) k then memNat s.mem pa n
  else (lineView s (pa / 128) k).toNat / 2 ^ (8 * (pa % 128)) % 2 ^ (8 * n)

/-- The counters from a line's block to the root of a key go up by one, and every node on the path gets its MAC anew
(R105). -/
def bumpTree (s : State) (line : Nat) (k : KeyId) : State :=
  let up := fun (t : Tab Nat) lv => tabPut t (nodeNum k line lv) ((tabGetD t (nodeNum k line lv) 0 + 1) % 2 ^ 56)
  let s1 := { s with lines := { s.lines with
    nodes := (List.range 8).foldl up s.lines.nodes,
    roots := tabPut s.lines.roots (rootAt k line) (tabGetD s.lines.roots (rootAt k line) 0 + 1) } }
  { s1 with lines := { s1.lines with
    macs := (List.range 8).foldl (fun t lv => tabPut t (nodeNum k line lv / 8) (nodeNow s1 k line lv)) s1.lines.macs } }

/-- The pump's line work at a write that is not stalled (R107 steps 4 to 9): tag, counters, seal. `bad`: the line did not match
before, and the write ends no fault (R108). -/
def sealLine (s : State) (line : Nat) (k : KeyId) (cmp bad : Bool) : State :=
  let l := lineOf s line
  let tag : BitVec 4 := if cmp then BitVec.ofNat 4 (8 + compCode (lineData s line)) else l.tag
  let l := { l with tag := tag, minor := l.minor + 1, bad := bad }
  let l := { l with sealed := some ⟨k, keyVal s k, tabGetD s.lines.majors (groupOf line) 0, l.minor, tag⟩ }
  let s1 := bumpTree s line k
  { s1 with lines := { s1.lines with lines := tabPut s1.lines.lines line l } }

/-- A write of the whole line clears its poison (R30). -/
def clearPoison (s : State) (pa n : Nat) : State :=
  { s with lines := { s.lines with poison := s.lines.poison.filter (fun w => !(pa ≤ 128 * (w / 32) && 128 * (w / 32) + 128 ≤ pa + n)) } }

/-- A read of these bytes consumes poison (R30). -/
def poisoned (s : State) (pa n : Nat) : Bool :=
  s.lines.poison.any (fun w => 4 * w < pa + n && pa < 4 * w + 4)

/-- Plain writing of bytes at a physical address of this package, without the pump's line work. -/
def putBytes (s : State) (pa : Nat) (bs : List Byte) : State := { s with mem := memWrite s.mem pa bs }

/-- 64-bit words as little-endian bytes. -/
def wordsBytes (ws : List W64) : List Byte := (ws.map (fun w => leBytes w.toNat 8)).flatten

end Sys2Proof.Machine
end

