-- ==== Sys2Proof/Machine/Home.lean ====
section
/-! DEFINITION. What a home does with a piece of an access: line reads with their checks (04_memory R108),
writes in the order of R107 with re-encryption (R109), versions and snapshots (06_versions R139 to R143, R157), the wait
tables a write is tested against (12_barrier R272), and the writes of the device itself and of the host. -/

namespace Sys2Proof.Machine

open Sys2Proof

/-- Status of a WAITA part (R272, R372). -/
abbrev waWoken : Nat := 0
abbrev waTimeout : Nat := 1
abbrev waFull : Nat := 2

/-- The comparison of a wait entry (R271): EQ, NE, LTU, GEU, LTS, GES. -/
def waitCmp (cmp size : Nat) (v e : Nat) : Bool :=
  match cmp with
  | 0 => v == e
  | 1 => v != e
  | 2 => v < e
  | 3 => e ≤ v
  | 4 => toInt (8 * size) v < toInt (8 * size) e
  | _ => toInt (8 * size) e ≤ toInt (8 * size) v

/-- The bytes that a commit past its commit point has yet to write to a line (R136, R154). -/
def commitLine (s : State) (line : Nat) : Option TxLine :=
  match (lineOf s line).lock with
  | some (k, _) =>
    match tabGet s.groups k with
    | some g => if g.tx.stamp.isSome && g.tx.towrite.contains line then g.tx.lines.find? (fun l => l.line == line) else none
    | none => none
  | none => none

/-- A value of bytes with the masked bytes of another in their places: byte `i` of the mask's bit `i`. -/
def overlayBytes (size m d v : Nat) : Nat :=
  (List.range size).foldl (fun n i => n + (if m / 2 ^ i % 2 = 1 then d / 2 ^ (8 * i) % 256 else v / 2 ^ (8 * i) % 256) * 2 ^ (8 * i)) 0

/-- What a .cur read sees of bytes within a line: a commit past its commit point is one write event, visible in all of
its lines at once (R136). -/
def curNat (s : State) (k : KeyId) (pa n : Nat) : Nat :=
  let v := viewNat s k pa n
  match commitLine s (pa / 128) with
  | some l => overlayBytes n (l.mask.toNat / 2 ^ (pa % 128) % 2 ^ n) (l.data.toNat / 2 ^ (8 * (pa % 128)) % 2 ^ (8 * n)) v
  | none => v

/-- The word of a wait entry, its newest version (R372). -/
def waitVal (s : State) (w : WaitEnt) : Nat :=
  curNat s (((tabGet s.accs w.acc).bind (fun a => tabGet a.parts w.part)).elim (.vf 0) (·.key)) w.pa w.size

/-- The comparison of an entry on its word (R271). -/
def waitHolds (s : State) (w : WaitEnt) : Bool :=
  let v := waitVal s w
  waitCmp w.cmp w.size (v &&& w.mask.toNat % 2 ^ (8 * w.size)) (w.exp.toNat &&& w.mask.toNat % 2 ^ (8 * w.size))

/-- Gives the parts of a WAITA that name a word their result (R372). -/
def partDone (s : State) (acc pa : Nat) (res : W128) (code : Nat) : State :=
  { s with accs := tabUpd s.accs acc (fun a =>
      { a with parts := tabMap a.parts (fun _ p =>
          if p.pa == pa && !p.done && p.hold == .no then { p with res := res, data2 := BitVec.ofNat 128 code, done := true } else p) }) }

/-- Entries whose word a write touched and whose comparison now holds end with WOKEN (R272). -/
def wakeWaits (s : State) (pa n : Nat) : State :=
  let hit := fun (w : WaitEnt) => decide (w.pa < pa + n) && decide (pa < w.pa + w.size) && waitHolds s w
  let s1 := (s.waits.filter hit).foldl
    (fun t w => partDone t w.acc w.pa (BitVec.ofNat 128 (waitVal s w)) waWoken) s
  { s1 with waits := s1.waits.filter (fun w => !hit w) }

/-- Version records of a die's pool (R157). -/
def poolRecords (s : State) : Nat := s.pkg.pool * 6710886

/-- What a home answers to a write or a read. -/
inductive PumpRes where
  | done (s : State) (data : Nat)
  | stall (s : State) (h : Hold)
  | fault (cause : Nat)

/-- A window slot is being re-keyed (R112). -/
def rekeying (s : State) (k : KeyId) : Bool :=
  match k with
  | .win w => (tabGet s.wins w).any (fun x => x.state == .rekeying)
  | .vf _ => false

/-- What a new version record of a die is sealed under (R141): compressed by R101, with the record's own counter: the spec does
not say how that is formed, and the model counts the records of the die, 128 minors to a major, with no tree above
(DESIGN CHOICE, assumption log, row 75). -/
def recordSeal (s : State) (die : Nat) (k : KeyId) (d : BitVec 1024) : Seal :=
  let n := (getDie s die).records
  ⟨k, keyVal s k, n / 128, n % 128, BitVec.ofNat 4 (8 + compCode d)⟩

/-- The previous newest version becomes a version record, and the line takes a stamp (R140, R141); `none`
when no record can be had (R157). -/
def newVersion (s : State) (k : KeyId) (line stamp : Nat) : Option State :=
  let l := lineOf s line
  let die := line / 2 ^ 32 % 8
  if l.older.length ≥ 14 || (getDie s die).poolUsed ≥ poolRecords s then none
  else
    let d := lineView s line k
    let bad := BitVec.ofNat 32 ((List.range 32).foldl (fun n i => if s.lines.poison.contains (32 * line + i) then n + 2 ^ i else n) 0)
    let l' := { l with older := l.older ++ [⟨l.stamp, d, recordSeal s die k d, bad⟩], stamp := stamp }
    some (updDie { s with lines := { s.lines with lines := tabPut s.lines.lines line l' } } die
      (fun d => { d with poolUsed := d.poolUsed + 1, records := d.records + 1 }))

/-- Bytes of a write within one line, each piece at its address. -/
abbrev Pieces := List (Nat × List Byte)

/-- Writes the pieces plainly. -/
def putPieces (s : State) (ps : Pieces) : State := ps.foldl (fun t p => putBytes t p.1 p.2) s

/-- The bytes of the line at an address that the pieces name. -/
def piecesMask (line : Nat) (ps : Pieces) : BitVec 128 :=
  ps.foldl (fun m p => m ||| BitVec.ofNat 128 ((2 ^ p.2.length - 1) * 2 ^ (p.1 - 128 * line))) 0

/-- Tests the wait tables on every piece (R272). -/
def wakePieces (s : State) (ps : Pieces) : State := ps.foldl (fun t p => wakeWaits t p.1 p.2.length) s

/-- Changes the line metadata of an 8 KiB group, lines ascending. -/
def mapGroup (s : State) (grp : Nat) (f : Nat → Line → Line) : State :=
  { s with lines := { s.lines with lines := tabMap s.lines.lines (fun n l => if groupOf n = grp then f n l else l) } }

/-- A line re-sealed under its group's next major counter; a line that did not match its seal still does not. -/
def reseal (major : Nat) (l : Line) : Line :=
  { l with
    minor := 0,
    sealed := l.sealed.map (fun e =>
      if e.major == major && e.minor == l.minor && e.tag == l.tag then { e with major := major + 1, minor := 0 } else e) }

/-- The major counter goes up and every line of the group is rewritten (R109); the counters above the group's block go
up with it (R105). -/
def nextMajor (s : State) (grp : Nat) (k : KeyId) : State :=
  let m := tabGetD s.lines.majors grp 0
  let s1 := bumpTree (mapGroup s grp (fun _ l => reseal m l)) (64 * grp) k
  { s1 with lines := { s1.lines with majors := tabPut s1.lines.majors grp (m + 1) } }

/-- The re-encryption of a group ends (R109). -/
def endReenc (s : State) (grp : Nat) : State :=
  match tabGet s.lines.reenc grp with
  | some k =>
    let s1 := nextMajor s grp k
    { s1 with lines := { s1.lines with reenc := tabDel s1.lines.reenc grp } }
  | none => s

/-- A write within one line, performed at its home (R98, R102, R107). `own` is the group whose lock does not
hold the write back; `stampAt` is the stamp of a commit. -/
def pumpWrites (s : State) (key : KeyId) (ver cmp : Bool) (pa : Nat) (ps : Pieces) (own stampAt : Option Nat) : PumpRes :=
  match placeOf s.pkg.id pa with
  | .cistern .. | .host | .far _ =>
    let s1 := putPieces s ps
    let s2 := if piecesMask (pa / 128) ps = BitVec.allOnes 128 then clearPoison s1 (128 * (pa / 128)) 128 else s1
    .done (wakePieces s2 ps) 0
  | .well die _ =>
    let line := pa / 128
    let l := lineOf s line
    let partly := piecesMask line ps != BitVec.allOnes 128
    if rekeying s key || (tabGet s.lines.reenc (groupOf line)).isSome then .stall s .rekey
    else if (partly || ver) && !sealOk s line key then .fault fcIntegrity
    else if partly && poisoned s (128 * line) 128 then .fault fcUncorrectable
    else if ver && l.lock.any (fun x => some x.1 != own) then .stall s .lock
    else if tabGetD s.lines.majors (groupOf line) 0 ≥ 2 ^ 64 - 1 && l.minor ≥ 127 then .fault fcIntegrity
    else if l.minor ≥ 127 then .stall { s with lines := { s.lines with reenc := tabPut s.lines.reenc (groupOf line) key } } .rekey
    else
      let s1 := if ver then newVersion s key line (stampAt.getD (max s.gts (l.stamp + 1))) else some s
      match s1 with
      | none => .stall (updDie s die (fun d => { d with poolWaits := sat32 (d.poolWaits + 1) })) (.pool s.cycle)
      | some s2 =>
        let s3 := putPieces (if partly && !lineClear s line key then putBytes s2 (128 * line) (leBytes (lineView s line key).toNat 128) else s2) ps
        let s4 := if partly then s3 else clearPoison s3 (128 * line) 128
        .done (wakePieces (sealLine s4 line key cmp (!partly && !sealOk s line key)) ps) 0
  | _ => .fault fcProtection

/-- A write of one piece. -/
def pumpWrite (s : State) (key : KeyId) (ver cmp : Bool) (pa : Nat) (bs : List Byte) (own stampAt : Option Nat) : PumpRes :=
  pumpWrites s key ver cmp pa [(pa, bs)] own stampAt

/-- Two ranges of bytes overlap. -/
def overlaps (x n y m : Nat) : Bool := decide (x < y + m) && decide (y < x + n)

/-- The version of a line that a snapshot read at `t` returns (R142): the newest with stamp at most `t`; `none` for the home
slot's. Where the sump has reclaimed that version, since no transaction, pin or grid holds `t` any more (a load that a
transaction issued and that is performed after its TXA), the home slot's is read: the spec does not say what such a load
returns (DESIGN CHOICE, assumption log, row 76). -/
def versionAt (s : State) (line t : Nat) : Option Version :=
  let l := lineOf s line
  if l.stamp ≤ t then none else (l.older.filter (fun v => v.stamp ≤ t)).getLast?

/-- A version record passes its MAC check under a key (R141). -/
def versionOk (s : State) (line : Nat) (k : KeyId) (v : Version) : Bool :=
  macOk (Config.recordLine (line / 2 ^ 32 % 8) (v.sealed.major * 128 + v.sealed.minor)) v.sealed { v.sealed with owner := k, key := keyVal s k } v.data

/-- A read of bytes within one line, performed at its home (R98, R108, R142, R143). -/
def pumpRead (s : State) (key : KeyId) (ver : Bool) (snap : Option Nat) (pa n : Nat) : PumpRes :=
  match placeOf s.pkg.id pa with
  | .cistern .. | .host | .far _ =>
    if poisoned s pa n then .fault fcUncorrectable else .done s (memNat s.mem pa n)
  | .well .. =>
    let line := pa / 128
    if rekeying s key then .stall s .rekey
    else if !sealOk s line key then .fault fcIntegrity
    else
      let home := fun v => if poisoned s pa n then PumpRes.fault fcUncorrectable else .done s v
      match ver, snap with
      | true, some t =>
        if s.gts ≤ t + 8 then .stall s (.snap s.cycle)
        else if (lineOf s line).lock.any (fun x => x.2 ≤ t) then .stall s .lock
        else
          match versionAt s line t with
          | none => home (viewNat s key pa n)
          | some v =>
            if !versionOk s line key v then .fault fcIntegrity
            else if (List.range 32).any (fun i => v.poison.getLsbD i && overlaps (128 * line + 4 * i) 4 pa n) then .fault fcUncorrectable
            else .done s (v.data.toNat / 2 ^ (8 * (pa % 128)) % 2 ^ (8 * n))
      | _, _ => home (curNat s key pa n)
  | _ => .fault fcProtection

/-- A request of an engine, a group's one-piece access or the launch unit goes to its far home, or its answer has come (R278).
`keep`: the answer stays until the owner's work is done. -/
def farAsk (s : State) (owner ck : Nat) (key : KeyId) (cmp : Bool) (pa n : Nat) (data : Option Nat) (keep : Bool) : PumpRes :=
  match s.fars.find? (fun r => r.2.owner == owner && r.2.ctx == ck && r.2.pa == pa && r.2.size == n && r.2.data.isSome == data.isSome) with
  | some (id, r) =>
    match r.refused, r.res with
    | some c, _ => .fault c
    | none, some d => .done (if keep then s else { s with fars := tabDel s.fars id }) (d.toNat % 2 ^ (8 * n))
    | none, none => .stall s (.link s.cycle)
  | none =>
    let (id, s1) := fresh s
    .stall { s1 with fars := tabPut s1.fars id ⟨owner, ck, key, cmp, pa, n, data.map (BitVec.ofNat 1024), none, none⟩ } (.link s.cycle)

/-- The answers that an owner kept are no longer needed. -/
def dropFars (s : State) (owner ck : Nat) : State := { s with fars := s.fars.filter (fun r => !(r.2.owner == owner && r.2.ctx == ck)) }

/-- Requests of a context that were refused are over once their fault is raised: an attempt again asks again. -/
def dropRefused (s : State) (ck : Nat) : State := { s with fars := s.fars.filter (fun r => !(r.2.ctx == ck && r.2.refused.isSome)) }

/-- An attempt that has to wait leaves its requests under way, the re-encryption that it began (R109), and its wait for a
version record (R157). -/
def keepFars (s t : State) : State :=
  { s with fars := t.fars, serial := t.serial, lines := { s.lines with reenc := t.lines.reenc }, dies := t.dies, ctxs := t.ctxs }

/-- A read of a unit that is no thread's access, at its home here or on another package. -/
def agentRead (s : State) (owner ck : Nat) (key : KeyId) (ver : Bool) (snap : Option Nat) (pa n : Nat) (keep : Bool) : PumpRes :=
  if (destOf s (homeOf s.pkg.id pa)).isSome then farAsk s owner ck key false pa n none keep else pumpRead s key ver snap pa n

/-- A write of such a unit. -/
def agentWrite (s : State) (owner ck : Nat) (key : KeyId) (ver cmp : Bool) (pa : Nat) (bs : List Byte) (keep : Bool) : PumpRes :=
  if (destOf s (homeOf s.pkg.id pa)).isSome then farAsk s owner ck key cmp pa bs.length (some (leNat bs)) keep
  else pumpWrite s key ver cmp pa bs none none

/-- A fault found in the device's own work is kept for the next cycle. -/
def noteRaise (s : State) (cause : Nat) (k : KeyId) (ck pa : Nat) : State :=
  { s with raised := s.raised ++ [⟨cause, k, ck, pa⟩] }

/-- INTEGRITY found in an access is kept for the next cycle, which halts every other context that holds the key (R108). -/
def noteIntegrity (s : State) (cause : Nat) (k : KeyId) (ck pa : Nat) : State :=
  if cause = fcIntegrity then noteRaise s cause k ck pa else s

/-- The owner of the device's own writes to another package or its host memory, whose answers nothing waits for. -/
abbrev devOwner : Nat := 2 ^ 44

/-- A write goes to a far home, and nothing waits for its answer. -/
def farWrite (s : State) (owner ck : Nat) (k : KeyId) (cmp : Bool) (pa : Nat) (bs : List Byte) : State :=
  { s with
    serial := s.serial + 1,
    fars := tabPut s.fars s.serial ⟨owner, ck, k, cmp, pa, bs.length, some (BitVec.ofNat 1024 (leNat bs)), none, none⟩ }

/-- A write within one line that waits for no one: of the device's own records (rings, stop area, work-queue records) and
page table bits. A re-encryption in its way ends first (R109). The tag follows the line's own V bit, since no page names
the line. One to a far home is a request of its own (R278). -/
def devWrite (s : State) (ck pa : Nat) (bs : List Byte) : State :=
  let k : KeyId := .vf (ctxVf ck)
  let cmp := decide (8 ≤ (lineOf s (pa / 128)).tag.toNat)
  if (destOf s (homeOf s.pkg.id pa)).isSome then farWrite s devOwner ck k cmp pa bs
  else
  match pumpWrite s k false cmp pa bs none none with
  | .done s1 _ => s1
  | .fault c => noteRaise s c k ck pa
  | .stall s1 _ =>
    match pumpWrite (endReenc s1 (groupOf (pa / 128))) k false cmp pa bs none none with
    | .done s2 _ => s2
    | .stall s2 _ => s2
    | .fault c => noteRaise s1 c k ck pa

/-- The host's write of a whole line ends the fault of a line that did not match (R108). -/
def healLine (s : State) (line : Nat) (whole : Bool) : State :=
  if whole && (lineOf s line).bad then { s with lines := { s.lines with lines := tabPut s.lines.lines line { lineOf s line with bad := false } } } else s

/-- A write of one line that waits at its home, of the host or of the device; a re-encryption that stands in its way ends
first (R109). -/
def lineWrite (s : State) (k : KeyId) (ver cmp : Bool) (pa : Nat) (bs : List Byte) : PumpRes :=
  match pumpWrite s k ver cmp pa bs none none with
  | .stall s1 h =>
    if (tabGet s1.lines.reenc (groupOf (pa / 128))).isSome then pumpWrite (endReenc s1 (groupOf (pa / 128))) k ver cmp pa bs none none
    else .stall s1 h
  | r => r

/-- A write of the host to memory, line by line (R107, R115), with the CMP of each line's page: the state, the bytes that still
wait for their line, and whether they wait for a version record. -/
def hostWrite (cmp : State → Nat → Bool) : Nat → State → KeyId → Bool → Nat → List Byte → State × Nat × List Byte × Bool
  | 0, s, _, _, pa, bs => (s, pa, bs, false)
  | n + 1, s, k, ver, pa, bs =>
    if bs.isEmpty then (s, pa, bs, false)
    else
      let m := 128 - pa % 128
      match placeOf s.pkg.id pa with
      | .hole | .mgmt | .far _ => hostWrite cmp n s k ver (pa + m) (bs.drop m)
      | _ =>
        match lineWrite s k ver (cmp s (pa / 128)) (hostPa pa) (bs.take m) with
        | .done s1 _ => hostWrite cmp n (healLine s1 (pa / 128) (decide (pa % 128 = 0) && decide (128 ≤ bs.length))) k ver (pa + m) (bs.drop m)
        | .fault c => hostWrite cmp n (if c = fcIntegrity then noteRaise s c k 0 pa else s) k ver (pa + m) (bs.drop m)
        | .stall s1 h => (s1, pa, bs, match h with | .pool _ => true | _ => false)

/-- A write that no lock, pool or re-key can hold back: the loader's own, to plain pages of a VF; no page names the lines, and
the tag follows each line's own V bit. -/
def hostPut (s : State) (vf pa : Nat) (bs : List Byte) : State :=
  (hostWrite (fun s line => decide (8 ≤ (lineOf s line).tag.toNat)) (bs.length + 1) s (.vf vf) false pa bs).1

end Sys2Proof.Machine
end

