-- ==== Sys2Proof/Machine/Ops.lean ====
section
/-! DEFINITION. Named operations over the state: fields and identities, rings and their records (08_context
R198, R199), profiling counts (20_debug R413 to R416), and taking a fault: the halt line, its origin, and
the return (R183 to R187). -/

namespace Sys2Proof.Machine

open Sys2Proof

/-- Which ring of a context (R198). -/
inductive RingId where
  | event | numeric | fault
  deriving DecidableEq, Repr

/-- A ring of a context. -/
def ringOf (c : Ctx) : RingId → Ring
  | .event => c.ev | .numeric => c.ne | .fault => c.fl

/-- Its descriptor word (R180). -/
def ringWord (c : Ctx) : RingId → W64
  | .event => descW c 5 | .numeric => descW c 6 | .fault => descW c 7

/-- Replaces a ring's indices. -/
def setRing (c : Ctx) (r : RingId) (x : Ring) : Ctx :=
  match r with
  | .event => { c with ev := x } | .numeric => { c with ne := x } | .fault => { c with fl := x }

/-- A ring is full when HEAD − TAIL = 2^LOG (R198). -/
def ringFull (c : Ctx) (r : RingId) : Bool :=
  ((ringOf c r).head + 2 ^ 32 - (ringOf c r).tail) % 2 ^ 32 == 2 ^ fld (ringWord c r) 63 56

/-- Appends a record of four words to a ring, or `none` when it is full (R198). -/
def ringPush (s : State) (ck : Nat) (r : RingId) (rec : List W64) : Option State :=
  match tabGet s.ctxs ck with
  | none => none
  | some c =>
    if ringFull c r then none
    else
      let x := ringOf c r
      let log := fld (ringWord c r) 63 56
      let base := fld (ringWord c r) 51 5 * 32
      let s1 := devWrite s ck (base + 32 * (x.head % 2 ^ log)) (wordsBytes rec)
      some (updCtx s1 ck (fun c => setRing c r { x with head := (x.head + 1) % 2 ^ 32 }))

/-- An event record (R199), dropped and counted when the ring is full (R198). -/
def eventPush (s : State) (ck kind sub : Nat) (a0 a1 : Nat) : State :=
  let rec4 := [BitVec.ofNat 64 s.gts, BitVec.ofNat 64 (kind * 2 ^ 56 + sub % 256 * 2 ^ 48), BitVec.ofNat 64 a0, BitVec.ofNat 64 a1]
  match ringPush s ck .event rec4 with
  | some t => t
  | none => updCtx s ck (fun c => { c with ev := { c.ev with drops := sat32 (c.ev.drops + 1) } })

/-- Adds to the profiling counters of a VF that select a unit and event (R416). -/
def prfAdd (s : State) (vf kind die inst event n : Nat) : State :=
  let v := getVf s vf
  if n = 0 || !v.prfctl.getLsbD 63 then s
  else
    let hits := (List.range 4).filter (fun i =>
      let w := tabGetD v.prfsel i 0
      w.getLsbD 63 && !w.getLsbD 62 && fld w 47 40 == kind && fld w 39 37 == die && fld w 36 31 == inst && fld w 15 0 == event)
    if hits.isEmpty then s
    else updVf s vf (fun v => { v with prfcnt := hits.foldl (fun t i => tabPut t i (tabGetD t i 0 + BitVec.ofNat 64 n)) v.prfcnt })

/-- Appends a numeric record of a group (R78, R79): a record dropped on a full ring sets RINGOVF unless
it is marked HALTED. -/
def numPush (s : State) (k pc : Nat) (halted : Bool) (e : NumEv) : State :=
  match tabGet s.groups k with
  | none => s
  | some g =>
    match ringPush s g.ctx .numeric (numRecord s.gts pc (gidOf g) halted e) with
    | some t => prfAdd t (ctxVf g.ctx) 0 (dieOf k) (coreOf k % 64) 7 1
    | none => if halted then s else updGroup s k (fun g => { g with numflag := g.numflag ||| 0x20#64 })

/-- The UnitId of a group (R187). -/
def groupUnit (k : Nat) : UnitId := ⟨0, dieOf k, coreOf k % 64, schedOf k % 4, k % 24⟩

/-- A transaction's buffer is emptied (R149). -/
def txDiscard (t : Tx) : Tx := { t with lines := [] }

/-- A doom records its cause (R149); a doomed transaction keeps its first cause. Its rows are free again: the
lines stay only as part of the view that its loads return (R149). -/
def txDoom (t : Tx) (cause : Nat) : Tx :=
  if t.state = .open then { t with state := .doomed, doom := cause } else t

/-- Locks of a group's transaction are released, and with each the record reserved for its line (R152, R153). -/
def txUnlock (s : State) (k : Nat) : State :=
  let ls := tabKeys s.lines.lines (fun _ l => l.lock.any (fun x => x.1 == k))
  let s1 := ls.foldl (fun t l => updDie t (l / 2 ^ 32 % 8) (fun d => { d with poolUsed := d.poolUsed - 1 })) s
  { s1 with lines := { s1.lines with
      lines := tabMap s1.lines.lines (fun _ l => if l.lock.any (fun x => x.1 == k) then { l with lock := none } else l) } }

/-- A halt line's effect on a group's transaction (R149): OPEN is doomed with HALT; PREPARING before the
commit point ends with p false and CAUSE HALT. -/
def txHalt (s : State) (k : Nat) : State :=
  match tabGet s.groups k with
  | none => s
  | some g =>
    match g.tx.state with
    | .open => setGroup s k { g with tx := txDoom g.tx 5 }
    | .preparing =>
      if g.tx.stamp.isSome then s
      else
        let ws := match g.tx.pdst with
          | some p => ((List.range (nThreads g)).filter g.tx.threads.getLsbD).map (fun t => RegW.mk (.p p t) 0)
          | none => []
        let sb := match g.tx.slot with
          | some n => tabPut g.sb n (tabGetD g.sb n 0 - 1)
          | none => g.sb
        let g1 := landCells { g with sb := sb } ws
        txUnlock (setGroup s k { g1 with tx := { txDiscard g.tx with state := .none, depth := 0, excess := 0, cause := 5, asked := [], sent := [], votes := [], pdst := none, slot := none } }) k
    | _ => s

/-- Groups of a context. -/
def ctxGroups (s : State) (ck : Nat) : List Nat := tabKeys s.groups (fun _ g => g.ctx == ck)

/-- The context of a message. -/
def msgCtx : Msg → Nat
  | .append _ _ c .. | .link _ _ _ c .. | .card _ c .. | .record _ c .. | .freeCount c _ => c

/-- A number names a request of a context over a link: an access, a message, or another unit's request. -/
def ctxSent (s : State) (ck n : Nat) : Bool :=
  (tabGet s.accs n).any (fun a => a.ctx == ck) || (tabGet s.msgs n).any (fun m => msgCtx m == ck) ||
    (tabGet s.fars n).any (fun r => r.ctx == ck)

/-- Pumps with writes of a context, media engines with its sessions, and link ports with its requests (R186). -/
def haltWork (s : State) (ck : Nat) : List UnitId :=
  let writes := fun (a : Acc) => match a.kind with | .store | .stx | .atomic | .red => true | _ => false
  let pumps := (List.range 128).filter (fun p => s.accs.any (fun a => a.2.ctx == ck && writes a.2 &&
    a.2.parts.any (fun q => !q.2.done && q.2.home == .pump p)) ||
    s.groups.any (fun g => g.2.ctx == ck && g.2.tx.stamp.isSome && g.2.tx.towrite.any (fun l => pumpOf (128 * l) == p)))
  let medias := (List.range 16).filter (fun m => (tabGet s.medias m).any (fun x => x.sess.any (fun y => y.ctx == ck)))
  let links := (List.range 24).filter (fun l => (getLink s l).sent.any (fun x => ctxSent s ck x.1))
  pumps.map (fun p => ⟨5, p / 16, p % 16, 0, 0⟩) ++ medias.map (fun m => ⟨6, m / 2, 0, m % 2, 0⟩) ++
    links.map (fun l => ⟨7, l / 3, 0, l % 3, 0⟩)

/-- Units that a context comes to use in the skid stop with the others (R186). -/
def growHalts (s : State) : State :=
  s.parts.foldl (fun t p => match p.2.halt with
    | some h => updPart t p.1 (fun x => { x with halt := some { h with work := (h.work ++ haltWork s h.ctx).eraseDups } })
    | none => t) s

/-- A halt line that rises withdraws what waits: for a page, a version record or a re-keyed window (R113, R157, R175). -/
def withdrawnHold (h : Hold) : Hold :=
  match h with
  | .page .. | .ring _ | .pool _ | .rekey => .withdrawn
  | _ => h

/-- Changes every media session. -/
def mapSess (s : State) (f : Sess → Sess) : State := { s with medias := tabMap s.medias (fun _ x => { x with sess := x.sess.map f }) }

/-- What the rise makes of a part's hold: a store that a re-encryption stalls is performed (R109, R186). -/
def withdrawnPart (s : State) (p : Part) : Hold := if p.hold = .rekey ∧ !rekeying s p.key then p.hold else withdrawnHold p.hold

/-- The held accesses, engine operations and media sessions of a context are withdrawn; a replay command selects none of
their records any more (R175). -/
def withdrawHeld (s : State) (ck : Nat) : State :=
  let s1 := { s with
    accs := tabMap s.accs (fun _ (a : Acc) => if a.ctx == ck then { a with parts := tabMap a.parts (fun _ p => { p with hold := withdrawnPart s p }) } else a),
    ops := tabMap s.ops (fun _ (o : EngOp) => if o.ctx == ck then { o with held := withdrawnHold o.held } else o) }
  updCtx (mapSess (dropRefused s1 ck) (fun y => if y.ctx = ck then { y with held := withdrawnHold y.held } else y)) ck (fun c => { c with faults := [], poolAsks := [] })

/-- The key of a saved group in its team's slots. -/
def savedKey (n : Nat) : Nat := 2 ^ 32 + n

/-- A group that a restore had placed goes back to the save (R183). -/
def unplaceGroup (s : State) (k : Nat) : State :=
  match tabGet s.groups k with
  | none => s
  | some g =>
    let s1 := { s with
      groups := tabDel s.groups k,
      teams := tabUpd s.teams g.team (fun t => { t with slots := tabMap t.slots (fun _ x => if x = k then savedKey g.serial else x) }) }
    updCtx s1 g.ctx (fun c => { c with saved := tabPut c.saved g.serial g })

/-- A restore in progress is abandoned; nothing has issued (R183). -/
def abandonRestore (s : State) (ck : Nat) : State := (ctxGroups s ck).foldl unplaceGroup s

/-- The halt cause of CUR stands in CTXSTAT.CAUSE, in place of an earlier refusal (R182). For the halt of a slot that is not CUR
R183 says CTXSTAT.CAUSE := the cause, and R182 that the field holds the last halt cause of CUR: the model follows R182 (DESIGN
CHOICE, assumption log, row 84). -/
def haltCause (s : State) (ck : Nat) : State := updVf s (ctxVf ck) (fun v => if v.cur = ck % 16 then { v with cause := 0 } else v)

/-- CTXSTAT.CAUSE (R182): the refusal cause of the last command, else the last halt cause of CUR. -/
def statCause (s : State) (v : Nat) : Nat :=
  if (getVf s v).cause ≠ 0 then (getVf s v).cause else (tabGet s.ctxs (v * 16 + (getVf s v).cur)).elim 0 (·.cause)

/-- Raises a halt cause against a context (R183, R185): taking a fault. From RUNNING or SAVING the
partition's halt line rises, the origin is recorded, the context becomes HALTING, waiting starts are
withdrawn (R21) and transactions doomed (R149). In HALTING a unit's own cause is recorded (R186), and of causes
that arrive in one cycle the lowest is the origin (R185). In any
other live state the context becomes HALTED at once with a HALTED event. -/
def haltRise (s : State) (ck cause : Nat) (unit : UnitId) (gid addr : Nat) (own : Bool) : State :=
  match tabGet s.ctxs ck with
  | none => s
  | some c =>
    let p := ctxPart c
    let p48 := getPart s p
    match c.state with
    | .running | .saving =>
      let h : Halt := ⟨cause, unit, gid, s.gts, s.cycle, ck, if own then [⟨unit, cause, addr, gid⟩] else [], haltWork s ck⟩
      let s1 := updPart s p (fun x => { x with halt := some h })
      let s2 := setCtx s1 ck { c with state := .halting, cause := cause, recs := [] }
      let s3 := haltCause s2 ck
      let s4 := { s3 with ops := tabMap s3.ops (fun _ o => if o.ctx == ck && !o.granted then { o with startReq := false } else o) }
      (ctxGroups s4 ck).foldl txHalt (withdrawHeld s4 ck)
    | .halting =>
      let first := p48.halt.any (fun h => h.cyc == s.cycle && decide (cause < h.cause))
      let s1 := updPart s p (fun x => { x with halt := x.halt.map (fun h =>
        let h1 := if first then { h with cause := cause, unit := unit, gid := gid } else h
        if !own || h.own.any (fun o => o.unit == unit) then h1 else { h1 with own := h.own ++ [⟨unit, cause, addr, gid⟩] }) })
      if first then haltCause (setCtx s1 ck { c with cause := cause }) ck else s1
    | .loaded | .saved | .restoring =>
      let s1 := updCtx (if c.state = .restoring then abandonRestore s ck else s) ck (fun c => { c with state := .halted, cause := cause })
      let s2 := haltCause s1 ck
      eventPush s2 ck 1 cause 0 0
    | .empty | .halted => s

/-- The UnitId of a pump (R187). -/
def pumpUnit (pa : Nat) : UnitId := ⟨5, pumpOf pa / 16, pumpOf pa % 16, 0, 0⟩

/-- INTEGRITY halts every context that holds the key (R108). -/
def haltKey (s : State) (key : KeyId) (unit : UnitId) (gid addr : Nat) : State :=
  let cs := tabKeys s.ctxs (fun ck c => c.state != .empty &&
    (match key with
     | .vf v => ctxVf ck == v
     | .win w => (tabGet s.wins w).any (fun x => x.holders.contains (ctxVf ck))))
  cs.foldl (fun t ck => haltRise t ck fcIntegrity unit gid addr true) s

/-- The faults kept from the last cycle are taken (R30, R108). -/
def takeRaised (s : State) : State :=
  s.raised.foldl (fun t r =>
    if r.cause = fcIntegrity then haltKey t r.key (pumpUnit r.pa) 0 r.pa
    else haltRise t r.ctx r.cause (pumpUnit r.pa) 0 r.pa true) { s with raised := [] }

/-- A group raises a fault (R185): it is the unit, and it issues nothing more. -/
def raiseGroup (s : State) (k cause addr : Nat) : State :=
  match tabGet s.groups k with
  | none => s
  | some g => haltRise s g.ctx cause (groupUnit k) (gidOf g) addr true

/-- Return from a halt (R183): RESUME moves HALTED to SAVED and appends RESUMED. The groups, saved whole,
come back READY at the instruction that faulted when the restore completes. -/
def resumeCtx (s : State) (ck : Nat) : State :=
  match tabGet s.ctxs ck with
  | some c => if c.state = .halted then eventPush (setCtx s ck { c with state := .saved }) ck 6 0 (ck % 16) 0 else s
  | none => s

/-- A group's halt: it raised its own fault, or the skid bound of 64 cycles has passed (R186). -/
def groupHeld (s : State) (k : Nat) (c : Ctx) : Bool :=
  match (getPart s (ctxPart c)).halt with
  | none => false
  | some h => h.own.any (fun o => o.unit == groupUnit k) || h.cyc + 64 ≤ s.cycle

end Sys2Proof.Machine
end

