-- ==== Sys2Proof/Machine/Translate.lean ====
section
/-! DEFINITION. Address translation: page walks, the TLB, accessed and dirty bits (07_page R159 to R170), the
checks of an access in the order of R171, and the scratchpad range of a team (04_memory R88, R93). -/

namespace Sys2Proof.Machine

open Sys2Proof

/-- Fields of a PTE (R160). -/
def pteV (p : W64) : Bool := p.getLsbD 0
def pteL (p : W64) : Bool := p.getLsbD 1
def pteR (p : W64) : Bool := p.getLsbD 2
def pteW (p : W64) : Bool := p.getLsbD 3
def pteNumx (p : W64) : Nat := fld p 5 4
def pteCmp (p : W64) : Bool := p.getLsbD 6
def pteVer (p : W64) : Bool := p.getLsbD 7
def pteWin (p : W64) : Bool := p.getLsbD 8
def pteNol1 (p : W64) : Bool := p.getLsbD 9
def pteA (p : W64) : Bool := p.getLsbD 10
def pteD (p : W64) : Bool := p.getLsbD 11
def ptePa (p : W64) : Nat := fld p 51 16 * 2 ^ 16
def pteWkey (p : W64) : Nat := fld p 59 52

/-- Page size in address bits of a leaf at a level (R159). -/
def levelBits : Nat → Nat
  | 1 => 42 | 2 => 29 | _ => 16

/-- The address lies in a well of this package (R92). -/
def ownWell (s : State) (pa : Nat) : Bool :=
  match placeOf s.pkg.id pa with
  | .well .. => true
  | _ => false

/-- The address lies in well memory of the pod (R92). -/
def anyWell (s : State) (pa : Nat) : Bool :=
  match placeOf s.pkg.id pa with
  | .well .. => true
  | .far _ => pa % 2 ^ 39 < 0x0C00000000
  | _ => false

/-- The first well offset of the version pool (R157). -/
def poolStart (s : State) : Nat := 0x0C00000000 - s.pkg.pool * 0x40000000

/-- A frame of `n` bytes takes in some of the version pool, whose frames no PTE may map (R157, R161). -/
def poolMeets (s : State) (pa n : Nat) : Bool :=
  (List.range 8).any (fun d =>
    let lo := s.pkg.id * 2 ^ 42 + d * 2 ^ 39
    decide (pa < lo + 0x0C00000000) && decide (lo + poolStart s < pa + n))

/-- A frame of `n` bytes lies in well memory: all of it in one die's well (R92; assumption log, row 25). -/
def wellFrame (s : State) (pa n : Nat) : Bool := anyWell s pa && decide (pa % 2 ^ 39 + n ≤ 0x0C00000000)

/-- An entry with V = 1 is malformed (R161). -/
def pteMalformed (s : State) (level : Nat) (p : W64) : Bool :=
  let pa := ptePa p
  fld p 63 60 != 0 || fld p 15 12 != 0 ||
  (if !pteL p then
    level ≥ 3 || fld p 59 52 != 0 || fld p 11 2 != 0 || !ownWell s pa
  else
    pa % 2 ^ levelBits level != 0 ||
    (pteW p && !pteR p) || pteNumx p == 3 ||
    (pteNumx p == 1 && (level != 3 ||
      !wellFrame s pa 0x30000)) ||
    ((pteCmp p || pteVer p || pteWin p) && !wellFrame s pa (2 ^ levelBits level)) ||
    (pteWin p && (pteCmp p || pteVer p)) ||
    (pteVer p && !ownWell s pa) ||
    (!pteWin p && pteWkey p != 0) ||
    (s.pkg.pool != 0 && poolMeets s pa (if pteNumx p = 1 then 0x30000 else 2 ^ levelBits level)))

/-- SCOPE, COUNT, SIZE and VF of TLBINV_CTL (R176). -/
def invBits (ctl : W64) : Nat := match fld ctl 31 30 with | 0 => 16 | 1 => 29 | _ => 42
def invStart (va : W64) : Nat := fld va 54 16 * 2 ^ 16
def invLen (ctl : W64) : Nat := max 1 (fld ctl 47 32) * 2 ^ invBits ctl

/-- A command removes a cached leaf (R176). -/
def invRemoves (va ctl : W64) (e : TlbEnt) : Bool :=
  match fld ctl 57 56 with
  | 0 => e.vf == fld ctl 8 0 && !e.text && overlaps (e.base * 2 ^ e.bits) (2 ^ e.bits) (invStart va) (invLen ctl)
  | 1 => e.vf == fld ctl 8 0
  | 2 => true
  | _ => e.vf == fld ctl 8 0 && e.text

/-- A command removes a walk-cache entry (R176): a range command every one of the VF. -/
def invWalk (ctl : W64) (e : WalkEnt) : Bool :=
  match fld ctl 57 56 with
  | 0 | 1 => e.vf == fld ctl 8 0
  | 2 => true
  | _ => e.vf == fld ctl 8 0 && e.text

/-- Where a unit translates: a core, or 512 and a die for a unit that belongs to no core. -/
abbrev Agent : Type := Nat

/-- The die of a unit. -/
def agentDie (a : Agent) : Nat := if a < 512 then a / 64 else a - 512

/-- The TLBs that a unit uses, the nearest first: level, number, entries (R168). -/
def tlbsOf (a : Agent) : List (Nat × Nat × Nat) :=
  (if a < 512 then [(1, a, 128), (2, a / 8, 2048)] else []) ++ [(3, agentDie a, 32768)]

/-- What a walk finds (R159, R161, R164): a leaf with its address, its page's bits, and the upper entries passed. -/
inductive Walk where
  | absent (level : Nat)
  | bad (cause addr : Nat)
  | leaf (pte : W64) (addr : Nat) (bits : Nat) (path : List (Nat × W64))
  deriving DecidableEq, Repr

/-- A leaf is a text leaf (R164). -/
def textLeafOk (p : W64) (b : Nat) : Bool :=
  b == 16 && pteR p && !pteW p && pteNumx p == 0 && fld p 9 6 == 0 && fld p 59 52 == 0

/-- Entries of a table in which memory lists a byte; the others hold V = 0. -/
def tableSlots (m : Mem) (table : Nat) : List Nat :=
  ((m.filter (fun c => decide (table ≤ c.1) && decide (c.1 < table + 0x10000))).map (fun c => (c.1 - table) / 8)).eraseDups

/-- The well-formed leaves below a table, with the bits of their pages. -/
def leavesFrom (s : State) (vf : Nat) : Nat → Nat → List (W64 × Nat)
  | 0, _ => []
  | n + 1, table =>
    (tableSlots s.mem table).flatMap (fun i =>
      let p := BitVec.ofNat 64 (viewNat s (.vf vf) (table + 8 * i) 8)
      if !pteV p || pteMalformed s (3 - n) p then []
      else if pteL p then [(p, levelBits (3 - n))]
      else leavesFrom s vf n (ptePa p))

/-- The leaves of every context's `.glb` map. -/
def allLeaves (s : State) : List (W64 × Nat) :=
  (s.ctxs.map (fun kc => if kc.2.state = .empty then [] else leavesFrom s (ctxVf kc.1) 3 (fld (descW kc.2 1) 51 16 * 2 ^ 16))).flatten

/-- Some leaf maps an address of this package on a page with VER = 1. -/
def verFrame (s : State) (pa : Nat) : Bool :=
  (allLeaves s).any (fun e => pteVer e.1 && decide (ptePa e.1 ≤ pa) && decide (pa < ptePa e.1 + 2 ^ e.2))

/-- The walk cache's entry for an address at a level (R168). -/
def walkFind (s : State) (die vf : Nat) (text : Bool) (level va : Nat) : Option WalkEnt :=
  s.walks.find? (fun e => e.die == die && e.vf == vf && e.text == text && e.level == level && e.base == va / 2 ^ levelBits level)

/-- Walks the tables from a root (R159, R162): the first number is the levels still to be read; upper entries come from
the walk cache where it holds them. A text leaf of contents that R164 does not allow raises TEXT_FAULT, also where R161 calls
it malformed: the spec gives no order of the two (DESIGN CHOICE, assumption log, row 77). -/
def walkFrom (s : State) (die vf : Nat) (text : Bool) (va : Nat) : Nat → Nat → Walk
  | 0, t => .bad fcPteFormat t
  | n + 1, table =>
    let level := 3 - n
    let a := table + 8 * (va / 2 ^ levelBits level % 8192)
    match walkFind s die vf text level va with
    | some e => walkFrom s die vf text va n (ptePa e.pte)
    | none =>
      let p := BitVec.ofNat 64 (viewNat s (.vf vf) a 8)
      if !sealOk s (a / 128) (.vf vf) then .bad fcIntegrity a
      else if poisoned s a 8 then .bad fcUncorrectable a
      else if !pteV p then .absent level
      else if text && pteL p && !textLeafOk p (levelBits level) then .bad fcTextFault a
      else if pteMalformed s level p then .bad fcPteFormat a
      else if pteL p then .leaf p a (levelBits level) []
      else
        match walkFrom s die vf text va n (ptePa p) with
        | .leaf q b bs path => .leaf q b bs ((level, p) :: path)
        | r => r

/-- A walk of a context's `.glb` map or text map. -/
def walk (s : State) (ck die : Nat) (text : Bool) (va : Nat) : Walk :=
  match tabGet s.ctxs ck with
  | none => .absent 1
  | some c => walkFrom s die (ctxVf ck) text va 3 (fld (descW c (if text then 2 else 1)) 51 16 * 2 ^ 16)

/-- The leaf that one TLB holds for an address (R168). -/
def tlbAt (s : State) (level num vf : Nat) (text : Bool) (va : Nat) : Option TlbEnt :=
  s.tlb.find? (fun e => e.level == level && e.at_ == num && e.vf == vf && e.text == text && va / 2 ^ e.bits == e.base)

/-- The cached leaf of an address, from the nearest TLB that holds it (R168). -/
def tlbFind (s : State) (a : Agent) (vf : Nat) (text : Bool) (va : Nat) : Option TlbEnt :=
  (tlbsOf a).findSome? (fun t => tlbAt s t.1 t.2.1 vf text va)

/-- Drops the first entry of a list that a test names, where `n` of them are held. -/
def dropFull {α : Type} (n : Nat) (p : α → Bool) (l : List α) : List α := if l.countP p < n then l else l.eraseP p

/-- Caches a leaf in one TLB, in place of an older one of the same page, and of the oldest where it is full. -/
def tlbPut (tlb : List TlbEnt) (t : Nat × Nat × Nat) (e : TlbEnt) : List TlbEnt :=
  let mine := fun (x : TlbEnt) => x.level == t.1 && x.at_ == t.2.1
  dropFull t.2.2 mine (tlb.filter (fun x => !(mine x && x.vf == e.vf && x.text == e.text && x.base == e.base && x.bits == e.bits))) ++
    [{ e with level := t.1, at_ := t.2.1 }]

/-- Caches a leaf in every TLB of a unit (R168), but for a leaf that a running invalidation removes (R177). -/
def tlbFill (s : State) (a : Agent) (e : TlbEnt) : State :=
  if s.pkg.tlbinvBusy && invRemoves s.pkg.tlbinvAt s.pkg.tlbinvOp e then s
  else { s with tlb := (tlbsOf a).foldl (fun l t => tlbPut l t e) s.tlb }

/-- Caches the upper entries of a walk (R168), but for those that a running invalidation removes (R177). -/
def walkKeep (s : State) (die vf : Nat) (text : Bool) (va : Nat) (path : List (Nat × W64)) : State :=
  { s with walks := path.foldl (fun l x =>
      let e : WalkEnt := ⟨die, vf, text, x.1, va / 2 ^ levelBits x.1, x.2⟩
      if s.pkg.tlbinvBusy && invWalk s.pkg.tlbinvOp e then l
      else dropFull 1024 (fun y => y.die == die) l ++ [e]) s.walks }

/-- Writes back a PTE with bits set, at the pump (R170). -/
def pteSet (s : State) (ck addr : Nat) (p : W64) : State := devWrite s ck addr (leBytes p.toNat 8)

/-- The result of a lookup that fills the TLBs and sets A (R170). -/
inductive Filled where
  | absent (level : Nat)
  | bad (s : State) (cause : Nat)
  | leaf (s : State) (e : TlbEnt)

/-- Walks and fills: A is set in a leaf that has it clear, and the bits of `set` with it (R170). -/
def walkFill (s : State) (ck : Nat) (a : Agent) (text : Bool) (va : Nat) (set : W64) : Filled :=
  match walk s ck (agentDie a) text va with
  | .absent l => .absent l
  | .bad c at_ => .bad (noteIntegrity s c (.vf (ctxVf ck)) ck at_) c
  | .leaf p addr b path =>
    let p' := p ||| set ||| 0x400#64
    let s1 := if p' = p then s else pteSet s ck addr p'
    let e : TlbEnt := ⟨0, 0, ctxVf ck, text, va / 2 ^ b, b, p'⟩
    .leaf (tlbFill (walkKeep s1 (agentDie a) (ctxVf ck) text va path) a e) e

/-- The cached leaf of an address, or the leaf a walk fills. Before the first write through a leaf with D = 0 the tables
are walked again (R170), so for a write such a cached leaf does not count. -/
def lookup (s : State) (ck : Nat) (a : Agent) (text write : Bool) (va : Nat) : Filled :=
  match tlbFind s a (ctxVf ck) text va with
  | some e =>
    if write && pteW e.pte && !pteD e.pte then walkFill s ck a text va 0
    else .leaf (if some e.level = (tlbsOf a).head?.map (·.1) then s else tlbFill s a e) e
  | none => walkFill s ck a text va 0

/-- Sets D before the first write through a leaf (R170): the tables are walked again, and the newest leaf
is cached with D set. -/
def setDirty (s : State) (ck : Nat) (a : Agent) (va : Nat) : State :=
  match walkFill s ck a false va 0x800 with
  | .leaf s1 _ => s1
  | _ => s

/-- What an access asks of a page's NUMX (R80, R367, R392): PLAIN, a layout that LDX and STX read (MEANDIG for .f32
alone), nothing, or the layout of a copy's other side. -/
inductive NumxUse where
  | plain
  | layouts (f32 : Bool)
  | any
  | only (n : Nat)
  deriving DecidableEq, Repr

/-- The page's NUMX suits the access. -/
def numxOk (u : NumxUse) (n : Nat) : Bool :=
  match u with
  | .plain => n == 0
  | .layouts f32 => n != 2 || f32
  | .any => true
  | .only m => n == m

/-- How an access uses a page: what it needs of R and W (R171 order 5) and of NUMX (order 7), its bytes, and the bytes it
touches on a TRIPLE page. -/
structure Use where
  read : Bool
  write : Bool
  numx : NumxUse
  bytes : Nat
  span : Nat
  deriving DecidableEq, Repr

/-- A plain read, or write, of `n` bytes. -/
def Use.load (n : Nat) : Use := ⟨true, false, .plain, n, n⟩
def Use.store (n : Nat) : Use := ⟨false, true, .plain, n, n⟩

/-- A translated address. -/
structure Xl where
  pa : Nat
  /-- Physical base of the page and offset in it. -/
  frame : Nat
  off : Nat
  numx : Nat
  nol1 : Bool
  win : Bool
  ver : Bool
  cmp : Bool
  key : KeyId
  deriving DecidableEq, Repr

/-- A row of a core that is exported for a context (R92, R93, R180): at the high end of the partition's quota, on a core
that its placement map names. -/
def exportedRow (s : State) (c : Ctx) (core row : Nat) : Bool :=
  let p := getPart s (ctxPart c)
  let hi := fld p.w0 57 45 + fld p.w0 44 32
  hi - fld (descW c 8) 12 0 ≤ row && row < hi && (placedCores s p.w1).contains core

/-- The frame holds loaded text of some context (R89). -/
def textFrame (s : State) (pa : Nat) : Bool :=
  s.ctxs.any (fun kc => kc.2.objs.any (fun ko => ko.2.frames.any (fun f => f == pa / 0x10000 * 0x10000)))

/-- No access of a context reaches an address (R92): a hole, management space, a row that is not exported for it. Rows of
another package are judged by the same quota, since the device knows no other. -/
def closedTo (s : State) (c : Ctx) (pa : Nat) : Bool :=
  match placeOf s.pkg.id pa with
  | .hole | .mgmt => true
  | .cistern core row => !exportedRow s c core row
  | .far _ =>
    match placeIn pa with
    | .cistern core row => !exportedRow s c core row
    | _ => false
  | _ => false

/-- First and last byte that an access touches through a leaf (R81, R163). -/
def leafEnds (u : Use) (numx frame off : Nat) : List Nat :=
  if numx = 1 then [frame + 3 * off, frame + 3 * off + u.span - 1] else [frame + off, frame + off + u.bytes - 1]

/-- Checks 5 to 9 of R171 on a leaf: the cause, or none. -/
def leafCheck (s : State) (ck : Nat) (c : Ctx) (u : Use) (pte : W64) (off : Nat) : Option Nat :=
  let ends := leafEnds u (pteNumx pte) (ptePa pte) off
  if (u.read && !pteR pte) || (u.write && !pteW pte) then some fcProtection
  else if ends.any (closedTo s c) then some fcProtection
  else if ends.any (textFrame s) then some (if u.write then fcTextStore else fcProtection)
  else if !numxOk u.numx (pteNumx pte) then some fcNumxAccess
  else if pteWin pte &&
      (match tabGet s.wins (pteWkey pte) with
       | some w => w.state == .empty || !w.holders.contains (ctxVf ck)
       | none => true) then some fcWindowKey
  else if pteVer pte && !ownWell s (ptePa pte + off) then some fcVersionRemote
  else none

/-- The result of translating an access (R171). -/
inductive XRes where
  | ok (s : State) (x : Xl)
  | fault (s : State) (cause : Nat)
  | absent (s : State) (level : Nat)

/-- What a leaf makes of an address. -/
def xlOf (ck : Nat) (e : TlbEnt) (va : Nat) : Xl :=
  let frame := hostPa (ptePa e.pte)
  let off := va % 2 ^ e.bits
  ⟨frame + off, frame, off, pteNumx e.pte, pteNol1 e.pte, pteWin e.pte, pteVer e.pte, pteCmp e.pte,
    if pteWin e.pte then .win (pteWkey e.pte) else .vf (ctxVf ck)⟩

/-- Checks and translates a `.glb` access of a unit by the order of R171 (alignment is the caller's); D is left
for `setDirty`. -/
def translateOnly (s : State) (ck : Nat) (a : Agent) (va : Nat) (u : Use) : XRes :=
  match tabGet s.ctxs ck with
  | none => .fault s fcTranslation
  | some c =>
    if va ≥ 2 ^ 55 then .fault s fcTranslation
    else
      match lookup s ck a false u.write va with
      | .absent l => .absent s l
      | .bad s1 cause => .fault s1 cause
      | .leaf s1 e =>
        match leafCheck s1 ck c u e.pte (va % 2 ^ e.bits) with
        | some cause => .fault s1 cause
        | none => .ok s1 (xlOf ck e va)

/-- Sets D for a write whose page's leaf has it clear (R170). -/
def dirtyFor (s : State) (ck : Nat) (a : Agent) (va : Nat) : State :=
  match tlbFind s a (ctxVf ck) false va with
  | some e => if pteD e.pte then s else setDirty s ck a va
  | none => setDirty s ck a va

/-- Translates a `.glb` access that passed every check, with D set for a write (R170, R171). -/
def translate (s : State) (ck : Nat) (a : Agent) (va : Nat) (u : Use) : XRes :=
  match translateOnly s ck a va u with
  | .ok s1 x => .ok (if u.write then dirtyFor s1 ck a va else s1) x
  | r => r

/-- A context's DPAGE bit (R180). -/
def dpage (c : Ctx) : Bool := (descW c 0).getLsbD 1

/-- The rows of a team's queues, relative to its first row (R243). -/
def teamQueueRow (s : State) (tk : Nat) (t : Team) (row : Nat) : Bool :=
  (getCore s t.core).qslots.any (fun kq => kq.2.team == some tk &&
    kq.2.base ≤ t.row + row && t.row + row < kq.2.base + (kq.2.depth * kq.2.esz + 127) / 128)

/-- A row of the team's allocation that operands may name: below the transaction area and outside the
team's queues (R93, R151, R243). -/
def teamRowOk (s : State) (tk : Nat) (t : Team) (row : Nat) : Bool :=
  row < t.rows - t.txrows && !teamQueueRow s tk t row

/-- A `.loc` range of bytes below the aperture is the team's own to use (R88, R151, R243). -/
def locOk (s : State) (tk : Nat) (t : Team) (off n : Nat) : Bool :=
  n = 0 || (off + n ≤ t.scratch &&
    (List.range ((off + n - 1) / 128 + 1 - off / 128)).all (fun i => teamRowOk s tk t (off / 128 + i)))

/-- Physical address of a `.loc` offset of a team (R92, R93). -/
def locAddr (s : State) (t : Team) (off : Nat) : Nat := rowAddr s.pkg.id t.core t.row off

end Sys2Proof.Machine
end

