-- ==== Sys2Proof/Machine/Pump.lean ====
section
/-! DEFINITION. Fault records of not-present accesses (07_page R172, R173), and the accesses that a group's instruction
makes in one piece: spills, refills, the slot read of BIND, the LPB read of LAUNCH. -/

namespace Sys2Proof.Machine

open Sys2Proof

/-- The virtual page a fault record names (R172, R173): 64 KiB also where the entry that is absent is one of
level 1 or 2 (log row 74, DESIGN CHOICE). -/
def pageOf (va : Nat) : Nat := va / 2 ^ 16

/-- Appends the fault record of a held access, one for each virtual page not already outstanding
(R172, R173), and gives its serial number; on a full ring the record waits at the walk unit. -/
def noteFault (s : State) (ck va kind level gid die core : Nat) : State × Nat :=
  match tabGet s.ctxs ck with
  | none => (s, 0)
  | some c =>
    match c.faults.find? (fun f => f.page == pageOf va) with
    | some f => (s, f.seq)
    | none =>
      let vf := ctxVf ck
      let seq := (getVf s vf).seq
      let rec4 : List W64 :=
        [BitVec.ofNat 64 s.gts,
         BitVec.ofNat 64 (kind * 2 ^ 58 + level * 2 ^ 55 + va % 2 ^ 55),
         BitVec.ofNat 64 (gid % 2 ^ 32 * 2 ^ 32 + seq),
         BitVec.ofNat 64 (die * 2 ^ 24 + core * 2 ^ 16 + vf)]
      let s1 := updVf s vf (fun v => { v with seq := (v.seq + 1) % 2 ^ 32 })
      match ringPush s1 ck .fault rec4 with
      | some t => (updCtx t ck (fun c => { c with faults := c.faults ++ [⟨pageOf va, seq, false, rec4⟩] }), seq)
      | none => (updCtx s1 ck (fun c => { c with faults := c.faults ++ [⟨pageOf va, seq, true, rec4⟩] }), seq)

/-- The result of an instruction's body: the state with its effects, a fault with what stands of it, or
that it does not issue now. -/
inductive Out where
  | ok (s : State)
  | fault (s : State) (cause addr : Nat)
  | wait (s : State)

/-- Continues with the state of a completed part. -/
def Out.andThen (o : Out) (f : State → Out) : Out :=
  match o with
  | .ok s => f s
  | .fault s c a => .fault s c a
  | .wait s => .wait s

/-- The cycle in which a spill's wait for a version record began (R157). -/
def setPoolSince (s : State) (k : Nat) (c : Option Nat) : State := updGroup s k (fun g => { g with poolSince := c })

/-- The record that a group's one-piece access waits on is still outstanding (R172). -/
def recordOpen (s : State) (g : Grp) : Bool :=
  g.waitRec.any (fun r => (tabGet s.ctxs g.ctx).any (fun c => c.faults.any (fun f => f.seq == r.1)))

/-- A one-piece access finds its page not present (R172): it waits on the page's record, or raises TRANSLATION. -/
def oneAbsent (s : State) (k : Nat) (g : Grp) (va kind level : Nat) : Out :=
  if (tabGet s.ctxs g.ctx).any dpage then
    let (s1, seq) := noteFault s g.ctx va kind level (gidOf g) (dieOf k) (coreOf k % 64)
    .wait (updGroup s1 k (fun g => { g with waitRec := some (seq, va) }))
  else .fault s fcTranslation va

/-- Counts a pump's event for the VF of an access (R416). -/
def pumpCount (s : State) (vf pa ev n : Nat) : State :=
  if ownWell s pa then prfAdd s vf 1 (pumpOf pa / 16) (pumpOf pa % 16) ev n else s

/-- Sectors that a line's read or write moves (R100). -/
def lineSectors (s : State) (cmp : Bool) (line : Nat) : Nat :=
  let t := (lineOf s line).tag.toNat
  if cmp && 8 ≤ t then compSectors (t % 8) else 4

/-- Profiling counts of a line that a pump read: one request, its sectors, its check (R416). -/
def countRead (s : State) (vf pa : Nat) (cmp : Bool) : State :=
  pumpCount (pumpCount (pumpCount s vf pa 0 1) vf pa 3 (lineSectors s cmp (pa / 128))) vf pa 7 1

/-- Profiling counts of a write that a pump performed, from the state before it (R416): a partial write and a write of a VER
page read the line first (R107). -/
def countWrite (s0 s : State) (vf pa : Nat) (cmp ver partly : Bool) : State :=
  let rd := if partly || ver then lineSectors s0 cmp (pa / 128) else 0
  let s1 := pumpCount (pumpCount s vf pa 1 1) vf pa 2 (if partly then 1 else 0)
  let s2 := pumpCount s1 vf pa 3 (rd + lineSectors s cmp (pa / 128))
  pumpCount (pumpCount s2 vf pa 4 (if ver then 1 else 0)) vf pa 7 (if partly || ver then 1 else 0)

/-- The part awaits its translation: a replayable fault holds it (R172), or a halt withdrew it (R175). -/
def awaitsPage : Hold → Bool
  | .page .. | .ring _ | .withdrawn => true
  | _ => false

/-- An earlier access of the group touches the bytes and is not yet performed (R118): by its virtual address where it awaits
its translation. -/
def ownPending (s : State) (g : Grp) (va pa n : Nat) : Bool :=
  s.accs.any (fun a => a.2.gser == g.serial && a.2.kind != .waita && a.2.kind != .pref && a.2.parts.any (fun p =>
    !p.2.done && (if awaitsPage p.2.hold then overlaps p.2.va p.2.size va n else overlaps p.2.pa p.2.size pa n)))

/-- A one-piece access waits for nothing any more. -/
def oneDone (s : State) (k : Nat) (g : Grp) : State :=
  if g.poolSince.isSome || g.waitRec.isSome then updGroup s k (fun g => { g with poolSince := none, waitRec := none }) else s

/-- A `.glb` store of the group performed in one piece, for spills (R214, R225), after the group's earlier accesses to its bytes
(R118). A wait for a version record ends with VERSION_POOL after 65,536 cycles (R157). -/
def storeNow (s : State) (k : Nat) (g : Grp) (va : Nat) (bs : List Byte) : Out :=
  if va % 8 ≠ 0 then .fault s fcMisalign va
  else if recordOpen s g then .wait s
  else
    match translate s g.ctx (coreOf k) va (Use.store bs.length) with
    | .fault s1 c => .fault s1 c va
    | .absent s1 l =>
      oneAbsent s1 k g va 1 l
    | .ok s1 x =>
      if ownPending s1 g va x.pa bs.length then .wait s1
      else
      match agentWrite s1 g.serial g.ctx x.key x.ver x.cmp x.pa bs false with
      | .done s2 _ => .ok (countWrite s1 (oneDone s2 k g) (ctxVf g.ctx) x.pa x.cmp x.ver true)
      | .stall s2 (.pool c) =>
        match g.poolSince with
        | none => .wait (setPoolSince s2 k (some c))
        | some c0 => if c0 + 65536 ≤ s.cycle then .fault (setPoolSince s1 k none) fcVersionPool va else .wait s1
      | .stall s2 _ => .wait s2
      | .fault c => .fault (noteIntegrity s1 c x.key g.ctx x.pa) c va

/-- A `.glb` load of the group performed in one piece, after the group's earlier accesses to its bytes (R118): a refill, the
slot read of BIND, the LPB read. -/
def loadNow (s : State) (k : Nat) (g : Grp) (va n : Nat) (snap : Option Nat) : Out × Nat :=
  if va % 8 ≠ 0 then (.fault s fcMisalign va, 0)
  else if recordOpen s g then (.wait s, 0)
  else
  match translate s g.ctx (coreOf k) va (Use.load n) with
  | .fault s1 c => (.fault s1 c va, 0)
  | .absent s1 l =>
    (oneAbsent s1 k g va 0 l, 0)
  | .ok s1 x =>
    if ownPending s1 g va x.pa n then (.wait s1, 0)
    else
    match agentRead s1 g.serial g.ctx x.key x.ver snap x.pa n false with
    | .done s2 d => (.ok (countRead (oneDone s2 k g) (ctxVf g.ctx) x.pa x.cmp), d)
    | .stall s2 _ => (.wait s2, 0)
    | .fault c => (.fault (noteIntegrity s1 c x.key g.ctx x.pa) c va, 0)

end Sys2Proof.Machine
end

