-- ==== Sys2Proof/Machine/Paths.lean ====
section
/-! DEFINITION. Paths, joins and the return-address stack of a group: splitting, parking, completion and
lost reconvergence, selection of the next path, spilling and refilling (10_group R222 to R228; 15_control
R306 to R313; 09_kernel R214). -/

namespace Sys2Proof.Machine

open Sys2Proof

/-- Every lane of `a` lies in `b`. -/
def within (a b : Mask) : Bool := a &&& ~~~b == 0

/-- The lowest lane of a mask, or 96. -/
def lowLane (m : Mask) : Nat := ((List.range 96).find? m.getLsbD).getD 96

/-- Lanes that have not ended and are not absent (R222). -/
def liveLanes (g : Grp) : Mask := BitVec.ofNat 96 (2 ^ nLanes g - 1) &&& ~~~(g.ended ||| g.absent)

/-- An unarmed join (R220). -/
def joinReset : Join := ⟨false, false, 0, 0, 0⟩

/-- A join of the group. -/
def joinOf (g : Grp) (j : Nat) : Join := tabGetD g.joins j joinReset

/-- All entries of the path table, on chip and spilled. -/
def allPaths (g : Grp) : List Path := g.spilled ++ g.paths

/-- Lanes of live paths for the test of R227 on join `j` (8 for the stack entry): running, runnable,
waiting, parked at another join, or held in a stack entry's ARR (R309); `top` leaves the top entry out. -/
def livePaths (g : Grp) (j : Nat) (top : Bool) : Mask :=
  let a := if g.running then g.em else 0
  let b := (allPaths g).foldl (fun m p => if p.kind == .joined j then m else m ||| p.em) a
  (if top then g.ras.dropLast else g.ras).foldl (fun m r => m ||| r.arr) b

/-- Lanes missing at a join (R227). -/
def missing (j : Join) : Mask := j.exp &&& ~~~j.arr

/-- The join passes the test of R227. -/
def joinLost (g : Grp) (j : Nat) : Bool :=
  let x := joinOf g j
  x.armed && x.arr != 0 && x.arr != x.exp && missing x &&& livePaths g j false == 0

/-- The top stack entry passes the test of R227 (R311). With no lane arrived the entry goes too, while
other lanes live: no path within it could run again (assumption log, row 13). -/
def rasLost (g : Grp) : Bool :=
  match g.ras.getLast? with
  | none => false
  | some r => r.exp != 0 && r.arr != r.exp && (r.exp &&& ~~~r.arr) &&& livePaths g 8 true == 0 && liveLanes g != 0

/-- Highest rank among the parked paths. -/
def topRank (g : Grp) : Nat := (allPaths g).foldl (fun n p => max n p.rank) 0

/-- A new place in the order of parking. -/
def nextSeq (g : Grp) : Nat := (allPaths g).foldl (fun n p => max n (p.seq + 1)) 0

/-- Parks a path. -/
def park (g : Grp) (kind : PathKind) (pc : Nat) (em : Mask) (fall : Bool) (rank since : Nat) : Grp :=
  { g with paths := g.paths ++ [⟨kind, pc, em, rank, nextSeq g, since, fall, 0, 0⟩] }

/-- Parks the running path; the group then has none. -/
def parkRunning (g : Grp) (kind : PathKind) (since : Nat) : Grp :=
  if g.running && g.em != 0 then { park g kind g.pc g.em g.fall 0 since with running := false, em := 0 }
  else { g with running := false, em := 0 }

/-- The path may be selected: runnable, within the top stack entry's EXP (R313). -/
def selectable (g : Grp) (p : Path) : Bool :=
  p.kind == .runnable && (match g.ras.getLast? with | none => true | some r => within p.em r.exp)

/-- `a` is selected before `b` (R224, R227). -/
def before (a b : Path) : Bool :=
  if a.rank ≠ b.rank then b.rank < a.rank
  else if a.pc ≠ b.pc then a.pc < b.pc
  else lowLane a.em < lowLane b.em

/-- The path selected next (R224, R313). -/
def bestPath (g : Grp) : Option Path :=
  (allPaths g).foldl (fun o p =>
    if selectable g p then
      match o with
      | none => some p
      | some q => if before p q then some p else some q
    else o) none

/-- Runs a parked path. -/
def runPath (g : Grp) (p : Path) : Grp :=
  { g with
    pc := p.pc, em := p.em, running := true, fall := p.fall,
    fromSpill := if g.spilled.any (fun q => q.seq == p.seq) then some (p.place, p.bump) else none,
    paths := g.paths.filter (fun q => q.seq != p.seq), spilled := g.spilled.filter (fun q => q.seq != p.seq) }

/-- Paths that completions form, ahead of every runnable path, in order (R227): the running path gives
way to the first of them. -/
def formPaths (g : Grp) (fs : List (Nat × Mask)) (since : Nat) : Grp :=
  let fs := fs.filter (fun f => f.2 != 0)
  if fs.isEmpty then g
  else
    let base := topRank g + fs.length
    let g1 := parkRunning g .runnable since
    (fs.zipIdx).foldl (fun g (f, i) => park g .runnable f.1 f.2 false (base - i) since) g1

/-- Removes the paths parked at a join and unarms it (R227 steps 1 to 4). -/
def closeJoin (g : Grp) (j : Nat) (lost : Bool) : Grp :=
  let x := joinOf g j
  { g with
    paths := g.paths.filter (fun p => p.kind != .joined j), spilled := g.spilled.filter (fun p => p.kind != .joined j),
    joins := tabPut g.joins j { x with armed := false, lost := lost || x.lost } }

/-- The joins and the stack entry that pass the test of R227 together complete as lost. Gives the group
and the LOST events; the stack entry counts as join 8. -/
def loseTested (g : Grp) (since : Nat) : Option (Grp × List (Nat × Mask)) :=
  let js := (List.range 8).filter (joinLost g)
  let r := rasLost g
  if js.isEmpty && !r then none
  else
    let fs := js.map (fun j => ((joinOf g j).tgt, (joinOf g j).arr))
    let ev := js.map (fun j => (j, missing (joinOf g j)))
    let g1 := js.foldl (fun g j => closeJoin g j true) g
    match r, g1.ras.getLast? with
    | true, some e =>
      some (formPaths { g1 with ras := g1.ras.dropLast, rasSpilled := min g1.rasSpilled (g1.ras.length - 1) } (fs ++ [(e.ret, e.arr)]) since,
        ev ++ [(8, e.exp &&& ~~~e.arr)])
    | _, _ => some (formPaths g1 fs since, ev)

/-- The join that completes when every path that could run is parked at joins (R228, R313). -/
def stuckJoin (g : Grp) : Option Nat :=
  let ps := (allPaths g).filter (fun p => match g.ras.getLast? with | none => true | some r => within p.em r.exp)
  if ps.isEmpty || ps.any (fun p => match p.kind with | .joined _ => false | _ => true) then none
  else (List.range 8).find? (fun j => ps.any (fun p => p.kind == .joined j))

/-- The rounds of completions after an instruction. -/
def settleRounds (g : Grp) (since : Nat) : Nat → Grp × List (Nat × Mask)
  | 0 => (g, [])
  | n + 1 =>
    let g := if g.running && g.em == 0 then { g with running := false } else g
    if liveLanes g == 0 then ({ g with state := .retired, running := false, em := 0, paths := [], spilled := [] }, [])
    else
      match loseTested g since with
      | some (g1, ev) => let (g2, ev2) := settleRounds g1 since n; (g2, ev ++ ev2)
      | none =>
        if g.running then (g, [])
        else
          match bestPath g with
          | some p => (runPath g p, [])
          | none =>
            if (allPaths g).any (fun p => match p.kind, g.ras.getLast? with
                | .waiting .., some r => within p.em r.exp
                | .waiting .., none => true
                | _, _ => false) then
              ({ g with state := if g.state = .active then .wait else g.state }, [])
            else
              match stuckJoin g with
              | some j =>
                let x := joinOf g j
                let (g2, ev2) := settleRounds (formPaths (closeJoin g j true) [(x.tgt, x.arr)] since) since n
                (g2, (j, missing x) :: ev2)
              | none => (g, [])

/-- After an instruction: completions of R227 and R228, then selection of the next path (R224), WAIT when
only waiting paths remain (R220), RETIRED when no lane lives (R220). The LOST events come joins ascending and the stack
entry last (R77). -/
def settle (g : Grp) (since n : Nat) : Grp × List (Nat × Mask) :=
  let r := settleRounds g since (n + g.ras.length)
  (r.1, sortOn (·.1) r.2)

/-- The PC and EM a record of the group shows (R187): the running path, else the path that would be selected
next, else the entry that began its wait first. -/
def shownPath (g : Grp) : Nat × Mask :=
  if g.running then (g.pc, g.em)
  else
    match bestPath g with
    | some p => (p.pc, p.em)
    | none =>
      let o := (allPaths g).foldl (fun o p =>
        match p.kind, o with
        | .waiting .., none => some p
        | .waiting .., some q => if p.since < q.since then some p else some q
        | _, _ => o) (none : Option Path)
      match o with
      | some p => (p.pc, p.em)
      | none => (g.pc, g.em)

/-- The WAIT reason shown: that of the live path that began to wait first (R219). -/
def shownReason (g : Grp) : Nat :=
  let o := (allPaths g).foldl (fun o p =>
    match p.kind, o with
    | .waiting .., none => some p
    | .waiting .., some q => if p.since < q.since then some p else some q
    | _, _ => o) (none : Option Path)
  match o with
  | some ⟨.waiting r _, _, _, _, _, _, _, _, _⟩ =>
    match r with
    | .queue => 0 | .barrier => 1 | .batch => 2 | .address => 3 | .bind => 4 | .sleep => 5 | .spawn => 6
  | _ => 0

/-- GSTATE codes (R219). -/
def gstateCode : GState → Nat
  | .free => 0 | .ready => 1 | .active => 2 | .pending => 3 | .wait => 4 | .faultWait => 5 | .stopped => 6 | .retired => 7

/-- Appends profile records of a group (R413), one for each half of a paired group: kind and ARG. -/
def prfRecord (s : State) (k kind arg : Nat) : State :=
  match tabGet s.groups k with
  | none => s
  | some g =>
    let vf := ctxVf g.ctx
    if !(getVf s vf).prfctl.getLsbD 63 then s
    else
      let (pc, em) := shownPath g
      (if g.paired then [0, 1] else [0]).foldl
        (fun s h =>
          let v := getVf s vf
          let log := fld v.prfbase 63 56
          if (v.prfhead + 2 ^ 32 - v.prftail) % 2 ^ 32 == 2 ^ log then
            updVf s vf (fun v => { v with prfctl := setFld v.prfctl 31 0 (sat32 (fld v.prfctl 31 0 + 1)) })
          else
            let rec4 : List W64 :=
              [BitVec.ofNat 64 s.gts,
               BitVec.ofNat 64 (kind * 2 ^ 56 + gstateCode g.state * 2 ^ 53 + dieOf k * 2 ^ 50 + coreOf k % 64 * 2 ^ 44 + schedOf k % 4 * 2 ^ 42 + pc % 2 ^ 40),
               BitVec.ofNat 64 (arg % 2 ^ 16 * 2 ^ 48 + em.toNat / 2 ^ (48 * h) % 2 ^ 48),
               BitVec.ofNat 64 (gidOf g * 2 ^ 32 + h * 2 ^ 9 + vf)]
            let base := fld v.prfbase 51 5 * 32
            let s1 := devWrite s g.ctx (base + 32 * (v.prfhead % 2 ^ log)) (wordsBytes rec4)
            updVf s1 vf (fun v => { v with prfhead := (v.prfhead + 1) % 2 ^ 32 }))
        s

/-- Selection rounds that any group needs at most, beside one for each entry of its return-address stack. -/
abbrev settleFuel : Nat := 40

/-- Parts of a path at their PCs, equal PCs joined, empty parts dropped (R307). -/
def mergeParts (ps : List (Nat × Mask × Bool)) : List (Nat × Mask × Bool) :=
  ps.foldl (fun acc p =>
    if p.2.1 == 0 then acc
    else if acc.any (fun q => q.1 == p.1) then
      acc.map (fun q => if q.1 == p.1 then (q.1, q.2.1 ||| p.2.1, q.2.2 && p.2.2) else q)
    else acc ++ [p]) []

/-- The running path splits into parts: the lowest PC runs on, the others are parked in ascending PC
(R224, R307, R310). -/
def splitPath (g : Grp) (ps : List (Nat × Mask × Bool)) (since : Nat) : Grp :=
  match mergeParts ps with
  | [] => { g with running := false, em := 0 }
  | q :: qs =>
    let lo := qs.foldl (fun a b => if b.1 < a.1 then b else a) q
    let rest := (q :: qs).filter (fun p => p.1 != lo.1)
    let rest := sortOn (·.1) rest
    rest.foldl (fun g p => park g .runnable p.1 p.2.1 p.2.2 0 since)
      { g with pc := lo.1, em := lo.2.1, fall := lo.2.2, running := true }

/-- STACKLOG of a group's grid (R207). -/
def stackLog (s : State) (g : Grp) : Nat :=
  match tabGet s.grids g.grid with
  | some x => fld (x.lpb.getD 8 0) 63 56
  | none => 0

/-- A path table entry as memory and debuggers see it (R225). -/
def pathWords (p : Path) : List W64 :=
  let kj := match p.kind with
    | .runnable => (0, 0, 0)
    | .joined j => (1, j, 0)
    | .waiting r _ => (2, 0, match r with | .queue => 0 | .barrier => 1 | .batch => 2 | .address => 3 | .bind => 4 | .sleep => 5 | .spawn => 6)
  [BitVec.ofNat 64 (p.pc % 2 ^ 40 + kj.1 * 2 ^ 40 + kj.2.1 * 2 ^ 45 + kj.2.2 * 2 ^ 48),
   BitVec.ofNat 64 (p.em.toNat % 2 ^ 48), BitVec.ofNat 64 (p.em.toNat / 2 ^ 48), 0]

/-- Address of a spilled path entry (R225). -/
def spillAddr (g : Grp) (log e : Nat) : Nat := g.rasbase.toNat + 2 ^ (log - 1) + 32 * e

/-- A path as its spilled entry gives it back: the PC and EM are read, its wait may have ended since (R225). -/
def readBack (p : Path) (d : Nat) : Path :=
  { p with pc := (d + p.bump) % 2 ^ 40, em := BitVec.ofNat 96 (d / 2 ^ 64 % 2 ^ 48 + d / 2 ^ 128 % 2 ^ 48 * 2 ^ 48), bump := 0 }

/-- The lowest place among the spilled entries that none of them holds. -/
def freePlace (l : List Path) : Nat := ((List.range (l.length + 1)).find? (fun e => l.all (fun p => p.place != e))).getD l.length

/-- Parked entries, oldest first, with the places they take among the spilled ones. -/
def placeSpills : List Path → List Path → List Path
  | _, [] => []
  | have_, p :: ps => let q := { p with place := freePlace have_, bump := 0 }; q :: placeSpills (have_ ++ [q]) ps

/-- What the walks of stores to addresses leave: TLBs and A bits (R170). -/
def probeWalks (s : State) (k : Nat) (g : Grp) (vas : List Nat) : State :=
  vas.foldl (fun t va =>
    match translateOnly t g.ctx (coreOf k) va (Use.store 32) with
    | .ok u _ => u
    | .fault u _ => u
    | .absent u _ => u) s

/-- Stores of one instruction, all or none (R10): where one cannot be made, the earlier ones leave only their walks. -/
def storeAll (s0 : State) (k : Nat) (g : Grp) (done : List Nat) : State → List (Nat × List Byte) → Out
  | s, [] => .ok s
  | s, (va, bs) :: rest =>
    match storeNow s k g va bs with
    | .ok t => storeAll s0 k g (done ++ [va]) t rest
    | _ => storeNow (probeWalks s0 k g done) k g va bs

/-- An entry is simple (R312). -/
def rasSimple (r : RasEnt) : Bool := !r.divergent && r.arr == 0

/-- Address of a spilled return entry at depth `e` from the bottom (R214). -/
def rasAddr (g : Grp) (e : Nat) : Nat := g.rasbase.toNat + 8 * e

/-- The oldest return entry on chip, once there are more than sixteen (R214). -/
def rasSpill (g : Grp) : List RasEnt := if 16 < g.ras.length - g.rasSpilled then (g.ras[g.rasSpilled]?).toList else []

/-- Spills the oldest return entry beyond sixteen (R214) and the oldest parked entries beyond eight (R225). -/
def spillAll (s : State) (k : Nat) : Out :=
  match tabGet s.groups k with
  | none => .ok s
  | some g =>
    let log := stackLog s g
    let ps := placeSpills g.spilled (g.paths.take (g.paths.length - 8))
    let rs := rasSpill g
    if ps.isEmpty && rs.isEmpty then .ok s
    else if ps.any (fun p => log = 0 || 2 ^ (log - 6) ≤ p.place) then .fault s fcIllegalOpnd 0
    else
      (storeAll s k g [] s (rs.map (fun r => (rasAddr g g.rasSpilled, leBytes (r.ret % 2 ^ 40) 8)) ++
          ps.map (fun p => (spillAddr g log p.place, wordsBytes (pathWords p))))).andThen (fun t =>
        .ok (updGroup t k (fun h =>
          { h with paths := g.paths.drop (g.paths.length - 8), spilled := g.spilled ++ ps, rasSpilled := g.rasSpilled + rs.length })))

/-- Refills while fewer than eight entries remain on chip, the most recently spilled first (R225). -/
def refillPaths (s : State) (k : Nat) : Nat → Out
  | 0 => .ok s
  | n + 1 =>
    match tabGet s.groups k with
    | none => .ok s
    | some g =>
      match g.spilled.getLast? with
      | none => .ok s
      | some q =>
        if 8 ≤ g.paths.length then .ok s
        else
          let (o, d) := loadNow s k g (spillAddr g (stackLog s g) q.place) 32 none
          o.andThen (fun t =>
            refillPaths (updGroup t k (fun g => { g with spilled := g.spilled.dropLast, paths := readBack q d :: g.paths })) k n)

/-- A running path that was spilled is read back (R225). -/
def readRunning (s : State) (k : Nat) (g : Grp) : Out :=
  match g.fromSpill with
  | none => .ok s
  | some (e, b) =>
    let (o, d) := loadNow s k g (spillAddr g (stackLog s g) e) 32 none
    let p := readBack ⟨.runnable, 0, 0, 0, 0, 0, false, e, b⟩ d
    o.andThen (fun t => .ok (updGroup t k (fun g => { g with pc := p.pc, em := p.em, fromSpill := none })))

/-- Refills and spills of the path table and of the return-address stack (R214, R225). -/
def balance (s : State) (k n : Nat) : Out :=
  match tabGet s.groups k with
  | none => .ok s
  | some g => ((readRunning s k g).andThen (fun t => refillPaths t k n)).andThen (fun t => spillAll t k)

/-- Pushes a return-address entry (R310, R312); where a seventeenth entry is then on chip, the end of the instruction spills
the oldest (R214). -/
def rasPush (s : State) (k : Nat) (r : RasEnt) : Out :=
  match tabGet s.groups k with
  | none => .ok s
  | some g =>
    if g.ras.length + 1 ≥ (if stackLog s g = 0 then 17 else 2 ^ (stackLog s g - 4)) then .fault s fcIllegalOpnd 0
    else
      let h := { g with ras := g.ras ++ [r] }
      if (rasSpill h).any (fun x => !rasSimple x) then .fault s fcIllegalOpnd 0 else .ok (setGroup s k h)

/-- Before the top entry is used: an entry that had been spilled is read back (R214, R312), with EXP the
lanes of the path whose RET consumes it. -/
def rasRefill (s : State) (k : Nat) (em : Mask) : Out :=
  match tabGet s.groups k with
  | none => .ok s
  | some g =>
    let depth := g.ras.length
    if depth = 0 || g.rasSpilled < depth then .ok s
    else
      let (o, d) := loadNow s k g (rasAddr g (depth - 1)) 8 none
      o.andThen (fun t => .ok (updGroup t k (fun g =>
        { g with ras := g.ras.dropLast ++ [⟨d % 2 ^ 40, false, em, 0⟩], rasSpilled := depth - 1 })))

/-- The return-address stack as it was: an instruction that faults changes nothing of it (R10). -/
def keepRas (s : State) (k : Nat) (g : Grp) : State := updGroup s k (fun h => { h with ras := g.ras, rasSpilled := g.rasSpilled })

end Sys2Proof.Machine
end

