-- ==== Sys2Proof/Machine/Issue.lean ====
section
/-! DEFINITION. Issuing an instruction of the current group: what holds it at issue (10_group R231, R232,
R234; 14_formats R293), the checks of orders 6 and 7 of R296, STALL_SHORT, the numerical causes of its
effect (03_triplex R77), and what every issue leaves (hints, landing of fixed-latency results, lane
counts). -/

namespace Sys2Proof.Machine

open Sys2Proof

/-- The result of an instruction's own effect: the new state and what it noted, a fault, or no issue. -/
inductive Res where
  | ok (s : State) (n : Notes)
  | fault (s : State) (cause addr : Nat)
  | wait (s : State)
  /-- The running path waits at this instruction, which executes again when the wait ends (R219, R225). -/
  | park (s : State) (n : Notes)
  /-- A unit of a synchronous long instruction is done, and more remain (R235). -/
  | unit (s : State)

/-- An operation's outcome as an instruction's result. -/
def Out.toRes (o : Out) (n : Notes) : Res :=
  match o with
  | .ok s => .ok s n
  | .fault s c a => .fault s c a
  | .wait s => .wait s

/-- Cells a load, atomic or WAITA of the group will write (R232, R234). -/
def accCells (g : Grp) (a : Acc) : List Cell :=
  let extra := if a.kind = .waita then 1 else 0
  match a.d with
  | .v i =>
    (((a.parts.map (fun p => lanesOf g (threadOf g p.2.lane))).flatten).map (fun l =>
      (List.range (a.ty.span + extra)).map (fun k => Cell.v (i.toNat + k) l))).flatten
  | .s i => (List.range ((a.ty.bits + 63) / 64)).map (fun k => Cell.s (i.toNat + k))
  | _ => []

/-- The access returns data to the group. -/
def accReturns (a : Acc) : Bool :=
  match a.kind with
  | .load | .ldx | .atomic | .waita => true
  | _ => false

/-- Cells an engine operation will write (MACC into registers, R402), but for writes that a debugger cancelled. -/
def opCells (g : Grp) (o : EngOp) : List Cell :=
  List.filter (fun c => !o.cancel.contains c) <|
  match o.i with
  | .macc w =>
    match w.d with
    | .v i =>
      (((List.range (nThreads g)).filter o.threads.getLsbD).map (fun t =>
        ((lanesOf g t).map (fun l => (List.range (2 ^ (w.m.toNat / 128 % 4))).map (fun k => Cell.v (i.toNat + k) l))).flatten)).flatten
    | _ => []
  | _ => []

/-- Accesses of a group. -/
def grpAccs (s : State) (g : Grp) : List (Nat × Acc) := s.accs.filter (fun a => a.2.gser == g.serial)

/-- Cells that a path's wait will write: the predicate of BWAITP (R266, R294). -/
def waitCells (p : Path) : List Cell :=
  match p.kind with
  | .waiting _ (.barrier _ _ q ts _) => ((List.range 96).filter ts.getLsbD).map (Cell.p q)
  | _ => []

/-- Cells with a variable-latency write outstanding (R232). -/
def outCells (s : State) (g : Grp) : List Cell :=
  ((g.vres.map (fun v => v.writes.map (·.cell))).flatten) ++
  (((grpAccs s g).map (fun a => if accReturns a.2 then (accCells g a.2).filter (fun c => !a.2.cancel.contains c) else [])).flatten) ++
  (((s.ops.filter (fun o => o.2.gser == g.serial)).map (fun o => opCells g o.2)).flatten) ++
  (match g.tx.pdst with | some p => ((List.range (nThreads g)).filter g.tx.threads.getLsbD).map (fun t => Cell.p p t) | none => []) ++
  (((allPaths g).map waitCells).flatten)

/-- The access is held by a replayable fault (R172). -/
def accHeld (a : Acc) : Bool := a.held

/-- Held registers (R234). -/
def heldCells (s : State) (g : Grp) : List Cell :=
  ((grpAccs s g).map (fun a => if accReturns a.2 && accHeld a.2 then (accCells g a.2).filter (fun c => !a.2.cancel.contains c) else [])).flatten

/-- Elements, and source and destination registers, of a block of XFM.R's `.cvt` (R353, R403). -/
def cvtSpans (st dt : Ty) : Nat × Nat × Nat :=
  let n := cvtCount st dt
  (n, max 1 (n * st.bits / 32), max 1 (n * dt.bits / 32))

/-- FN, TYPE and blocks of an XFM.R (R403). -/
def xfmFn (m : BitVec 12) : Nat := m.toNat % 8
def xfmTy (m : BitVec 12) : Ty := (tyOfCode (m.toNat / 8 % 32)).getD .f32
def xfmBlks (m : BitVec 12) : Nat := m.toNat / 256 % 8 + 1

/-- XFM.R's parameter: the bits of an IMM13, or a register (R403). -/
def paramOf (g : Grp) : Opnd → Nat
  | .imm x => x.toNat
  | .s i _ _ => (regS g i.toNat).toNat
  | _ => 0

/-- The registers that the checks of R231, R232 and R234 see: XFM.R's spans follow its parameter (R403). -/
def hazSig (g : Grp) (i : Instr) (σ : Sig) : Sig :=
  match i with
  | .xfmR w =>
    let x := paramOf g w.b
    let n := xfmBlks w.m
    match xfmFn w.m with
    | 0 =>
      let (_, a, d) := cvtSpans ((tyOfCode (bits x 12 8)).getD .f32) (xfmTy w.m)
      { σ with a := { σ.a with vspan := n * a }, d := { σ.d with vspan := n * d } }
    | 2 => { σ with a := { σ.a with vspan := (n * bits x 5 0 + 31) / 32 } }
    | _ => σ
  | _ => σ

/-- The lanes whose registers an instruction reads: XLANE, RDLANE and XFM.R's `.tr8` read those of threads that are not Active
too (R336, R338, R403). -/
def readMask (g : Grp) (i : Instr) (act : Mask) : Mask :=
  let all := if act = 0 then 0 else BitVec.ofNat 96 (2 ^ nLanes g - 1)
  match i with
  | .xlane _ | .rdlane _ => all
  | .xfmR w => if xfmFn w.m = 3 then all else act
  | _ => act

/-- What the word's B place reads: POP.nb writes its predicate there (R384). -/
def readB (i : Instr) (f : Fields) : Opnd :=
  match i with
  | .pop w => if w.m.getLsbD 2 then .none else f.b
  | _ => f.b

/-- The cells that a word writes beside D: POP.nb's predicate (R384), and the register after DECODE's (R406). -/
def extraCells (g : Grp) (i : Instr) (f : Fields) : List Cell :=
  match i, f.a, f.b with
  | .pop w, _, .pred p inv => if w.m.getLsbD 2 then opndCells g (oK [.pred]) 0 (.pred p inv) else []
  | .decode _, .s n _ _, _ => [Cell.s (n.toNat + 1)]
  | _, _, _ => []

/-- Cells the word reads, its guard included. -/
def readCells (g : Grp) (i : Instr) (σ : Sig) (f : Fields) (act : Mask) : List Cell :=
  (if f.hdr.pred = 7 then [] else (List.range (nThreads g)).map (fun t => Cell.p f.hdr.pred.toNat t)) ++
  (if act = 0 then []
   else opndCells g σ.a act f.a ++ opndCells g σ.b act (readB i f) ++ opndCells g σ.c act f.c ++
     (if σ.d.src then dstCells g σ.d act f.d else []))

/-- Cells the word writes: every lane's cell counts for a register with a write outstanding (R232). -/
def writeCells (g : Grp) (i : Instr) (σ : Sig) (f : Fields) : List Cell :=
  dstCells g σ.d (BitVec.ofNat 96 (2 ^ nLanes g - 1)) f.d ++ extraCells g i f

/-- A destination or operand within the role budget and below s64, spans included (R296 order 6). -/
def opndInRange (g : Grp) (σ : OSig) (o : Opnd) : Bool :=
  match o with
  | .v i _ _ => i.toNat + σ.vspan ≤ g.budget
  | .s i _ _ => i.toNat + (if σ.em && g.paired then 2 * σ.sspan else σ.sspan) ≤ 64
  | _ => true

/-- The destination counterpart. -/
def dstInRange (g : Grp) (σ : DSig) (d : Dst) : Bool :=
  match d with
  | .v i => i.toNat + σ.vspan ≤ g.budget
  | .s i => i.toNat + (if σ.em && g.paired then 2 * σ.sspan else σ.sspan) ≤ 64
  | _ => true

/-- Every register of the word is in range (R296 order 6). -/
def inRange (g : Grp) (σ : Sig) (f : Fields) : Bool :=
  dstInRange g σ.d f.d && opndInRange g σ.a f.a && opndInRange g σ.b f.b && opndInRange g σ.c f.c

/-- Opcodes that single-lane mode does not permit (R296 order 7, R357). -/
def modeOk (g : Grp) (i : Instr) : Bool :=
  match i with
  | .digits _ | .sibrd _ | .sibwr _ | .sibmed _ | .sibmean _ | .sibdiff _ => g.triplex
  | _ => true

/-- What holds an instruction at issue. -/
inductive Gate where
  | go
  | no
  | faultWait
  deriving DecidableEq, Repr

/-- The group may issue at all in this cycle: clocks run, it is ACTIVE (or stepped by a debugger), it has
a running path, its context runs or skids, its issue gap is over (R186, R219, R231, R410). -/
def mayIssue (s : State) (k : Nat) (g : Grp) : Bool :=
  !s.pkg.frozen && (g.state == .active || (g.state == .stopped && g.step)) && g.running && decide (g.nextAt ≤ s.cycle) &&
  (match tabGet s.ctxs g.ctx with
   | some c => c.state == .running || (c.state == .halting && !groupHeld s k c)
   | none => false)

/-- The gate of R232, R234 and R293 on one word with its hazard spans. -/
def gateOf (s : State) (g : Grp) (i : Instr) (σ : Sig) (f : Fields) (act : Mask) : Gate :=
  let busy := (List.range 4).filter (fun n => f.hdr.wait.getLsbD n && tabGetD g.sb n 0 != 0)
  let heldSlots := (grpAccs s g).filterMap (fun a => if accHeld a.2 && accReturns a.2 then a.2.slot else none)
  let rw := readCells g i σ f act ++ writeCells g i σ f
  let held := heldCells s g
  if rw.any held.contains || busy.any heldSlots.contains then .faultWait
  else if !busy.isEmpty then .no
  else if (match f.hdr.set with | some n => decide (15 ≤ tabGetD g.sb n.toNat 0) | none => false) then .no
  else if (if σ.d.src && σ.lat == .no then [] else writeCells g i σ f).any (outCells s g).contains then .no
  else .go

/-- A memory, engine, channel or barrier instruction (R361, R381). -/
def memClass (i : Instr) : Bool := (sigMemory i).isSome || (sigEngine i).isSome

/-- What holds a word whose guard leaves the lanes `act` (R232, R234, R293): one of those classes does not issue while the group
prepares a commit (R375). -/
def wordGate (s : State) (g : Grp) (i : Instr) (σ : Sig) (f : Fields) (act : Mask) : Gate :=
  if g.tx.state = .preparing ∧ memClass i then .no else gateOf s g i (hazSig g i σ) f (readMask g i act)

/-- A cell the word reads is not due or outstanding (R231, R232). -/
def readsEarly (s : State) (g : Grp) (i : Instr) (σ : Sig) (f : Fields) (act : Mask) : Bool :=
  let rs := readCells g i σ f act
  rs.any (fun c => g.pend.any (fun p => p.writes.any (fun w => w.cell.reg == c))) || rs.any (outCells s g).contains

/-- The word reads a cell that holds a poisoned word (R30). -/
def readsPoison (g : Grp) (i : Instr) (σ : Sig) (f : Fields) (act : Mask) : Bool :=
  !g.poison.isEmpty && (readCells g i σ f act).any g.poison.contains

/-- The constants an instruction reads come from its grid's object and LPB (R203). -/
def envOf (s : State) (g : Grp) (h : Hdr) : Env :=
  let lpb := ((tabGet s.grids g.grid).map (·.lpb)).getD []
  let cs := ((tabGet s.grids g.grid).bind (fun x => (tabGet s.ctxs g.ctx).bind (fun c => tabGet c.objs x.obj))).map (·.consts)
  ⟨g, cs.getD [], lpb, activeMask g h⟩

/-- Takes slots down by one. -/
def slotDown (sb : Tab Nat) (n : Nat) : Tab Nat := tabPut sb n (tabGetD sb n 0 - 1)

/-- A slot goes up by one at issue (R232). -/
def slotUp (g : Grp) (n : Option Nat) : Grp :=
  match n with
  | some n => { g with sb := tabPut g.sb n (tabGetD g.sb n 0 + 1) }
  | none => g

/-- A slot is released. -/
def slotFree (g : Grp) (n : Option Nat) : Grp :=
  match n with
  | some n => { g with sb := slotDown g.sb n }
  | none => g

/-- Slots of instructions with no register result are released a cycle after their issue (R293). -/
def releaseSlots (cycle : Nat) (g : Grp) : Grp :=
  g.pend.foldl
    (fun g p => if p.freeAt.any (fun c => decide (c ≤ cycle)) then slotFree g p.slot else { g with pend := g.pend ++ [p] })
    { g with pend := [] }

/-- The counted distance `d` passes (R231): results due land in program order, and their slots go down (R293); a landing
drops its cells from results of earlier instructions that are still to land. -/
def countdown (g : Grp) (d : Nat) : Grp :=
  g.pend.foldl
    (fun g p =>
      if p.freeAt.isSome then { g with pend := g.pend ++ [p] }
      else if p.left ≤ d then
        let g1 := slotFree (putCells g p.writes) p.slot
        { g1 with pend := g1.pend.map (fun q => { q with writes := q.writes.filterMap (overtaken p.writes) }) }
      else { g with pend := g.pend ++ [{ p with left := p.left - d }] })
    { g with pend := [] }

/-- Hdr's SET slot as a number. -/
def hdrSlot (h : Hdr) : Option Nat := h.set.map (·.toNat)

/-- Sequential fetch after `pc` passes the end of its object's text range (R204). -/
def fallsOff (s : State) (ck pc : Nat) : Bool :=
  (tabGet s.ctxs ck).any (fun c => c.objs.any (fun o => o.2.base + o.2.size == pc + 1 && o.2.base ≤ pc))

/-- The target lies in the text range of a context (R203, R297). -/
def inText (s : State) (ck : Nat) (t : Int) : Bool :=
  0 ≤ t && t < 2 ^ 40 && (tabGet s.ctxs ck).any (fun c => c.objs.any (fun o => (o.2.base : Int) ≤ t && t < (o.2.base + o.2.size : Nat)))

/-- The path advances to the next instruction (R204): past 2^40 − 1 and past the end of its object's text
range the next fetch faults, by the flag `fall` or by the index itself. -/
def advance (s : State) (g : Grp) : Grp := { g with pc := g.pc + 1, fall := fallsOff s g.ctx g.pc }

/-- Lanes of the classes 0 to 3 in one issue: ACTIVE, DIVERGED, PREDOFF and ABSENT (R414, R415). -/
def laneClasses (g : Grp) (act : Mask) : List (Nat × Nat) :=
  let ls := List.range (nLanes g)
  let n0 := (ls.filter act.getLsbD).length
  let n2 := (ls.filter (fun l => g.em.getLsbD l && !act.getLsbD l)).length
  let n3 := (ls.filter (g.absent ||| g.ended).getLsbD).length
  [(0, n0), (1, nLanes g - n0 - n2 - n3), (2, n2), (3, n3)]

/-- Lanes of a class land in the bin of a PC (R415). -/
def binLanes (v : Vf) (pc : Nat) (t : Tab W64) (cn : Nat × Nat) : Tab W64 :=
  let r := min ((pc - fld v.lcrctl 39 0) / 2 ^ min (fld v.lcrctl 63 58) 40) 15
  if cn.2 = 0 then t else tabPut t (5 * r + cn.1) (tabGetD t (5 * r + cn.1) 0 + BitVec.ofNat 64 cn.2)

/-- Lane counts of one issue (R414), and what the core's counters count of it (R416). -/
def countLanes (s : State) (k : Nat) (g : Grp) (act : Mask) : State :=
  let vf := ctxVf g.ctx
  let s1 := updVf s vf (fun v => { v with lcr := (laneClasses g act).foldl (binLanes v g.pc) v.lcr })
  ((5, 1) :: laneClasses g act).foldl (fun t cn => prfAdd t vf 0 (dieOf k) (coreOf k % 64) cn.1 cn.2) s1

/-- What every issue leaves of its hints (R231, R229, R410): results come nearer by STALL + 1, the next
issue waits, YLD is noted, a stepped group stops again. -/
def hints (cycle : Nat) (g : Grp) (h : Hdr) : Grp :=
  let g1 := countdown g (h.stall.toNat + 1)
  { g1 with nextAt := cycle + h.stall.toNat + 1, yld := g.yld || h.yld, step := false }

/-- Takes a fault at the current instruction: nothing of the instruction stands (R10); the group is the
unit that raised it (R185). -/
def takeFault (s : State) (k cause addr : Nat) : Host.Outcome State Fault Refusal :=
  .next { raiseGroup s k cause addr with cur := none }

/-- How a meaning is issued: whether it sets the PC itself, whether it counts its own SET slot, and whether
it can change paths. -/
structure How where
  ownPc : Bool
  ownSlot : Bool
  paths : Bool

/-- A path instruction or one that moves lanes: it sets the PC itself and can change paths (R306). -/
def howPath : How := ⟨true, false, true⟩

/-- A group-effect instruction that advances to the next instruction. -/
def howPlain : How := ⟨false, false, false⟩

/-- Applies the numerical causes (R77): the fault with its records on the state before the instruction, or
the flags and records on the state after it. -/
def numApply (s0 s1 : State) (k pc : Nat) (n : Notes) : Except State State :=
  match tabGet s1.groups k, tabGet s0.groups k with
  | some g1, some g0 =>
    match numEval { g1 with numctl := g0.numctl } n with
    | .halt rs => .error (rs.foldl (fun t e => numPush t k pc true e) s0)
    | .go fl rs => .ok (rs.foldl (fun t e => numPush t k pc false e) (setGroup s1 k { g1 with numflag := fl }))
  | _, _ => .ok s1

/-- The instruction issues: nothing holds it, and it passes orders 6 and 7 of R296 and the check of SCHK. -/
def issueReady (i : Instr) (s : State) (k : Nat) (g : Grp) (σ : Sig) (f : Fields) : Bool :=
  let act := readMask g i (activeMask g f.hdr)
  let τ := hazSig g i σ
  mayIssue s k g && wordGate s g i σ f (activeMask g f.hdr) == .go && inRange g σ f && modeOk g i &&
    !(g.schk && readsEarly s g i τ f act) && !readsPoison g i τ f act

/-- A word that does not issue leaves its scheduler free in this cycle (R229). -/
def noIssue (s : State) (k : Nat) : State := { s with cur := none, issued := s.issued.filter (· != schedOf k) }

/-- What an issue that does not take place leaves: FAULT_WAIT on a held register (R234), or the fault of
orders 6 and 7, of SCHK or of a poisoned register (R296, R231, R232, R30); otherwise nothing, and the group tries again. -/
def notReady (i : Instr) (s : State) (k : Nat) (g : Grp) (σ : Sig) (f : Fields) : Host.Outcome State Fault Refusal :=
  if !mayIssue s k g then .next (noIssue s k)
  else
    match wordGate s g i σ f (activeMask g f.hdr) with
    | .no => .next (noIssue s k)
    | .faultWait => .next (noIssue (setGroup s k { g with state := if g.state = .active then .faultWait else g.state }) k)
    | .go =>
      if !inRange g σ f then takeFault s k fcRegRange 0
      else if !modeOk g i then takeFault s k fcIllegalMode 0
      else if g.schk && readsEarly s g i (hazSig g i σ) f (readMask g i (activeMask g f.hdr)) then takeFault s k fcStallShort 0
      else takeFault s k fcUncorrectable 0

/-- The group after an instruction without a latency of its own: its SET slot goes up for a cycle (R293). -/
def marksSlot (s : State) (g : Grp) (h : Hdr) : Grp :=
  match hdrSlot h with
  | some m => { slotUp g (some m) with pend := g.pend ++ [⟨1, [], some m, some (s.cycle + 1)⟩] }
  | none => g

/-- What every completed issue leaves on its group: the next PC, the SET slot of an instruction without a
latency of its own (R293), and its hints. -/
def afterIssue (s : State) (how : How) (h : Hdr) (g : Grp) : Grp :=
  let g1 := if how.ownPc then g else advance s g
  hints s.cycle (if how.ownSlot then g1 else marksSlot s g1 h) h

/-- Completions, selection of the next path and the spills these need (R224 to R228): the outcome and the
LOST events. -/
def settlePaths (s : State) (k : Nat) : Out × List (Nat × Mask) :=
  match tabGet s.groups k with
  | some g =>
    let (g1, ev) := settle g s.cycle settleFuel
    (balance (setGroup s k g1) k 32, ev)
  | none => (.ok s, [])

/-- Ends an issue: numerical causes on `s1` as against the state `s` before it, and the lane counts. -/
def concludeIssue (s s1 : State) (k : Nat) (g : Grp) (act : Mask) (n : Notes) : Host.Outcome State Fault Refusal :=
  match numApply s s1 k g.pc n with
  | .error t => takeFault t k fcNumi 0
  | .ok t => .next { countLanes t k g act with cur := none }

/-- What the memory side keeps of an issue that did not complete: walks, records, and what the group's one-piece access
waits for. -/
def memSide (s t : State) (k : Nat) : State :=
  let s1 := { s with
    mem := t.mem, lines := t.lines, tlb := t.tlb, walks := t.walks, ctxs := t.ctxs, vfs := t.vfs, dies := t.dies, raised := t.raised,
    fars := t.fars, serial := t.serial }
  match tabGet t.groups k with
  | some h => updGroup s1 k (fun g => { g with poolSince := h.poolSince, waitRec := h.waitRec })
  | none => s1

/-- Ends an issue that moved paths. -/
def concludePaths (s s1 : State) (k : Nat) (g : Grp) (act : Mask) (n : Notes) : Host.Outcome State Fault Refusal :=
  let (o, ev) := settlePaths s1 k
  match o with
  | .wait t => .next (noIssue (memSide s t k) k)
  | .fault t c a => takeFault (memSide s t k) k c a
  | .ok t => concludeIssue s t k g act { n with lost := n.lost ++ ev }

/-- The running path waits at its instruction: a SPLIT that halts does so now, and nothing else of the
instruction is noted until it executes again. -/
def concludePark (s s1 : State) (k : Nat) (g : Grp) (act : Mask) (n : Notes) : Host.Outcome State Fault Refusal :=
  let (o, ev) := settlePaths (updGroup s1 k (fun g => { g with step := false })) k
  match o with
  | .wait t => .next (noIssue (memSide s t k) k)
  | .fault t c a => takeFault (memSide s t k) k c a
  | .ok t =>
    match numApply s t k g.pc { n with lost := n.lost ++ ev } with
    | .error u => takeFault u k fcNumi 0
    | .ok _ =>
      match numApply s t k g.pc { Notes.nil with lost := ev } with
      | .error u => takeFault u k fcNumi 0
      | .ok u => .next { countLanes u k g act with cur := none }

/-- What the instruction's own effect becomes. -/
def conclude (s : State) (k : Nat) (g : Grp) (how : How) (h : Hdr) (r : Res) : Host.Outcome State Fault Refusal :=
  match r with
  | .wait s1 => .next (noIssue s1 k)
  | .fault s1 c a => takeFault s1 k c a
  | .park s1 n => concludePark s s1 k g (activeMask g h) n
  | .unit s1 => .next { countLanes (updGroup s1 k (fun g => { g with step := false })) k g (activeMask g h) with cur := none }
  | .ok s1 n =>
    let s2 := updGroup s1 k (afterIssue s how h)
    if how.paths then concludePaths s s2 k g (activeMask g h) n else concludeIssue s s2 k g (activeMask g h) n

/-- Issues the current group's instruction with its own effect `body` (R296, R10). -/
def issue (i : Instr) (how : How) (body : State → Nat → Grp → Env → Res) (s : State) : Host.Outcome State Fault Refusal :=
  match s.cur with
  | none => .fault .noGroup
  | some k =>
    match tabGet s.groups k, sig i, fields i with
    | some g0, some σ, some f =>
      let g := { releaseSlots s.cycle g0 with yld := false }
      let s0 := setGroup s k g
      if issueReady i s0 k g σ f then conclude s0 k g how f.hdr (body s0 k g (envOf s0 g f.hdr))
      else notReady i s0 k g σ f
    | _, _, _ => .fault .noGroup

/-- What a lane instruction computes: its register writes, its notes, and the draws it made of each thread
(thread, number). -/
structure LaneRes where
  writes : List RegW
  notes : Notes
  draws : List (Nat × Nat)

/-- Advances draw indices (R60). -/
def advanceDraws (g : Grp) (ds : List (Nat × Nat)) : Grp :=
  { g with draws := ds.foldl (fun t d => tabPut t d.1 ((tabGetD t d.1 0 + d.2) % 2 ^ 30)) g.draws }

/-- Puts a result on its way: fixed latency by counted distance, variable latency until it lands (R231,
R232, R293). -/
def sendResult (s : State) (k : Nat) (g : Grp) (lat : Lat) (slot : Option Nat) (ws : List RegW) : State :=
  match lat with
  | .fix n => setGroup s k { slotUp g slot with pend := g.pend ++ [⟨n, ws, slot, none⟩] }
  | .var =>
    let (id, s1) := fresh s
    setGroup s1 k { slotUp g slot with vres := g.vres ++ [⟨id, ws, slot, none⟩] }
  | .no =>
    let g1 := landCells g ws
    setGroup s k { slotUp g1 slot with pend := g1.pend ++ [⟨1, [], slot, some (s.cycle + 1)⟩] }

/-- A group's path that waits for `p` is runnable again, past its instruction when that is `done` (R220); a
group in WAIT becomes READY. -/
def wakePath (s : State) (k : Nat) (p : WaitOn → Bool) (done : Bool) : State :=
  let hit := fun (x : Path) => match x.kind with | .waiting _ w => p w | _ => false
  let f := fun (c : Nat) (x : Path) =>
    if hit x then
      if done then { x with kind := .runnable, pc := x.pc + 1, fall := fallsOff s c x.pc, bump := x.bump + 1 } else { x with kind := .runnable }
    else x
  updGroup s k (fun g =>
    if (allPaths g).any hit then
      { g with
        paths := g.paths.map (f g.ctx), spilled := g.spilled.map (f g.ctx),
        state := if g.state = .wait then .ready else g.state,
        readyAt := if g.state = .wait then s.cycle else g.readyAt }
    else g)

/-- The running path begins a long-latency wait at its instruction (R225). -/
def parkOn (s : State) (k : Nat) (r : Reason) (w : WaitOn) : State :=
  updGroup s k (fun g => parkRunning g (.waiting r w) s.cycle)

/-- A store or reduction, which a release waits for (R96). -/
def accStores (a : Acc) : Bool :=
  match a.kind with
  | .store | .stx | .red => true
  | _ => false

/-- The access takes part in the order of its group's accesses (R122): not a wait, a drain or a prefetch (R374). -/
def accOrders (a : Acc) : Bool :=
  match a.kind with
  | .waita | .drain | .pref => false
  | _ => true

/-- A release of the group waits: a store that a group of the core issued is not acknowledged, or an access
of the group itself is not complete (R96, R124). -/
def releaseHeld (s : State) (k : Nat) (g : Grp) : Bool :=
  s.accs.any (fun a => (a.2.core == coreOf k && accStores a.2) ||
    (a.2.gser == g.serial && accOrders a.2))

/-- The group's later accesses wait for an acquire of its own (R124). -/
def acquireHeld (s : State) (g : Grp) : Bool := (grpAccs s g).any (fun a => a.2.acq && a.2.kind != .waita)

/-- Memory, engine, channel and barrier instructions do not issue while the group prepares a commit
(R375) or an acquire of its own is outstanding (R124). -/
def memoryHeld (s : State) (g : Grp) : Bool :=
  g.tx.state == .preparing || acquireHeld s g || (grpAccs s g).any (fun a => decide (a.1 < g.fenced) && accOrders a.2)

/-- A link carries the request of a part, whose home may have answered it already. -/
def partSent (s : State) (id i : Nat) : Bool := s.links.any (fun l => l.2.sent.contains (id, i))

/-- Loads of a VF whose requests are under way over links fill no line of a core's L1: they may have been read before the
acquire (R96, R125). -/
def noFills (s : State) (core vf : Nat) : Tab Acc :=
  tabMap s.accs (fun id (a : Acc) =>
    if a.core = core ∧ ctxVf a.ctx = vf ∧ a.parts.any (fun p => p.2.l1 && !p.2.done && partSent s id p.1) = true then
      { a with parts := tabMap a.parts (fun i p => if partSent s id i then { p with l1 := false } else p) }
    else a)

/-- An acquire at .clu or wider removes the VF's non-local L1 lines on the core (R96). -/
def acquireL1 (s : State) (k vf : Nat) (scope : Scope) : State :=
  match scope with
  | .grp | .team | .core => s
  | _ => updCore { s with accs := noFills s (coreOf k) vf } (coreOf k) (fun c => { c with l1 := c.l1.filter (fun l => l.vf != vf) })

/-- The mark becomes invalid (R188). -/
def unmark (g : Grp) : Grp := { g with mark := { g.mark with valid := false } }

/-- Issues an instruction that computes register values from the state. -/
def laneInsS (i : Instr) (h : Hdr) (lat : Lat) (f : State → Env → Except Nat LaneRes) (s : State) :
    Host.Outcome State Fault Refusal :=
  issue i ⟨false, true, false⟩
    (fun s k g e =>
      match f s e with
      | .error c => .fault s c 0
      | .ok r =>
        let nd := r.draws.foldl (fun n d => n + d.2) 0
        .ok (prfAdd (sendResult s k (advanceDraws g r.draws) lat (hdrSlot h) r.writes) (ctxVf g.ctx) 0 (dieOf k) (coreOf k % 64) 6 nd) r.notes)
    s

/-- Issues an instruction that computes on registers alone. -/
def laneIns (i : Instr) (h : Hdr) (lat : Lat) (f : Env → Except Nat LaneRes) (s : State) : Host.Outcome State Fault Refusal :=
  laneInsS i h lat (fun _ => f) s

end Sys2Proof.Machine
end

