-- ==== Sys2Proof/Machine/Alu.lean ====
section
/-! DEFINITION. The frame shared by instructions that compute one value per lane, or one for the group in a scalar
form (16_integer R324 to R326, 17_float R342, R343), and by those that write a predicate (R67). -/

namespace Sys2Proof.Machine

open Sys2Proof

/-- An operand as an instruction reads it: its type, the width read, and whether it is single-valued. -/
structure ASpec where
  o : Opnd
  ty : Ty
  tw : Nat
  sv : Bool

/-- A data operand in a TYPE. -/
def opX (ty : Ty) (o : Opnd) : ASpec := ⟨o, ty, ty.width, false⟩

/-- A single-valued operand in a TYPE (R68). -/
def opSv (ty : Ty) (o : Opnd) : ASpec := ⟨o, ty, ty.width, true⟩

/-- The value an operand gives a lane. -/
def specVal (e : Env) (lane : Nat) (p : ASpec) : Nat :=
  if p.sv then (svW e p.ty p.tw p.o (threadOf e.g lane)).1 else rdW e p.ty p.tw p.o lane

/-- Lanes in which a single-valued operand splits. -/
def specSplit (e : Env) (p : ASpec) : Mask := if p.sv then (svAll e p.ty p.tw p.o).2 else 0

/-- Split lanes of all operands. -/
def splitOf (e : Env) (ps : List ASpec) : Mask := ps.foldl (fun m p => m ||| specSplit e p) 0

/-- The operands' values of a scalar form, each uniform, and the lanes that split (R238, R325). -/
def uniVals (e : Env) : List ASpec → Option (List Nat) × Mask
  | [] => (some [], 0)
  | p :: ps =>
    let (x, m) := unW e p.ty p.tw p.o
    let (xs, m') := uniVals e ps
    (x.bind (fun x => xs.map (x :: ·)), m ||| m')

/-- The result of a computation of `w` bits for a destination: each Active lane, or the group once. -/
def aluRes (e : Env) (d : Dst) (ext : Ty) (w : Nat) (ps : List ASpec) (f : List Nat → Nat) : Except Nat LaneRes :=
  match d with
  | .s i =>
    match uniVals e ps with
    | (none, _) => .error fcNonuniform
    | (some xs, m) => .ok ⟨if e.act = 0 then [] else wrS i.toNat ((w + 63) / 64) (extS ext w (f xs)), Notes.ofSplit m, []⟩
  | .v i =>
    .ok ⟨((activeLanes e).map (fun l => wrV i.toNat l ((w + 31) / 32) (f (ps.map (specVal e l))))).flatten,
      Notes.ofSplit (splitOf e ps), []⟩
  | _ => .ok ⟨[], Notes.nil, []⟩

/-- A one-bit register value. -/
def bitVal (b : Bool) : W64 := if b then 1 else 0

/-- The majority of a thread's results (R67). -/
def majority (rs : List Bool) : Bool := rs.length < 2 * rs.countP id

/-- The results of one thread are not all equal. -/
def disagree (rs : List Bool) : Bool := rs.any id && rs.any (!·)

/-- A predicate result: one for each sibling, the majority written, CMP noted where they differ (R67). -/
def predRes (e : Env) (d : Dst) (r : Nat → List Bool) : LaneRes :=
  match d with
  | .p i =>
    let ts := activeThreads e
    ⟨ts.map (fun t => ⟨.p i.toNat t, bitVal (majority (r t))⟩),
      { Notes.nil with cmp := maskOf e.g ts (fun t => disagree (r t)) }, []⟩
  | _ => ⟨[], Notes.nil, []⟩

/-- Sibling results of a thread from a function of the lane. -/
def sibs (g : Grp) (f : Nat → Bool) (t : Nat) : List Bool := (lanesOf g t).map f

end Sys2Proof.Machine
end

