-- ==== Sys2Proof/Machine/Barrier.lean ====
section
/-! DEFINITION. The barrier object (12_barrier R260 to R270). A barrier is named by its core and its index in the
core's barrier file. -/

namespace Sys2Proof.Machine

open Sys2Proof

/-- The fields of a barrier word (R260). -/
structure Bar where
  phase : Nat
  valid : Bool
  inval : Bool
  arrPend : Nat
  arrInit : Nat
  sec : Int
  cts : Nat
  deriving DecidableEq, Repr

/-- Reads a barrier word (R260). -/
def barOf (w : W128) : Bar :=
  let x := w.toNat
  ⟨x % 16, x / 16 % 2 == 1, x / 32 % 2 == 1, x / 2 ^ 8 % 2 ^ 16, x / 2 ^ 24 % 2 ^ 16, toInt 24 (x / 2 ^ 40 % 2 ^ 24), x / 2 ^ 96 % 2 ^ 32⟩

/-- Forms a barrier word, reserved bits zero (R260). -/
def barWord (b : Bar) : W128 :=
  BitVec.ofNat 128 (b.phase % 16 + (if b.valid then 16 else 0) + (if b.inval then 32 else 0) +
    b.arrPend % 2 ^ 16 * 2 ^ 8 + b.arrInit % 2 ^ 16 * 2 ^ 24 + wrapInt 24 b.sec * 2 ^ 40 + b.cts % 2 ^ 32 * 2 ^ 96)

/-- A barrier of a core. -/
def barGet (s : State) (core i : Nat) : Bar := barOf (tabGetD (getCore s core).bars i 0)

/-- Writes a barrier of a core. -/
def barPut (s : State) (core i : Nat) (b : Bar) : State :=
  updCore s core (fun c => { c with bars := tabPut c.bars i (barWord b) })

/-- The context of an operation is on its core: its operations are in the core's queues. -/
def opLive (s : State) (o : EngOp) : Bool :=
  (tabGet s.ctxs o.ctx).any (fun c => c.state == .running || c.state == .halting || c.state == .saving)

/-- An engine operation that counts sectors on the barrier is outstanding (R261): one of the context on the core. -/
def barOps (s : State) (core i : Nat) : Bool := s.ops.any (fun o => o.2.core == core && o.2.bar == some i && opLive s o.2)

/-- A path waits on a barrier of its core. -/
def waitsBar (i : Nat) : WaitOn → Bool
  | .barrier b .. => b == i
  | _ => false

/-- A path of a group of the core waits on the barrier (R261). -/
def barWaited (s : State) (core i : Nat) : Bool :=
  s.groups.any (fun kg => coreOf kg.1 == core && (allPaths kg.2).any (fun p =>
    match p.kind with
    | .waiting _ w => waitsBar i w
    | _ => false))

/-- The barrier is IDLE (R261). -/
def barIdle (s : State) (core i : Nat) : Bool :=
  let b := barGet s core i
  !barWaited s core i && !barOps s core i && (!b.valid || (b.arrPend == b.arrInit && b.sec == 0))

/-- A phase token is satisfied (R265). -/
def tokenOk (phase tok : Nat) : Bool :=
  let d := (phase + 16 - tok % 16) % 16
  1 ≤ d && d ≤ 8

/-- Ends the waits of a group's paths on a barrier for which `t` holds of the token, with a predicate (R266). -/
def endBarWaits (s : State) (k i : Nat) (t : Nat → Bool) (val : Bool) : State :=
  match tabGet s.groups k with
  | none => s
  | some g =>
    let hit := fun w => match w with | WaitOn.barrier b tok .. => b == i && t tok | _ => false
    let g1 := (allPaths g).foldl (fun g p => match p.kind with
      | .waiting _ (.barrier b tok pr th slot) =>
        if b == i && t tok then
          slotFree (landCells g (((List.range (nThreads g)).filter th.getLsbD).map (fun x => RegW.mk (.p pr x) (if val then 1 else 0)))) slot
        else g
      | _ => g) g
    wakePath (setGroup s k g1) k hit true

/-- Groups resident on a core. -/
def coreGroups (s : State) (core : Nat) : List Nat := tabKeys s.groups (fun k _ => coreOf k == core)

/-- Tests the waits on a barrier (R264, R266). -/
def testBarWaits (s : State) (core i : Nat) : State :=
  let ph := (barGet s core i).phase
  (coreGroups s core).foldl (fun t k => endBarWaits t k i (tokenOk ph) true) s

/-- An evaluation (R262): the barrier advances, and its waits are due to be tested after the cycle's last event (R264). -/
def barEval (s : State) (core i : Nat) : State :=
  let b := barGet s core i
  if b.arrPend = 0 ∧ b.sec = 0 then
    let s1 := barPut s core i { b with phase := (b.phase + 1) % 16, arrPend := b.arrInit, cts := s.gts % 2 ^ 32 }
    { s1 with barDue := s1.barDue ++ [(core, i)] }
  else s

/-- The waits on the barriers that advanced are tested (R264). -/
def flushBars (s : State) : State := s.barDue.foldl (fun t b => testBarWaits t b.1 b.2) { s with barDue := [] }

/-- Places of barrier events in the order of R264: sectors by engine, BEXPECT, BARRIVE, BINVAL, BINIT and plain stores; within
one place by scheduler. -/
abbrev rkSectors : Nat := 0
abbrev rkExpect : Nat := 10
abbrev rkArrive : Nat := 20
abbrev rkInval : Nat := 30
abbrev rkInit : Nat := 40

/-- An event may reach a barrier in this cycle: none that comes after it in the order has (R264). -/
def barTurn (s : State) (core i rank : Nat) : Bool := s.barEvents.all (fun e => !(e.1 == core && e.2.1 == i && decide (rank < e.2.2)))

/-- An event reaches a barrier. -/
def barNote (s : State) (core i rank : Nat) : State := { s with barEvents := s.barEvents ++ [(core, i, rank)] }

/-- Sectors of an operation of an engine land (R262, R268, R270); `none` where SEC_PEND would fall below its range. -/
def landSectors (s : State) (core i cls n : Nat) : Option State :=
  let b := barGet s core i
  if n = 0 then some s
  else let s := barNote s core i (rkSectors + cls)
  if !b.valid then
    if b.inval then some (updCore s core (fun c => { c with bardrop := sat32 (c.bardrop + n) })) else some s
  else if b.sec - n < -(2 ^ 23) then none
  else some (barEval (barPut s core i { b with sec := b.sec - n }) core i)

/-- A plain store of a barrier word (R269); `none` where the barrier is not IDLE. -/
def barStore (s : State) (core i : Nat) (w : W128) : Option State :=
  if !barIdle s core i then none
  else
    let b := barOf w
    some (barPut s core i { b with inval := b.inval && !b.valid })

end Sys2Proof.Machine
end

