-- ==== Sys2Proof/Machine/Num.lean ====
section
/-! DEFINITION. Numbers of the arithmetic units: decoding and rounding the floating formats (02_numbers R33 to
R40), exact sums and products with their special values (17_float R345, R347), the accumulation group
(R46 to R48), the conversion policy (R49 to R56), DIGITS (03_triplex R72, R73), and the draw (R59, R60). -/

namespace Sys2Proof.Machine

open Sys2Proof

/-- A direction of rounding (R39, R63). -/
inductive RDir where
  | up | down | ne | rz
  deriving DecidableEq, Repr

/-- An extended real before rounding. `num neg m e st` has a magnitude of `m * 2^e`, or, where `st`,
strictly between that and `(m + 1) * 2^e`. `cancel` is the exact zero of a sum of values of opposite
sign, whose sign the direction gives (R345). -/
inductive XV where
  | nan
  | inf (neg : Bool)
  | zero (neg : Bool)
  | cancel
  | num (neg : Bool) (m : Nat) (e : Int) (st : Bool)
  deriving DecidableEq, Repr

/-- A floating format with sign (R33): widths, bias, the largest finite code, infinity, and the canonical NaN. -/
structure Fmt where
  eb : Nat
  fb : Nat
  bias : Int
  maxCode : Nat
  inf : Option Nat
  nan : Option Nat
  deriving DecidableEq, Repr

/-- The formats of R33 with R35, R36 and R38. -/
def fmtOf : Ty → Fmt
  | .f16 => ⟨5, 10, 15, 0x7BFF, some 0x7C00, some 0x7E00⟩
  | .bf16 => ⟨8, 7, 127, 0x7F7F, some 0x7F80, some 0x7FC0⟩
  | .e5m2 => ⟨5, 2, 15, 0x7B, some 0x7C, some 0x7E⟩
  | .e4m3 => ⟨4, 3, 7, 0x7E, none, some 0x7F⟩
  | .e2m1 => ⟨2, 1, 1, 7, none, none⟩
  | _ => ⟨8, 23, 127, 0x7F7FFFFF, some 0x7F800000, some 0x7FC00000⟩

/-- The sign bit of a code. -/
def signCode (f : Fmt) (neg : Bool) (c : Nat) : Nat := if neg then c + 2 ^ (f.eb + f.fb) else c

/-- An exact integer times a power of two. -/
def xInt (x : Int) (e : Int) : XV := if x = 0 then .zero false else .num (x < 0) x.natAbs e false

/-- The value of a code in a floating format (R33 to R36). -/
def decFlt (f : Fmt) (x : Nat) : XV :=
  let c := x % 2 ^ (f.eb + f.fb)
  let neg := x / 2 ^ (f.eb + f.fb) % 2 == 1
  let ex := c / 2 ^ f.fb
  let fr := c % 2 ^ f.fb
  if c ≤ f.maxCode then
    if c = 0 then .zero neg
    else if ex = 0 then .num neg fr (1 - f.bias - f.fb) false
    else .num neg (2 ^ f.fb + fr) (ex - f.bias - f.fb) false
  else if f.inf = some c then .inf neg
  else .nan

/-- The value of an element of a TYPE (R33 to R37, R41, R42). -/
def decode (ty : Ty) (x : Nat) : XV :=
  match ty with
  | .f32 | .f16 | .bf16 | .e5m2 | .e4m3 | .e2m1 => decFlt (fmtOf ty) x
  | .e8m0 => if x % 256 = 255 then .nan else .num false 1 ((x % 256 : Nat) - 127) false
  | .sm8 => xInt (if x % 256 < 128 then (x % 256 : Nat) else -((x % 128 : Nat) : Int)) 0
  | .sm4 => xInt (if x % 16 < 8 then (x % 16 : Nat) else -((x % 8 : Nat) : Int)) 0
  | .si8 | .si16 | .si32 | .si64 => xInt (toInt ty.bits (x % 2 ^ ty.bits)) 0
  | _ => xInt (x % 2 ^ ty.bits : Nat) 0

/-- Number of quanta `2^q` of a magnitude rounded in a direction (R39 step 2, R40). -/
def quanta (dir : RDir) (neg : Bool) (m : Nat) (e : Int) (st : Bool) (q : Int) : Nat :=
  if q ≤ e then
    let n := m * 2 ^ (e - q).toNat
    if st && (dir == .up && !neg || dir == .down && neg) then n + 1 else n
  else
    let d := 2 ^ (q - e).toNat
    let n := m / d
    let r := m % d
    let away :=
      match dir with
      | .up => !neg && (r != 0 || st)
      | .down => neg && (r != 0 || st)
      | .rz => false
      | .ne => d < 2 * r || (d == 2 * r && (st || n % 2 == 1))
    if away then n + 1 else n

/-- The least exponent of a format's quantum: that of its smallest subnormal. -/
def Fmt.qmin (f : Fmt) : Int := 1 - f.bias - f.fb

/-- R39 step 2 as a code that ignores the largest finite value. -/
def roundCode (f : Fmt) (dir : RDir) (neg : Bool) (m : Nat) (e : Int) (st : Bool) : Nat :=
  let q := max ((Nat.log2 m : Int) + e - f.fb) f.qmin
  quanta dir neg m e st q + (q - f.qmin).toNat * 2 ^ f.fb

/-- The direction goes away from zero for a sign. -/
def awayFrom (dir : RDir) (neg : Bool) : Bool :=
  match dir with
  | .up => !neg
  | .down => neg
  | .ne => true
  | .rz => false

/-- Round of R39 into a format with infinity; zeros and NaN by R345. -/
def roundTo (f : Fmt) (dir : RDir) : XV → Nat
  | .nan => f.nan.getD 0
  | .inf neg => signCode f neg (f.inf.getD 0)
  | .zero neg => signCode f neg 0
  | .cancel => signCode f (dir == .down) 0
  | .num neg m e st =>
    let c := roundCode f dir neg m e st
    signCode f neg (if c ≤ f.maxCode then c else if awayFrom dir neg then f.inf.getD 0 else f.maxCode)

/-- Negation. -/
def xNeg : XV → XV
  | .inf n => .inf (!n)
  | .zero n => .zero (!n)
  | .num n m e st => .num (!n) m e st
  | x => x

/-- Signed significand of an exact number at an exponent not above its own. -/
def atExp (neg : Bool) (m : Nat) (e e0 : Int) : Int :=
  let x : Int := m * 2 ^ (e - e0).toNat
  if neg then -x else x

/-- Exact sum (R345). -/
def xAdd : XV → XV → XV
  | .nan, _ | _, .nan => .nan
  | .inf a, .inf b => if a = b then .inf a else .nan
  | .inf a, _ | _, .inf a => .inf a
  | .zero a, .zero b => if a = b then .zero a else .cancel
  | .num a m e st, .num b n f _ =>
    let g := min e f
    let x := atExp a m e g + atExp b n f g
    if x = 0 then .cancel else .num (x < 0) x.natAbs g st
  | .num a m e st, _ | _, .num a m e st => .num a m e st
  | .cancel, _ | _, .cancel => .cancel

/-- Exact product (R345). -/
def xMul : XV → XV → XV
  | .nan, _ | _, .nan => .nan
  | .inf a, .inf b => .inf (a != b)
  | .inf a, .num b .. | .num a .., .inf b => .inf (a != b)
  | .inf _, _ | _, .inf _ => .nan
  | .num a m e _, .num b n f _ => .num (a != b) (m * n) (e + f) false
  | .zero a, .zero b | .zero a, .num b .. | .num a .., .zero b => .zero (a != b)
  | _, _ => .zero false

/-- Bits kept of a quotient or root below its leading one: more than any format's. -/
def keep : Nat := 160

/-- Exact quotient (R351). -/
def xDiv : XV → XV → XV
  | .nan, _ | _, .nan => .nan
  | .inf _, .inf _ => .nan
  | .inf a, .num b .. | .inf a, .zero b => .inf (a != b)
  | .num a .., .inf b | .zero a, .inf b => .zero (a != b)
  | .zero _, .zero _ => .nan
  | .num a .., .zero b => .inf (a != b)
  | .zero a, .num b .. => .zero (a != b)
  | .num a m e _, .num b n f _ =>
    let k := keep + Nat.log2 n
    .num (a != b) (m * 2 ^ k / n) (e - f - k) (m * 2 ^ k % n != 0)
  | _, _ => .nan

/-- Steps of the integer square root. -/
def isqrtGo (n : Nat) : Nat → Nat → Nat
  | 0, r => r
  | i + 1, r => if (r + 2 ^ i) * (r + 2 ^ i) ≤ n then isqrtGo n i (r + 2 ^ i) else isqrtGo n i r

/-- The integer square root. -/
def isqrt (n : Nat) : Nat := isqrtGo n (Nat.log2 n / 2 + 1) 0

/-- Root of `m * 2^e` where `st` says that this is a lower bound in the last place. -/
def rootOfNum (m : Nat) (e : Int) (st : Bool) : XV :=
  let m2 := if e % 2 = 0 then m * 2 ^ (2 * keep) else 2 * m * 2 ^ (2 * keep)
  let e2 := (if e % 2 = 0 then e else e - 1) - 2 * keep
  let r := isqrt m2
  .num false r (e2 / 2) (st || r * r != m2)

/-- Exact square root (R351). -/
def xSqrt : XV → XV
  | .nan => .nan
  | .inf neg => if neg then .nan else .inf false
  | .zero neg => .zero neg
  | .cancel => .zero false
  | .num neg m e st => if neg then .nan else rootOfNum m e st

/-- Exact reciprocal square root (R351). -/
def xRsqrt : XV → XV
  | .nan => .nan
  | .inf neg => if neg then .nan else .zero false
  | .zero neg => .inf neg
  | .cancel => .inf false
  | .num neg m e st =>
    if neg then .nan
    else
      match xDiv (.num false 1 0 false) (.num false m e st) with
      | .num _ q f s2 => rootOfNum q f s2
      | x => x

/-- The three siblings' exact mean, or its special value (R357). -/
def xMean (a b c : XV) : XV :=
  match xAdd (xAdd a b) c with
  | .num neg m e _ => .num neg (m * 2 ^ keep / 3) (e - keep) (m * 2 ^ keep % 3 != 0)
  | x => x

/-- Three times a value (exact). -/
def xTimes3 (x : XV) : XV := xMul (.num false 3 0 false) x

/-- A third of an exact value. -/
def xThird : XV → XV
  | .num neg m e _ => .num neg (m * 2 ^ keep / 3) (e - keep) (m * 2 ^ keep % 3 != 0)
  | x => x

/-- The group sum S of R47. -/
def groupSum (ps : List XV) : XV :=
  let negInf := ps.any (· == .inf true)
  let posInf := ps.any (· == .inf false)
  if ps.any (· == .nan) || (negInf && posInf) then .nan
  else if negInf then .inf true
  else if posInf then .inf false
  else
    let top := ps.foldl (fun (o : Option Int) p =>
      match p with
      | .num _ m e _ =>
        let x := (Nat.log2 m : Int) + e
        some (match o with | some y => max x y | none => x)
      | _ => o) none
    match top with
    | none => .zero false
    | some emax =>
      let q := emax - 31
      let s := ps.foldl (fun (a : Int) p =>
        match p with
        | .num neg m e _ =>
          let n : Nat := if q ≤ e then m * 2 ^ (e - q).toNat else m / 2 ^ (q - e).toNat
          if neg then a - n else a + n
        | _ => a) 0
      xInt s q

/-- One addition of a group sum to an FP32 accumulator (R48). -/
def accAdd (dir : RDir) (acc : Nat) (sum : XV) : Nat := roundTo (fmtOf .f32) dir (xAdd (decode .f32 acc) sum)

/-- The draw of R59. -/
def drawDir (w : W64) (seed : W64) : RDir :=
  let h := w ^^^ seed
  let h := (h ^^^ (h >>> 30)) * 0xBF58476D1CE4E5B9#64
  let h := (h ^^^ (h >>> 27)) * 0x94D049BB133111EB#64
  let h := h ^^^ (h >>> 31)
  if h.getLsbD 63 then .up else .down

/-- The key of a lane draw (R60). -/
def laneKey (tid n k : Nat) : W64 := BitVec.ofNat 64 (tid % 2 ^ 31 * 2 ^ 32 + n % 2 ^ 30 * 4 + k)

/-- The key of a tile draw (R62). -/
def tileKey (team acc el g plane : Nat) : W64 :=
  BitVec.ofNat 64 (2 ^ 63 + team % 2 ^ 26 * 2 ^ 37 + acc * 2 ^ 35 + el * 2 ^ 23 + g % 2 ^ 21 * 4 + plane)

/-- What a conversion gives: a code, or CONV. -/
abbrev Cvt := Option Nat

/-- Largest finite, zero, or infinity of a sign, by an action (R51, R52). -/
def edgeFlt (f : Fmt) (act : Nat) (neg : Bool) : Cvt :=
  match act with
  | 0 => some (signCode f neg f.maxCode)
  | 1 => some (signCode f neg 0)
  | 2 => f.inf.map (signCode f neg)
  | _ => none

/-- The exact magnitude of a number is below `2^k`. -/
def below (m : Nat) (e k : Int) : Bool := (Nat.log2 m : Int) + e < k

/-- Conversion into a floating format with sign (R50 to R52, R55). -/
def cvtFlt (f : Fmt) (pol : Nat) (dir : RDir) (exact : Bool) : XV → Cvt
  | .nan =>
    match pol % 4 with
    | 0 => some f.maxCode
    | 1 => some 0
    | 2 => f.nan
    | _ => none
  | .inf neg => edgeFlt f (pol / 4 % 4) neg
  | .zero neg => some (signCode f neg 0)
  | .cancel => some 0
  | .num neg m e st =>
    let c := roundCode f dir neg m e st
    if f.maxCode < c then edgeFlt f (pol / 16 % 4) neg
    else if !exact && below m e (1 - f.bias) then
      match pol / 64 % 4 with
      | 0 => some (signCode f neg (2 ^ f.fb))
      | 1 => some (signCode f neg 0)
      | 2 => some (signCode f neg c)
      | _ => none
    else some (signCode f neg c)

/-- Range of an integer target (R41, R42). -/
def cvtLo (ty : Ty) : Int :=
  match ty with
  | .sm8 => -127 | .sm4 => -7
  | _ => if ty.isSi then -(2 ^ (ty.bits - 1)) else 0
def cvtHi (ty : Ty) : Int :=
  match ty with
  | .sm8 => 127 | .sm4 => 7
  | _ => if ty.isSi then 2 ^ (ty.bits - 1) - 1 else 2 ^ ty.bits - 1

/-- The code of an integer in an integer target (R42). -/
def codeInt (ty : Ty) (x : Int) : Nat :=
  match ty with
  | .sm8 => if x < 0 then 128 + x.natAbs else x.natAbs
  | .sm4 => if x < 0 then 8 + x.natAbs else x.natAbs
  | _ => wrapInt ty.bits x

/-- A value beyond an integer range, by an action (R53). -/
def edgeInt (ty : Ty) (act : Nat) (neg : Bool) : Cvt :=
  match act with
  | 0 => some (codeInt ty (if neg then cvtLo ty else cvtHi ty))
  | 1 => some 0
  | _ => none

/-- Rounding to an integer (R40). -/
def roundInt (dir : RDir) (neg : Bool) (m : Nat) (e : Int) (st : Bool) : Int :=
  let n := quanta dir neg m e st 0
  if neg then -(n : Int) else n

/-- Conversion into an integer format (R53). -/
def cvtInt (ty : Ty) (pol : Nat) (dir : RDir) : XV → Cvt
  | .nan =>
    match pol % 4 with
    | 0 => some (codeInt ty (cvtHi ty))
    | 1 | 2 => some 0
    | _ => none
  | .inf neg => edgeInt ty (pol / 4 % 4) neg
  | .zero _ | .cancel => some 0
  | .num neg m e st =>
    let x := roundInt dir neg m e st
    if x < cvtLo ty ∨ cvtHi ty < x then edgeInt ty (pol / 16 % 4) neg else some (codeInt ty x)

/-- Conversion into E8M0 (R54). -/
def cvtE8 (pol : Nat) (dir : RDir) : XV → Cvt
  | .nan =>
    match pol % 4 with
    | 0 => some 0xFE
    | 2 => some 0xFF
    | _ => none
  | .inf neg => if pol / 4 % 4 = 0 then some (if neg then 0 else 0xFE) else none
  | .zero _ | .cancel => if pol / 64 % 4 = 0 then some 0 else none
  | .num neg m e st =>
    if neg || below m e (-127) then (if pol / 64 % 4 = 0 then some 0 else none)
    else
      let k := (Nat.log2 m : Int) + e
      let c := (k + 127).toNat
      let half := 3 * 2 ^ Nat.log2 m
      let away := match dir with
        | .up => m != 2 ^ Nat.log2 m || st
        | .ne => half < 2 * m || (half == 2 * m && (st || c % 2 == 1))
        | _ => false
      let c := if away then c + 1 else c
      if c ≤ 254 then some c else if pol / 16 % 4 = 0 then some 0xFE else none

/-- The type is an integer target of R53. -/
def Ty.isIntTarget : Ty → Bool
  | .si8 | .si16 | .si32 | .si64 | .ui8 | .ui16 | .ui32 | .ui64 | .sm8 | .sm4 => true
  | _ => false

/-- Exact-class pairs (R55). -/
def exactClass (src dst : Ty) : Bool :=
  src == dst ||
  (match dst with
   | .f32 => [Ty.f16, .bf16, .e5m2, .e4m3, .e2m1, .e8m0, .sm8, .sm4, .si8, .si16, .ui8, .ui16].contains src
   | .f16 => [Ty.e5m2, .e4m3, .e2m1, .sm8, .sm4, .si8, .ui8].contains src
   | .bf16 => [Ty.e5m2, .e4m3, .e2m1, .e8m0, .sm8, .sm4, .si8, .ui8].contains src
   | .e5m2 | .e4m3 => [Ty.e2m1, .sm4].contains src
   | _ => Ty.isIntTarget dst && Ty.isIntTarget src && decide (cvtLo dst ≤ cvtLo src) && decide (cvtHi src ≤ cvtHi dst))

/-- Converts a value into a TYPE under a policy (R50 to R55). -/
def cvtTo (dst : Ty) (pol : Nat) (dir : RDir) (exact : Bool) (x : XV) : Cvt :=
  match dst with
  | .f32 | .f16 | .bf16 | .e5m2 | .e4m3 | .e2m1 => cvtFlt (fmtOf dst) pol dir exact x
  | .e8m0 => cvtE8 pol dir x
  | _ => cvtInt dst pol dir x

/-- Converts one element (R50 to R55). -/
def convert (src dst : Ty) (pol : Nat) (dir : RDir) (x : Nat) : Cvt :=
  cvtTo dst pol dir (exactClass src dst) (decode src x)

/-- Precision P of a format (R72). -/
def precOf : Ty → Nat
  | .f16 => 11
  | .bf16 => 8
  | _ => 24

/-- RN64 with an unbounded exponent: the values of R72 stay within the range of binary64. -/
def rn64 (x : XV) : XV :=
  match x with
  | .num neg m e st =>
    let q := (Nat.log2 m : Int) + e - 52
    .num neg (quanta .ne neg m e st q) q false
  | x => x

/-- The constant K of R72: RN64(RN64(√3) / tau), with its binary64 significand and exponent. -/
def digitsK : XV :=
  let tau : XV := .num false 4844356307601083 (-50) false
  rn64 (xDiv (rn64 (xSqrt (.num false 3 0 false))) tau)

/-- Signed significand at exponent `g` of an exact finite value. -/
def sigAt (g : Int) : XV → Int
  | .num neg m e _ => atExp neg m e g
  | _ => 0

/-- Exponent of an exact finite value. -/
def expOf : XV → Option Int
  | .num _ _ e _ => some e
  | _ => none

/-- Digits of R72 for three finite values. -/
def digitsFin (p : Nat) (a b c : XV) : Nat :=
  let g := ([a, b, c].filterMap expOf).foldl min 1000
  let x := sigAt g a
  let y := sigAt g b
  let z := sigAt g c
  let sum := x + y + z
  let n := (3 * (x * x + y * y + z * z) - sum * sum).toNat
  if n = 0 then p
  else if sum = 0 then 0
  else
    let m := rn64 (xThird (.num false sum.natAbs g false))
    let s := rn64 (xSqrt (xDiv (.num false n (2 * g) false) (.num false 6 0 false)))
    match rn64 (xDiv (rn64 (xMul digitsK m)) s) with
    | .num _ q e _ => (min (max ((Nat.log2 q : Int) + e) 0) p).toNat
    | _ => 0

/-- Digits of three siblings (R72, R73). -/
def digitsX (p : Nat) (a b c : XV) : Nat :=
  let isInf := fun (x : XV) => match x with | .inf _ => true | _ => false
  if a == .nan || b == .nan || c == .nan then 0
  else if isInf a || isInf b || isInf c then (if a == b && b == c then p else 0)
  else digitsFin p a b c

/-- Digits of three codes of a format (R72, R73). -/
def digits (ty : Ty) (a b c : Nat) : Nat := digitsX (precOf ty) (decode ty a) (decode ty b) (decode ty c)

/-- FP32 with 18 fraction bits, as a MEANDIG word holds the mean (R82). -/
def fmtMean : Fmt := ⟨8, 18, 127, 0x3FBFFFF, some 0x3FC0000, some 0x3FE0000⟩

/-- A MEANDIG word (R82). A NaN mean is R82's NaN word, with D = 0, also for a single-lane STX, for which
R87 says D = 24 (log row 74, DESIGN CHOICE). -/
def meandigPack (a b c : Nat) : Nat :=
  match xMean (decode .f32 a) (decode .f32 b) (decode .f32 c) with
  | .nan => 0x7FC00000
  | m => roundTo fmtMean .ne m * 32 + digits .f32 a b c

/-- The three siblings that LDX rebuilds from a MEANDIG word (R83). -/
def meandigUnpack (w : Nat) : Nat × Nat × Nat :=
  let m := w / 32 * 32 % 2 ^ 32
  let d := if w % 32 ≤ 24 then w % 32 else 0
  match decode .f32 m with
  | .num neg n e _ =>
    if d = 24 then (m, m, m)
    else
      let k := xMul digitsK (.num false n e false)
      let d := min d 20
      let delta :=
        match k with
        | .num _ q f _ => roundTo (fmtOf .f32) .ne (rootOfNum (q * q) (2 * f - 2 * d - 1) false)
        | _ => 0
      let x := XV.num neg n e false
      let y := decode .f32 delta
      (roundTo (fmtOf .f32) .ne (xAdd x (xNeg y)), m, roundTo (fmtOf .f32) .ne (xAdd x y))
  | .zero _ => if d = 24 then (m, m, m) else (0x80000020, 0, 0x20)
  | _ => (m, m, m)

end Sys2Proof.Machine
end

