-- ==== Sys2Proof/Machine/Memory.lean ====
section
/-! DEFINITION. Memory, atomic and transaction instructions (18_memory_ops), with the address checks of 04_memory
R88 to R90 and 07_page R171, the L1 (R95, R96), the transaction buffer (06_versions R149 to R151) and pins (R147). -/

namespace Sys2Proof.Machine

open Sys2Proof

/-- What an instruction does at an address, for its checks. -/
inductive MKind where
  | load | store | ldx | stx | atomic | waita | tag | pref
  deriving DecidableEq, Repr

/-- What the checks of R171 ask of a page: of `size` bytes of a type, by a triplex thread or not. LDX reads every sibling's
slot of a TRIPLE page in triplex mode, and STX writes all three in either mode (R81, R87). -/
def MKind.use (triplex : Bool) (ty : Ty) (size : Nat) : MKind → Use
  | .load | .waita => Use.load size
  | .store => Use.store size
  | .ldx => ⟨true, false, .layouts (ty == .f32), size, if triplex then 3 * size else size⟩
  | .stx => ⟨false, true, .layouts (ty == .f32), size, 3 * size⟩
  | .atomic => ⟨true, true, .plain, size, size⟩
  | .tag | .pref => ⟨true, false, .any, 1, 3⟩

/-- The access writes (R171). -/
def MKind.writes : MKind → Bool
  | .store | .stx | .atomic => true
  | _ => false

/-- KIND of a fault record (R173). -/
def MKind.code : MKind → Nat
  | .store | .stx => 1
  | .atomic => 2
  | _ => 0

/-- A not-present access of this kind is replayable (R172). -/
def MKind.replays : MKind → Bool
  | .tag | .pref => false
  | _ => true

/-- Access size in bytes (R361). -/
def accSize (ty : Ty) : Nat := (ty.bits + 7) / 8

/-- Access size of an atomic: packed types act on 32 bits (R361, R368). -/
def atomSize (ty : Ty) : Nat := max 4 (accSize ty)

/-- Where a thread's access goes. -/
inductive Tgt where
  | mem (x : Xl) (loc : Bool)
  | bar (i : Nat)
  | zeros
  | held (h : Hold)
  deriving DecidableEq, Repr

/-- The team of a group. -/
def teamOf (s : State) (g : Grp) : Option Team := tabGet s.teams g.team

/-- A `.loc` access (R88, R90, R243). -/
def locTarget (s : State) (g : Grp) (mk : MKind) (size : Nat) (a : Int) : Except Nat Tgt :=
  match teamOf s g with
  | none => .error fcProtection
  | some t =>
    let inAper := decide (0xFFF800 ≤ a) && decide (a ≤ 0xFFFFFF)
    if inAper && (mk == .atomic || mk == .waita) then .error fcProtection
    else if a % size ≠ 0 ∨ (inAper ∧ size ≠ 16) then .error fcMisalign
    else if inAper then
      if 0xFFFC00 ≤ a then (if mk == .store then .error fcProtection else .ok .zeros)
      else
        let i := ((a - 0xFFF800) / 16).toNat
        if i < t.nbars then .ok (.bar (t.bar + i)) else .error fcProtection
    else if a < 0 then .error fcProtection
    else if !locOk s g.team t a.toNat size then .error fcProtection
    else
      let pa := locAddr s t a.toNat
      .ok (.mem ⟨pa, pa, 0, 0, true, false, false, false, .vf (ctxVf g.ctx)⟩ true)

/-- A hold for a not-present page: its record, or the wait for a full ring (R172). -/
def heldBy (s : State) (ck page seq : Nat) : Hold :=
  if ((tabGet s.ctxs ck).any (fun c => c.faults.any (fun f => f.page == page && f.waiting))) then .ring page else .page page seq

/-- A `.glb` access in the order of R171. -/
def glbTarget (s : State) (k : Nat) (g : Grp) (mk : MKind) (ty : Ty) (size : Nat) (a : Int) : State × Except Nat Tgt :=
  if a % size ≠ 0 then (s, .error fcMisalign)
  else if a < 0 ∨ 2 ^ 55 ≤ a then (s, .error fcTranslation)
  else
    let va := a.toNat
    match translateOnly s g.ctx (coreOf k) va (mk.use g.triplex ty size) with
    | .fault s1 c => (s1, .error c)
    | .absent s1 l =>
      if mk.replays && (tabGet s.ctxs g.ctx).any dpage then
        let (s2, seq) := noteFault s1 g.ctx va mk.code l (gidOf g) (dieOf k) (coreOf k % 64)
        (s2, .ok (.held (heldBy s2 g.ctx (pageOf va) seq)))
      else (s1, .error fcTranslation)
    | .ok s1 x => (s1, .ok (.mem x false))

/-- Targets of the threads' addresses, in order; the first failing check decides, with its address. A `.loc`
address is kept above every `.glb` one. -/
def targets (s : State) (k : Nat) (g : Grp) (loc : Bool) (mk : MKind) (ty : Ty) (size : Nat) :
    List (Nat × Int) → State × Except (Nat × Nat) (List (Nat × Nat × Tgt))
  | [] => (s, .ok [])
  | (t, a) :: rest =>
    let r := if loc then (s, locTarget s g mk size a) else glbTarget s k g mk ty size a
    let va := wrapInt 64 a + (if loc then 2 ^ 64 else 0)
    match r with
    | (s1, .error c) => (s1, .error (c, wrapInt 64 a))
    | (s1, .ok x) =>
      match targets s1 k g loc mk ty size rest with
      | (s2, .ok xs) => (s2, .ok ((t, va, x) :: xs))
      | (s2, .error e) => (s2, .error e)

/-- The base's TYPE and width (R361). -/
def baseTy (loc : Bool) : Ty × Nat := if loc then (.ui32, 32) else (.ui64, 64)

/-- Effective addresses of the Active threads, or of the group's lowest Active thread in a scalar form (R361,
R366), with the lanes that split; `none` where a scalar form's base is not uniform. -/
def addrsOf (e : Env) (w : MWord) (scalar : Bool) : Option (List (Nat × Int)) × Mask :=
  let (ty, tw) := baseTy w.m.loc
  if scalar then
    match unW e ty tw w.a with
    | (none, m) => (none, m)
    | (some x, m) => (some ((activeThreads e).take 1 |>.map (fun t => (t, (x : Int) + w.off.toInt))), m)
  else
    let (vs, m) := svAll e ty tw w.a
    (some (vs.map (fun p => (p.1, (p.2 : Int) + w.off.toInt))), m)

/-- The group has a transaction whose view its VER accesses use (R150). -/
def txOn (g : Grp) : Bool := g.tx.state == .open || g.tx.state == .doomed

/-- The snapshot of the group's grid (R145). -/
def gridSnap (s : State) (g : Grp) : Option Nat := (tabGet s.grids g.grid).bind (·.snap)

/-- The snapshot at which a load reads a VER page (R142, R150). -/
def loadSnap (s : State) (g : Grp) (cur : Bool) : Option Nat :=
  if txOn g then some g.tx.ts else if cur then none else gridSnap s g

/-- The transaction in which an access of the group is issued (R150). -/
def txNow (g : Grp) : Option TxView := if txOn g then some ⟨g.tx.id, g.tx.ts, g.tx.lines⟩ else none

/-- Buffered bytes of `n` bytes at an address: mask and value (R150). -/
def txBytes (lines : List TxLine) (pa n : Nat) : Nat × Nat :=
  match lines.find? (fun l => l.line == pa / 128) with
  | none => (0, 0)
  | some l => (l.mask.toNat / 2 ^ (pa % 128) % 2 ^ n, l.data.toNat / 2 ^ (8 * (pa % 128)) % 2 ^ (8 * n))

/-- Rows in use by the transaction buffers of a team's groups (R151). -/
def txUsed (s : State) (team : Nat) : Nat :=
  s.groups.foldl (fun n kg => if kg.2.team == team && kg.2.tx.state != .doomed then n + kg.2.tx.lines.length else n) 0

/-- A buffer line takes bytes. -/
def txMerge (l : TxLine) (pa n v : Nat) : TxLine :=
  let o := pa % 128
  let bm : BitVec 1024 := BitVec.ofNat 1024 ((2 ^ (8 * n) - 1) * 2 ^ (8 * o))
  { l with
    mask := l.mask ||| BitVec.ofNat 128 ((2 ^ n - 1) * 2 ^ o),
    data := (l.data &&& ~~~bm) ||| (BitVec.ofNat 1024 (v % 2 ^ (8 * n) * 2 ^ (8 * o))) }

/-- A store into the buffer of an OPEN transaction; past its limit the transaction is doomed (R149 to R151). -/
def txStore (s : State) (k : Nat) (cmp : Bool) (va pa n v : Nat) : State :=
  match tabGet s.groups k with
  | none => s
  | some g =>
    if g.tx.state ≠ .open then s
    else if g.tx.lines.any (fun l => l.line == pa / 128) then
      setGroup s k { g with tx := { g.tx with lines := g.tx.lines.map (fun l => if l.line == pa / 128 then txMerge l pa n v else l) } }
    else if g.tx.lines.length ≥ 256 || txUsed s g.team ≥ ((teamOf s g).elim 0 (·.txrows)) then
      setGroup s k { g with tx := txDoom g.tx 2 }
    else setGroup s k { g with tx := { g.tx with lines := g.tx.lines ++ [txMerge ⟨pa / 128, 0, 0, cmp, va / 128⟩ pa n v] } }

/-- The access may use the L1 (R95). -/
def l1Ok (s : State) (k : Nat) (x : Xl) (loc : Bool) : Bool :=
  !loc && !x.nol1 && !x.win && !x.ver && homeOf s.pkg.id x.pa != .bank (coreOf k)

/-- The VF's L1 line on a core. -/
def l1Find (s : State) (core vf line : Nat) : Option L1Line := (getCore s core).l1.find? (fun l => l.vf == vf && l.line == line)

/-- Removes the VF's L1 copy of a line on a core. -/
def l1Drop (s : State) (core vf line : Nat) : State :=
  updCore s core (fun c => { c with l1 := c.l1.filter (fun l => !(l.vf == vf && l.line == line)) })

/-- An L1 line becomes the most recently used (R97). -/
def l1Use (s : State) (core : Nat) (x : L1Line) : State :=
  updCore s core (fun c => { c with l1 := c.l1.filter (fun l => !(l.vf == x.vf && l.line == x.line)) ++ [x] })

/-- A store writes the L1 line if it is present (R96). -/
def l1Write (s : State) (core vf pa n v : Nat) : State :=
  match l1Find s core vf (pa / 128) with
  | some l => l1Use s core { l with data := (txMerge ⟨0, 0, l.data, false, 0⟩ pa n v).data }
  | none => s

/-- A held store or atomic of a thread delays its later accesses to overlapping bytes (R172); within a transaction, whose
buffer the group's accesses write and read in program order (R136), a held access of any thread delays those that it may not
change places with. `wr`: the later access writes. -/
def heldWrite (s : State) (g : Grp) (wr : Bool) (t va n : Nat) : Bool :=
  (grpAccs s g).any (fun a =>
    let w := accStores a.2 || a.2.kind == .atomic
    let tx := a.2.tx.isSome && (g.tx.state == .open || g.tx.state == .doomed)
    (w || (tx && wr)) && a.2.parts.any (fun p =>
      !p.2.done && awaitsPage p.2.hold && (threadOf g p.2.lane == t || tx) && overlaps p.2.va p.2.size va n))

/-- An earlier load or atomic of a thread to overlapping bytes is not yet performed: a hit in the L1 would answer a later load
before it (R118). A store that is under way has written the line already (R96). -/
def hitEarly (s : State) (g : Grp) (t pa n : Nat) : Bool :=
  (grpAccs s g).any (fun a => accReturns a.2 && a.2.kind != .waita && a.2.parts.any (fun p =>
    !p.2.done && threadOf g p.2.lane == t && (awaitsPage p.2.hold || overlaps p.2.pa p.2.size pa n)))

/-- A part that awaits its translation (R172). -/
def heldPart (lane va size : Nat) (h : Hold) : Part :=
  ⟨lane, va, 0, size, .host, .vf 0, false, false, 0, 0, 0, false, h, false, false⟩

/-- A part of an access at a translated address. -/
def memPart (s : State) (lane va size : Nat) (x : Xl) (pa : Nat) (data data2 : Nat) : Part :=
  ⟨lane, va, pa, size, homeOf s.pkg.id pa, x.key, x.ver, x.cmp, BitVec.ofNat 128 data, BitVec.ofNat 128 data2, 0, false, .no, false, false⟩

/-- A completed part. -/
def donePart (lane va size : Nat) (res : Nat) : Part :=
  ⟨lane, va, 0, size, .host, .vf 0, false, false, 0, 0, BitVec.ofNat 128 res, true, .no, false, false⟩

/-- The L1 line that answers a thread's load (R96), in the order of its accesses (R118). -/
def l1Hit (s : State) (k : Nat) (g : Grp) (t pa n : Nat) (ok : Bool) : Option L1Line :=
  if ok && !hitEarly s g t pa n then l1Find s (coreOf k) (ctxVf g.ctx) (pa / 128) else none

/-- The parts of one thread's load at a translated address: one, or one per sibling slot on a TRIPLE page (R81,
R87); on a hit in the L1 the part is done. `tx` is the transaction view in which the load was issued; `data2` is the layout,
and above it the mask of buffered bytes. -/
def loadParts (s : State) (k : Nat) (g : Grp) (tx : Option TxView) (t va size : Nat) (x : Xl) (loc : Bool) : List Part :=
  let one := fun lane pa numx =>
    let (m, d) := match tx with | some v => if x.ver then txBytes v.lines pa size else (0, 0) | none => (0, 0)
    let p := { memPart s lane va size x pa d (numx + 4 * m) with l1 := l1Ok s k x loc }
    match l1Hit s k g t pa size p.l1 with
    | some l => { p with res := BitVec.ofNat 128 (l.data.toNat / 2 ^ (8 * (pa % 128)) % 2 ^ (8 * size)), done := true }
    | none => p
  if x.numx = 1 then
    (if g.triplex then [0, 1, 2] else [0]).map (fun q =>
      one (laneOfT g t q) (x.frame + 3 * x.off + q * size) 1)
  else [one (laneOfT g t 0) x.pa x.numx]
where
  /-- Lane of sibling `q`. -/
  laneOfT (g : Grp) (t q : Nat) : Nat := if g.triplex then 3 * t + q else t

/-- A load that the L1 answers waits for an earlier load or atomic of its thread to its bytes (R96, R118). -/
def hitWaits (s : State) (k : Nat) (g : Grp) (size : Nat) (ts : List (Nat × Nat × Tgt)) : Bool :=
  ts.any (fun x => match x.2.2 with
    | .mem y loc =>
      let pa := if y.numx = 1 then y.frame + 3 * y.off else y.pa
      let n := if y.numx = 1 then 3 * size else size
      l1Ok s k y loc && hitEarly s g x.1 pa n && (l1Find s (coreOf k) (ctxVf g.ctx) (pa / 128)).isSome
    | _ => false)

/-- The L1 lines that answered parts of a load become the most recently used (R97). -/
def l1Touch (s : State) (k vf : Nat) (ps : List Part) : State :=
  ps.foldl (fun t p => if p.l1 && p.done then (match l1Find t (coreOf k) vf (p.pa / 128) with | some l => l1Use t (coreOf k) l | none => t) else t) s

/-- First lane of a thread. -/
def firstLane (g : Grp) (t : Nat) : Nat := if g.triplex then 3 * t else t

/-- Numbers a list from 0. -/
def numbered {α : Type} (l : List α) : Tab α := (List.range l.length).zip l

/-- A new access. -/
def newAcc (kind : AccKind) (op : AOp) (k : Nat) (g : Grp) (ty : Ty) (d : Dst) (slot : Option Nat) (parts : List Part)
    (snap : Option Nat) (acq : Bool) (scope : Scope) (win : Bool) (born : Nat) : Acc :=
  { kind := kind, op := op, grp := k, gser := g.serial, ctx := g.ctx, core := coreOf k, pc := g.pc, ty := ty, d := d,
    slot := slot, parts := numbered parts, after := [], snap := snap, acq := acq, scope := scope, win := win,
    acked := false, held := parts.any (fun p => awaitsPage p.hold), born := born, cancel := [], tx := txNow g }

/-- Puts an access under way; its SET slot counts it (R232). -/
def addAcc (s : State) (k : Nat) (a : Acc) : State :=
  let (id, s1) := fresh s
  updGroup { s1 with accs := tabPut s1.accs id a } k (fun g => slotUp g a.slot)

/-- A target reached through a WIN page. -/
def tgtWin : Tgt → Bool
  | .mem x _ => x.win
  | _ => false

/-- The scope at which an access acts: .sys on a WIN page (R137). -/
def actScope (m : MemM) (win : Bool) : Scope := if win then .sys else m.scope

/-- Sets D for every write that passed its checks (R170). -/
def dirtyAll (s : State) (k : Nat) (g : Grp) (ts : List (Nat × Nat × Tgt)) : State :=
  ts.foldl (fun t x => match x.2.2 with
    | .mem _ false => dirtyFor t g.ctx (coreOf k) x.2.1
    | _ => t) s

/-- The access orders before later ones, or waits for earlier ones (R122). -/
def ordAcq (m : MemM) : Bool := m.ord == .acq || m.ord == .ar
def ordRel (m : MemM) : Bool := m.ord == .rel || m.ord == .ar

/-- A write of the Active threads is a release: its own annotation, or a FENCE.rel before it (R122). -/
def writeRel (m : MemM) (mk : MKind) (g : Grp) (act : Mask) : Bool := ordRel m || (mk.writes && (g.relNext &&& act) != 0)

/-- A write ends what a FENCE.rel left open for its threads (R122). -/
def relDone (mk : MKind) (act : Mask) (g : Grp) : Grp :=
  if mk.writes then { g with relNext := g.relNext &&& ~~~act } else g

/-- Issues an M-form access: what holds it, its addresses and checks (R361, R362), then its effect. -/
def memIssue (i : Instr) (w : MWord) (mk : MKind) (size : Nat) (how : How) (scalar : Bool)
    (body : State → Nat → Grp → Env → List (Nat × Nat × Tgt) → Notes → Res) (s : State) : Host.Outcome State Fault Refusal :=
  issue i how
    (fun s k g e =>
      if memoryHeld s g || (writeRel w.m mk g e.act && releaseHeld s k g) then .wait s
      else
        match addrsOf e w scalar with
        | (none, _) => .fault s fcNonuniform 0
        | (some as, sp) =>
          match targets s k g w.m.loc mk w.m.ty size as with
          | (s1, .error (c, va)) => .fault s1 c va
          | (s1, .ok ts) =>
            if ts.any (fun x => heldWrite s1 g mk.writes x.1 x.2.1 size) then .wait s1
            else
            match body s1 k g e ts (Notes.ofSplit sp) with
            | .ok t n => .ok (updGroup t k (relDone mk e.act)) n
            | r => r) s

/-- A memory instruction advances the path and counts its own SET slot. -/
def howMem : How := ⟨false, true, false⟩

/-- The SET slot of an instruction without an access outstanding is released after a cycle (R293). -/
def noAccess (s : State) (k : Nat) (slot : Option Nat) : State :=
  updGroup s k (fun g => if slot.isSome then { slotUp g slot with pend := g.pend ++ [⟨1, [], slot, some (s.cycle + 1)⟩] } else g)

/-- Parts of a load's threads. -/
def allLoadParts (s : State) (k : Nat) (g : Grp) (size : Nat) (ts : List (Nat × Nat × Tgt)) : List Part :=
  (ts.map (fun (t, va, x) =>
    match x with
    | .mem x loc => loadParts s k g (txNow g) t va size x loc
    | .bar i => [donePart (firstLane g t) va size (tabGetD (getCore s (coreOf k)).bars i 0).toNat]
    | .zeros => [donePart (firstLane g t) va size 0]
    | .held h => [heldPart (firstLane g t) va size h])).flatten

/-- A load's effect at issue (R364, R366). -/
def loadBody (kind : AccKind) (w : MWord) (size : Nat) (s : State) (k : Nat) (g : Grp) (ts : List (Nat × Nat × Tgt)) (n : Notes) : Res :=
  let slot := hdrSlot w.hdr
  if ts.isEmpty then .ok (sendResult s k g .var slot []) n
  else if hitWaits s k g size ts then .wait s
  else
    let win := ts.any (fun x => tgtWin x.2.2)
    let ps := allLoadParts s k g size ts
    .ok (addAcc (l1Touch s k (ctxVf g.ctx) ps) k (newAcc kind .add k g w.m.ty w.d slot ps (loadSnap s g w.m.x)
      (ordAcq w.m) (actScope w.m win) win s.cycle)) n

/-- LD (R364, R366). -/
def execLd (w : MWord) (s : State) : Host.Outcome State Fault Refusal :=
  memIssue (.ld w) w .load (accSize w.m.ty) howMem (w.d.kind == .s)
    (fun s k g _ ts n => loadBody .load w (accSize w.m.ty) s k g ts n) s

/-- LDX (R367). -/
def execLdx (w : MWord) (s : State) : Host.Outcome State Fault Refusal :=
  memIssue (.ldx w) w .ldx (accSize w.m.ty) howMem false
    (fun s k g _ ts n => loadBody .ldx w (accSize w.m.ty) s k g ts n) s

/-- One write of a store to a translated address. -/
structure Wr where
  lane : Nat
  va : Nat
  pa : Nat
  size : Nat
  val : Nat

/-- A thread's write at a translated address: into the buffer of the transaction in which it was issued, dropped when that
is doomed or over, or on its way to its home, with the L1 line written where the page uses the L1 (R95, R96, R149, R150). -/
def putWr (k : Nat) (g : Grp) (tx : Option TxView) (x : Xl) (loc : Bool) (acc : State × List Part) (w : Wr) : State × List Part :=
  if x.ver && tx.isSome then
    (if tx.any (fun v => v.id == g.tx.id) then txStore acc.1 k x.cmp w.va w.pa w.size w.val else acc.1, acc.2)
  else
    let ok := l1Ok acc.1 k x loc
    (if ok then l1Write acc.1 (coreOf k) (ctxVf g.ctx) w.pa w.size w.val else acc.1,
      acc.2 ++ [{ memPart acc.1 w.lane w.va w.size x w.pa w.val (4 + x.numx) with l1 := ok }])

/-- Stores at the targets, in ascending sr.laneid (R365): the state with buffers and L1 lines written, and the parts that
go to their homes; `none` where a barrier is not IDLE (R269). `f` gives a thread's writes at a page, `keep` the lanes and values that a
held store keeps until its replay. -/
def storeParts (s : State) (k : Nat) (g : Grp) (f : Nat → Nat → Xl → List Wr) (keep : Nat → List (Nat × Nat)) (size : Nat)
    (ts : List (Nat × Nat × Tgt)) : Option (State × List Part) :=
  ts.foldl
    (fun acc (t, va, x) =>
      acc.bind (fun acc =>
        match x with
        | .mem x loc => some ((f t va x).foldl (putWr k g (txNow g) x loc) acc)
        | .bar i => (barStore (barNote acc.1 (coreOf k) i (rkInit + schedOf k % 4)) (coreOf k) i (BitVec.ofNat 128 (((keep t).headD (0, 0)).2))).map (fun s1 => (s1, acc.2))
        | .zeros => some acc
        | .held h => some (acc.1, acc.2 ++ (keep t).map (fun lv => { heldPart lv.1 va size h with data := BitVec.ofNat 128 lv.2 }))))
    (some (s, []))

/-- A store to a barrier word waits for the next cycle where a later event has reached the barrier in this one (R264). -/
def barLate (s : State) (k : Nat) (ts : List (Nat × Nat × Tgt)) : Bool :=
  ts.any (fun x => match x.2.2 with | .bar i => !barTurn s (coreOf k) i (rkInit + schedOf k % 4) | _ => false)

/-- A store's effect at issue. -/
def storeBody (kind : AccKind) (w : MWord) (size : Nat) (f : Nat → Nat → Xl → List Wr) (keep : Nat → List (Nat × Nat))
    (s : State) (k : Nat) (g : Grp) (ts : List (Nat × Nat × Tgt)) (n : Notes) : Res :=
  if barLate s k ts then .wait s
  else
  let s0 := dirtyAll s k g ts
  match storeParts s0 k g f keep size ts with
  | none => .fault s fcBarrierStore 0
  | some (s1, parts) =>
    let win := ts.any (fun x => tgtWin x.2.2)
    let s2 := if win then updGroup s1 k unmark else s1
    let slot := hdrSlot w.hdr
    if parts.isEmpty then .ok (noAccess s2 k slot) n
    else .ok (addAcc s2 k (newAcc kind .add k g w.m.ty w.d slot parts none false (actScope w.m win) win s.cycle)) n

/-- The datum of a store, one per thread: collapsed, or the s register (R365, R366). -/
def stDatum (e : Env) (w : MWord) (t : Nat) : Nat :=
  match w.d with
  | .v i => (svW e w.m.ty w.m.ty.bits (.v i false false) t).1
  | .s i => rdW e w.m.ty w.m.ty.bits (.s i false false) 0
  | _ => 0

/-- One plain write. -/
def plainWr (g : Grp) (size : Nat) (val : Nat → Nat) (t va : Nat) (x : Xl) : List Wr := [⟨firstLane g t, va, x.pa, size, val t⟩]

/-- ST (R365, R366). -/
def execSt (w : MWord) (s : State) : Host.Outcome State Fault Refusal :=
  memIssue (.st w) w .store (accSize w.m.ty) howMem (w.d.kind == .s)
    (fun s k g e ts n =>
      let size := accSize w.m.ty
      storeBody .store w size (plainWr g size (stDatum e w)) (fun t => [(firstLane g t, stDatum e w t)]) s k g ts n) s

/-- The value of a sibling that STX stores. -/
def stxDatum (e : Env) (w : MWord) (t q : Nat) : Nat :=
  match w.d with
  | .v i => rdW e w.m.ty w.m.ty.bits (.v i false false) (if e.g.triplex then 3 * t + q else t)
  | _ => 0

/-- The writes of STX on a page of a layout (R81, R82, R87, R367). -/
def stxWr (e : Env) (w : MWord) (size : Nat) (t va : Nat) (x : Xl) : List Wr :=
  let d := stxDatum e w t
  let l := firstLane e.g t
  match x.numx with
  | 1 => [0, 1, 2].map (fun q => ⟨l + (if e.g.triplex then q else 0), va, x.frame + 3 * x.off + q * size, size, d q⟩)
  | 2 => [⟨l, va, x.pa, size, meandigPack (d 0) (d 1) (d 2)⟩]
  | _ => [⟨l, va, x.pa, size, stDatum e w t⟩]

/-- What a held STX keeps of a thread: each sibling's value. -/
def stxKeep (e : Env) (w : MWord) (t : Nat) : List (Nat × Nat) :=
  if e.g.triplex then [0, 1, 2].map (fun q => (3 * t + q, stxDatum e w t q)) else [(t, stxDatum e w t 0)]

/-- STX (R367). -/
def execStx (w : MWord) (s : State) : Host.Outcome State Fault Refusal :=
  memIssue (.stx w) w .stx (accSize w.m.ty) howMem false
    (fun s k g e ts n =>
      let size := accSize w.m.ty
      storeBody .stx w size (stxWr e w size) (stxKeep e w) s k g ts n) s

end Sys2Proof.Machine
end

