-- ==== Sys2Proof/Machine/Atomic.lean ====
section
/-! DEFINITION. Atomics, reductions, WAITA, fences, cache instructions, transactions and pins (18_memory_ops R368 to
R376). -/

namespace Sys2Proof.Machine

open Sys2Proof

/-- The function of an atomic (R368) on values of `8 * size` bits. -/
def aopApply (ty : Ty) (op : AOp) (size old c e : Nat) : Nat :=
  let w := 8 * size
  let pick := fun (b : Bool) => if b then old else c
  match op with
  | .add => (old + c) % 2 ^ w
  | .min => pick (if ty.isSi then toInt w old ≤ toInt w c else old ≤ c)
  | .max => pick (if ty.isSi then toInt w c ≤ toInt w old else c ≤ old)
  | .and => old &&& c
  | .or => old ||| c
  | .xor => old ^^^ c
  | .xch => c
  | .cas => if old = e then c else old
  | .fadd =>
    mapIdxElems ty.bits w (fun i => roundTo (fmtOf ty) .ne (xAdd (decode ty (elem ty.bits i old)) (decode ty (elem ty.bits i c))))
where
  /-- Elements formed by index. -/
  mapIdxElems (b w : Nat) (f : Nat → Nat) : Nat :=
    (List.range (w / b)).foldl (fun n i => n + f i % 2 ^ b * 2 ^ (b * i)) 0

/-- The host performs these alone (R98, R370). -/
def hostOp : AOp → Bool
  | .add | .xch | .cas => true
  | _ => false

/-- An atomic of a thread on the view of the transaction in which it was issued (R150): reads it, and in OPEN buffers the
new value. -/
def viewAtomic (s : State) (k : Nat) (tx : TxView) (key : KeyId) (cmp : Bool) (va pa size : Nat) (f : Nat → Nat) : PumpRes :=
  match tabGet s.groups k with
  | none => .done s 0
  | some g =>
    match pumpRead s key true (some tx.ts) pa size with
    | .done s1 d =>
      let mine := tx.id == g.tx.id && txOn g
      let (m, b) := txBytes (if mine then g.tx.lines else tx.lines) pa size
      let old := overlayBytes size m b d
      .done (if mine then txStore s1 k cmp va pa size (f old) else s1) old
    | r => r

/-- What the threads of an atomic come to: parts, or why the instruction does not complete. -/
inductive APs where
  | ok (s : State) (ps : List Part)
  | stall
  | fault (s : State) (cause va : Nat)

/-- The parts of an atomic, in ascending sr.laneid (R369). -/
def atomParts (k : Nat) (g : Grp) (ty : Ty) (op : AOp) (size : Nat) (c e : Nat → Nat) (acc : APs) (tx : Nat × Nat × Tgt) : APs :=
  match acc with
  | .ok s ps =>
    let (t, va, tg) := tx
    let l := firstLane g t
    match tg with
    | .mem x _ =>
      match (if x.ver then txNow g else none) with
      | some v =>
        match viewAtomic s k v x.key x.cmp va x.pa size (fun old => aopApply ty op size old (c t) (e t)) with
        | .done s1 old => .ok s1 (ps ++ [donePart l va size old])
        | .stall _ _ => .stall
        | .fault cause => .fault (noteIntegrity s cause x.key g.ctx x.pa) cause va
      | none => .ok (l1Drop s (coreOf k) (ctxVf g.ctx) (x.pa / 128)) (ps ++ [memPart s l va size x x.pa (c t) (e t)])
    | .held h => .ok s (ps ++ [{ heldPart l va size h with data := BitVec.ofNat 128 (c t), data2 := BitVec.ofNat 128 (e t) }])
    | _ => .ok s ps
  | r => r

/-- The first target in a host window that the host does not perform (R98). -/
def hostBad (s : State) (op : AOp) (ts : List (Nat × Nat × Tgt)) : Option Nat :=
  (ts.find? (fun x => match x.2.2 with | .mem x _ => homeOf s.pkg.id x.pa == .host && !hostOp op | _ => false)).map (·.2.1)

/-- An operand collapsed to one value per thread (R69). -/
def collapsed (e : Env) (ty : Ty) (size : Nat) (o : Opnd) (t : Nat) : Nat := (svW e ty (8 * size) o t).1

/-- The compare value that ACAS reads from D. -/
def casOld (e : Env) (w : MWord) (size t : Nat) : Nat :=
  match w.d with
  | .v i => collapsed e w.m.ty size (.v i false false) t
  | _ => 0

/-- Issues an atomic or a reduction (R368 to R371). -/
def atomIssue (i : Instr) (w : MWord) (kind : AccKind) (op : AOp) (s : State) : Host.Outcome State Fault Refusal :=
  let size := atomSize w.m.ty
  memIssue i w .atomic size howMem false
    (fun s k g e ts n =>
      let slot := hdrSlot w.hdr
      match hostBad s op ts with
      | some va => .fault s fcProtection va
      | none =>
        match ts.foldl (atomParts k g w.m.ty op size (collapsed e w.m.ty size w.c) (casOld e w size)) (.ok (dirtyAll s k g ts) []) with
        | .stall => .wait s
        | .fault s1 c va => .fault (memSide s s1 k) c va
        | .ok s1 ps =>
          if ps.isEmpty then
            .ok (if kind = .red then noAccess s1 k slot else sendResult s1 k g .var slot []) n
          else
            let win := ts.any (fun x => tgtWin x.2.2)
            .ok (addAcc (updGroup s1 k unmark) k
              (newAcc kind op k g w.m.ty w.d slot ps none (ordAcq w.m) (actScope w.m win) win s.cycle)) n) s

def execAadd (w : MWord) (s : State) : Host.Outcome State Fault Refusal := atomIssue (.aadd w) w .atomic .add s
def execAmin (w : MWord) (s : State) : Host.Outcome State Fault Refusal := atomIssue (.amin w) w .atomic .min s
def execAmax (w : MWord) (s : State) : Host.Outcome State Fault Refusal := atomIssue (.amax w) w .atomic .max s
def execAand (w : MWord) (s : State) : Host.Outcome State Fault Refusal := atomIssue (.aand w) w .atomic .and s
def execAor (w : MWord) (s : State) : Host.Outcome State Fault Refusal := atomIssue (.aor w) w .atomic .or s
def execAxor (w : MWord) (s : State) : Host.Outcome State Fault Refusal := atomIssue (.axor w) w .atomic .xor s
def execAxch (w : MWord) (s : State) : Host.Outcome State Fault Refusal := atomIssue (.axch w) w .atomic .xch s
def execAcas (w : MWord) (s : State) : Host.Outcome State Fault Refusal := atomIssue (.acas w) w .atomic .cas s
def execAfadd (w : MWord) (s : State) : Host.Outcome State Fault Refusal := atomIssue (.afadd w) w .atomic .fadd s
def execRadd (w : MWord) (s : State) : Host.Outcome State Fault Refusal := atomIssue (.radd w) w .red .add s
def execRmin (w : MWord) (s : State) : Host.Outcome State Fault Refusal := atomIssue (.rmin w) w .red .min s
def execRmax (w : MWord) (s : State) : Host.Outcome State Fault Refusal := atomIssue (.rmax w) w .red .max s
def execRand (w : MWord) (s : State) : Host.Outcome State Fault Refusal := atomIssue (.rand w) w .red .and s
def execRor (w : MWord) (s : State) : Host.Outcome State Fault Refusal := atomIssue (.ror w) w .red .or s
def execRxor (w : MWord) (s : State) : Host.Outcome State Fault Refusal := atomIssue (.rxor w) w .red .xor s
def execRfadd (w : MWord) (s : State) : Host.Outcome State Fault Refusal := atomIssue (.rfadd w) w .red .fadd s

/-- An s operand's register number. -/
def sNum : Opnd → Nat
  | .s i _ _ => i.toNat
  | _ => 0

/-- The first target whose home keeps no wait table of this package (R271). -/
def waitBad (s : State) (ts : List (Nat × Nat × Tgt)) : Option Nat :=
  (ts.find? (fun x => match x.2.2 with
    | .mem x _ => (match homeOf s.pkg.id x.pa with | .bank _ | .pump _ => false | _ => true)
    | _ => false)).map (·.2.1)

/-- WAITA (R372): each part carries E and M in `data` and the control word in `data2` until its home answers. -/
def execWaita (w : MWord) (s : State) : Host.Outcome State Fault Refusal :=
  memIssue (.waita w) w .waita (accSize w.m.ty) ⟨true, true, true⟩ false
    (fun s k g _ ts n =>
      let c := sNum w.c
      let ctl := regS g (c + 2)
      if ts.isEmpty then goOnS s k n
      else if fld ctl 31 3 ≠ 0 ∨ 5 < fld ctl 2 0 then .fault s fcIllegalOpnd 0
      else
        match waitBad s ts with
        | some va => .fault s fcProtection va
        | none =>
          let data := (regS g c).toNat + 2 ^ 64 * (regS g (c + 1)).toNat
          let size := accSize w.m.ty
          let ps := ts.map (fun (t, va, x) =>
            match x with
            | .mem x _ => memPart s (firstLane g t) va size x x.pa data ctl.toNat
            | .held h => { heldPart (firstLane g t) va size h with data := BitVec.ofNat 128 data, data2 := BitVec.ofNat 128 ctl.toNat }
            | _ => donePart (firstLane g t) va size 0)
          let s1 := ts.foldl (fun t x => match x.2.2 with
            | .mem x _ => l1Drop t (coreOf k) (ctxVf g.ctx) (x.pa / 128)
            | _ => t) s
          let win := ts.any (fun x => tgtWin x.2.2)
          let id := s1.serial
          let s2 := addAcc (updGroup s1 k unmark) k
            (newAcc .waita .add k g w.m.ty w.d (hdrSlot w.hdr) ps none (ordAcq w.m) (actScope w.m win) win s.cycle)
          .ok (parkOn s2 k .address (.address id)) n) s
where
  /-- The path goes on. -/
  goOnS (s : State) (k : Nat) (n : Notes) : Res := .ok (noAccess (updGroup s k (advance s)) k (hdrSlot w.hdr)) n

/-- FENCE (R373, R96, R124): it waits for what the group has under way; the next write of its threads is a release (R122). -/
def execFence (w : RWord MemM) (s : State) : Host.Outcome State Fault Refusal :=
  issue (.fence w) howPlain
    (fun s k g e =>
      if e.act = 0 then .ok s Notes.nil
      else if memoryHeld s g || (ordRel w.m && releaseHeld s k g) ||
          (grpAccs s g).any (fun a => accOrders a.2) then .wait s
      else
        let s1 := if ordRel w.m then updGroup s k (fun g => { g with relNext := g.relNext ||| e.act }) else s
        .ok (if ordAcq w.m then acquireL1 s1 k (ctxVf g.ctx) w.m.scope else s1) Notes.nil) s

/-- Translation alone (R374): the address, its state, or a cause. -/
def onlyWalk (s : State) (k : Nat) (g : Grp) (a : Int) : State × Except Nat Nat :=
  if a < 0 ∨ 2 ^ 55 ≤ a then (s, .error fcTranslation)
  else
    match lookup s g.ctx (coreOf k) false false a.toNat with
    | .absent _ => (s, .error fcTranslation)
    | .bad s1 c => (s1, .error c)
    | .leaf s1 e =>
      let off := a.toNat % 2 ^ e.bits
      (s1, .ok (hostPa (ptePa e.pte) + (if pteNumx e.pte = 1 then 3 * off else off)))

/-- CINV of the threads' lines. -/
def cinvLines (s : State) (k : Nat) (g : Grp) : List (Nat × Int) → State × Option (Nat × Nat) × List Nat
  | [] => (s, none, [])
  | (_, a) :: rest =>
    match onlyWalk s k g a with
    | (s1, .error c) => (s1, some (c, wrapInt 64 a), [])
    | (s1, .ok pa) =>
      let (s2, e, ls) := cinvLines s1 k g rest
      (s2, e, pa / 128 :: ls)

/-- CINV (R374). -/
def execCinv (w : MWord) (s : State) : Host.Outcome State Fault Refusal :=
  issue (.cinv w) howPlain
    (fun s k g e =>
      if memoryHeld s g then .wait s
      else if w.m.x then
        .ok (if e.act = 0 then s else updCore s (coreOf k) (fun c => { c with l1 := c.l1.filter (fun l => l.vf != ctxVf g.ctx) })) Notes.nil
      else
        match addrsOf e w false with
        | (none, _) => .ok s Notes.nil
        | (some as, sp) =>
          if w.m.loc then
            match targets s k g true .tag w.m.ty 1 as with
            | (_, .error (c, va)) => .fault s c va
            | _ => .ok s (Notes.ofSplit sp)
          else
            match cinvLines s k g as with
            | (s1, some (c, va), _) => .fault s1 c va
            | (s1, none, ls) => .ok (ls.foldl (fun t l => l1Drop t (coreOf k) (ctxVf g.ctx) l) s1) (Notes.ofSplit sp)) s

/-- Where the first byte of a thread's line stands: on a TRIPLE page its first sibling's slot (R81, R374). -/
def tagPa (x : Xl) : Nat := if x.numx = 1 then x.frame + 3 * x.off else x.pa

/-- The tag word of a line (R374). -/
def ctagWord (s : State) (x : Xl) (loc : Bool) : Nat :=
  if loc || !ownWell s (tagPa x) then 2 ^ 31
  else
    let tag := (lineOf s (tagPa x / 128)).tag.toNat
    let t := if x.cmp then tag else 0
    let sec := if x.cmp && 8 ≤ tag then compSectors (tag % 8) else 4
    t + 16 * sec + (if x.cmp then 2 ^ 8 else 0) + (if x.ver then 2 ^ 9 else 0)

/-- CTAG (R374). -/
def execCtag (w : MWord) (s : State) : Host.Outcome State Fault Refusal :=
  memIssue (.ctag w) w .tag 4 howMem false
    (fun s k g _ ts n =>
      let ws := (ts.map (fun (t, _, x) =>
        let v := match x with
          | .mem x loc => ctagWord s x loc
          | _ => 2 ^ 31
        match w.d with
        | .v i => ((lanesOf g t).map (fun l => wrV i.toNat l 1 v)).flatten
        | _ => [])).flatten
      .ok (sendResult s k g .var (hdrSlot w.hdr) ws) n) s

/-- An access that writes memory at its home. -/
def accWrites (a : Acc) : Bool := accStores a || a.kind == .atomic

/-- An access of the core that writes the line is not yet performed (R96, R118). -/
def coreStoring (s : State) (core line : Nat) : Bool :=
  s.accs.any (fun a => a.2.core == core && accWrites a.2 &&
    a.2.parts.any (fun p => !p.2.done && !awaitsPage p.2.hold && p.2.pa / 128 == line))

/-- Fills the L1 with a line as its home answered it (R95, R96); the least recently used line goes where the L1 rows are
full (R97). While a write of the core to the line is under way the fill is left out, so that no load goes back behind it
(DESIGN CHOICE, assumption log, row 29). -/
def l1Fill (s : State) (core vf line : Nat) (data : BitVec 1024) : State :=
  if coreStoring s core line then s
  else updCore s core (fun c =>
    let ls := c.l1.filter (fun l => !(l.vf == vf && l.line == line))
    { c with l1 := (if ls.length < s.pkg.l1rows then ls else ls.drop 1) ++ [⟨vf, line, data⟩] })

/-- One thread's prefetch (R95, R374): dropped where a check or the home fails; a line of another package is asked for. -/
def prefOne (s : State) (k : Nat) (g : Grp) (a : Int) : State :=
  match glbTarget s k g .pref .b8 1 a with
  | (s1, .ok (.mem x _)) =>
    let line := tagPa x / 128
    if l1Ok s1 k { x with pa := tagPa x } false && (l1Find s1 (coreOf k) (ctxVf g.ctx) line).isNone then
      if (destOf s1 (homeOf s1.pkg.id (tagPa x))).isSome then
        addAcc s1 k (newAcc .pref .add k g .b8 .none none [{ memPart s1 0 a.toNat 1 x (tagPa x) 0 0 with l1 := true }] none false .grp false s1.cycle)
      else
        match pumpRead s1 x.key false none (128 * line) 128 with
        | .done s2 d => l1Fill s2 (coreOf k) (ctxVf g.ctx) line (BitVec.ofNat 1024 d)
        | _ => s1
    else s1
  | (s1, _) => s1

/-- PREF (R374). -/
def execPref (w : MWord) (s : State) : Host.Outcome State Fault Refusal :=
  issue (.pref w) howPlain
    (fun s k g e =>
      if memoryHeld s g then .wait s
      else
        match addrsOf e w false with
        | (none, _) => .ok s Notes.nil
        | (some as, sp) => .ok (if w.m.loc then s else as.foldl (fun t a => prefOne t k g a.2) s) (Notes.ofSplit sp)) s

/-- CDRAIN (R374): its slot waits for the stores and reductions that the group issued before it. -/
def execCdrain (w : RWord MemM) (s : State) : Host.Outcome State Fault Refusal :=
  issue (.cdrain w) howMem
    (fun s k g e =>
      if memoryHeld s g then .wait s
      else
        match hdrSlot w.hdr with
        | none => .ok s Notes.nil
        | some m =>
          let ids := ((grpAccs s g).filter (fun a => accStores a.2)).map (·.1)
          if e.act = 0 || ids.isEmpty then .ok (noAccess s k (some m)) Notes.nil
          else
            .ok (addAcc s k { newAcc .drain .add k g .b8 .none (some m) [] none false .grp false s.cycle with after := ids }) Notes.nil) s

/-- Sends the predicate of a TXC to its Active threads (R375). -/
def txcResult (s : State) (k : Nat) (e : Env) (d : Dst) (slot : Option Nat) (p : Bool) : State :=
  match tabGet s.groups k, d with
  | some g, .p i => sendResult s k g .var slot ((activeThreads e).map (fun t => ⟨.p i.toNat t, bitVal p⟩))
  | _, _ => s

/-- A new transaction (R149). -/
def txOpen (s : State) (t : Tx) : Tx := { txDiscard t with state := .open, id := s.serial, depth := 1, excess := 0, ts := s.gts }

/-- TXB (R149, R375). -/
def execTxb (w : RWord MemM) (s : State) : Host.Outcome State Fault Refusal :=
  issue (.txb w) howPlain
    (fun s k g e =>
      if e.act = 0 then .ok s Notes.nil
      else if memoryHeld s g then .wait s
      else
        let t := g.tx
        if t.state = .doomed ∧ t.depth = 15 ∧ t.excess = 0xFFFF then .fault s fcIllegalOpnd 0
        else
          let t1 :=
            if t.state = .none then txOpen s t
            else if t.depth < 15 then { t with depth := t.depth + 1 }
            else { txDoom t 2 with excess := t.excess + 1 }
          .ok (acquireL1 (setGroup (fresh s).2 k (unmark { g with tx := t1 })) k (ctxVf g.ctx) .pkg) Notes.nil) s

/-- Pumps that own the lines of a transaction's buffer (R152). -/
def txPumps (t : Tx) : List Nat := (t.lines.map (fun l => pumpOf (128 * l.line))).eraseDups

/-- A transaction that ends at once (R149). -/
def txEnd (t : Tx) (cause : Nat) : Tx :=
  { txDiscard t with
    state := .none, depth := 0, excess := 0, cause := cause, asked := [], sent := [], votes := [],
    stamp := none, towrite := [], acked := [], pdst := none, slot := none }

/-- TXC (R149, R375): a release at .pkg. -/
def execTxc (w : RWord MemM) (s : State) : Host.Outcome State Fault Refusal :=
  issue (.txc w) howMem
    (fun s k g e =>
      let slot := hdrSlot w.hdr
      if e.act = 0 then .ok (sendResult s k g .var slot []) Notes.nil
      else if memoryHeld s g || releaseHeld s k g then .wait s
      else
        let t := g.tx
        let upd := fun t1 => setGroup s k (unmark { g with tx := t1 })
        if t.state = .none then .ok (txcResult (upd t) k e w.d slot false) Notes.nil
        else if t.state = .doomed ∧ 0 < t.excess then
          .ok (txcResult (upd { t with excess := t.excess - 1 }) k e w.d slot false) Notes.nil
        else if 1 < t.depth then
          .ok (txcResult (upd { t with depth := t.depth - 1 }) k e w.d slot (t.state == .open)) Notes.nil
        else if t.state = .doomed then .ok (txcResult (upd (txEnd t t.doom)) k e w.d slot false) Notes.nil
        else if t.lines.isEmpty then .ok (txcResult (upd (txEnd t 0)) k e w.d slot true) Notes.nil
        else
          let pd := match w.d with | .p i => some i.toNat | _ => none
          let th := (activeThreads e).foldl (fun (m : Mask) x => m ||| BitVec.ofNat 96 (2 ^ x)) 0
          let t1 := { t with
            state := .preparing, since := s.cycle, asked := txPumps t, sent := [], votes := [], stamp := none,
            towrite := [], acked := [], pdst := pd, threads := th, slot := slot }
          .ok (setGroup s k (slotUp (unmark { g with tx := t1 }) slot)) Notes.nil) s

/-- TXA (R149, R375). -/
def execTxa (w : RWord MemM) (s : State) : Host.Outcome State Fault Refusal :=
  issue (.txa w) howPlain
    (fun s k g e =>
      if e.act = 0 then .ok s Notes.nil
      else if memoryHeld s g then .wait s
      else .ok (setGroup s k (unmark { g with tx := if g.tx.state = .none then g.tx else txEnd g.tx 3 })) Notes.nil) s

/-- The lowest FREE pin of a context (R146). -/
def freePin (c : Ctx) : Option Nat :=
  (List.range 256).find? (fun i => (tabGet c.pins i).elim true (fun p => p.state == .free))

/-- SNAPPIN (R376). -/
def execSnappin (w : RWord MemM) (s : State) : Host.Outcome State Fault Refusal :=
  issue (.snappin w) howMem
    (fun s k g e =>
      let slot := hdrSlot w.hdr
      if e.act = 0 then .ok (sendResult s k g .var slot []) Notes.nil
      else if memoryHeld s g then .wait s
      else
        match w.d, (tabGet s.ctxs g.ctx).bind freePin with
        | .s i, some id =>
          let s1 := updCtx s g.ctx (fun c => { c with pins := tabPut c.pins id ⟨.held, s.gts, 0⟩ })
          .ok (sendResult s1 k g .var slot [⟨.s i.toNat, BitVec.ofNat 64 s.gts⟩, ⟨.s (i.toNat + 1), BitVec.ofNat 64 id⟩]) Notes.nil
        | .s i, none => .ok (sendResult s k g .var slot [⟨.s i.toNat, 0⟩, ⟨.s (i.toNat + 1), BitVec.ofNat 64 (2 ^ 63)⟩]) Notes.nil
        | _, _ => .ok s Notes.nil) s

/-- SNAPREL (R147, R376). -/
def execSnaprel (w : RWord MemM) (s : State) : Host.Outcome State Fault Refusal :=
  issue (.snaprel w) howPlain
    (fun s _ g e =>
      let id := rdW e .ui64 64 w.a 0
      let imm := match w.a with | .imm _ => true | _ => false
      if (imm || e.act != 0) && decide (255 < id) then .fault s fcIllegalOpnd 0
      else if e.act = 0 then .ok s Notes.nil
      else if memoryHeld s g then .wait s
      else
        match (tabGet s.ctxs g.ctx).bind (fun c => tabGet c.pins id) with
        | some p =>
          if p.state ≠ .held then .fault s fcIllegalOpnd 0
          else
            let p1 := if p.refs = 0 then { p with state := .free } else { p with state := .draining }
            .ok (updCtx s g.ctx (fun c => { c with pins := tabPut c.pins id p1 })) Notes.nil
        | none => .fault s fcIllegalOpnd 0) s

end Sys2Proof.Machine
end

