-- ==== Sys2Proof/Machine/Start.lean ====
section
/-! DEFINITION. Starting groups: room in a core's schedulers, the state of a new group (10_group R220, 09_kernel
R205, R206, R209), and the placing of a spawn bin (10_group R237). -/

namespace Sys2Proof.Machine

open Sys2Proof

/-- A hardware group slot is in use; a paired group takes its own slot and the next (assumption log, row 14). -/
def slotBusy (s : State) (k : Nat) : Bool :=
  (tabGet s.groups k).isSome || (k % 24 != 0 && (tabGet s.groups (k - 1)).any (·.paired))

/-- The partition whose capacity a group takes: its context's, or the one that lends to its team (R196). -/
def quotaPart (s : State) (g : Grp) : Nat :=
  match (tabGet s.teams g.team).bind (·.borrowed) with
  | some p => p
  | none => (tabGet s.ctxs g.ctx).elim 0 ctxPart

/-- Slots and register rows of a partition's quota that groups hold on a scheduler. -/
def schedUse (s : State) (part sched : Nat) : Nat × Nat :=
  s.groups.foldl
    (fun u kg =>
      if schedOf kg.1 = sched && quotaPart s kg.2 == part then
        let n := if kg.2.paired then 2 else 1
        (u.1 + n, u.2 + n * kg.2.budget)
      else u) (0, 0)

/-- `n` group slots from `k` on fit the scheduler and the partition's quota (R178). -/
def slotFits (s : State) (part k regs n : Nat) : Bool :=
  let w0 := (getPart s part).w0
  let u := schedUse s part (schedOf k)
  k % 24 + n ≤ 24 && (List.range n).all (fun i => !slotBusy s (k + i)) &&
    u.1 + n ≤ fld w0 31 27 && u.2 + n * regs ≤ fld w0 26 16

/-- The lowest slot of a core with room for a group. -/
def findSlot (s : State) (part core regs n : Nat) : Option Nat :=
  ((List.range 96).map (fun i => core * 96 + i)).find? (fun k => slotFits s part k regs n)

/-- Lanes from `n` upward. -/
def lanesFrom (n : Nat) : Mask := BitVec.ofNat 96 (2 ^ 96 - 2 ^ n)

/-- The state of a group that is placed: PENDING, its registers still to be loaded (R220). -/
def newGroup (serial ck grid team role lin tslot : Nat) (triplex paired : Bool) (budget cycle entry : Nat)
    (absent : Mask) (tids : Tab Nat) (seed numctl rasbase : W64) (v s : Tab Nat) : Grp where
  serial := serial
  ctx := ck
  grid := grid
  team := team
  role := role
  lin := lin
  tslot := tslot
  triplex := triplex
  paired := paired
  budget := budget
  state := .pending
  dbgStop := false
  dbgReq := false
  step := false
  bken := false
  yld := false
  placed := cycle
  readyAt := cycle
  activeAt := cycle
  nextAt := cycle
  pc := entry
  em := BitVec.ofNat 96 (2 ^ (if paired then 96 else 48) - 1) &&& ~~~absent
  running := true
  fall := false
  paths := []
  spilled := []
  joins := []
  ras := []
  rasSpilled := 0
  absent := absent
  ended := 0
  v := v.map (fun x => (x.1, BitVec.ofNat 32 x.2))
  s := s.map (fun x => (x.1, BitVec.ofNat 64 x.2))
  p := []
  undef := some serial
  tids := tids
  draws := []
  seed := seed
  numctl := numctl &&& 0x1F1F1F1F#64
  numflag := 0
  rasbase := rasbase
  px := 0
  schk := false
  mark := ⟨false, 0, 0, [], 0⟩
  sb := []
  pend := []
  vres := []
  batches := []
  tx := ⟨.none, 0, 0, 0, 0, 0, 0, [], 0, [], [], [], none, [], [], none, 0, none⟩
  partial_ := []
  recovering := false
  fromSpill := none
  relNext := 0
  poolSince := none
  waitRec := none
  poison := []
  faultPc := none
  fenced := 0
  front := false

/-- Threads of a native group in a mode (R217). -/
def nativeThreads (triplex : Bool) : Nat := if triplex then 16 else 48

/-- sr.rasbase of a team slot (R209). -/
def rasbaseOf (lpb : List W64) (lin j : Nat) : W64 :=
  let w := lpb.getD 8 0
  BitVec.ofNat 64 (fld w 54 0 + (lin * 32 + j) * 2 ^ fld w 63 56)

/-- The s registers a group starts with: s0 = ARGPTR, s60 = s61 = 0 (R220). -/
def startS (lpb : List W64) : Tab Nat := [(0, fld (lpb.getD 6 0) 54 0), (60, 0), (61, 0)]

/-- The lowest FREE team slot with room for `n` slots. -/
def freeTeamSlot (t : Team) (n : Nat) : Option Nat :=
  let used := fun j => t.slots.any (fun x => x.1 == j)
  (List.range (33 - n)).find? (fun j => (List.range n).all (fun i => !used (j + i)))

/-- The group a spawn bin makes (R237): threads in order of entry, argument words in v0 to v3 of all
siblings, absent lanes beyond the last thread. -/
def binGroup (serial ck : Nat) (t : Team) (grid : Grid) (b : Bin) (regs j cycle : Nat) : Grp :=
  let tr := grid.kern.triplex
  let per := if tr then 3 else 1
  let v := ((b.threads.zipIdx).map (fun (th, i) =>
    ((List.range per).map (fun q => (List.range 4).map (fun r =>
      (r * 96 + i * per + q, (th.args.getD r 0).toNat)))).flatten)).flatten
  newGroup serial ck t.grid b.team b.role t.lin j tr false regs cycle b.entry
    (lanesFrom (b.threads.length * per) &&& BitVec.ofNat 96 (2 ^ 48 - 1))
    ((b.threads.zipIdx).map (fun (th, i) => (i, th.tid)))
    (grid.lpb.getD 3 0) (grid.lpb.getD 4 0) (rasbaseOf grid.lpb t.lin j)
    (v.foldl (fun tb x => tabPut tb x.1 x.2) []) (startS grid.lpb)

/-- New groups may be placed on a core for a partition: it is in its placement map and works (R28, R178). -/
def coreUsable (s : State) (p core : Nat) : Bool := (placedCores s (getPart s p).w1).contains core && !(getCore s core).failed

/-- Paths on a core that wait with SPAWN run again, and try again (R236). -/
def wakeSpawns (s : State) (core : Nat) : State :=
  (tabKeys s.groups (fun q _ => coreOf q == core)).foldl (fun u q => wakePath u q (· == .spawn) false) s

/-- Places the group of a fired bin in its team's lowest FREE slot, on a group slot of the core (R237);
unchanged where there is no room, or where the team is not on its core (R197). -/
def placeBin (s : State) (core bin : Nat) (slot : Option Nat) : State :=
  match tabGet (getCore s core).bins bin with
  | none => s
  | some b =>
    match tabGet s.teams b.team with
    | none => s
    | some t =>
      match tabGet s.grids t.grid, freeTeamSlot t 1 with
      | some g, some j =>
        let regs := (g.roles[b.role]?).elim 0 (fun r => r.regs * 8)
        let part := t.borrowed.getD ((tabGet s.ctxs t.ctx).elim 0 ctxPart)
        let k := if t.away.isSome || !coreUsable s ((tabGet s.ctxs t.ctx).elim 0 ctxPart) core then none
          else match slot with
            | some x => if coreOf x = core && slotFits s part x regs 1 then some x else none
            | none => findSlot s part core regs 1
        match k with
        | none => s
        | some k =>
          let (n, s1) := fresh s
          let s2 := setGroup s1 k (binGroup n t.ctx t g b regs j s.cycle)
          let s3 := { s2 with teams := tabPut s2.teams b.team { t with slots := tabPut t.slots j k } }
          let s4 := updCore s3 core (fun c => { c with bins := tabDel c.bins bin })
          wakeSpawns s4 core
      | _, _ => s

/-- Marks a bin as fired and places its group where there is room. -/
def fireBin (s : State) (core bin : Nat) : State :=
  placeBin (updCore s core (fun c => { c with bins := tabUpd c.bins bin (fun b => { b with fired := true }) })) core bin none

/-- Memory without the bytes of a range, which then read as zero. -/
def memClear (m : Mem) (a n : Nat) : Mem := m.filter (fun x => x.1 < a || a + n ≤ x.1)

/-- Cistern rows become zero: a poisoned word there is rewritten (R30). -/
def zeroRows (s : State) (core row n : Nat) : State :=
  let a := rowAddr s.pkg.id core row 0
  clearPoison { s with mem := memClear s.mem a (128 * n) } a (128 * n)

/-- Rows of a cistern queue (R243). -/
def queueRows (q : QSlot) : Nat := (q.depth * q.esz + 127) / 128

/-- Queue slots that satisfy a test become FREE: their rows are zeroed, and no free-count is sent (R244). -/
def freeQueues (s : State) (core : Nat) (p : QSlot → Bool) : State :=
  ((getCore s core).qslots.filter (fun x => p x.2)).foldl
    (fun t x => updCore (zeroRows t core x.2.base (queueRows x.2)) core
      (fun c => { c with qslots := tabDel c.qslots x.1 })) s

/-- A team's groups are FREE, its bins empty and its engine operations complete (R221). -/
def teamDone (s : State) (tk : Nat) (t : Team) : Bool :=
  t.slots.isEmpty && !((getCore s t.core).bins.any (fun b => b.2.team == tk)) &&
    !((tabGet s.ctxs t.ctx).any (fun c => c.savedBins.any (fun b => b.2.team == tk))) &&
    !(s.ops.any (fun o => o.2.team == tk && decide (o.2.cls < 4)))

/-- A team that is done ends (R221): its queues are freed and its grid counts it; rows that it borrowed go back to their
lender zeroed (R91). -/
def endTeam (s : State) (tk : Nat) : State :=
  match tabGet s.teams tk with
  | none => s
  | some t =>
    if !teamDone s tk t then s
    else
      let s0 := freeQueues s t.core (fun q => q.team == some tk)
      let s1 := if t.borrowed.isSome then zeroRows s0 t.core t.row t.rows else s0
      { s1 with
        teams := tabDel s1.teams tk,
        grids := tabUpd s1.grids t.grid (fun g => { g with ended := g.ended + 1 }) }

end Sys2Proof.Machine
end

