-- ==== Sys2Proof/Machine/Control.lean ====
section
/-! DEFINITION. Control, group and system instructions (15_control). -/

namespace Sys2Proof.Machine

open Sys2Proof

/-- The J-form target PC + SignExtend(IMM32) (R285, R307). -/
def jTarget (g : Grp) (imm : BitVec 32) : Int := (g.pc : Int) + imm.toInt

/-- The lanes of threads. -/
def lanesOfThreads (g : Grp) (ts : List Nat) : Mask := maskOf g ts (fun _ => true)

/-- The sequential part of a split: lanes at PC + 1 (R306). -/
def seqPart (s : State) (g : Grp) (m : Mask) : Nat × Mask × Bool := (g.pc + 1, m, fallsOff s g.ctx g.pc)

/-- The whole running path continues at PC + 1. -/
def goOn (s : State) (k : Nat) (n : Notes) : Res := .ok (updGroup s k (advance s)) n

/-- A word that is no instruction raises its cause when it would issue (R296, R204, R164). -/
def raiseWord (s : State) (cause : Nat) : Host.Outcome State Fault Refusal :=
  match s.cur with
  | none => .fault .noGroup
  | some k =>
    match tabGet s.groups k with
    | none => .fault .noGroup
    | some g => if mayIssue s k g then takeFault s k cause 0 else .next { s with cur := none }

/-- ZTRAP (R314): FETCH_ZERO by R296 order 1, whatever the other bits. -/
def execZtrap (s : State) : Host.Outcome State Fault Refusal := raiseWord s fcFetchZero

/-- ILLEGAL_OP: an unassigned opcode (R296 order 3). -/
def execIllegalOp (_w : BitVec 96) (s : State) : Host.Outcome State Fault Refusal := raiseWord s fcIllegalOp

/-- FALLOFF: the all-ones word, or a fetch past the object's text range (R204, R296 order 2). -/
def execFalloff (s : State) : Host.Outcome State Fault Refusal := raiseWord s fcFalloff

/-- TEXT_FAULT: a fetch whose text-map walk finds no text leaf (R164). -/
def execTextFault (s : State) : Host.Outcome State Fault Refusal := raiseWord s fcTextFault

/-- NOP (R314). -/
def execNop (w : RWord (BitVec 12)) (s : State) : Host.Outcome State Fault Refusal :=
  issue (.nop w) howPlain (fun s _ _ _ => .ok s Notes.nil) s

/-- The threads of the Active ones whose condition holds; NONE is always (R307). -/
def takenThreads (e : Env) (a : Opnd) : List Nat :=
  match a with
  | .none => activeThreads e
  | _ => (activeThreads e).filter (rdPred e a)

/-- Moves the taken lanes to the target and the others to PC + 1 (R307). -/
def branchParts (s : State) (k : Nat) (g : Grp) (e : Env) (ts : List Nat) (t : Nat) : Res :=
  let m := lanesOfThreads g ts &&& e.act
  .ok (setGroup s k (splitPath g [(t, m, false), seqPart s g (g.em &&& ~~~m)] s.cycle)) Notes.nil

/-- BRA (R307): the condition must agree over the Active threads. -/
def execBra (w : IWord (BitVec 12)) (s : State) : Host.Outcome State Fault Refusal :=
  issue (.bra w) howPath
    (fun s k g e =>
      let all := activeThreads e
      let ts := takenThreads e w.a
      let t := jTarget g w.imm
      if all.isEmpty then goOn s k Notes.nil
      else if ts.length ≠ 0 ∧ ts.length ≠ all.length then .fault s fcNonuniform 0
      else if !inText s g.ctx t then .fault s fcPcWrap 0
      else branchParts s k g e ts t.toNat) s

/-- BRD (R307): the divergent branch. -/
def execBrd (w : IWord (BitVec 12)) (s : State) : Host.Outcome State Fault Refusal :=
  issue (.brd w) howPath
    (fun s k g e =>
      let t := jTarget g w.imm
      if (activeThreads e).isEmpty then goOn s k Notes.nil
      else if !inText s g.ctx t then .fault s fcPcWrap 0
      else branchParts s k g e (takenThreads e w.a) t.toNat) s

/-- One part for each Active thread's target. -/
def targetParts (e : Env) (tg : List (Nat × Nat)) : List (Nat × Mask × Bool) :=
  tg.map (fun (t, x) => (x, threadMask e.g t &&& e.act, false))

/-- BRX (R307): a target for each Active thread, Median3 as .ui64. -/
def execBrx (w : RWord (BitVec 12)) (s : State) : Host.Outcome State Fault Refusal :=
  issue (.brx w) howPath
    (fun s k g e =>
      let (tg, sp) := svAll e .ui64 64 w.a
      if tg.isEmpty then goOn s k Notes.nil
      else if tg.any (fun x => !inText s g.ctx x.2) then .fault s fcPcWrap 0
      else .ok (setGroup s k (splitPath g (targetParts e tg ++ [seqPart s g (g.em &&& ~~~e.act)]) s.cycle)) (Notes.ofSplit sp)) s

/-- Index of a join operand. -/
def joinIdx : Opnd → Nat
  | .join j => j.toNat
  | _ => 0

/-- JARM (R226, R308): its checks in the order of R308. -/
def execJarm (w : IWord (BitVec 12)) (s : State) : Host.Outcome State Fault Refusal :=
  issue (.jarm w) howPlain
    (fun s k g e =>
      let j := joinIdx w.a
      let t := jTarget g w.imm
      if e.act = 0 then .ok s Notes.nil
      else
        match (match w.d with | .s r => rdMask e r.toNat | _ => some g.em) with
        | none => .fault s fcIllegalOpnd 0
        | some m =>
          if !inText s g.ctx t then .fault s fcPcWrap 0
          else if !siblingsAgree g m then .fault s fcMaskSplit 0
          else if (joinOf g j).armed && (allPaths g).any (fun p => p.kind == .joined j) then .fault s fcIllegalOpnd 0
          else if !within m (liveLanes g) then .fault s fcIllegalOpnd 0
          else .ok (setGroup s k { g with joins := tabPut g.joins j ⟨true, false, m, 0, t.toNat⟩ }) Notes.nil) s

/-- The group after the Active lanes arrive at a join (R226): the rest of the path goes on at PC + 1; a full
join completes, another parks the lanes. -/
def arriveJoin (s : State) (g : Grp) (act : Mask) (j : Nat) : Grp :=
  let x := joinOf g j
  let arr := x.arr ||| act
  let rest := g.em &&& ~~~act
  let g1 := { g with joins := tabPut g.joins j { x with arr := arr } }
  let g2 := { advance s g1 with em := rest, running := rest != 0 }
  if arr = x.exp then formPaths (closeJoin g2 j false) [(x.tgt, arr)] s.cycle
  else park g2 (.joined j) x.tgt act false 0 s.cycle

/-- JARR (R226 to R228, R308). -/
def execJarr (w : RWord (BitVec 12)) (s : State) : Host.Outcome State Fault Refusal :=
  issue (.jarr w) howPath
    (fun s k g e =>
      let j := joinIdx w.a
      let x := joinOf g j
      if e.act = 0 then goOn s k Notes.nil
      else if !x.armed || !within e.act x.exp || (e.act &&& x.arr) != 0 then .fault s fcIllegalOpnd 0
      else .ok (setGroup s k (arriveJoin s g e.act j)) Notes.nil) s

/-- The stack is at the limit of R214. -/
def stackFull (s : State) (g : Grp) : Bool :=
  let log := stackLog s g
  decide (g.ras.length + 1 ≥ (if log = 0 then 17 else 2 ^ (log - 4)))

/-- A call of the Active threads to their targets (R310). -/
def callTo (s : State) (k : Nat) (g : Grp) (e : Env) (tg : List (Nat × Int)) (n : Notes) : Res :=
  if tg.isEmpty then goOn s k n
  else if stackFull s g then .fault s fcIllegalOpnd 0
  else if tg.any (fun x => !inText s g.ctx x.2) then .fault s fcPcWrap 0
  else
    let ts := tg.map (fun x => (x.1, x.2.toNat))
    let multi := ts.any (fun x => some x.2 != (ts.head?).map (·.2))
    let o := rasPush s k ⟨g.pc + 1, multi, g.em, g.em &&& ~~~e.act⟩
    (o.andThen (fun s1 => .ok (updGroup s1 k (fun g => splitPath g (targetParts e ts) s.cycle)))).toRes n

/-- CALL (R310). -/
def execCall (w : IWord (BitVec 12)) (s : State) : Host.Outcome State Fault Refusal :=
  issue (.call w) howPath
    (fun s k g e => callTo s k g e ((activeThreads e).map (fun t => (t, jTarget g w.imm))) Notes.nil) s

/-- CALLX (R310, R216). -/
def execCallx (w : RWord (BitVec 12)) (s : State) : Host.Outcome State Fault Refusal :=
  issue (.callx w) howPath
    (fun s k g e =>
      let (tg, sp) := svAll e .ui64 64 w.a
      callTo s k g e (tg.map (fun x => (x.1, (x.2 : Int)))) (Notes.ofSplit sp)) s

/-- RET (R311): arrival at the top entry of the stack. -/
def execRet (w : RWord (BitVec 12)) (s : State) : Host.Outcome State Fault Refusal :=
  issue (.ret w) howPath
    (fun s k g e =>
      if e.act = 0 then goOn s k Notes.nil
      else if g.ras.isEmpty then .fault s fcIllegalOpnd 0
      else
        ((rasRefill s k g.em).andThen (fun s1 =>
          match (tabGet s1.groups k).bind (fun g1 => g1.ras.getLast?.map (fun r => (g1, r))) with
          | none => .fault s1 fcIllegalOpnd 0
          | some (g1, top) =>
            if !within e.act top.exp || (e.act &&& top.arr) != 0 then .fault (keepRas s1 k g) fcIllegalOpnd 0
            else if !inText s g.ctx top.ret then .fault (keepRas s1 k g) fcPcWrap 0
            else
              let arr := top.arr ||| e.act
              let rest := g1.em &&& ~~~e.act
              let g2 := { advance s g1 with em := rest, running := rest != 0 }
              if arr = top.exp then
                .ok (setGroup s1 k (formPaths { g2 with ras := g2.ras.dropLast } [(top.ret, arr)] s.cycle))
              else .ok (setGroup s1 k { g2 with ras := g2.ras.dropLast ++ [{ top with arr := arr }] }))).toRes Notes.nil) s

/-- The group after the Active lanes end (R314). -/
def endLanes (s : State) (g : Grp) (act : Mask) : Grp :=
  let rest := g.em &&& ~~~act
  { advance s g with
    ended := g.ended ||| act, em := rest, running := rest != 0,
    joins := tabMap g.joins (fun _ j => { j with arr := j.arr &&& ~~~act }),
    ras := g.ras.map (fun r => { r with arr := r.arr &&& ~~~act }) }

/-- END (R314). -/
def execEndI (w : RWord (BitVec 12)) (s : State) : Host.Outcome State Fault Refusal :=
  issue (.endI w) howPath
    (fun s k g e => if e.act = 0 then goOn s k Notes.nil else .ok (setGroup s k (endLanes s g e.act)) Notes.nil) s

/-- TRAP (R314). -/
def execTrap (w : IWord (BitVec 12)) (s : State) : Host.Outcome State Fault Refusal :=
  issue (.trap w) howPlain (fun s _ _ e => if e.act = 0 then .ok s Notes.nil else .fault s fcTrap 0) s

/-- BKPT (R314, R410, R413): a debugger stop at PC + 1 where breakpoints are enabled. -/
def execBkpt (w : IWord (BitVec 12)) (s : State) : Host.Outcome State Fault Refusal :=
  issue (.bkpt w) howPath
    (fun s k g e =>
      if e.act = 0 then goOn s k Notes.nil
      else if g.bken then
        .ok (prfRecord (setGroup s k { advance s g with state := .stopped, dbgStop := true }) k 3 w.imm.toNat) Notes.nil
      else .fault s fcBkpt 0) s

/-- BIND (R215, R315). -/
def execBind (w : RWord (BitVec 12)) (s : State) : Host.Outcome State Fault Refusal :=
  issue (.bind w) howPath
    (fun s k g e =>
      match unW e .ui64 64 w.a with
      | (none, _) => .fault s fcNonuniform 0
      | (some va, sp) =>
        if e.act = 0 then goOn s k Notes.nil
        else if va % 8 ≠ 0 then .fault s fcMisalign va
        else if memoryHeld s g then .wait s
        else
          let (o, d) := loadNow s k g va 8 none
          match o with
          | .wait s1 => .wait s1
          | .fault s1 c a => .fault s1 c a
          | .ok s1 =>
            if d / 2 ^ 63 = 1 then goOn (acquireL1 s1 k (ctxVf g.ctx) .sys) k (Notes.ofSplit sp)
            else
              match translate s1 g.ctx (coreOf k) va (Use.load 8) with
              | .ok s2 x => .ok (parkOn s2 k .bind (.bind x.pa)) (Notes.ofSplit sp)
              | .fault s2 c => .fault s2 c va
              | .absent s2 _ => .wait s2) s

/-- A thread enters a bin (R236): the matching bin that can take it, or an empty one; gives the bins and
the bin it entered. A bin that fills fires. -/
def enterBin (bins : Tab Bin) (cap team role entry cycle : Nat) (th : BinThread) : Option (Tab Bin × Nat) :=
  let fits := fun (b : Bin) => b.team == team && b.role == role && b.entry == entry && !b.fired && decide (b.threads.length < cap)
  match bins.find? (fun kb => fits kb.2) with
  | some (i, b) =>
    let ths := b.threads ++ [th]
    some (tabPut bins i { b with threads := ths, fired := ths.length == cap }, i)
  | none =>
    match (List.range 8).find? (fun i => (tabGet bins i).isNone) with
    | some i => some (tabPut bins i ⟨team, role, entry, [th], cycle, cap == 1⟩, i)
    | none => none

/-- All threads of a SPAWN enter, or none (R316). -/
def enterAll (bins : Tab Bin) (cap team role cycle : Nat) : List (Nat × BinThread) → Option (Tab Bin × List Nat)
  | [] => some (bins, [])
  | (entry, th) :: ts =>
    match enterBin bins cap team role entry cycle th with
    | none => none
    | some (b, i) =>
      match enterAll b cap team role cycle ts with
      | none => none
      | some (b', is) => some (b', i :: is)

/-- The v register of an operand plus an offset. -/
def vPlus (o : Opnd) (n : Nat) : Opnd :=
  match o with
  | .v i a b => .v (BitVec.ofNat 8 (i.toNat + n)) a b
  | x => x

/-- SPAWN (R236, R237, R316). -/
def execSpawn (w : RWord (BitVec 12)) (s : State) : Host.Outcome State Fault Refusal :=
  issue (.spawn w) howPath
    (fun s k g e =>
      let role := w.m.toNat % 4
      let flush := w.m.toNat / 4 % 2 == 1
      let nrole := (tabGet s.grids g.grid).elim 0 (fun x => x.kern.nrole)
      let ts := activeThreads e
      let ids := ts.map (fun t => svW e .ui32 32 w.a t)
      let args := ts.map (fun t => (List.range 4).map (fun q => svW e .b32 32 (vPlus w.b q) t))
      let ens := ts.map (fun t => svW e .ui64 64 w.c t)
      let sp := maskOf g ts (fun t =>
        (svW e .ui32 32 w.a t).2 || (List.range 4).any (fun q => (svW e .b32 32 (vPlus w.b q) t).2) || (svW e .ui64 64 w.c t).2)
      match (ids.zip ens).find? (fun x => 2 ^ 31 ≤ x.1.1 || !inText s g.ctx x.2.1) with
      | some x => if 2 ^ 31 ≤ x.1.1 then .fault s fcIllegalOpnd 0 else .fault s fcPcWrap 0
      | none =>
      if nrole ≤ role then .fault s fcIllegalOpnd 0
      else if ts.isEmpty then goOn s k Notes.nil
      else if releaseHeld s k g then .wait s
      else
        let core := coreOf k
        let ths := (ids.zip (args.zip ens)).map (fun (i, a, n) => (n.1, BinThread.mk i.1 (a.map (fun x => BitVec.ofNat 32 x.1))))
        match enterAll (getCore s core).bins (nativeThreads g.triplex) g.team role s.cycle ths with
        | none => .park (parkOn s k .spawn .spawn) (Notes.ofSplit sp)
        | some (bins, is) =>
          let s1 := updCore s core (fun c => { c with bins := bins })
          let s2 := updGroup s1 k (fun g => unmark (advance s g))
          let fire := (is.foldl (fun l i => if l.contains i then l else l ++ [i]) []).filter (fun i => flush || (tabGet bins i).any (·.fired))
          .ok (fire.foldl (fun u i => fireBin u core i) s2) (Notes.ofSplit sp)) s

/-- LAUNCH (R213, R317): the LPB is read as a snapshot read of the launching grid and submitted. -/
def execLaunch (w : RWord (BitVec 12)) (s : State) : Host.Outcome State Fault Refusal :=
  issue (.launch w) howPlain
    (fun s k g e =>
      if e.act = 0 then .ok s Notes.nil
      else
        let va := rdW e .ui64 64 w.a 0
        let snap := (tabGet s.grids g.grid).bind (·.snap)
        if va % 256 ≠ 0 then .fault s fcMisalign va
        else if memoryHeld s g || releaseHeld s k g then .wait s
        else
          let (o1, d1) := loadNow s k g va 128 snap
          match o1 with
          | .wait s1 => .wait s1
          | .fault s1 c a => .fault s1 c a
          | .ok s1 =>
            let (o2, d2) := loadNow s1 k g (va + 128) 128 snap
            match o2 with
            | .wait s2 => .wait s2
            | .fault s2 c a => .fault s2 c a
            | .ok s2 =>
              let words := (List.range 32).map (fun i => BitVec.ofNat 64 ((d1 + d2 * 2 ^ 1024) / 2 ^ (64 * i)))
              let (n, s3) := fresh s2
              let s4 := { s3 with reqs := tabPut s3.reqs n ⟨g.ctx, va, words, none⟩ }
              .ok (updGroup s4 k unmark) Notes.nil) s

/-- Slots of the active set in use on a scheduler; a paired group counts as two (R229). -/
def activeCount (s : State) (sched : Nat) : Nat :=
  s.groups.foldl (fun n kg => if schedOf kg.1 = sched && kg.2.state == .active then n + (if kg.2.paired then 2 else 1) else n) 0

/-- A READY group of the scheduler waits for room in the active set (R229). -/
def readyWaits (s : State) (sched : Nat) : Bool :=
  s.groups.any (fun kg => schedOf kg.1 == sched && kg.2.state == .ready &&
    decide (8 < activeCount s sched + (if kg.2.paired then 2 else 1)))

/-- YIELD (R318). -/
def execYield (w : RWord (BitVec 12)) (s : State) : Host.Outcome State Fault Refusal :=
  issue (.yield w) howPlain
    (fun s k g e =>
      if e.act = 0 then .ok s Notes.nil
      else if readyWaits s (schedOf k) then
        .ok (setGroup s k { g with state := if g.state = .active then .ready else g.state, yld := true, readyAt := s.cycle }) Notes.nil
      else .ok (setGroup s k { g with yld := true }) Notes.nil) s

/-- SLEEP (R318). -/
def execSleep (w : IWord (BitVec 12)) (s : State) : Host.Outcome State Fault Refusal :=
  issue (.sleep w) howPath
    (fun s k _ e =>
      if e.act = 0 || w.imm = 0 then goOn s k Notes.nil
      else .ok (parkOn s k .sleep (.sleep w.imm.toNat)) Notes.nil) s

/-- The object of a group's grid. -/
def objOf (s : State) (g : Grp) : Option KObj :=
  (tabGet s.grids g.grid).bind (fun x => (tabGet s.ctxs g.ctx).bind (fun c => tabGet c.objs x.obj))

/-- MARK may be recorded (R318). -/
def markable (g : Grp) : Bool :=
  (allPaths g).isEmpty && g.running && g.em == liveLanes g && g.ras.isEmpty && g.tx.state == .none

/-- MARK (R188, R318). A rewound group that reaches its mark goes on with the mark's EM and draw indices (R189). -/
def execMark (w : IWord (BitVec 12)) (s : State) : Host.Outcome State Fault Refusal :=
  issue (.mark w) howPlain
    (fun s k g e =>
      if ((objOf s g).elim 0 (fun o => o.recipes.length)) ≤ w.imm.toNat then .fault s fcIllegalOpnd 0
      else if g.recovering && g.mark.valid && g.mark.pc == g.pc then
        .ok (setGroup s k { g with em := g.mark.em, draws := g.mark.draws, recovering := false }) Notes.nil
      else if e.act = 0 then .ok s Notes.nil
      else if markable g then .ok (setGroup s k { g with mark := ⟨true, g.pc, g.em, g.draws, w.imm.toNat⟩ }) Notes.nil
      else .ok (setGroup s k (unmark g)) Notes.nil) s

/-- Index of an s register. -/
def sIdx : Opnd → Nat
  | .s i _ _ => i.toNat
  | _ => 0

/-- Writes of one 64-bit value to an s destination, or to every Active lane of a v destination. -/
def wrGroup (e : Env) (d : Dst) (nv x : Nat) : List RegW :=
  match d with
  | .s i => if e.act = 0 then [] else wrS i.toNat 1 x
  | .v i => ((activeLanes e).map (fun l => wrV i.toNat l nv x)).flatten
  | _ => []

/-- An EM-valued result (R304). -/
def wrEm (e : Env) (d : Dst) (m : Mask) : List RegW :=
  match d with
  | .s i => if e.act = 0 then [] else wrMask e.g i.toNat m
  | _ => []

/-- RDEM (R319). -/
def execRdem (w : RWord (BitVec 12)) (s : State) : Host.Outcome State Fault Refusal :=
  laneIns (.rdem w) w.hdr (.fix 4) (fun e => .ok ⟨wrEm e w.d e.g.em, Notes.nil, []⟩) s

/-- A write to EM of the running path (R223): a set bit must be a live lane of no other path. -/
def emWriteOk (g : Grp) (m : Mask) : Bool :=
  within m (liveLanes g) && ((allPaths g).foldl (fun o p => o ||| p.em) (0 : Mask)) &&& (m &&& ~~~g.em) == 0

/-- WREM (R223, R319): A is written where EM has it already, since R319 says that WREM sets no bit; the lane checks of R223 are made
on A (DEDUCED, assumption log, row 88). -/
def execWrem (w : RWord (BitVec 12)) (s : State) : Host.Outcome State Fault Refusal :=
  issue (.wrem w) howPath
    (fun s k g e =>
      if e.act = 0 then goOn s k Notes.nil
      else
        match rdMask e (sIdx w.a) with
        | none => .fault s fcIllegalOpnd 0
        | some m =>
          if !siblingsAgree g m then .fault s fcMaskSplit 0
          else if !emWriteOk g m then .fault s fcIllegalOpnd 0
          else .ok (setGroup s k { advance s g with em := g.em &&& m }) Notes.nil) s

/-- EMP (R319). -/
def execEmp (w : RWord (BitVec 12)) (s : State) : Host.Outcome State Fault Refusal :=
  issue (.emp w) howPath
    (fun s k g e =>
      if e.act = 0 then goOn s k Notes.nil
      else
        let off := lanesOfThreads g ((List.range (nThreads g)).filter (fun t => !rdPred e w.a t))
        .ok (setGroup s k { advance s g with em := g.em &&& ~~~off }) Notes.nil) s

/-- sr.txcause (R148). -/
def txcauseWord (t : Tx) : Nat :=
  t.cause % 16 + (if t.state = .none then 0 else t.depth % 16) * 2 ^ 4 +
    (if t.state = .doomed then 2 ^ 8 else 0) + t.excess % 2 ^ 16 * 2 ^ 16

/-- A special register that is per group (R218, R289, R320). -/
def sregVal (g : Grp) (r : SReg) : Nat :=
  match r with
  | .gid => gidOf g
  | .team => g.lin
  | .role => g.role
  | .seed => g.seed.toNat
  | .numctl => g.numctl.toNat
  | .numflag => g.numflag.toNat
  | .px => g.px
  | .txcause => txcauseWord g.tx
  | .rasbase => g.rasbase.toNat
  | .schk => if g.schk then 1 else 0
  | _ => 0

/-- A special register that is per thread (R218, R64, R87). -/
def sregLane (g : Grp) (r : SReg) (lane : Nat) : Nat :=
  match r with
  | .laneid => threadOf g lane
  | .tid => tabGetD g.tids (threadOf g lane) 0
  | .draw => if g.triplex then tabGetD g.draws (threadOf g lane) 0 else 0
  | _ => sregVal g r

/-- RDSR (R320). -/
def execRdsr (w : RWord (BitVec 12)) (s : State) : Host.Outcome State Fault Refusal :=
  laneIns (.rdsr w) w.hdr (.fix 4)
    (fun e =>
      let r := match w.a with | .sreg r => r | _ => .gid
      let hi := if w.m = 1 then 2 ^ 32 else 1
      .ok ⟨match w.d with
        | .s i => if e.act = 0 then [] else wrS i.toNat 1 (sregVal e.g r)
        | .v i => ((activeLanes e).map (fun l => wrV i.toNat l 1 (sregLane e.g r l / hi % 2 ^ 32))).flatten
        | _ => [], Notes.nil, []⟩) s

/-- A per-group special register is written (R320, R289, R74, R75, R233). -/
def sregWrite (g : Grp) (r : SReg) (x : Nat) : Grp :=
  match r with
  | .numctl => { g with numctl := BitVec.ofNat 64 x &&& 0x1F1F1F1F#64 }
  | .numflag => { g with numflag := BitVec.ofNat 64 x &&& 0x3F#64 }
  | .rasbase => { g with rasbase := BitVec.ofNat 64 x }
  | .schk => { g with schk := x % 2 == 1 }
  | _ => g

/-- WRSR (R320). -/
def execWrsr (w : RWord (BitVec 12)) (s : State) : Host.Outcome State Fault Refusal :=
  issue (.wrsr w) howPlain
    (fun s k g e =>
      match w.d with
      | .sreg .draw =>
        let (vs, sp) := svAll e .ui64 64 w.a
        let g1 := if g.triplex then { g with draws := vs.foldl (fun t x => tabPut t x.1 (x.2 % 2 ^ 30)) g.draws } else g
        .ok (setGroup s k g1) (Notes.ofSplit sp)
      | .sreg r =>
        match unW e .ui64 64 w.a with
        | (none, _) => .fault s fcNonuniform 0
        | (some x, sp) => .ok (setGroup s k (if e.act = 0 then g else sregWrite g r x)) (Notes.ofSplit sp)
      | _ => .ok s Notes.nil) s

/-- RDTS (R17, R321). -/
def execRdts (w : RWord (BitVec 12)) (s : State) : Host.Outcome State Fault Refusal :=
  laneInsS (.rdts w) w.hdr .var (fun s e => .ok ⟨wrGroup e w.d 2 s.gts, Notes.nil, []⟩) s

/-- A PRFSEL names no event of this part (R416). -/
def prfUnavail (w : W64) : Bool :=
  match fld w 47 40 with
  | 0 => 7 < fld w 15 0
  | 1 => 7 < fld w 15 0 || 15 < fld w 36 31
  | 2 => 1 < fld w 15 0
  | 3 => 2 < fld w 15 0 || 2 < fld w 36 31
  | 4 => 2 < fld w 15 0 || 1 < fld w 36 31
  | 5 => 2 < fld w 15 0 || 0 < fld w 36 31
  | _ => true

/-- A counter selector of RDCNT (R418). A router's counters (R416) read free values: the spec does not say which messages pass which
routers (DESIGN CHOICE, assumption log, row 91). -/
def cntVal (s : State) (vf die sel : Nat) : Nat :=
  let v := getVf s vf
  if sel < 4 then
    (let w := tabGetD v.prfsel sel 0
     if prfUnavail w then 0
     else if fld w 47 40 = 2 then (Config.freeWord s.cycle (16 + sel)).toNat % 2 ^ 64
     else (tabGetD v.prfcnt sel 0).toNat)
  else if sel = 8 then (getDie s die).softcnt
  else if 64 ≤ sel ∧ sel < 144 then (tabGetD v.lcr (sel - 64) 0).toNat
  else 0

/-- RDCNT (R321, R418). -/
def execRdcnt (w : RWord (BitVec 12)) (s : State) : Host.Outcome State Fault Refusal :=
  issue (.rdcnt w) ⟨false, true, false⟩
    (fun s k g e =>
      let sel := rdW e .ui64 64 w.a 0
      if (match w.a with | .imm x => x.getLsbD 12 | _ => false) then .fault s fcIllegalOpnd 0
      else .ok (sendResult s k g .var (hdrSlot w.hdr) (wrGroup e w.d 2 (cntVal s (ctxVf g.ctx) (dieOf k) sel))) Notes.nil) s

/-- The word JRD `.state` reads (R308). -/
def joinState (j : Join) : Nat := (if j.armed then 1 else 0) + (if j.lost then 2 else 0) + j.tgt % 2 ^ 40 * 2 ^ 24

/-- JRD (R308). -/
def execJrd (w : RWord (BitVec 12)) (s : State) : Host.Outcome State Fault Refusal :=
  laneIns (.jrd w) w.hdr (.fix 4)
    (fun e =>
      let j := joinOf e.g (joinIdx w.a)
      .ok ⟨match w.m.toNat % 4 with
        | 0 => wrEm e w.d j.exp
        | 1 => wrEm e w.d j.arr
        | _ => wrGroup e w.d 2 (joinState j), Notes.nil, []⟩) s

end Sys2Proof.Machine
end

