-- ==== Sys2Proof/Machine/Channel.lean ====
section
/-! DEFINITION. Channels, barriers, batches and queue fences (11_queue R239 to R254; 12_barrier R262 to R268;
19_engines R378 to R389). -/

namespace Sys2Proof.Machine

open Sys2Proof

/-- An instruction that can wait on a path of its own accord sets the PC and counts its slot itself. -/
def howWait : How := ⟨true, true, true⟩

/-- A count, token, batch number, step or policy (R378): an IMM13 is checked even where no lane is Active (R290). -/
def cntOf (e : Env) (o : Opnd) (lo hi : Nat) : Option Nat :=
  match o with
  | .imm x => if x.toNat < 4096 ∧ lo ≤ x.toNat ∧ x.toNat ≤ hi then some x.toNat else none
  | .s i _ _ =>
    let v := (regS e.g i.toNat).toNat
    if e.act = 0 then some lo else if lo ≤ v ∧ v ≤ hi then some v else none
  | _ => some lo

/-- The channel identity of an instance (R246). -/
def chanId (s : State) (core lin ch : Nat) : W64 :=
  BitVec.ofNat 64 (s.pkg.id * 2 ^ 54 + core / 64 * 2 ^ 51 + core % 64 * 2 ^ 45 +
    (if 16 ≤ ch then 2 ^ 44 else lin % 2 ^ 26 * 2 ^ 6) + ch % 64)

/-- Package, core, team and channel of a channel identity. -/
def idPkg (id : W64) : Nat := fld id 63 54
def idCore (id : W64) : Nat := fld id 53 51 * 64 + fld id 50 45
def idTeam (id : W64) : Nat := fld id 31 6
def idChan (id : W64) : Nat := fld id 5 0

/-- An instance that nothing was loaded into. -/
def Cap.zero : Cap := ⟨0, 0, [], none⟩

/-- The team whose instance a channel identity names. -/
def idTeamOf (s : State) (ctx : Nat) (id : W64) : Option (Nat × Team) :=
  s.teams.find? (fun t => t.2.ctx == ctx && t.2.core == idCore id && t.2.lin % 2 ^ 26 == idTeam id)

/-- The instance that a channel identity names (R239, R246). -/
def instGet (s : State) (ctx : Nat) (id : W64) : Option Cap :=
  if id.getLsbD 44 then
    (tabGet s.ctxs ctx).map (fun c =>
      let w := tabGetD c.shared (idChan id) 0
      tabGetD (getCoreCtx c (idCore id)).shared (idChan id) ⟨w, fld w 31 16, [], none⟩)
  else (idTeamOf s ctx id).map (fun t => tabGetD t.2.caps (idChan id) Cap.zero)

/-- Replaces the instance that a channel identity names. -/
def instPut (s : State) (ctx : Nat) (id : W64) (c : Cap) : State :=
  if id.getLsbD 44 then updCoreCtx s ctx (idCore id) (fun x => { x with shared := tabPut x.shared (idChan id) c })
  else
    match idTeamOf s ctx id with
    | some (tk, t) => { s with teams := tabPut s.teams tk { t with caps := tabPut t.caps (idChan id) c } }
    | none => s

/-- The place of a path in an order of waiting: its group's serial number and lowest lane. -/
def ticketOf (g : Grp) : Nat := g.serial * 128 + lowLane g.em + 1

/-- The resident group that holds a ticket. -/
def ticketGroup (s : State) (t : Nat) : Option Nat := (s.groups.find? (fun kg => kg.2.serial == (t - 1) / 128)).map (·.1)

/-- The ticket may proceed: no earlier one waits (R245, R246). -/
def isHead (ws : List (Nat × Nat)) (t : Nat) : Bool :=
  match ws with
  | [] => true
  | (x, _) :: _ => x == t

/-- A ticket waits, at the end of the order unless it has its place. -/
def addTicket (ws : List (Nat × Nat)) (t n : Nat) : List (Nat × Nat) := if ws.any (·.1 == t) then ws else ws ++ [(t, n)]
def dropTicket (ws : List (Nat × Nat)) (t : Nat) : List (Nat × Nat) := ws.filter (·.1 != t)

/-- The first waiting push of an instance is made runnable where the allowance covers it (R246). -/
def wakeCap (s : State) (id : W64) (c : Cap) : State :=
  match c.waiting with
  | (t, n) :: _ =>
    if n ≤ c.allow then
      match ticketGroup s t with
      | some k => wakePath s k (· == .push id t) false
      | none => s
    else s
  | [] => s

/-- As `wakeCap`, for the instance that a channel identity names. -/
def wakePush (s : State) (ctx : Nat) (id : W64) : State :=
  match instGet s ctx id with
  | some c => wakeCap s id c
  | none => s

/-- Waiting peeks, and the first waiting POP of a queue where COUNT covers it, are made runnable (R244, R245). -/
def wakePops (s : State) (core q : Nat) : State :=
  match tabGet (getCore s core).qslots q with
  | none => s
  | some x =>
    let s1 := (coreGroups s core).foldl (fun t k => wakePath t k (· == .pop q 0) false) s
    match x.waiting with
    | (t, n) :: _ =>
      if n ≤ x.count then
        match ticketGroup s1 t with
        | some k => wakePath s1 k (· == .pop q t) false
        | none => s1
      else s1
    | [] => s1

/-- The partition of a context key. -/
def partOf (s : State) (ck : Nat) : Nat := (tabGet s.ctxs ck).elim 0 ctxPart

/-- The cistern queue that an entry of a partition's context names: core and queue slot (R241, R243). -/
def capQueue (part core : Nat) (c : Cap) : Nat × Nat :=
  if c.entry.getLsbD 56 then (core, c.queue.getD (part * 32 + 32))
  else (fld c.entry 45 43 * 64 + fld c.entry 42 37, part * 32 + fld c.entry 36 32)

/-- KIND of an entry (R240). -/
def capKind (c : Cap) : Nat := fld c.entry 62 60

/-- The channel an operand names. -/
def chanOf : Opnd → Nat
  | .chan i => i.toNat
  | _ => 0

/-- The issuing team's linear id. -/
def linOf (s : State) (g : Grp) : Nat := (teamOf s g).elim 0 (·.lin)

/-- The instance an instruction names: the team's for ch0 to ch15, the core's for the others (R239). -/
def capOf (s : State) (k : Nat) (g : Grp) (ch : Nat) : W64 × Cap :=
  let id := chanId s (coreOf k) (linOf s g) ch
  (id, (if ch < 16 then (teamOf s g).map (fun t => tabGetD t.caps ch Cap.zero) else instGet s g.ctx id).getD Cap.zero)

/-- Replaces the instance an instruction names. -/
def capSet (s : State) (g : Grp) (id : W64) (c : Cap) : State :=
  if id.getLsbD 44 then instPut s g.ctx id c
  else { s with teams := tabUpd s.teams g.team (fun t => { t with caps := tabPut t.caps (idChan id) c }) }

/-- Bytes of an entry. -/
def entrySize (m : BitVec 12) : Nat := 8 * 2 ^ (m.toNat % 4)

/-- The entries a PUSH sends, ascending (R383). -/
def pushEntries (e : Env) (m : BitVec 12) (o : Opnd) : List (List Byte) :=
  let sz := entrySize m
  match o with
  | .v .. =>
    (activeThreads e).map (fun t =>
      ((List.range (sz / 4)).map (fun q => leBytes (svW e .ui32 32 (vPlus o q) t).1 4)).flatten)
  | _ => if e.act = 0 then [] else [leBytes (rdW e .b64 (8 * sz) o 0) sz]

/-- Messages of a push, in order: the last one releases the SET slot (R383). -/
def pushMsgs (mk : List Byte → Option Nat → Bool → Msg) (slot : Option Nat) : List (List Byte) → List Msg
  | [] => []
  | [x] => [mk x slot true]
  | x :: xs => mk x none false :: pushMsgs mk slot xs

/-- The message that carries an entry, by the kind of the channel (R241). -/
def pushMsg (s : State) (k : Nat) (g : Grp) (c : Cap) (id : W64) (bs : List Byte) (slot : Option Nat) (last : Bool) : Msg :=
  match capKind c with
  | 0 => let q := capQueue (partOf s g.ctx) (coreOf k) c; .append q.1 q.2 g.ctx id bs k g.serial g.pc slot last
  | 1 => .record (fld c.entry 41 32) g.ctx id bs k g.serial g.pc slot last
  | 2 => .card (fld c.entry 45 43 * 2 + fld c.entry 32 32) g.ctx id bs k g.serial g.pc (gidOf g) slot last
  | _ => .link (fld c.entry 55 46) (fld c.entry 45 43 * 64 + fld c.entry 42 37) (fld c.entry 36 32) g.ctx id bs k g.serial g.pc slot last

/-- Puts messages under way. -/
def sendMsgs (s : State) (ms : List Msg) : State :=
  ms.foldl (fun t m => let (n, t1) := fresh t; { t1 with msgs := tabPut t1.msgs n m }) s

/-- Writes of a predicate to every Active thread. -/
def wrPred (e : Env) (p : Nat) (x : Bool) : List RegW := (activeThreads e).map (fun t => ⟨.p p t, if x then 1 else 0⟩)

/-- Number of a predicate destination or operand. -/
def dstPred : Dst → Nat
  | .p i => i.toNat
  | _ => 7
def opPred : Opnd → Nat
  | .pred p _ => p.toNat
  | _ => 7

/-- An issue that does nothing but release its slot. -/
def idleVar (s : State) (k : Nat) (g : Grp) (slot : Option Nat) : Res := .ok (sendResult s k (advance s g) .var slot []) Notes.nil

/-- The last result of a group is the predicate of a PUSH.nb: it is written before the push's slot goes down (R293). -/
def tagPush (s : State) (k pc : Nat) (slot : Option Nat) : State :=
  if slot.isNone then s
  else updGroup s k (fun g => { g with vres := g.vres.zipIdx.map (fun r => if r.2 + 1 = g.vres.length then { r.1 with push := some pc } else r.1) })

/-- A push takes its allowance and sends its entries (R246, R383). -/
def pushSend (s : State) (k : Nat) (g : Grp) (e : Env) (w : RWord (BitVec 12)) (id : W64) (c : Cap) (es : List (List Byte)) : State :=
  let slot := hdrSlot w.hdr
  let c1 := { c with allow := c.allow - es.length, waiting := dropTicket c.waiting (ticketOf g) }
  let s1 := capSet s g id c1
  let s2 := sendMsgs s1 (pushMsgs (pushMsg s k g c id) slot es)
  let s3 := updGroup s2 k (fun g => slotUp (unmark (advance s g)) slot)
  let s4 := wakeCap s3 id c1
  match tabGet s4.groups k with
  | some g1 => if w.m.toNat / 4 % 2 = 1 then tagPush (sendResult s4 k g1 .var none (wrPred e (dstPred w.d) true)) k g.pc slot else s4
  | none => s4

/-- A LINK entry names a package to which no link is usable (R259). -/
def noRoute (s : State) (c : Cap) : Bool := capKind c == 4 && (usableTo s (fld c.entry 55 46)).isEmpty

/-- PUSH (R246, R383). -/
def execPush (w : RWord (BitVec 12)) (s : State) : Host.Outcome State Fault Refusal :=
  issue (.push w) howWait
    (fun s k g e =>
      let (id, c) := capOf s k g (chanOf w.a)
      let kind := capKind c
      let es := pushEntries e w.m w.b
      let nb := w.m.toNat / 4 % 2 == 1
      let t := ticketOf g
      if e.act = 0 then idleVar s k g (hdrSlot w.hdr)
      else if memoryHeld s g || releaseHeld s k g then .wait s
      else if !c.entry.getLsbD 63 || !(kind == 0 || kind == 1 || kind == 2 || kind == 4) then .fault s fcCap 0
      else if !c.entry.getLsbD 59 then .fault s fcCapPerm 0
      else if (kind == 1 || kind == 2) && entrySize w.m != 64 then .fault s fcIllegalOpnd 0
      else if decide (es.length ≤ c.allow) && isHead c.waiting t && !noRoute s c then
        .ok (pushSend s k g e w id c es) Notes.nil
      else if nb && !(noRoute s c && decide (es.length ≤ c.allow) && isHead c.waiting t) then
        .ok (sendResult s k (unmark (advance s g)) .var (hdrSlot w.hdr) (wrPred e (dstPred w.d) false)) Notes.nil
      else .park (parkOn (capSet s g id { c with waiting := addTicket c.waiting t es.length }) k .queue (.push id t)) Notes.nil) s

/-- Entries of a queue from its head, oldest first: row BASE, byte ESZ × index (R244). -/
def queueEntries (s : State) (core : Nat) (x : QSlot) (n : Nat) : List Nat :=
  (List.range n).map (fun i => memNat s.mem (rowAddr s.pkg.id core x.base (x.esz * ((x.head + i) % x.depth))) x.esz)

/-- The entries of a POP in its registers (R384). -/
def popWrites (e : Env) (d : Dst) (sz : Nat) (es : List Nat) : List RegW :=
  match d with
  | .v i => (((activeThreads e).zip es).map (fun te => ((lanesOf e.g te.1).map (fun l => wrV i.toNat l (sz / 4) te.2)).flatten)).flatten
  | .s i => ((es.take 1).map (fun x => wrS i.toNat (sz / 8) x)).flatten
  | _ => []

/-- Removes entries and sends their free-counts (R244, R246). -/
def queueRemove (s : State) (core q : Nat) (x : QSlot) (n : Nat) : State :=
  let y := { x with head := (x.head + n) % x.depth, count := x.count - n, senders := x.senders.drop n, units := x.units.drop n }
  let s1 := updCore s core (fun c => { c with qslots := tabPut c.qslots q y })
  sendMsgs s1 ((x.senders.take n).map (Msg.freeCount x.ctx))

/-- POP (R245, R384). -/
def execPop (w : RWord (BitVec 12)) (s : State) : Host.Outcome State Fault Refusal :=
  issue (.pop w) howWait
    (fun s k g e =>
      let (_, c) := capOf s k g (chanOf w.a)
      let nb := w.m.toNat / 4 % 2 == 1
      let pk := w.m.toNat / 8 % 2 == 1
      let sz := entrySize w.m
      let slot := hdrSlot w.hdr
      let core := coreOf k
      let n := match w.d with | .v _ => (activeThreads e).length | _ => 1
      if e.act = 0 then idleVar s k g slot
      else if memoryHeld s g then .wait s
      else if !c.entry.getLsbD 63 || capKind c != 0 then .fault s fcCap 0
      else if !(if pk then c.entry.getLsbD 57 else c.entry.getLsbD 58) || (capQueue (partOf s g.ctx) core c).1 != core then .fault s fcCapPerm 0
      else
        let q := (capQueue (partOf s g.ctx) core c).2
        match tabGet (getCore s core).qslots q with
        | none => .fault s fcQueueError 0
        | some x =>
          let t := if pk then 0 else ticketOf g
          if x.ctx ≠ g.ctx || x.err || x.esz ≠ sz then .fault s fcQueueError 0
          else if n ≤ x.count && (pk || isHead x.waiting t) then
            let ws := popWrites e w.d sz (queueEntries s core x n)
            let far := (x.senders.take n).any (fun id => idPkg id != s.pkg.id || idCore id != core) || (x.units.take n).any id
            let s1 := if pk then s else wakePops (queueRemove s core q { x with waiting := dropTicket x.waiting t } n) core q
            let s2 := if far then acquireL1 s1 k (ctxVf g.ctx) .sys else s1
            match tabGet s2.groups k with
            | some g1 => .ok (sendResult s2 k (unmark (advance s2 g1)) .var slot (ws ++ (if nb then wrPred e (opPred w.b) true else []))) Notes.nil
            | none => .ok s2 Notes.nil
          else if nb then
            .ok (sendResult s k (unmark (advance s g)) .var slot (wrPred e (opPred w.b) false)) Notes.nil
          else
            let s1 := if pk then s else updCore s core (fun c => { c with qslots := tabPut c.qslots q { x with waiting := addTicket x.waiting t n } })
            .park (parkOn s1 k .queue (.pop q t)) Notes.nil) s

/-- CAPRD (R385). -/
def execCaprd (w : RWord (BitVec 12)) (s : State) : Host.Outcome State Fault Refusal :=
  issue (.caprd w) ⟨false, true, false⟩
    (fun s k g e =>
      let (_, c) := capOf s k g (chanOf w.a)
      let x := fld c.entry 63 32 * 2 ^ 32 + c.allow % 2 ^ 16 * 2 ^ 16
      .ok (sendResult s k g (.fix 4) (hdrSlot w.hdr) (wrGroup e w.d 2 x)) Notes.nil) s

/-- Index of a barrier operand. -/
def barIdx : Opnd → Nat
  | .bar i => i.toNat
  | _ => 0

/-- The core's barrier that a team's index names; `none` at or above BARS (R260). -/
def teamBar (s : State) (g : Grp) (i : Nat) : Option Nat :=
  match teamOf s g with
  | some t => if i < t.nbars then some (t.bar + i) else none
  | none => none

/-- A barrier instruction: its count's range, then, with an Active lane, the barrier's index (R260, R290, R379). One that changes
the word, `place` in the order of R264, waits for the next cycle where a later event has reached the barrier in this one. -/
def onBar (w : RWord (BitVec 12)) (hi : Nat) (rel : Bool) (place : Option Nat) (idle : State → Nat → Grp → Res)
    (body : State → Nat → Grp → Env → Nat → Nat → Res) (s : State) (k : Nat) (g : Grp) (e : Env) : Res :=
  match cntOf e w.b 0 hi with
  | none => .fault s fcIllegalOpnd 0
  | some n =>
    if e.act = 0 then idle s k g
    else if memoryHeld s g || (rel && releaseHeld s k g) then .wait s
    else
      match teamBar s g (barIdx w.a) with
      | none => .fault s fcIllegalOpnd 0
      | some i =>
        match place with
        | none => body s k g e i n
        | some r =>
          if barTurn s (coreOf k) i (r + schedOf k % 4) then
            match body (barNote s (coreOf k) i (r + schedOf k % 4)) k g e i n with
            | .fault _ c a => .fault s c a
            | x => x
          else .wait s

/-- Nothing is done. -/
def idlePlain (s : State) (_ : Nat) (_ : Grp) : Res := .ok s Notes.nil

/-- BINIT (R267). -/
def execBinit (w : RWord (BitVec 12)) (s : State) : Host.Outcome State Fault Refusal :=
  issue (.binit w) howPlain
    (onBar w 65535 false (some rkInit) idlePlain (fun s k _ _ i n =>
      if !barIdle s (coreOf k) i then .fault s fcBarrierStore 0
      else .ok (updGroup (barPut s (coreOf k) i ⟨0, true, false, n, n, 0, s.gts % 2 ^ 32⟩) k unmark) Notes.nil)) s

/-- BARRIVE (R262, R264, R386). -/
def execBarrive (w : RWord (BitVec 12)) (s : State) : Host.Outcome State Fault Refusal :=
  issue (.barrive w) howPlain
    (onBar w 65535 true (some rkArrive) idlePlain (fun s k _ _ i n =>
      let b := barGet s (coreOf k) i
      if !b.valid || decide (b.arrPend < n) then .fault s fcBarrierInvalid 0
      else .ok (barEval (barPut (updGroup s k unmark) (coreOf k) i { b with arrPend := b.arrPend - n }) (coreOf k) i) Notes.nil)) s

/-- BEXPECT (R262, R263). -/
def execBexpect (w : RWord (BitVec 12)) (s : State) : Host.Outcome State Fault Refusal :=
  issue (.bexpect w) howPlain
    (onBar w (2 ^ 23 - 1) false (some rkExpect) idlePlain (fun s k _ _ i n =>
      let b := barGet s (coreOf k) i
      if !b.valid then .fault s fcBarrierInvalid 0
      else if 2 ^ 23 - 1 < b.sec + n then .fault s fcIllegalOpnd 0
      else .ok (barEval (barPut (updGroup s k unmark) (coreOf k) i { b with sec := b.sec + n }) (coreOf k) i) Notes.nil)) s

/-- BWAITP (R265, R266, R387). -/
def execBwaitp (w : RWord (BitVec 12)) (s : State) : Host.Outcome State Fault Refusal :=
  let slot := hdrSlot w.hdr
  issue (.bwaitp w) howWait
    (onBar w 15 false none (fun s k g => idleVar s k g slot) (fun s k g e i t =>
      let b := barGet s (coreOf k) i
      let p := dstPred w.d
      let done := fun x => Res.ok (sendResult s k (advance s g) .var slot (wrPred e p x)) Notes.nil
      if b.inval then done false
      else if !b.valid then .fault s fcBarrierInvalid 0
      else if tokenOk b.phase t then done true
      else
        let th := (activeThreads e).foldl (fun m t => m ||| BitVec.ofNat 96 (2 ^ t)) 0
        .ok (parkOn (updGroup s k (fun g => slotUp g slot)) k .barrier (.barrier i t p th slot)) Notes.nil)) s

/-- BTEST (R387). -/
def execBtest (w : RWord (BitVec 12)) (s : State) : Host.Outcome State Fault Refusal :=
  let slot := hdrSlot w.hdr
  issue (.btest w) ⟨false, true, false⟩
    (onBar w 0 false none (fun s k g => .ok (sendResult s k g (.fix 4) slot []) Notes.nil) (fun s k g _ i _ =>
      match w.d with
      | .s r => .ok (sendResult s k g (.fix 4) slot (wrS r.toNat 1 ((tabGetD (getCore s (coreOf k)).bars i 0).toNat % 2 ^ 64))) Notes.nil
      | _ => .fault s fcIllegalOpnd 0)) s

/-- BINVAL (R268). -/
def execBinval (w : RWord (BitVec 12)) (s : State) : Host.Outcome State Fault Refusal :=
  issue (.binval w) howPlain
    (onBar w 0 false (some rkInval) idlePlain (fun s k _ _ i _ =>
      let core := coreOf k
      let b := barGet s core i
      let s1 := barPut (updGroup s k unmark) core i { b with valid := false, inval := true, arrPend := b.arrInit, sec := 0 }
      .ok ((coreGroups s1 core).foldl (fun t q => endBarWaits t q i (fun _ => true) false) s1) Notes.nil)) s

/-- Batches of a class before any is closed (R254). -/
def Batches.zero : Batches := ⟨1, 0, [], []⟩

/-- Batches of a group's class. -/
def batchesOf (g : Grp) (cls : Nat) : Batches := tabGetD g.batches cls Batches.zero

/-- Batches at the front whose operations have all completed are complete (R254). -/
def pruneGo (done : Nat) : List (Nat × List Nat) → Nat × List (Nat × List Nat)
  | [] => (done, [])
  | (n, os) :: rest => if os.isEmpty then pruneGo n rest else (done, (n, os) :: rest)
def pruneBatches (b : Batches) : Batches := { b with done := (pruneGo b.done b.closed).1, closed := (pruneGo b.done b.closed).2 }

/-- The number has been closed: serially within 2^15 before NEXT; before any batch is complete, it is one of the
incomplete ones (R254). -/
def batchClosed (b : Batches) (n : Nat) : Bool :=
  let d := (b.next + 65535 - n) % 65535
  b.closed.any (·.1 == n) || (b.done != 0 && decide (1 ≤ d) && decide (d ≤ 2 ^ 15))

/-- A closed batch is complete. -/
def batchDone (b : Batches) (n : Nat) : Bool := !b.closed.any (·.1 == n)

/-- BCLOSE (R254, R388). -/
def execBclose (w : RWord (BitVec 12)) (s : State) : Host.Outcome State Fault Refusal :=
  issue (.bclose w) howWait
    (fun s k g e =>
      let cls := w.m.toNat % 4
      let b := batchesOf g cls
      let slot := hdrSlot w.hdr
      if e.act = 0 then .ok (sendResult s k (advance s g) (.fix 4) slot []) Notes.nil
      else if 64 ≤ b.closed.length then .park (parkOn s k .batch (.batchFull cls)) Notes.nil
      else
        let b1 := pruneBatches { b with
          next := if b.next = 65535 then 1 else b.next + 1, openOps := [], closed := b.closed ++ [(b.next, b.openOps)] }
        let g1 := unmark (advance s { g with batches := tabPut g.batches cls b1 })
        let s1 := { s with ops := tabMap s.ops (fun n (o : EngOp) => if b.openOps.contains n then { o with batch := b.next } else o) }
        .ok (sendResult s1 k g1 (.fix 4) slot (match w.d with | .s r => wrS r.toNat 1 b.next | _ => [])) Notes.nil) s

/-- BWAIT (R254, R388). -/
def execBwait (w : RWord (BitVec 12)) (s : State) : Host.Outcome State Fault Refusal :=
  issue (.bwait w) howPath
    (fun s k g e =>
      let cls := w.m.toNat % 4
      let b := batchesOf g cls
      match cntOf e w.a 1 65535 with
      | none => .fault s fcIllegalOpnd 0
      | some n =>
        if e.act = 0 then .ok (setGroup s k (advance s g)) Notes.nil
        else if !batchClosed b n then .fault s fcIllegalOpnd 0
        else if batchDone b n then .ok (setGroup s k (advance s g)) Notes.nil
        else .ok (parkOn s k .batch (.batch cls n)) Notes.nil) s

/-- BPOLL (R254, R388). -/
def execBpoll (w : RWord (BitVec 12)) (s : State) : Host.Outcome State Fault Refusal :=
  issue (.bpoll w) ⟨false, true, false⟩
    (fun s k g e =>
      let b := batchesOf g (w.m.toNat % 4)
      match cntOf e w.a 1 65535 with
      | none => .fault s fcIllegalOpnd 0
      | some n =>
        if e.act ≠ 0 ∧ !batchClosed b n then .fault s fcIllegalOpnd 0
        else .ok (sendResult s k g (.fix 4) (hdrSlot w.hdr) (wrPred e (dstPred w.d) (batchDone b n))) Notes.nil) s

/-- The class of a queue fence marker. -/
abbrev clsMarker : Nat := 9

/-- MASK of a marker (R389). -/
def markerMask (o : EngOp) : BitVec 12 :=
  match o.i with
  | .qfence w => w.m
  | _ => 0

/-- Operations of a core that are in its queues, by age. -/
def coreOps (s : State) (core : Nat) : List (Nat × EngOp) := s.ops.filter (fun o => o.2.core == core && opLive s o.2)

/-- An earlier operation of a queue that the marker names is not complete (R131). -/
def markerHolds (s : State) (id : Nat) (o : EngOp) : Bool :=
  (coreOps s o.core).any (fun x => decide (x.1 < id) && x.2.cls < 4 && (markerMask o).getLsbD x.2.cls)

/-- A marker in the queues of a core. -/
def markerOp (i : Instr) (k : Nat) (g : Grp) : EngOp where
  i := i
  cls := clsMarker
  vals := []
  core := coreOf k
  ctx := g.ctx
  grp := k
  gser := g.serial
  gid := gidOf g
  team := g.team
  pc := g.pc
  snap := none
  bar := none
  sectors := 0
  counted := 0
  prog := 0
  total := 0
  started := false
  startReq := false
  granted := false
  slot := none
  threads := 0
  batch := 0
  held := .no
  work := []
  entries := []
  cancel := []

/-- QFENCE (R131, R389): a marker stays in the queues while an operation before it in one of them is not complete. -/
def execQfence (w : RWord (BitVec 12)) (s : State) : Host.Outcome State Fault Refusal :=
  issue (.qfence w) howPlain
    (fun s k g e =>
      if e.act = 0 then .ok s Notes.nil
      else if memoryHeld s g then .wait s
      else
        let (n, s1) := fresh s
        let o := markerOp (.qfence w) k g
        let s2 := updGroup s1 k unmark
        .ok (if markerHolds s2 n o then { s2 with ops := tabPut s2.ops n o } else s2) Notes.nil) s

end Sys2Proof.Machine
end

