-- ==== Sys2Proof/Machine/Func.lean ====
section
/-! DEFINITION. The functions of 17_float R352 as correctly rounded values: fixed-point enclosures of the
exact real, widened until they decide (assumption log, row 19). Fixed-point numbers are integers in units
of `2^-p`. -/

namespace Sys2Proof.Machine

open Sys2Proof

/-- `n` terms of the series of atanh (`alt = false`) or atan (`alt = true`) of `1 / k`. -/
def atanInv (p k n : Nat) (alt : Bool) : Int :=
  ((List.range n).foldl
    (fun (acc : Int × Nat) (i : Nat) =>
      let t : Int := acc.2 / (2 * i + 1)
      (if alt && i % 2 == 1 then acc.1 - t else acc.1 + t, acc.2 / (k * k)))
    (0, 2 ^ p / k)).1

/-- π by Machin's formula. -/
def fxPi (p : Nat) : Int := 16 * atanInv p 5 (p / 4 + 4) true - 4 * atanInv p 239 (p / 15 + 4) true

/-- ln 2 as 2 atanh(1/3). -/
def fxLn2 (p : Nat) : Int := 2 * atanInv p 3 (p / 3 + 4) false

/-- e^x for 0 ≤ x < 1. -/
def fxExp (p : Nat) (x : Int) : Int :=
  ((List.range p).foldl (fun (acc : Int × Int) (i : Nat) => (acc.1 + acc.2, acc.2 * x / 2 ^ p / (i + 1))) (0, 2 ^ p)).1

/-- sin and cos of 0 ≤ x < 2 by their series. -/
def fxSinCos (p : Nat) (x : Int) : Int × Int :=
  let r := (List.range (p + 4)).foldl
    (fun (acc : (Int × Int) × Int) (i : Nat) =>
      let t := acc.2
      let s := match i % 4 with
        | 0 => (acc.1.1, acc.1.2 + t)
        | 1 => (acc.1.1 + t, acc.1.2)
        | 2 => (acc.1.1, acc.1.2 - t)
        | _ => (acc.1.1 - t, acc.1.2)
      (s, t * x / 2 ^ p / (i + 1)))
    ((0, 0), 2 ^ p)
  r.1

/-- ln of a number `m / 2^p` in [1, 2), as 2 atanh((m − 1) / (m + 1)). -/
def fxLn (p : Nat) (m : Int) : Int :=
  let one : Int := 2 ^ p
  let z := (m - one) * one / (m + one)
  let z2 := z * z / one
  2 * ((List.range (p / 3 + 4)).foldl (fun (acc : Int × Int) (i : Nat) => (acc.1 + acc.2 / (2 * i + 1), acc.2 * z2 / one)) (0, z)).1

/-- A number as fixed point, rounded down in magnitude. -/
def toFx (p : Nat) (neg : Bool) (m : Nat) (e : Int) : Int :=
  let k := e + p
  let x : Int := if 0 ≤ k then m * 2 ^ k.toNat else (m / 2 ^ (-k).toNat : Nat)
  if neg then -x else x

/-- Guard bits that cover the errors of the series. -/
def guardBits : Nat := 48

/-- A value known to within `2^-(p - guardBits)`, as a number strictly between two multiples of that, where
its enclosure lies between them. -/
def enclose (p : Nat) (x : Int) : Option XV :=
  let u : Int := 2 ^ guardBits
  let n := x / u
  if (x - 2 ^ 20) / u = n ∧ (x + 2 ^ 20) / u = n ∧ 64 < Nat.log2 n.natAbs then
    some (if 0 ≤ n then .num false n.toNat (guardBits - p) true else .num true (-n - 1).toNat (guardBits - p) true)
  else none

/-- The first of growing precisions that decides. -/
def firstOf (f : Nat → Option XV) : XV := ((f 320).orElse fun _ => (f 800).orElse fun _ => f 2400).getD .nan

/-- A value just below a magnitude. -/
def justBelow (neg : Bool) (m : Nat) (e : Int) : XV := .num neg (m * 2 ^ 80 - 1) (e - 80) true

/-- A value just above a magnitude. -/
def justAbove (neg : Bool) (m : Nat) (e : Int) : XV := .num neg (m * 2 ^ 80) (e - 80) true

/-- Integer value of an exact number, where it is one. -/
def asInt (neg : Bool) (m : Nat) (e : Int) : Option Int :=
  if 0 ≤ e then some (atExp neg m e 0)
  else if m % 2 ^ (-e).toNat = 0 then some (let n : Int := (m / 2 ^ (-e).toNat : Nat); if neg then -n else n)
  else none

/-- 2^a. -/
def xExp2 : XV → XV
  | .nan => .nan
  | .inf neg => if neg then .zero false else .inf false
  | .zero _ | .cancel => .num false 1 0 false
  | .num neg m e _ =>
    let top := (Nat.log2 m : Int) + e
    if 9 ≤ top then (if neg then .num false 1 (-600) true else .num false 1 600 true)
    else
      match asInt neg m e with
      | some n => .num false 1 n false
      | none =>
        if top < -60 then (if neg then justBelow false 1 0 else justAbove false 1 0)
        else
          firstOf (fun p =>
            let x := toFx p neg m e
            let n := x / 2 ^ p
            let y := fxExp p ((x - n * 2 ^ p) * fxLn2 p / 2 ^ p)
            match enclose p y with
            | some (.num _ q f st) => some (.num false q (f + n) st)
            | r => r)

/-- log2 a. -/
def xLog2 : XV → XV
  | .nan => .nan
  | .inf neg => if neg then .nan else .inf false
  | .zero _ | .cancel => .inf true
  | .num neg m e _ =>
    if neg then .nan
    else
      let k := Nat.log2 m
      if m = 2 ^ k then (if e + k = 0 then .zero false else xInt (e + k) 0)
      else
        firstOf (fun p => enclose p (fxLn p (toFx p false m (-k)) * 2 ^ p / fxLn2 p + (e + k) * 2 ^ p))

/-- The quadrant and remainder of a by π/2, to `p` bits. -/
def quadrant (p : Nat) (neg : Bool) (m : Nat) (e : Int) : Nat × Int :=
  let w := p + 160
  let half := fxPi w / 2
  let x := toFx w neg m e
  let n := x / half
  ((n % 4).toNat, (x - n * half) / 2 ^ 160)

/-- sin a, or cos a where `c`. -/
def sinOrCos (c : Bool) (neg : Bool) (m : Nat) (e : Int) : XV :=
  firstOf (fun p =>
    let (q, r) := quadrant p neg m e
    let (s, k) := fxSinCos p r
    let y := match (if c then q + 1 else q) % 4 with
      | 0 => s
      | 1 => k
      | 2 => -s
      | _ => -k
    enclose p y)

def xSin : XV → XV
  | .nan | .inf _ => .nan
  | .zero neg => .zero neg
  | .cancel => .zero false
  | .num neg m e _ => if (Nat.log2 m : Int) + e < -60 then justBelow neg m e else sinOrCos false neg m e

def xCos : XV → XV
  | .nan | .inf _ => .nan
  | .zero _ | .cancel => .num false 1 0 false
  | .num neg m e _ => if (Nat.log2 m : Int) + e < -60 then justBelow false 1 0 else sinOrCos true neg m e

/-- tanh a. -/
def xTanh : XV → XV
  | .nan => .nan
  | .inf neg => .num neg 1 0 false
  | .zero neg => .zero neg
  | .cancel => .zero false
  | .num neg m e _ =>
    let top := (Nat.log2 m : Int) + e
    if top < -60 then justBelow neg m e
    else if 6 ≤ top then justBelow neg 1 0
    else
      let r := firstOf (fun p =>
        let x := toFx p false m (e + 1)
        let l := fxLn2 p
        let n := x / l
        let one : Int := 2 ^ p
        let y := fxExp p (x - n * l)
        let z := if n = 0 then (y - one) * one / (y + one) else one - 2 * one * one / (y * 2 ^ n.toNat + one)
        enclose p z)
      if neg then xNeg r else r

end Sys2Proof.Machine
end

