-- ==== Sys2Proof/Machine/Integer.lean ====
section
/-! DEFINITION. Integer and logical instructions (16_integer R328 to R334). -/

namespace Sys2Proof.Machine

open Sys2Proof

/-- A value in the signedness of its TYPE. -/
def ival (ty : Ty) (x : Nat) : Int := if ty.isSi then toInt ty.bits x else x

/-- Ends of a TYPE's range (R41). -/
def tyLo (ty : Ty) : Int := if ty.isSi then -(2 ^ (ty.bits - 1)) else 0
def tyHi (ty : Ty) : Int := if ty.isSi then 2 ^ (ty.bits - 1) - 1 else 2 ^ ty.bits - 1

/-- SAT, then wrap to W bits (R328). -/
def satWrap (ty : Ty) (sat : Bool) (x : Int) : Nat :=
  wrapInt ty.bits (if sat then min (max x (tyLo ty)) (tyHi ty) else x)

/-- Operand values of two- and three-operand computations. -/
def f1 (f : Nat → Nat) : List Nat → Nat
  | [a] => f a
  | _ => 0
def f2 (f : Nat → Nat → Nat) : List Nat → Nat
  | [a, b] => f a b
  | _ => 0
def f3 (f : Nat → Nat → Nat → Nat) : List Nat → Nat
  | [a, b, c] => f a b c
  | _ => 0

/-- IADD, ISUB (R328). -/
def addI (m : IntM) (a b : Nat) : Nat := satWrap m.ty (m.x.getLsbD 0) (ival m.ty a + ival m.ty b)
def subI (m : IntM) (a b : Nat) : Nat := satWrap m.ty (m.x.getLsbD 0) (ival m.ty a - ival m.ty b)

/-- IMUL (R328). -/
def mulI (m : IntM) (a b : Nat) : Nat :=
  let x := ival m.ty a * ival m.ty b
  wrapInt m.ty.bits (if m.x.getLsbD 0 then x / 2 ^ m.ty.bits else x)

/-- IMAD (R328). -/
def madI (m : IntM) (a b c : Nat) : Nat := satWrap m.ty (m.x.getLsbD 0) (ival m.ty a * ival m.ty b + ival m.ty c)

/-- The 64-bit TYPE of the same signedness. -/
def wideTy (ty : Ty) : Ty := if ty.isSi then .si64 else .ui64

def execIadd (w : RWord IntM) (s : State) : Host.Outcome State Fault Refusal :=
  laneIns (.iadd w) w.hdr (.fix 4) (fun e => aluRes e w.d w.m.ty w.m.ty.bits [opX w.m.ty w.a, opX w.m.ty w.b] (f2 (addI w.m))) s

def execIsub (w : RWord IntM) (s : State) : Host.Outcome State Fault Refusal :=
  laneIns (.isub w) w.hdr (.fix 4) (fun e => aluRes e w.d w.m.ty w.m.ty.bits [opX w.m.ty w.a, opX w.m.ty w.b] (f2 (subI w.m))) s

def execImul (w : RWord IntM) (s : State) : Host.Outcome State Fault Refusal :=
  laneIns (.imul w) w.hdr (.fix 6) (fun e => aluRes e w.d w.m.ty w.m.ty.bits [opX w.m.ty w.a, opX w.m.ty w.b] (f2 (mulI w.m))) s

def execImad (w : RWord IntM) (s : State) : Host.Outcome State Fault Refusal :=
  laneIns (.imad w) w.hdr (.fix 6)
    (fun e => aluRes e w.d w.m.ty w.m.ty.bits [opX w.m.ty w.a, opX w.m.ty w.b, opX w.m.ty w.c] (f3 (madI w.m))) s

/-- IMULW (R328): the exact product of 32-bit operands, 64 bits. -/
def execImulw (w : RWord IntM) (s : State) : Host.Outcome State Fault Refusal :=
  laneIns (.imulw w) w.hdr (.fix 6)
    (fun e => aluRes e w.d w.m.ty 64 [opX w.m.ty w.a, opX w.m.ty w.b] (f2 (fun a b => wrapInt 64 (ival w.m.ty a * ival w.m.ty b)))) s

/-- IMADW (R328): C is read as 64 bits of the TYPE's signedness. -/
def execImadw (w : RWord IntM) (s : State) : Host.Outcome State Fault Refusal :=
  laneIns (.imadw w) w.hdr (.fix 6)
    (fun e => aluRes e w.d w.m.ty 64 [opX w.m.ty w.a, opX w.m.ty w.b, opX (wideTy w.m.ty) w.c]
      (f3 (fun a b c => wrapInt 64 (ival w.m.ty a * ival w.m.ty b + ival (wideTy w.m.ty) c)))) s

def execImin (w : RWord IntM) (s : State) : Host.Outcome State Fault Refusal :=
  laneIns (.imin w) w.hdr (.fix 4)
    (fun e => aluRes e w.d w.m.ty w.m.ty.bits [opX w.m.ty w.a, opX w.m.ty w.b]
      (f2 (fun a b => wrapInt w.m.ty.bits (min (ival w.m.ty a) (ival w.m.ty b))))) s

def execImax (w : RWord IntM) (s : State) : Host.Outcome State Fault Refusal :=
  laneIns (.imax w) w.hdr (.fix 4)
    (fun e => aluRes e w.d w.m.ty w.m.ty.bits [opX w.m.ty w.a, opX w.m.ty w.b]
      (f2 (fun a b => wrapInt w.m.ty.bits (max (ival w.m.ty a) (ival w.m.ty b))))) s

/-- IABS (R328): saturates where asked. -/
def execIabs (w : RWord IntM) (s : State) : Host.Outcome State Fault Refusal :=
  laneIns (.iabs w) w.hdr (.fix 4)
    (fun e => aluRes e w.d w.m.ty w.m.ty.bits [opX w.m.ty w.a]
      (f1 (fun a => satWrap w.m.ty (w.m.x.getLsbD 0) (if ival w.m.ty a < 0 then -(ival w.m.ty a) else ival w.m.ty a)))) s

def execIneg (w : RWord IntM) (s : State) : Host.Outcome State Fault Refusal :=
  laneIns (.ineg w) w.hdr (.fix 4)
    (fun e => aluRes e w.d w.m.ty w.m.ty.bits [opX w.m.ty w.a] (f1 (fun a => satWrap w.m.ty (w.m.x.getLsbD 0) (-(ival w.m.ty a))))) s

/-- The shift amount with and without WRAP (R329). -/
def shAmt (m : IntM) (n : Nat) : Nat := if m.x.getLsbD 0 then n % m.ty.bits else n

/-- SHL: every bit is out from W on (R329). -/
def shlI (m : IntM) (a n : Nat) : Nat :=
  let n := shAmt m n
  if m.ty.bits ≤ n then 0 else a * 2 ^ n % 2 ^ m.ty.bits

/-- SHR: arithmetic on .si types (R329). -/
def shrI (m : IntM) (a n : Nat) : Nat :=
  let n := min (shAmt m n) m.ty.bits
  wrapInt m.ty.bits (ival m.ty a / 2 ^ n)

/-- Rotation right by `n` of `w` bits. -/
def rotR (w a n : Nat) : Nat := (a / 2 ^ n + a * 2 ^ (w - n)) % 2 ^ w

/-- ROT (R329). -/
def rotI (m : IntM) (a n : Nat) : Nat :=
  let n := n % m.ty.bits
  rotR m.ty.bits a (if m.x.getLsbD 0 then (m.ty.bits - n) % m.ty.bits else n)

def execShl (w : RWord IntM) (s : State) : Host.Outcome State Fault Refusal :=
  laneIns (.shl w) w.hdr (.fix 4) (fun e => aluRes e w.d w.m.ty w.m.ty.bits [opX w.m.ty w.a, opSv .ui32 w.b] (f2 (shlI w.m))) s

def execShr (w : RWord IntM) (s : State) : Host.Outcome State Fault Refusal :=
  laneIns (.shr w) w.hdr (.fix 4) (fun e => aluRes e w.d w.m.ty w.m.ty.bits [opX w.m.ty w.a, opSv .ui32 w.b] (f2 (shrI w.m))) s

def execRot (w : RWord IntM) (s : State) : Host.Outcome State Fault Refusal :=
  laneIns (.rot w) w.hdr (.fix 4) (fun e => aluRes e w.d w.m.ty w.m.ty.bits [opX w.m.ty w.a, opSv .ui32 w.b] (f2 (rotI w.m))) s

/-- SHFW (R329): A is the low word of the funnel, B the high word. -/
def shfwI (m : IntM) (a b n : Nat) : Nat :=
  let x := b % 2 ^ 32 * 2 ^ 32 + a % 2 ^ 32
  let n := if m.x.getLsbD 1 then n % 32 else min n 32
  if m.x.getLsbD 0 then x * 2 ^ n / 2 ^ 32 % 2 ^ 32 else x / 2 ^ n % 2 ^ 32

def execShfw (w : RWord IntM) (s : State) : Host.Outcome State Fault Refusal :=
  laneIns (.shfw w) w.hdr (.fix 4)
    (fun e => aluRes e w.d .b32 32 [opX .b32 w.a, opX .b32 w.b, opSv .ui32 w.c] (f3 (shfwI w.m))) s

/-- The functions of BOP on words of `w` bits (R330). -/
def bopI (op w a b c : Nat) : Nat :=
  let no := fun x => 2 ^ w - 1 - x % 2 ^ w
  match op with
  | 0 => a &&& b
  | 1 => a ||| b
  | 2 => a ^^^ b
  | 3 => a &&& no b
  | 4 => a ||| no b
  | 5 => no (a &&& b)
  | 6 => no (a ||| b)
  | 7 => no (a ^^^ b)
  | 8 => a &&& b &&& c
  | 9 => a ||| b ||| c
  | 10 => a ^^^ b ^^^ c
  | 11 => (a &&& b) ||| (a &&& c) ||| (b &&& c)
  | 12 => (b &&& c) ||| (a &&& no c)
  | 13 => (a &&& b) ||| c
  | 14 => (a ^^^ b) &&& c
  | _ => no a

def execBop (w : RWord IntM) (s : State) : Host.Outcome State Fault Refusal :=
  laneIns (.bop w) w.hdr (.fix 4)
    (fun e => aluRes e w.d w.m.ty w.m.ty.bits [opX w.m.ty w.a, opX w.m.ty w.b, opX w.m.ty w.c]
      (f3 (bopI w.m.x.toNat w.m.ty.bits))) s

/-- The effective length of a bit field (R331). -/
def bfLen (w ctl : Nat) : Nat :=
  let pos := ctl % 256
  let len := ctl / 256 % 256
  if pos < w then min len (w - pos) else 0

/-- BFE (R331). -/
def bfeI (ty : Ty) (a ctl : Nat) : Nat :=
  let n := bfLen ty.bits ctl
  let f := a / 2 ^ (ctl % 256) % 2 ^ n
  if n = 0 then 0 else if ty.isSi then sext n ty.bits f else f

/-- BFI (R331). -/
def bfiI (ty : Ty) (a ctl c : Nat) : Nat :=
  let n := bfLen ty.bits ctl
  let p := ctl % 256
  if n = 0 then c else c - c / 2 ^ p % 2 ^ n * 2 ^ p + a % 2 ^ n * 2 ^ p

def execBfe (w : RWord IntM) (s : State) : Host.Outcome State Fault Refusal :=
  laneIns (.bfe w) w.hdr (.fix 4) (fun e => aluRes e w.d w.m.ty w.m.ty.bits [opX w.m.ty w.a, opSv .ui32 w.b] (f2 (bfeI w.m.ty))) s

def execBfi (w : RWord IntM) (s : State) : Host.Outcome State Fault Refusal :=
  laneIns (.bfi w) w.hdr (.fix 4)
    (fun e => aluRes e w.d w.m.ty w.m.ty.bits [opX w.m.ty w.a, opSv .ui32 w.b, opX w.m.ty w.c] (f3 (bfiI w.m.ty))) s

/-- One bits among the low `w` bits. -/
def popI (w a : Nat) : Nat := (List.range w).foldl (fun n i => n + a / 2 ^ i % 2) 0

/-- Zero bits above the highest one bit. -/
def clzI (w a : Nat) : Nat := if a = 0 then w else w - 1 - Nat.log2 a

/-- Bit reversal of `w` bits. -/
def brevI (w a : Nat) : Nat := (List.range w).foldl (fun n i => n + a / 2 ^ i % 2 * 2 ^ (w - 1 - i)) 0

def execPopc (w : RWord IntM) (s : State) : Host.Outcome State Fault Refusal :=
  laneIns (.popc w) w.hdr (.fix 4) (fun e => aluRes e w.d w.m.ty 32 [opX w.m.ty w.a] (f1 (popI w.m.ty.bits))) s

def execClz (w : RWord IntM) (s : State) : Host.Outcome State Fault Refusal :=
  laneIns (.clz w) w.hdr (.fix 4) (fun e => aluRes e w.d w.m.ty 32 [opX w.m.ty w.a] (f1 (clzI w.m.ty.bits))) s

def execBrev (w : RWord IntM) (s : State) : Host.Outcome State Fault Refusal :=
  laneIns (.brev w) w.hdr (.fix 4) (fun e => aluRes e w.d w.m.ty w.m.ty.bits [opX w.m.ty w.a] (f1 (brevI w.m.ty.bits))) s

/-- The six comparisons of ISETP (R327). -/
def cmpI (op : Nat) (a b : Int) : Bool :=
  match op with
  | 0 => a == b
  | 1 => a != b
  | 2 => a < b
  | 3 => a ≤ b
  | 4 => b < a
  | _ => b ≤ a

/-- COMB (R330, R332): none, and, or, xor. -/
def combine (comb : Nat) (x c : Bool) : Bool :=
  match comb with
  | 1 => x && c
  | 2 => x || c
  | 3 => x != c
  | _ => x

/-- ISETP (R332). -/
def execIsetp (w : RWord IntM) (s : State) : Host.Outcome State Fault Refusal :=
  laneIns (.isetp w) w.hdr (.fix 4)
    (fun e =>
      let ty := w.m.ty
      let op := w.m.x.toNat % 8
      let comb := w.m.x.toNat / 8
      .ok (predRes e w.d (fun t => sibs e.g (fun l =>
        combine comb (cmpI op (ival ty (rd e ty w.a l)) (ival ty (rd e ty w.b l))) (rdPred e w.c t)) t))) s

/-- SEL (R332): A where the predicate is true; in a scalar form the predicate must be uniform. -/
def selRes (e : Env) (ty : Ty) (d : Dst) (a b c : Opnd) : Except Nat LaneRes :=
  let ts := activeThreads e
  match d with
  | .v i =>
    .ok ⟨((activeLanes e).map (fun l =>
      wrV i.toNat l ty.span (if rdPred e c (threadOf e.g l) then rd e ty a l else rd e ty b l))).flatten, Notes.nil, []⟩
  | _ =>
    if ts.any (rdPred e c) && ts.any (fun t => !rdPred e c t) then .error fcNonuniform
    else aluRes e d ty ty.bits [opX ty a, opX ty b] (f2 (fun x y => if ts.any (rdPred e c) then x else y))

def execSel (w : RWord IntM) (s : State) : Host.Outcome State Fault Refusal :=
  laneIns (.sel w) w.hdr (.fix 4) (fun e => selRes e w.m.ty w.d w.a w.b w.c) s

/-- MOV (R333). -/
def execMov (w : RWord IntM) (s : State) : Host.Outcome State Fault Refusal :=
  laneIns (.mov w) w.hdr (.fix 4) (fun e => aluRes e w.d w.m.ty w.m.ty.bits [opX w.m.ty w.a] (f1 id)) s

/-- MOVI (R333). -/
def execMovi (w : IWord IntM) (s : State) : Host.Outcome State Fault Refusal :=
  laneIns (.movi w) w.hdr (.fix 4) (fun e => aluRes e w.d w.m.ty 32 [] (fun _ => w.imm.toNat)) s

/-- MOVIH (R333): the upper half alone. -/
def execMovih (w : IWord IntM) (s : State) : Host.Outcome State Fault Refusal :=
  laneIns (.movih w) w.hdr (.fix 4)
    (fun e => .ok ⟨match w.d with
      | .s i => if e.act = 0 then [] else [⟨.sh i.toNat, BitVec.ofNat 64 w.imm.toNat⟩]
      | .v i => ((activeLanes e).map (fun l => wrV (i.toNat + 1) l 1 w.imm.toNat)).flatten
      | _ => [], Notes.nil, []⟩) s

/-- LEA (R334). -/
def leaI (ty : Ty) (a b c : Nat) : Nat := wrapInt 64 ((a : Int) + ival ty b * 2 ^ (c % 64))

def execLea (w : RWord IntM) (s : State) : Host.Outcome State Fault Refusal :=
  laneIns (.lea w) w.hdr (.fix 4)
    (fun e => aluRes e w.d w.m.ty 64 [opX .ui64 w.a, opX w.m.ty w.b, opSv .ui64 w.c] (f3 (leaI w.m.ty))) s

/-- The function of PLOP (R330). -/
def plopF (op : Nat) (a b : Bool) : Bool :=
  match op with
  | 0 => a && b
  | 1 => a || b
  | 2 => a != b
  | 3 => a && !b
  | _ => a || !b

/-- PLOP (R330). -/
def execPlop (w : RWord (BitVec 12)) (s : State) : Host.Outcome State Fault Refusal :=
  laneIns (.plop w) w.hdr (.fix 4)
    (fun e =>
      let op := w.m.toNat / 32 % 8
      let comb := w.m.toNat / 256
      .ok (predRes e w.d (fun t => [combine comb (plopF op (rdPred e w.a t) (rdPred e w.b t)) (rdPred e w.c t)]))) s

/-- Elements of a lane in a packed TYPE (R32). -/
def elems (ty : Ty) (x : Nat) : List Int := (List.range (32 / ty.bits)).map (fun i => ival ty (elem ty.bits i x))

/-- ISAD (R334). -/
def isadI (ty : Ty) (a b c : Nat) : Nat :=
  wrapInt 32 (((elems ty a).zip (elems ty b)).foldl (fun n (x, y) => n + (if x < y then y - x else x - y)) (c : Int))

def execIsad (w : RWord IntM) (s : State) : Host.Outcome State Fault Refusal :=
  laneIns (.isad w) w.hdr (.fix 6)
    (fun e => aluRes e w.d w.m.ty 32 [opX w.m.ty w.a, opX w.m.ty w.b, opX .ui32 w.c] (f3 (isadI w.m.ty))) s

/-- IDOT (R334). -/
def idotI (m : IntM) (a b c : Nat) : Nat :=
  let x := ((elems m.ty a).zip (elems (idotB m) b)).foldl (fun n (x, y) => n + x * y) (toInt 32 c)
  satWrap .si32 (m.x.getLsbD 1) x

def execIdot (w : RWord IntM) (s : State) : Host.Outcome State Fault Refusal :=
  laneIns (.idot w) w.hdr (.fix 6)
    (fun e => aluRes e w.d w.m.ty 32 [opX w.m.ty w.a, opX (idotB w.m) w.b, opX .si32 w.c] (f3 (idotI w.m))) s

/-- BSEL (R334): byte i of the result is pool byte SEL[3i+2:3i]. -/
def bselI (a b sel : Nat) : Nat :=
  let y := a % 2 ^ 32 + b % 2 ^ 32 * 2 ^ 32
  (List.range 4).foldl (fun n i => n + y / 2 ^ (8 * (sel / 2 ^ (3 * i) % 8)) % 256 * 2 ^ (8 * i)) 0

def execBsel (w : RWord (BitVec 12)) (s : State) : Host.Outcome State Fault Refusal :=
  laneIns (.bsel w) w.hdr (.fix 4)
    (fun e =>
      match w.c with
      | .none => aluRes e w.d .b32 32 [opX .b32 w.a, opX .b32 w.b] (f2 (fun a b => bselI a b w.m.toNat))
      | c => aluRes e w.d .b32 32 [opX .b32 w.a, opX .b32 w.b, opX .ui32 c] (f3 bselI)) s

end Sys2Proof.Machine
end

