-- ==== Sys2Proof/Machine/Lane.lean ====
section
/-! DEFINITION. Lane-crossing instructions (16_integer R335 to R340). -/

namespace Sys2Proof.Machine

open Sys2Proof

/-- Sibling index of a lane. -/
def sibOf (g : Grp) (lane : Nat) : Nat := if g.triplex then lane % 3 else 0

/-- Lane of sibling `q` of a thread. -/
def laneOf (g : Grp) (t q : Nat) : Nat := if g.triplex then 3 * t + q else t

/-- The thread is absent (R206), or past the group's last (assumption log, row 44). -/
def absentThread (g : Grp) (t : Nat) : Bool := decide (nThreads g ≤ t) || (lanesOf g t).all g.absent.getLsbD

/-- An immediate operand: checked whatever the guard (R290). -/
def isImm : Opnd → Bool
  | .imm _ => true
  | _ => false

/-- The source thread of XLANE, where it is defined (R336). -/
def xlaneSrc (mode n t b : Nat) : Option Nat :=
  let base := t / n * n
  let r := t - base
  match mode with
  | 0 => if n ≤ b then none else some (base + b)
  | 1 => some (base + (r + b) % n)
  | 2 => if n ≤ b then none else some (base + (r ^^^ b))
  | 3 => some (base + n - 1 - r)
  | _ =>
    let x : Int := (t : Int) + toInt 32 b
    if x < base ∨ (base + n : Int) ≤ x then none else some x.toNat

/-- A segment width is 0 or a power of two up to the thread count (R336). -/
def segOk (c n : Nat) : Bool := c == 0 || (List.range 7).any (fun i => 2 ^ i == c && decide (c ≤ n))

/-- XLANE (R336). -/
def execXlane (w : RWord IntM) (s : State) : Host.Outcome State Fault Refusal :=
  laneIns (.xlane w) w.hdr (.fix 8)
    (fun e =>
      let mode := w.m.x.toNat
      let c := rdW e .ui64 64 w.c 0
      let cnt := nThreads e.g
      let n := if c = 0 then cnt else c
      let checked := isImm w.c || e.act != 0
      if mode = 3 ∧ w.b ≠ .imm 0 then .error fcIllegalOpnd
      else if checked && !segOk c cnt then .error fcIllegalOpnd
      else
        let bt := if mode = 4 then Ty.si32 else .ui32
        match w.d with
        | .v i =>
          .ok ⟨((activeLanes e).map (fun l =>
            let t := threadOf e.g l
            let own := rd e w.m.ty w.a l
            let x := match xlaneSrc mode n t (svW e bt 32 w.b t).1 with
              | some u => if absentThread e.g u then own else rd e w.m.ty w.a (laneOf e.g u (sibOf e.g l))
              | none => own
            wrV i.toNat l w.m.ty.span x)).flatten, Notes.ofSplit (svAll e bt 32 w.b).2, []⟩
        | _ => .ok ⟨[], Notes.nil, []⟩) s

/-- PCOL (R337). -/
def execPcol (w : RWord (BitVec 12)) (s : State) : Host.Outcome State Fault Refusal :=
  laneIns (.pcol w) w.hdr (.fix 8)
    (fun e =>
      let ts := activeThreads e
      let tr := ts.filter (rdPred e w.a)
      let k := tr.length
      let n := ts.length
      let p := fun (b : Bool) => predRes e w.d (fun _ => [b])
      .ok (match w.m.toNat / 32 with
        | 0 => p (k == n)
        | 1 => p (0 < k)
        | 2 => p (k == 0)
        | 3 => p (k == 0 || k == n)
        | 4 => ⟨match w.d with
            | .s i => if n = 0 then [] else wrMask e.g i.toNat (maskOf e.g tr (fun _ => true) &&& e.act)
            | _ => [], Notes.nil, []⟩
        | _ => ⟨match w.d with
            | .s i => if n = 0 then [] else wrS i.toNat 1 k
            | _ => [], Notes.nil, []⟩)) s

/-- MATCH (R337). -/
def execMatchI (w : RWord IntM) (s : State) : Host.Outcome State Fault Refusal :=
  laneIns (.matchI w) w.hdr (.fix 8)
    (fun e =>
      let (vs, sp) := svAll e w.m.ty w.m.ty.width w.a
      match w.d with
      | .v i =>
        .ok ⟨((activeLanes e).map (fun l =>
          let x := (vs.find? (fun p => p.1 == threadOf e.g l)).elim 0 (·.2)
          wrV i.toNat l 1 ((vs.find? (fun p => p.2 == x)).elim 0 (·.1)))).flatten, Notes.ofSplit sp, []⟩
      | _ => .ok ⟨[], Notes.nil, []⟩) s

/-- A thread index of RDLANE and WRLANE is in range and present (R338). -/
def laneIdxOk (e : Env) (o : Opnd) : Bool :=
  let i := rdW e .ui64 64 o 0
  (!(isImm o || e.act != 0) || decide (i < nThreads e.g)) && (e.act == 0 || !absentThread e.g i)

/-- RDLANE (R338). -/
def execRdlane (w : RWord IntM) (s : State) : Host.Outcome State Fault Refusal :=
  laneIns (.rdlane w) w.hdr (.fix 8)
    (fun e =>
      let i := rdW e .ui64 64 w.b 0
      let ty := w.m.ty
      if !laneIdxOk e w.b then .error fcIllegalOpnd
      else
        match w.d with
        | .v d => .ok ⟨((activeLanes e).map (fun l => wrV d.toNat l ty.span (rd e ty w.a (laneOf e.g i (sibOf e.g l))))).flatten, Notes.nil, []⟩
        | .s d =>
          let (x, sp) := svW e ty ty.width w.a i
          .ok ⟨if e.act = 0 then [] else wrS d.toNat 1 x, Notes.ofSplit (if sp && e.act != 0 then threadMask e.g i else 0), []⟩
        | _ => .ok ⟨[], Notes.nil, []⟩) s

/-- WRLANE (R338). -/
def execWrlane (w : RWord IntM) (s : State) : Host.Outcome State Fault Refusal :=
  laneIns (.wrlane w) w.hdr (.fix 8)
    (fun e =>
      let i := rdW e .ui64 64 w.b 0
      let ty := w.m.ty
      match unW e ty ty.width w.a with
      | (none, _) => .error fcNonuniform
      | (some x, sp) =>
        if !laneIdxOk e w.b then .error fcIllegalOpnd
        else
          match w.d with
          | .v d =>
            let ls := if (activeThreads e).contains i then lanesOf e.g i else []
            .ok ⟨(ls.map (fun l => wrV d.toNat l ty.span x)).flatten, Notes.ofSplit sp, []⟩
          | _ => .ok ⟨[], Notes.nil, []⟩) s

/-- The operations of REDI and SCAN (R339). -/
def redOp (ty : Ty) (op a b : Nat) : Nat :=
  match op with
  | 0 => wrapInt ty.bits (ival ty a + ival ty b)
  | 1 => wrapInt ty.bits (min (ival ty a) (ival ty b))
  | 2 => wrapInt ty.bits (max (ival ty a) (ival ty b))
  | 3 => a &&& b
  | 4 => a ||| b
  | _ => a ^^^ b

/-- The identity of an operation (R339). -/
def redId (ty : Ty) (op : Nat) : Nat :=
  match op with
  | 1 => wrapInt ty.bits (tyHi ty)
  | 2 => wrapInt ty.bits (tyLo ty)
  | 3 => 2 ^ ty.bits - 1
  | _ => 0

/-- Sibling indices of a thread. -/
def sibIdx (g : Grp) : List Nat := if g.triplex then [0, 1, 2] else [0]

/-- The totals per sibling index over some threads, from starting values. -/
def redTotals (e : Env) (ty : Ty) (op : Nat) (a : Opnd) (ts : List Nat) (start : List Nat) : List Nat :=
  (sibIdx e.g).map (fun q => ts.foldl (fun x t => redOp ty op x (rd e ty a (laneOf e.g t q))) (start.getD q (redId ty op)))

/-- The running combinations of SCAN over some threads (R339): for each its lanes' writes. -/
def scanWrites (e : Env) (ty : Ty) (op : Nat) (excl : Bool) (a : Opnd) (d : Nat) (start : List Nat) (ts : List Nat) : List RegW :=
  ((sibIdx e.g).map (fun q =>
    (ts.foldl
      (fun (acc : Nat × List RegW) t =>
        let x := redOp ty op acc.1 (rd e ty a (laneOf e.g t q))
        (x, acc.2 ++ wrV d (laneOf e.g t q) ty.span (if excl then acc.1 else x)))
      (start.getD q (redId ty op), [])).2)).flatten

/-- The Active threads of a half of a paired group; all of them in another group. -/
def halfThreads (e : Env) (h : Nat) : List Nat := (activeThreads e).filter (fun t => halfOf e.g t == h)

/-- The result of REDI from its totals (R339). -/
def rediRes (e : Env) (ty : Ty) (d : Dst) (tot : List Nat) : LaneRes :=
  match d with
  | .v i => ⟨((activeLanes e).map (fun l => wrV i.toNat l ty.span (tot.getD (sibOf e.g l) 0))).flatten, Notes.nil, []⟩
  | .s i =>
    let a := tot.getD 0 0
    let b := tot.getD 1 a
    let c := tot.getD 2 a
    let x := if e.g.triplex then median ty ty.width a b c else a
    let split := e.g.triplex && !(a == b && b == c)
    ⟨if e.act = 0 then [] else wrS i.toNat 1 (extS ty ty.bits x), Notes.ofSplit (if split then e.act else 0), []⟩
  | _ => ⟨[], Notes.nil, []⟩

/-- Ends a long instruction on its group (R235). -/
def longDone (g : Grp) : Grp := { g with px := 0, partial_ := [] }

/-- REDI (R339, R340): in a paired group the first issue combines the lower half and holds the partial. -/
def execRedi (w : RWord IntM) (s : State) : Host.Outcome State Fault Refusal :=
  issue (.redi w) ⟨false, true, false⟩
    (fun s k g e =>
      let ty := w.m.ty
      let op := w.m.x.toNat
      if g.paired && g.px == 0 && e.act != 0 then
        .unit (setGroup s k { g with px := 1, partial_ := redTotals e ty op w.a (halfThreads e 0) [] })
      else
        let ts := if g.paired then halfThreads e 1 else activeThreads e
        let r := rediRes e ty w.d (redTotals e ty op w.a ts g.partial_)
        .ok (sendResult s k (longDone g) .var (hdrSlot w.hdr) r.writes) r.notes) s

/-- SCAN (R339, R340): in a paired group the first issue writes the lower half and holds its total. -/
def execScan (w : RWord IntM) (s : State) : Host.Outcome State Fault Refusal :=
  issue (.scan w) ⟨false, true, false⟩
    (fun s k g e =>
      let ty := w.m.ty
      let op := w.m.x.toNat % 8
      let excl := w.m.x.getLsbD 3
      let d := match w.d with | .v i => i.toNat | _ => 0
      if g.paired && g.px == 0 && e.act != 0 then
        .unit (setGroup s k { landCells g (scanWrites e ty op excl w.a d [] (halfThreads e 0)) with
          px := 1, partial_ := redTotals e ty op w.a (halfThreads e 0) [] })
      else
        let ts := if g.paired then halfThreads e 1 else activeThreads e
        .ok (sendResult s k (longDone g) .var (hdrSlot w.hdr) (scanWrites e ty op excl w.a d g.partial_ ts)) Notes.nil) s

end Sys2Proof.Machine
end

