-- ==== Sys2Proof/Machine/Float.lean ====
section
/-! DEFINITION. Floating and triplex instructions (17_float). -/

namespace Sys2Proof.Machine

open Sys2Proof

/-- The direction that RND forces (R63). -/
def forced : Rnd → Option RDir
  | .none => none
  | .rn => some .ne
  | .ru => some .up
  | .rd => some .down
  | .rz => some .rz

/-- The direction of sibling `k` of thread `t` in an instruction's draw number `i` (R60, R344). -/
def dirOf (e : Env) (r : Rnd) (t k i : Nat) : RDir :=
  match forced r with
  | some d => d
  | none => if e.g.triplex then drawDir (laneKey (tabGetD e.g.tids t 0) (tabGetD e.g.draws t 0 + i) k) e.g.seed else .ne

/-- The direction of a scalar form (R343). -/
def dirS (r : Rnd) : RDir := (forced r).getD .ne

/-- Draws of an instruction that rounds `n` elements per thread (R61). -/
def drawsOf (e : Env) (r : Rnd) (n : Nat) : List (Nat × Nat) :=
  if e.g.triplex && r == .none then (activeThreads e).map (fun t => (t, n)) else []

/-- Elements per lane of a TYPE (R32). -/
def eCount (ty : Ty) : Nat := 32 / min ty.bits 32

/-- Element `i` of an operand of a packed TYPE, or the whole value of another. -/
def elemVal (ty : Ty) (i x : Nat) : Nat := if ty.bits < 32 then elem ty.bits i x else x

/-- Values put side by side, `w` bits each. -/
def pack (w : Nat) : List Nat → Nat
  | [] => 0
  | x :: xs => x % 2 ^ w + 2 ^ w * pack w xs

/-- Element `i` of a lane's result. -/
def fltElem (e : Env) (r : Rnd) (ps : List ASpec) (f : RDir → List Nat → Nat) (l i : Nat) : Nat :=
  f (dirOf e r (threadOf e.g l) (sibOf e.g l) i) (ps.map (fun p => elemVal p.ty i (specVal e l p)))

/-- Digits of an element of an operand in a thread; an immediate or constant counts as P (R76). -/
def opDigits (e : Env) (p : ASpec) (t i : Nat) : Nat :=
  match p.o with
  | .imm _ | .cbank .. => precOf p.ty
  | _ =>
    let x := fun q => elemVal p.ty i (specVal e (3 * t + q) p)
    digits p.ty (x 0) (x 1) (x 2)

/-- CANCEL in an element of a thread (R76): digits of the result, and the smallest of the operands. -/
def cancelAt (e : Env) (ty : Ty) (ps : List ASpec) (res : Nat → Nat → Nat) (t i : Nat) : Option (Nat × Nat × Nat) :=
  let r := digits ty (res (3 * t) i) (res (3 * t + 1) i) (res (3 * t + 2) i)
  let o := (ps.map (fun p => opDigits e p t i)).foldl min 99
  if r ≤ fld e.g.numctl 20 16 && r + fld e.g.numctl 28 24 ≤ o then some (t, r, o) else none

/-- CANCEL over the instruction; the lower element in which it holds supplies the record (R347). -/
def cancelNotes (e : Env) (ty : Ty) (ps : List ASpec) (res : Nat → Nat → Nat) : Notes :=
  if e.g.triplex then
    { Notes.nil with cancel := (activeThreads e).filterMap (fun t => (List.range (eCount ty)).findSome? (cancelAt e ty ps res t)) }
  else Notes.nil

/-- The value is a zero. -/
def isZero : XV → Bool
  | .zero _ => true
  | _ => false

/-- DIVZ of a divisor (R76). -/
def divzNotes (e : Env) (p : ASpec) : Notes :=
  if e.g.triplex then
    { Notes.nil with divz := (activeThreads e).filterMap (fun t =>
        let n := opDigits e p t 0
        if n = 0 ∨ (lanesOf e.g t).any (fun l => isZero (decode p.ty (specVal e l p))) then some (t, n) else none) }
  else Notes.nil

/-- What notes an instruction evaluates of its own arithmetic. -/
inductive FNote where
  | no | cancel | divz (p : ASpec)

/-- The result of an elementwise instruction (R342 to R344): every element of each Active lane, or element 0
once for the group. -/
def fltRes (e : Env) (d : Dst) (ty : Ty) (r : Rnd) (rounds : Bool) (note : FNote) (ps : List ASpec)
    (f : RDir → List Nat → Nat) : Except Nat LaneRes :=
  match d with
  | .s _ => aluRes e d .b32 ty.bits (ps.map (fun p => { p with tw := p.ty.bits })) (f (dirS r))
  | .v i =>
    let n := eCount ty
    let res := fltElem e r ps f
    let notes := match note with
      | .no => Notes.nil
      | .cancel => cancelNotes e ty ps res
      | .divz p => divzNotes e p
    .ok ⟨((activeLanes e).map (fun l => wrV i.toNat l 1 (pack ty.bits ((List.range n).map (res l))))).flatten, notes,
      if rounds then drawsOf e r n else []⟩
  | _ => .ok ⟨[], Notes.nil, []⟩

/-- Rounds the exact result of one, two or three operands. -/
def r1 (ty : Ty) (f : XV → XV) (dir : RDir) : List Nat → Nat
  | [a] => roundTo (fmtOf ty) dir (f (decode ty a))
  | _ => 0
def r2 (ty : Ty) (f : XV → XV → XV) (dir : RDir) : List Nat → Nat
  | [a, b] => roundTo (fmtOf ty) dir (f (decode ty a) (decode ty b))
  | _ => 0
def r3 (ty : Ty) (f : XV → XV → XV → XV) (dir : RDir) : List Nat → Nat
  | [a, b, c] => roundTo (fmtOf ty) dir (f (decode ty a) (decode ty b) (decode ty c))
  | _ => 0

/-- Two operands of a TYPE. -/
def ops2 (w : RWord FltM) : List ASpec := [opX w.m.ty w.a, opX w.m.ty w.b]

def execFadd (w : RWord FltM) (s : State) : Host.Outcome State Fault Refusal :=
  laneIns (.fadd w) w.hdr (.fix 5) (fun e => fltRes e w.d w.m.ty w.m.rnd true .cancel (ops2 w) (r2 w.m.ty xAdd)) s

def execFsub (w : RWord FltM) (s : State) : Host.Outcome State Fault Refusal :=
  laneIns (.fsub w) w.hdr (.fix 5)
    (fun e => fltRes e w.d w.m.ty w.m.rnd true .cancel (ops2 w) (r2 w.m.ty (fun a b => xAdd a (xNeg b)))) s

def execFmul (w : RWord FltM) (s : State) : Host.Outcome State Fault Refusal :=
  laneIns (.fmul w) w.hdr (.fix 5) (fun e => fltRes e w.d w.m.ty w.m.rnd true .no (ops2 w) (r2 w.m.ty xMul)) s

def execFfma (w : RWord FltM) (s : State) : Host.Outcome State Fault Refusal :=
  laneIns (.ffma w) w.hdr (.fix 5)
    (fun e => fltRes e w.d w.m.ty w.m.rnd true .cancel (ops2 w ++ [opX w.m.ty w.c]) (r3 w.m.ty (fun a b c => xAdd (xMul a b) c))) s

/-- FDOT in a lane (R348). -/
def fdotI (ty : Ty) (n : Nat) (dir : RDir) : List Nat → Nat
  | [a, b, c] =>
    accAdd dir c (groupSum ((List.range n).map (fun i => xMul (decode ty (elem ty.bits i a)) (decode ty (elem ty.bits i b)))))
  | _ => 0

def execFdot (w : RWord FltM) (s : State) : Host.Outcome State Fault Refusal :=
  laneIns (.fdot w) w.hdr (.fix 6)
    (fun e =>
      let span := 2 ^ (w.m.x.toNat % 4)
      let ps : List ASpec := [⟨w.a, w.m.ty, 32 * span, false⟩, ⟨w.b, w.m.ty, 32 * span, false⟩, opX .f32 w.c]
      match w.d with
      | .v i =>
        .ok ⟨((activeLanes e).map (fun l =>
          wrV i.toNat l 1 (fdotI w.m.ty (span * eCount w.m.ty) (dirOf e w.m.rnd (threadOf e.g l) (sibOf e.g l) 0) (ps.map (specVal e l))))).flatten,
          Notes.nil, drawsOf e w.m.rnd 1⟩
      | _ => .ok ⟨[], Notes.nil, []⟩) s

/-- The lesser, or the greater, of two elements (R349). -/
def minMax (ty : Ty) (mx : Bool) (a b : Nat) : Nat :=
  if isNanBits ty a && isNanBits ty b then (fmtOf ty).nan.getD 0
  else if isNanBits ty a then b
  else if isNanBits ty b then a
  else
    let lt := medKey ty ty.bits b < medKey ty ty.bits a
    if (if mx then !lt else lt) then b else a

def execFmin (w : RWord FltM) (s : State) : Host.Outcome State Fault Refusal :=
  laneIns (.fmin w) w.hdr (.fix 5) (fun e => fltRes e w.d w.m.ty .none false .no (ops2 w) (fun _ => f2 (minMax w.m.ty false))) s

def execFmax (w : RWord FltM) (s : State) : Host.Outcome State Fault Refusal :=
  laneIns (.fmax w) w.hdr (.fix 5) (fun e => fltRes e w.d w.m.ty .none false .no (ops2 w) (fun _ => f2 (minMax w.m.ty true))) s

/-- Order key of a number, with −0 equal to +0 (R350). -/
def numKey (ty : Ty) (x : Nat) : Int := if x % 2 ^ (ty.bits - 1) = 0 then 0 else medKey ty ty.bits x

/-- The comparisons of FSETP (R350). -/
def cmpF (ty : Ty) (op a b : Nat) : Bool :=
  let nan := isNanBits ty a || isNanBits ty b
  let x := numKey ty a
  let y := numKey ty b
  match op with
  | 0 => !nan && x == y
  | 1 => nan || x != y
  | 2 => !nan && decide (x < y)
  | 3 => !nan && decide (x ≤ y)
  | 4 => !nan && decide (y < x)
  | 5 => !nan && decide (y ≤ x)
  | 6 => !nan
  | _ => nan

/-- FSETP (R350). -/
def execFsetp (w : RWord FltM) (s : State) : Host.Outcome State Fault Refusal :=
  laneIns (.fsetp w) w.hdr (.fix 5)
    (fun e =>
      let ty := w.m.ty
      let at0 := fun o l => elemVal ty 0 (rd e ty o l)
      .ok (predRes e w.d (fun t => sibs e.g (fun l =>
        let r := cmpF ty (w.m.x.toNat % 8) (at0 w.a l) (at0 w.b l)
        match w.c with
        | .pred .. => if w.m.x.getLsbD 3 then r || rdPred e w.c t else r && rdPred e w.c t
        | _ => r) t))) s

/-- FSEL (R349): the whole lane. -/
def fselRes (e : Env) (ty : Ty) (d : Dst) (a b c : Opnd) : Except Nat LaneRes :=
  let ts := activeThreads e
  match d with
  | .v i =>
    .ok ⟨((activeLanes e).map (fun l =>
      wrV i.toNat l 1 (if rdPred e c (threadOf e.g l) then rd e ty a l else rd e ty b l))).flatten, Notes.nil, []⟩
  | _ =>
    if ts.any (rdPred e c) && ts.any (fun t => !rdPred e c t) then .error fcNonuniform
    else aluRes e d .b32 32 [opX ty a, opX ty b] (f2 (fun x y => if ts.any (rdPred e c) then x else y))

def execFsel (w : RWord FltM) (s : State) : Host.Outcome State Fault Refusal :=
  laneIns (.fsel w) w.hdr (.fix 5) (fun e => fselRes e w.m.ty w.d w.a w.b w.c) s

/-- The class mask of an element (R349). -/
def fclassI (ty : Ty) (x : Nat) : Nat :=
  match decode ty x with
  | .nan => 2 ^ 8
  | .inf neg => if neg then 1 else 2 ^ 7
  | .zero neg => if neg then 2 ^ 3 else 2 ^ 4
  | .num neg m _ _ =>
    let sub := m < 2 ^ (fmtOf ty).fb
    if neg then (if sub then 2 ^ 2 else 2) else if sub then 2 ^ 5 else 2 ^ 6
  | .cancel => 0

/-- FCLASS (R349). -/
def execFclass (w : RWord FltM) (s : State) : Host.Outcome State Fault Refusal :=
  laneIns (.fclass w) w.hdr (.fix 5)
    (fun e => aluRes e w.d .ui32 32 [⟨w.a, w.m.ty, if w.d.kind == .s then w.m.ty.bits else 32, false⟩]
      (f1 (fun a => fclassI w.m.ty (elemVal w.m.ty 0 a)))) s

def execFdiv (w : RWord FltM) (s : State) : Host.Outcome State Fault Refusal :=
  laneIns (.fdiv w) w.hdr .var (fun e => fltRes e w.d .f32 w.m.rnd true (.divz (opX .f32 w.b)) (ops2 w) (r2 .f32 xDiv)) s

/-- An .f32 function of A (R351, R352). -/
def fn1 (w : RWord FltM) (note : FNote) (f : XV → XV) (e : Env) : Except Nat LaneRes :=
  fltRes e w.d .f32 w.m.rnd true note [opX .f32 w.a] (r1 .f32 f)

def execFsqrt (w : RWord FltM) (s : State) : Host.Outcome State Fault Refusal :=
  laneIns (.fsqrt w) w.hdr .var (fn1 w .no xSqrt) s

def execFrcp (w : RWord FltM) (s : State) : Host.Outcome State Fault Refusal :=
  laneIns (.frcp w) w.hdr .var (fn1 w (.divz (opX .f32 w.a)) (xDiv (.num false 1 0 false))) s

def execFrsq (w : RWord FltM) (s : State) : Host.Outcome State Fault Refusal :=
  laneIns (.frsq w) w.hdr .var (fn1 w (.divz (opX .f32 w.a)) xRsqrt) s

def execFexp2 (w : RWord FltM) (s : State) : Host.Outcome State Fault Refusal :=
  laneIns (.fexp2 w) w.hdr .var (fn1 w .no xExp2) s

def execFlog2 (w : RWord FltM) (s : State) : Host.Outcome State Fault Refusal :=
  laneIns (.flog2 w) w.hdr .var (fn1 w .no xLog2) s

def execFsin (w : RWord FltM) (s : State) : Host.Outcome State Fault Refusal :=
  laneIns (.fsin w) w.hdr .var (fn1 w .no xSin) s

def execFcos (w : RWord FltM) (s : State) : Host.Outcome State Fault Refusal :=
  laneIns (.fcos w) w.hdr .var (fn1 w .no xCos) s

def execFtanh (w : RWord FltM) (s : State) : Host.Outcome State Fault Refusal :=
  laneIns (.ftanh w) w.hdr .var (fn1 w .no xTanh) s

/-- All of a list of conversions, or CONV (R56). -/
def allCvt : List Cvt → Option (List Nat)
  | [] => some []
  | some x :: xs => (allCvt xs).map (x :: ·)
  | none :: _ => none

/-- STYPE of FCVT (R353). -/
def srcTy (w : IWord FltM) : Ty := (tyOfCode (w.imm.toNat / 256 % 32)).getD .f32

/-- The operand carries neg. -/
def opndNeg : Opnd → Bool
  | .v _ _ n | .s _ _ n => n
  | _ => false

/-- Converts an element of FCVT's operand: a negated E8M0 value is negated here (R33, R287). -/
def convertOp (o : Opnd) (src dst : Ty) (pol : Nat) (dir : RDir) (x : Nat) : Cvt :=
  if src = .e8m0 ∧ opndNeg o = true then cvtTo dst pol dir (exactClass src dst) (xNeg (decode src x)) else convert src dst pol dir x

/-- One lane's conversion (R353). -/
def fcvtLane (e : Env) (w : IWord FltM) (n : Nat) (l : Nat) : Option (List Nat) :=
  let st := srcTy w
  let x := rdW e st (max 32 (n * st.bits)) w.a l
  allCvt ((List.range n).map (fun i =>
    convertOp w.a st w.m.ty (w.imm.toNat % 256) (dirOf e w.m.rnd (threadOf e.g l) (sibOf e.g l) i) (elem st.bits i x)))

/-- FCVT's own check of its IMM32, which stands after those of R296 (R353, R359): the cause, or none. -/
def fcvtBad (w : IWord FltM) : Option Nat :=
  let st := srcTy w
  if 8192 ≤ w.imm.toNat ∨ !(tyOfCode (w.imm.toNat / 256 % 32)).any tyCvt then some fcIllegalOpnd
  else if (w.m.ty.bits = 4 ∧ st.bits = 64) ∨ (w.m.ty.bits = 64 ∧ st.bits = 4) then some fcIllegalMod
  else none

/-- FCVT (R353, R359). -/
def fcvtRes (e : Env) (w : IWord FltM) : Except Nat LaneRes :=
  let st := srcTy w
  let dt := w.m.ty
  let n := cvtCount st dt
  let own := fun (r : Except Nat LaneRes) => match fcvtBad w with | some c => .error c | none => r
  match w.d with
  | .v i =>
    own <|
    let rs := (activeLanes e).map (fun l => (l, fcvtLane e w n l))
    if rs.any (fun r => r.2.isNone) then .error fcConv
    else
      .ok ⟨(rs.map (fun r => wrV i.toNat r.1 (max 1 (n * dt.bits / 32)) (pack dt.bits (r.2.getD [])))).flatten, Notes.nil,
        if exactClass st dt then [] else drawsOf e w.m.rnd n⟩
  | .s i =>
    match unW e st st.bits w.a with
    | (none, _) => .error fcNonuniform
    | (some x, m) =>
      own <|
      if e.act = 0 then .ok ⟨[], Notes.ofSplit m, []⟩
      else
        match convertOp w.a st dt (w.imm.toNat % 256) (dirS w.m.rnd) x with
        | none => .error fcConv
        | some y => .ok ⟨wrS i.toNat 1 (extS dt dt.bits y), Notes.ofSplit m, []⟩
  | _ => .ok ⟨[], Notes.nil, []⟩

def execFcvt (w : IWord FltM) (s : State) : Host.Outcome State Fault Refusal :=
  laneIns (.fcvt w) w.hdr (.fix 5) (fun e => fcvtRes e w) s

/-- A result of F2I in 32 or 64 bits (R354). -/
def f2iI (ty it : Ty) (dir : RDir) (x : Nat) : Nat :=
  let y := (convert ty it 0 dir x).getD 0
  if it.isSi && it.bits < 32 then sext it.bits 32 y else y

/-- F2I (R354). -/
def execF2i (w : RWord FltM) (s : State) : Host.Outcome State Fault Refusal :=
  laneIns (.f2i w) w.hdr (.fix 5)
    (fun e =>
      let ty := w.m.ty
      let it := itype w.m.x.toNat
      let n := max 32 it.bits
      match w.d with
      | .v i =>
        .ok ⟨((activeLanes e).map (fun l =>
          wrV i.toNat l (n / 32) (f2iI ty it (dirOf e w.m.rnd (threadOf e.g l) (sibOf e.g l) 0) (elemVal ty 0 (rd e ty w.a l))))).flatten,
          Notes.nil, drawsOf e w.m.rnd 1⟩
      | _ => aluRes e w.d (if it.isSi then .si32 else .ui32) n [⟨w.a, ty, ty.bits, false⟩] (f1 (f2iI ty it (dirS w.m.rnd)))) s

/-- I2F (R354). -/
def execI2f (w : RWord FltM) (s : State) : Host.Outcome State Fault Refusal :=
  laneIns (.i2f w) w.hdr (.fix 5)
    (fun e =>
      let ty := w.m.ty
      let it := itype w.m.x.toNat
      let f := fun dir x => roundTo (fmtOf ty) dir (decode it (x % 2 ^ it.bits))
      match w.d with
      | .v i =>
        .ok ⟨((activeLanes e).map (fun l =>
          wrV i.toNat l 1 (f (dirOf e w.m.rnd (threadOf e.g l) (sibOf e.g l) 0) (rd e it w.a l)))).flatten,
          Notes.nil, if exactClass it ty then [] else drawsOf e w.m.rnd 1⟩
      | _ => aluRes e w.d .b32 ty.bits [⟨w.a, it, it.bits, false⟩] (f1 (f (dirS w.m.rnd)))) s

/-- Rounding to an integral value (R355): a NaN is returned as it is (assumption log, row 79). -/
def frndI (ty : Ty) (dir : RDir) : List Nat → Nat
  | [a] =>
    match decode ty a with
    | .num neg m e st =>
      let n := quanta dir neg m e st 0
      roundTo (fmtOf ty) dir (if n = 0 then .zero neg else .num neg n 0 false)
    | _ => a
  | _ => 0

def execFrnd (w : RWord FltM) (s : State) : Host.Outcome State Fault Refusal :=
  laneIns (.frnd w) w.hdr (.fix 5) (fun e => fltRes e w.d w.m.ty w.m.rnd true .no [opX w.m.ty w.a] (frndI w.m.ty)) s

/-- FSCALE (R355); beyond ±1000 the scale changes nothing more. A NaN is returned as it is (assumption log, row 79). -/
def fscaleI (ty : Ty) (dir : RDir) : List Nat → Nat
  | [a, b] =>
    match decode ty a with
    | .num neg m e st => roundTo (fmtOf ty) dir (.num neg m (e + max (min (toInt 32 b) 1000) (-1000)) st)
    | _ => a
  | _ => 0

def execFscale (w : RWord FltM) (s : State) : Host.Outcome State Fault Refusal :=
  laneIns (.fscale w) w.hdr (.fix 5)
    (fun e => fltRes e w.d w.m.ty w.m.rnd true .no [opX w.m.ty w.a, opX .si32 w.b] (fscaleI w.m.ty)) s

/-- An instruction that computes a lane from the three siblings of its thread, element by element. -/
def sibRes (e : Env) (d : Dst) (ty : Ty) (r : Rnd) (rounds : Bool) (a : Opnd) (f : RDir → Nat → Nat → Nat → Nat → Nat) : LaneRes :=
  match d with
  | .v i =>
    ⟨((activeLanes e).map (fun l =>
      let t := threadOf e.g l
      let k := sibOf e.g l
      let x := fun q j => elemVal ty j (rd e ty a (laneOf e.g t q))
      wrV i.toNat l 1 (pack ty.bits ((List.range (eCount ty)).map (fun j =>
        f (dirOf e r t k j) k (x 0 j) (x 1 j) (x 2 j)))))).flatten,
      Notes.nil, if rounds then drawsOf e r (eCount ty) else []⟩
  | _ => ⟨[], Notes.nil, []⟩

/-- DIGITS (R356). -/
def execDigits (w : RWord FltM) (s : State) : Host.Outcome State Fault Refusal :=
  laneIns (.digits w) w.hdr (.fix 8)
    (fun e => .ok (sibRes e w.d w.m.ty .none false w.a (fun _ _ a b c => digits w.m.ty a b c))) s

/-- The index of SIBRD and SIBWR. -/
def sibJ (o : Opnd) : Nat :=
  match o with
  | .imm x => x.toNat
  | _ => 0

/-- SIBRD and SIBWR name a sibling, 0 to 2, whatever the guard (R290, R346, R359). -/
def sibOwn (o : Opnd) (r : LaneRes) : Except Nat LaneRes := if 2 < sibJ o then .error fcIllegalOpnd else .ok r

/-- SIBRD (R357). -/
def execSibrd (w : RWord FltM) (s : State) : Host.Outcome State Fault Refusal :=
  laneIns (.sibrd w) w.hdr (.fix 6)
    (fun e => sibOwn w.b ⟨match w.d with
      | .v i => ((activeLanes e).map (fun l =>
          wrV i.toNat l w.m.ty.span (rd e w.m.ty w.a (laneOf e.g (threadOf e.g l) (sibJ w.b))))).flatten
      | _ => [], Notes.nil, []⟩) s

/-- SIBWR (R357). -/
def execSibwr (w : RWord FltM) (s : State) : Host.Outcome State Fault Refusal :=
  laneIns (.sibwr w) w.hdr (.fix 6)
    (fun e => sibOwn w.b ⟨match w.d with
      | .v i => (((activeLanes e).filter (fun l => sibOf e.g l == sibJ w.b)).map (fun l =>
          wrV i.toNat l w.m.ty.span (rd e w.m.ty w.a l))).flatten
      | _ => [], Notes.nil, []⟩) s

/-- SIBMED (R357, R70). -/
def execSibmed (w : RWord FltM) (s : State) : Host.Outcome State Fault Refusal :=
  laneIns (.sibmed w) w.hdr (.fix 6)
    (fun e => .ok (sibRes e w.d w.m.ty .none false w.a (fun _ _ a b c => median w.m.ty w.m.ty.bits a b c))) s

/-- SIBMEAN (R357). -/
def execSibmean (w : RWord FltM) (s : State) : Host.Outcome State Fault Refusal :=
  laneIns (.sibmean w) w.hdr (.fix 6)
    (fun e => .ok (sibRes e w.d w.m.ty w.m.rnd true w.a (fun dir _ a b c =>
      roundTo (fmtOf w.m.ty) dir (xMean (decode w.m.ty a) (decode w.m.ty b) (decode w.m.ty c))))) s

/-- A value less the mean of three (R357). -/
def xDiff (x a b c : XV) : XV :=
  match xAdd (xAdd a b) c with
  | .nan | .inf _ => .nan
  | m => xThird (xAdd (xTimes3 x) (xNeg m))

/-- SIBDIFF (R357). -/
def execSibdiff (w : RWord FltM) (s : State) : Host.Outcome State Fault Refusal :=
  laneIns (.sibdiff w) w.hdr (.fix 6)
    (fun e => .ok (sibRes e w.d w.m.ty w.m.rnd true w.a (fun dir k a b c =>
      let x := if k = 0 then a else if k = 1 then b else c
      roundTo (fmtOf w.m.ty) dir (xDiff (decode w.m.ty x) (decode w.m.ty a) (decode w.m.ty b) (decode w.m.ty c))))) s

/-- FSGN on one element (R349). -/
def fsgnI (ty : Ty) (op a b : Nat) : Nat :=
  let h := 2 ^ (ty.bits - 1)
  let sa := a / h % 2
  let sb := b / h % 2
  a % h + h * (match op with | 0 => sb | 1 => 1 - sb | _ => (sa + sb) % 2)

def execFsgn (w : RWord FltM) (s : State) : Host.Outcome State Fault Refusal :=
  laneIns (.fsgn w) w.hdr (.fix 5) (fun e => fltRes e w.d w.m.ty .none false .no (ops2 w) (fun _ => f2 (fsgnI w.m.ty w.m.x.toNat))) s

/-- A partial of FRED as it is held with PX (R358): nothing yet, a special value, an exact sum in units of
`2^-149`, or the bits chosen so far. -/
def encX : XV → Nat
  | .nan => 1
  | .inf neg => if neg then 3 else 2
  | .zero neg => if neg then 5 else 4
  | .cancel => 6
  | .num neg m e _ => 8 + 2 * (m * 2 ^ (e + 149).toNat) + (if neg then 1 else 0)

/-- What a held partial stands for. -/
def decX (n : Nat) : Option XV :=
  match n with
  | 0 => none
  | 1 => some .nan
  | 2 => some (.inf false)
  | 3 => some (.inf true)
  | 4 => some (.zero false)
  | 5 => some (.zero true)
  | 6 | 7 => some .cancel
  | n => some (.num (n % 2 == 1) (n / 2 - 4) (-149) false)

/-- One step of FRED `.add` on held partials. -/
def fredAdd (p x : Nat) : Nat :=
  match decX p with
  | none => encX (decode .f32 x)
  | some y => encX (xAdd y (decode .f32 x))

/-- One step of FRED `.min` or `.max`: a partial is the bits plus one. -/
def fredPick (mx : Bool) (p x : Nat) : Nat := if p = 0 then x + 1 else minMax .f32 mx (p - 1) x + 1

/-- Partials per sibling index over some threads. -/
def fredTotals (e : Env) (op : Nat) (a : Opnd) (ts : List Nat) (start : List Nat) : List Nat :=
  (sibIdx e.g).map (fun q =>
    ts.foldl (fun p t =>
      let x := rd e .f32 a (laneOf e.g t q)
      if op = 0 then fredAdd p x else fredPick (op == 2) p x) (start.getD q 0))

/-- A partial's final value (R358). -/
def fredFinal (op : Nat) (dir : RDir) (p : Nat) : Nat :=
  if op = 0 then roundTo (fmtOf .f32) dir ((decX p).getD (.zero false))
  else if isNanBits .f32 (p - 1) then 0x7FC00000
  else p - 1

/-- The result of FRED (R358). -/
def fredRes (e : Env) (w : RWord FltM) (tot : List Nat) : LaneRes :=
  let op := w.m.x.toNat
  match w.d with
  | .v i =>
    ⟨((activeLanes e).map (fun l =>
      wrV i.toNat l 1 (fredFinal op (dirOf e w.m.rnd (threadOf e.g l) (sibOf e.g l) 0) (tot.getD (sibOf e.g l) 0)))).flatten,
      Notes.nil, if op = 0 then drawsOf e w.m.rnd 1 else []⟩
  | .s i =>
    let x := fun q => fredFinal op (dirS w.m.rnd) (tot.getD q 0)
    let y := if e.g.triplex then median .f32 32 (x 0) (x 1) (x 2) else x 0
    let split := e.g.triplex && !(x 0 == x 1 && x 1 == x 2)
    ⟨if e.act = 0 then [] else wrS i.toNat 1 y, Notes.ofSplit (if split then e.act else 0), []⟩
  | _ => ⟨[], Notes.nil, []⟩

/-- FRED (R358): in a paired group the first issue combines the lower half and holds the partials. -/
def execFred (w : RWord FltM) (s : State) : Host.Outcome State Fault Refusal :=
  issue (.fred w) ⟨false, true, false⟩
    (fun s k g e =>
      let op := w.m.x.toNat
      if g.paired && g.px == 0 && e.act != 0 then
        .unit (setGroup s k { g with px := 1, partial_ := fredTotals e op w.a (halfThreads e 0) [] })
      else
        let r := fredRes e w (fredTotals e op w.a (if g.paired then halfThreads e 1 else activeThreads e) g.partial_)
        .ok (prfAdd (sendResult s k (advanceDraws (longDone g) r.draws) .var (hdrSlot w.hdr) r.writes)
          (ctxVf g.ctx) 0 (dieOf k) (coreOf k % 64) 6 (r.draws.foldl (fun n d => n + d.2) 0)) r.notes) s

end Sys2Proof.Machine
end

