-- ==== Sys2Proof/Machine/Engine.lean ====
section
/-! DEFINITION. Engine instructions as they issue their operations (11_queue R253, R254; 19_engines R378 to R402), and
the synchronous work of the siphon: XFM.R and DECODE (R403 to R406). -/

namespace Sys2Proof.Machine

open Sys2Proof

/-- What an engine instruction asks of its issue after steps 1 to 3 of R379: operands for the operation, sectors,
PROG at completion, `.loc` alignments as (address, alignment), whether its `.loc` extent is the team's to use and the
address reported where it is not, split lanes, the SET slot that the operation itself releases, and the threads that
it writes. -/
structure EngPlan where
  vals : List W128
  sectors : Nat
  total : Nat
  aligns : List (Nat × Nat)
  rangeOk : Bool
  addr : Nat
  split : Mask
  slot : Option Nat
  threads : Mask
  /-- Draws reserved of each thread (R402). -/
  draws : List (Nat × Nat)

/-- A plan without alignments, splits, slots or draws. -/
def EngPlan.of (vals : List Nat) (sectors total : Nat) (rangeOk : Bool) (addr : Nat) : EngPlan :=
  ⟨vals.map (BitVec.ofNat 128), sectors, total, [], rangeOk, addr, 0, none, 0, []⟩

/-- Operations that a queue holds (R253): copy, matrix, gather, siphon. -/
def queueRoom : Nat → Nat
  | 0 => 64 | 1 => 8 | 2 => 16 | _ => 16

/-- An offset and length are a `.loc` range of the team (R88, R151, R243). -/
def extOk (s : State) (g : Grp) (off : Int) (n : Nat) : Bool :=
  decide (0 ≤ off) && (teamOf s g).any (fun t => locOk s g.team t off.toNat n)

/-- Sectors of a number of destination bytes (R391). -/
def sectorsOf (n : Nat) : Nat := (n + 31) / 32

/-- The operation enters its queue and the group's open set (R254, R390). -/
def putOp (s : State) (k : Nat) (g : Grp) (i : Instr) (cls : Nat) (p : EngPlan) (bar : Option Nat) : State :=
  let (n, s1) := fresh s
  let o := { markerOp i k g with
    cls := cls, vals := p.vals, snap := gridSnap s g, bar := bar, sectors := p.sectors, total := p.total, slot := p.slot,
    threads := p.threads }
  let b := batchesOf g cls
  let g1 := advanceDraws { g with batches := tabPut g.batches cls { b with openOps := b.openOps ++ [n] } } p.draws
  let s2 := setGroup { s1 with ops := tabPut s1.ops n o } k (slotUp (unmark g1) p.slot)
  prfAdd s2 (ctxVf g.ctx) 0 (dieOf k) (coreOf k % 64) 6 (p.draws.foldl (fun a d => a + d.2) 0)

/-- A `.loc` address in the barrier aperture, which no engine may name whatever the alignment (R90). -/
def inAperture (a : Nat) : Bool := decide (0xFFF800 ≤ a) && decide (a ≤ 0xFFFFFF)

/-- Steps 4 to 6 of R379, and the issue. -/
def planIssue (s : State) (k : Nat) (g : Grp) (i : Instr) (cls : Nat) (bar : Option Nat) (p : EngPlan) : Res :=
  match p.aligns.find? (fun a => a.1 % a.2 != 0 || inAperture a.1) with
  | some a => .fault s (if inAperture a.1 then fcProtection else fcMisalign) a.1
  | none =>
    if !p.rangeOk then .fault s fcProtection p.addr
    else if bar.any (fun b => !(barGet s (coreOf k) b).valid) then .fault s fcBarrierInvalid 0
    else if queueRoom cls ≤ (coreOps s (coreOf k)).countP (fun o => o.2.cls == cls) then .wait s
    else .ok (putOp s k g i cls p bar) (Notes.ofSplit p.split)

/-- The barrier that an engine instruction names: none, or one of the team's (R260). -/
def engBar (s : State) (g : Grp) : Opnd → Option (Option Nat)
  | .bar i => (teamBar s g i.toNat).map some
  | _ => some none

/-- An engine instruction with group effect or, with `plan` empty, one for which no lane is Active. `pre` is what is
checked whatever the guard (R290). -/
def engBody (i : Instr) (cls : Nat) (c : Opnd) (pre : State → Grp → Env → Option Nat)
    (plan : State → Nat → Grp → Env → Except Nat EngPlan) (s : State) (k : Nat) (g : Grp) (e : Env) : Res :=
  match pre s g e with
  | some cause => .fault s cause 0
  | none =>
    if e.act = 0 then .ok s Notes.nil
    else if memoryHeld s g || releaseHeld s k g then .wait s
    else
      match plan s k g e with
      | .error cause => .fault s cause 0
      | .ok p =>
        match engBar s g c with
        | none => .fault s fcIllegalOpnd 0
        | some b => planIssue s k g i cls b p

/-- Nothing is checked before the guard. -/
def preNone (_ : State) (_ : Grp) (_ : Env) : Option Nat := none

/-- A count's range, checked whatever the guard where it is an immediate (R290). -/
def preCnt (o : Opnd) (lo hi : Nat) (_ : State) (_ : Grp) (e : Env) : Option Nat :=
  if (cntOf e o lo hi).isNone then some fcIllegalOpnd else none

/-- The value of a count that passed. -/
def cntVal0 (e : Env) (o : Opnd) (lo hi : Nat) : Nat := (cntOf e o lo hi).getD lo

/-- A `.loc` address, or nothing to check of a `.glb` one. -/
def locAlign (loc : Bool) (a n : Nat) : List (Nat × Nat) := if loc then [(a, n)] else []

/-- The addresses of a CPY operand: `.loc` offsets or `.glb` addresses (R394). -/
def cpyAddrs (e : Env) (loc : Bool) (o : Opnd) : List (Nat × Nat) × Mask :=
  if loc then svAll e .ui32 32 o else svAll e .ui64 64 o

/-- CPY (R379, R394): one copy of W bytes for each Active thread. -/
def cpyPlan (w : RWord (BitVec 12)) (s : State) (_ : Nat) (g : Grp) (e : Env) : Except Nat EngPlan :=
  let m := w.m.toNat
  let n := 4 * 2 ^ (m % 4)
  let dl := m / 4 % 2 == 1
  let sl := m / 8 % 2 == 1
  let (ds, m1) := cpyAddrs e dl w.a
  let (ss, m2) := cpyAddrs e sl w.b
  let al := ((ds.zip ss).map (fun x => locAlign dl x.1.2 n ++ locAlign sl x.2.2 n)).flatten
  let bad := al.find? (fun a => !extOk s g a.1 n)
  .ok { EngPlan.of ((ds.zip ss).map (fun x => x.2.2 + 2 ^ 64 * x.1.2)) (sectorsOf (n * ds.length)) ds.length bad.isNone (bad.elim 0 (·.1)) with
    aligns := al, split := m1 ||| m2 }

def execCpy (w : RWord (BitVec 12)) (s : State) : Host.Outcome State Fault Refusal :=
  issue (.cpy w) howPlain (engBody (.cpy w) 0 w.c preNone (cpyPlan w)) s

/-- Register `j` of a descriptor. -/
def descS (e : Env) (o : Opnd) (j : Nat) : Nat :=
  match o with
  | .s i _ _ => (regS e.g (i.toNat + j)).toNat
  | _ => 0

/-- Rows of a copy descriptor: source, destination, rows, width, strides (R395). -/
def descRows (ds : List Nat) : Nat × Nat × Nat × Nat × Int × Int :=
  let d := fun i => ds.getD i 0
  (d 0, d 1, bits (d 2) 31 16, bits (d 2) 15 0, toInt 32 (bits (d 3) 63 32), toInt 32 (bits (d 3) 31 0))

/-- Every row of a strided `.loc` extent is in range. -/
def rowsOk (s : State) (g : Grp) (base : Nat) (stride : Int) (rows n : Nat) : Bool :=
  (List.range rows).all (fun (i : Nat) => extOk s g (base + i * stride) n)

/-- Plan of CPY.T and CPY.CV: `sb` and `db` are the bytes of a source and a destination row, `al` the alignment. -/
def rowsPlan (e : Env) (w : RWord (BitVec 12)) (dl sl : Bool) (al : Nat) (extra : List Nat)
    (sb db : Nat → Nat) (ok : Nat → Int → Int → Bool) (s : State) (g : Grp) : Except Nat EngPlan :=
  let ds := (List.range 4).map (descS e w.a)
  let (src, dst, rows, width, dst', src') := descRows ds
  if 2 ^ 55 ≤ src ∨ 2 ^ 55 ≤ dst ∨ 2 ^ 32 ≤ ds.getD 2 0 ∨ rows = 0 ∨ !ok width dst' src' then .error fcIllegalOpnd
  else
    let okD := !dl || rowsOk s g dst dst' rows (db width)
    let okS := !sl || rowsOk s g src src' rows (sb width)
    .ok { EngPlan.of (ds ++ extra) (sectorsOf (rows * db width)) rows (okD && okS) (if okD then src else dst) with
      aligns := locAlign sl src al ++ locAlign dl dst al }

/-- CPY.T (R395). -/
def execCpyT (w : RWord (BitVec 12)) (s : State) : Host.Outcome State Fault Refusal :=
  issue (.cpyT w) howPlain
    (engBody (.cpyT w) 0 w.c preNone (fun s _ g e =>
      rowsPlan e w (w.m.getLsbD 0) (w.m.getLsbD 1) 4 [] id id
        (fun n d x => decide (4 ≤ n) && n % 4 == 0 && d % 4 == 0 && x % 4 == 0) s g)) s

/-- Types of a CPY.CV: destination and source. -/
def cvTypes (m : BitVec 12) : Ty × Ty := ((tyOfCode (m.toNat % 32)).getD .f32, (tyOfCode (m.toNat / 32 % 32)).getD .f32)

/-- Bytes of `n` elements of a type packed by R32. -/
def packBytes (ty : Ty) (n : Nat) : Nat := (n * ty.bits + 7) / 8

/-- CPY.CV (R395). -/
def execCpyCv (w : RWord (BitVec 12)) (s : State) : Host.Outcome State Fault Refusal :=
  issue (.cpyCv w) howPlain
    (engBody (.cpyCv w) 0 w.c (preCnt w.b 0 255) (fun s _ g e =>
      let (dt, st) := cvTypes w.m
      rowsPlan e w (w.m.getLsbD 10) (w.m.getLsbD 11) 1 [cntVal0 e w.b 0 255] (packBytes st) (packBytes dt)
        (fun n _ _ => decide (1 ≤ n)) s g)) s

/-- CPY.META's count where no lane is Active: an immediate is checked whatever the guard (R290). -/
def metaPre (w : RWord (BitVec 12)) (s : State) (g : Grp) (e : Env) : Option Nat := if e.act = 0 then preCnt w.c 1 64 s g e else none

/-- CPY.META (R255, R379, R396): the channel is checked before the count. -/
def execCpyMeta (w : RWord (BitVec 12)) (s : State) : Host.Outcome State Fault Refusal :=
  issue (.cpyMeta w) howPlain
    (engBody (.cpyMeta w) 0 .none (metaPre w) (fun s k g e =>
      let (_, c) := capOf s k g (chanOf w.a)
      let n := cntVal0 e w.c 1 64
      let a := descS e w.b 0
      let loc := w.m.getLsbD 0
      if !c.entry.getLsbD 63 || capKind c != 3 then .error fcCap
      else if !c.entry.getLsbD 59 then .error fcCapPerm
      else if (cntOf e w.c 1 64).isNone then .error fcIllegalOpnd
      else .ok { EngPlan.of [a, n] 0 n (!loc || extOk s g a (128 * n)) a with aligns := locAlign loc a 128 })) s

/-- The group's role has a matrix role's flag (R201, R393). -/
def matrixRole (s : State) (g : Grp) : Bool :=
  (tabGet s.grids g.grid).any (fun x => (x.roles[g.role]?).any (·.matrix))

/-- The partition that holds a core's matrix engine: that of the first of the matrix teams there (R393). -/
def matrixHolder (s : State) (core : Nat) : Option Nat :=
  (s.teams.find? (fun t => t.2.core == core &&
    (tabGet s.grids t.2.grid).any (fun x => (x.roles.zipIdx).any (fun r => r.1.matrix && decide (r.2 < x.kern.nrole))))).bind
    (fun t => (tabGet s.ctxs t.2.ctx).map ctxPart)

/-- The engine is held by another partition (R393). -/
def matrixTaken (s : State) (k : Nat) (g : Grp) : Bool :=
  match matrixHolder s (coreOf k), tabGet s.ctxs g.ctx with
  | some p, some c => p != ctxPart c
  | _, _ => false

/-- The check of R393 on the role, made whatever the guard, after another one. -/
def preMat (pre : State → Grp → Env → Option Nat) (s : State) (g : Grp) (e : Env) : Option Nat :=
  match pre s g e with
  | some c => some c
  | none => if matrixRole s g then none else some fcIllegalOpnd

/-- A plan made where the core's matrix engine is the partition's (R393). -/
def matPlan (s : State) (k : Nat) (g : Grp) (p : Unit → Except Nat EngPlan) : Except Nat EngPlan :=
  if matrixTaken s k g then .error fcIllegalOpnd else p ()

/-- GATHER (R397). -/
def execGather (w : RWord (BitVec 12)) (s : State) : Host.Outcome State Fault Refusal :=
  issue (.gather w) howPlain
    (engBody (.gather w) 2 w.c (preMat (preCnt w.b 1 64)) (fun s k g e => matPlan s k g (fun _ =>
      let n := cntVal0 e w.b 1 64
      let a := descS e w.a 0
      .ok { EngPlan.of [a, n] (4 * n) n (extOk s g a (2 * n)) a with aligns := [(a, 2)] }))) s

/-- Number of a tile. -/
def dstAcc : Dst → Nat
  | .acc a => a.toNat
  | _ => 0
def opAcc : Opnd → Nat
  | .acc a => a.toNat
  | _ => 0

/-- MZERO (R401). -/
def execMzero (w : RWord (BitVec 12)) (s : State) : Host.Outcome State Fault Refusal :=
  issue (.mzero w) howPlain
    (engBody (.mzero w) 1 .none (preMat preNone) (fun s k g _ => matPlan s k g (fun _ =>
      .ok (EngPlan.of [dstAcc w.d, if g.triplex then 1 else 0] 0 1 true 0)))) s

/-- Formats of FMT (R398): A, B, and stored k. -/
def fmtMat : Nat → Ty × Ty × Nat
  | 0 => (.bf16, .bf16, 2)
  | 1 => (.f16, .f16, 2)
  | 2 => (.e4m3, .e4m3, 4)
  | 3 => (.e5m2, .e5m2, 4)
  | 4 => (.e4m3, .e5m2, 4)
  | 5 => (.e5m2, .e4m3, 4)
  | 6 => (.sm8, .sm8, 4)
  | 7 => (.e2m1, .e2m1, 8)
  | 8 => (.sm4, .sm4, 8)
  | 9 => (.e4m3, .cb2, 8)
  | _ => (.e5m2, .cb2, 8)

/-- Bytes of an A block and of a B block (R398). -/
def aBytes (fmt : Nat) : Nat := if 9 ≤ fmt then 512 else 256
def bBytes (fmt : Nat) (sp : Bool) : Nat := if 9 ≤ fmt then (if sp then 320 else 192) else if sp then 512 else 256

/-- Bytes of A that a step takes of each latch row (R399). -/
def latchBytes (fmt : Nat) : Nat := if 9 ≤ fmt then 8 else 4

/-- The block of step `i` of a descriptor: its row (R399). -/
def blockRow (d i : Nat) : Int := (bits d 31 0 : Int) + i * toInt 32 (bits d 63 32)

/-- Rows of the team's allocation that an operand names by row (R93, R243). -/
def allocRows (s : State) (g : Grp) (row : Int) (n : Nat) : Bool :=
  decide (0 ≤ row) && (teamOf s g).any (fun t => (List.range n).all (fun i => teamRowOk s g.team t (row.toNat + i)))

/-- The blocks of a descriptor are the team's: the first and last, and with them every one between (R399, R243). -/
def blocksOk (s : State) (g : Grp) (d steps n : Nat) : Bool :=
  let ok := fun (i : Nat) => allocRows s g (blockRow d i) ((n + 127) / 128)
  ok 0 && ok (steps - 1) && (toInt 32 (bits d 63 32) == 0 || (List.range steps).all ok)

/-- Plan of MLOOP and MLOOP.SP (R399, R400). -/
def mloopPlan (w : RWord (BitVec 12)) (sp : Bool) (s : State) (k : Nat) (g : Grp) (e : Env) : Except Nat EngPlan :=
  matPlan s k g (fun _ =>
    let fmt := w.m.toNat % 16
    let latch := w.m.getLsbD 4
    let n := cntVal0 e w.c 1 (2 ^ 24 - 1)
    let a := descS e w.a 0
    let b := descS e w.b 0
    if latch && decide (128 < n * latchBytes fmt) then .error fcIllegalOpnd
    else
      let okA := latch || blocksOk s g a n (aBytes fmt)
      let okB := blocksOk s g b n (bBytes fmt sp)
      .ok (EngPlan.of [dstAcc w.d, a, b, n, if g.triplex then 1 else 0, g.seed.toNat, g.lin] 0 n (okA && okB)
        (wrapInt 64 (128 * blockRow (if okA then b else a) 0))))

/-- An immediate A with too many steps for the latch is refused whatever the guard (R290, R399). -/
def mloopPre (w : RWord (BitVec 12)) (s : State) (g : Grp) (e : Env) : Option Nat :=
  match preCnt w.c 1 (2 ^ 24 - 1) s g e with
  | some c => some c
  | none =>
    match w.c with
    | .imm x => if w.m.getLsbD 4 && decide (128 < x.toNat * latchBytes (w.m.toNat % 16)) then some fcIllegalOpnd else none
    | _ => none

def execMloop (w : RWord (BitVec 12)) (s : State) : Host.Outcome State Fault Refusal :=
  issue (.mloop w) howPlain (engBody (.mloop w) 1 .none (preMat (mloopPre w)) (mloopPlan w false)) s

def execMloopSp (w : RWord (BitVec 12)) (s : State) : Host.Outcome State Fault Refusal :=
  issue (.mloopSp w) howPlain (engBody (.mloopSp w) 1 .none (preMat (mloopPre w)) (mloopPlan w true)) s

/-- TYPE of a MACC. -/
def maccTy (m : BitVec 12) : Ty := (tyOfCode (m.toNat % 32)).getD .f32

/-- Columns that the register form gives a lane (R402). -/
def maccCols (m : BitVec 12) : Nat := 2 ^ (m.toNat / 128 % 4) * (32 / (maccTy m).bits)

/-- Bytes of a row of the memory form (R402). -/
def maccRowBytes (m : BitVec 12) : Nat := (64 * (maccTy m).bits / 8) * (if m.getLsbD 6 then 3 else 1)

/-- The selector, the policy and the columns are in range (R290, R402). -/
def maccPre (w : RWord (BitVec 12)) (_ : State) (_ : Grp) (e : Env) : Option Nat :=
  let sel := if w.m.getLsbD 5 then some 0 else cntOf e w.b 0 0xFFF
  match sel, cntOf e w.c 0 255 with
  | some x, some _ => if !w.m.getLsbD 5 && decide (64 < bits x 11 6 + maccCols w.m) then some fcIllegalOpnd else none
  | _, _ => some fcIllegalOpnd

/-- Plan of MACC (R402): the draws of the register form are reserved at issue. -/
def maccPlan (w : RWord (BitVec 12)) (s : State) (k : Nat) (g : Grp) (e : Env) : Except Nat EngPlan :=
  matPlan s k g (fun _ =>
    let pol := cntVal0 e w.c 0 255
    let tr := if g.triplex then 1 else 0
    if w.m.getLsbD 5 then
      let x := descS e w.b 0
      let stride := bits x 47 32
      if x ≠ bits x 23 0 + stride * 2 ^ 32 ∨ stride < maccRowBytes w.m ∨ stride % 4 ≠ 0 then .error fcIllegalOpnd
      else
        .ok { EngPlan.of [opAcc w.a, x, pol, tr] 0 64 (rowsOk s g (bits x 23 0) stride 64 (maccRowBytes w.m)) (bits x 23 0) with
          aligns := [(bits x 23 0, 4)] }
    else
      let ts := activeThreads e
      let base := fun t => if ts.contains t then tabGetD g.draws t 0 + tabGetD g.tids t 0 * 2 ^ 32 else 0
      .ok { EngPlan.of ([opAcc w.a, cntVal0 e w.b 0 0xFFF, pol, tr, g.seed.toNat] ++ (List.range (nThreads g)).map base) 0 1 true 0 with
        slot := hdrSlot w.hdr, threads := ts.foldl (fun m t => m ||| BitVec.ofNat 96 (2 ^ t)) 0,
        draws := if g.triplex && maccTy w.m != .f32 then ts.map (fun t => (t, maccCols w.m)) else [] })

/-- MACC (R402): the register form's SET slot is released when D is written, the memory form's after a cycle. -/
def execMacc (w : RWord (BitVec 12)) (s : State) : Host.Outcome State Fault Refusal :=
  issue (.macc w) ⟨false, true, false⟩
    (fun s k g e =>
      match engBody (.macc w) 1 .none (preMat (maccPre w)) (maccPlan w) s k g e with
      | .ok s1 n => if w.m.getLsbD 5 || e.act = 0 then .ok (noAccess s1 k (hdrSlot w.hdr)) n else .ok s1 n
      | r => r) s

/-- CBLOAD (R43, R401). -/
def execCbload (w : RWord (BitVec 12)) (s : State) : Host.Outcome State Fault Refusal :=
  issue (.cbload w) howPlain
    (engBody (.cbload w) 1 .none (preMat preNone) (fun s k g e => matPlan s k g (fun _ =>
      let a := descS e w.a 0
      .ok { EngPlan.of [a] 0 1 (extOk s g a 1024) a with aligns := [(a, 128)] }))) s

/-- PROG at completion of a job that is not done: its number of blocks is known at the last one. -/
abbrev jobOpen : Nat := 2 ^ 62

/-- Words of a job card read at issue (R404). -/
def cardWords (s : State) (g : Grp) (a : Nat) : List Nat :=
  match teamOf s g with
  | some t => (List.range 4).map (fun i => memNat s.mem (locAddr s t (a + 8 * i)) 8)
  | none => []

/-- XFM.J (R390, R391, R404). -/
def execXfmJ (w : RWord (BitVec 12)) (s : State) : Host.Outcome State Fault Refusal :=
  issue (.xfmJ w) howPlain
    (engBody (.xfmJ w) 3 w.c preNone (fun s k g e =>
      let a := descS e w.a 0
      let good := a % 32 == 0 && extOk s g a 32
      let ws := if good then cardWords s g a else []
      if bits (ws.getD 0 0) 63 60 == 3 && (!matrixRole s g || matrixTaken s k g) then .error fcIllegalOpnd
      else .ok { EngPlan.of (ws ++ [a]) (sectorsOf (bits (ws.getD 3 0) 63 32)) jobOpen (extOk s g a 32) a with aligns := [(a, 32)] })) s

/-- An element of the codebook table (R43). -/
def codeEntry (tab : Tab W128) (i : Nat) : Nat := (tabGetD tab (i / 4) 0).toNat / 2 ^ (32 * (i % 4)) % 2 ^ 32

/-- The eight weights of a CB2 index under a scale (R44, R45). -/
def cb2Weights (tab : Tab W128) (x scale : Nat) : List XV :=
  if scale % 256 = 255 then List.replicate 8 .nan
  else
    let ent := codeEntry tab (bits x 15 8)
    let sgn := fun j => if j < 7 then x / 2 ^ (j + 1) % 2 == 1 else (List.range 7).foldl (fun b i => b != (x / 2 ^ (i + 1) % 2 == 1)) false
    (List.range 8).map (fun j =>
      let m := 2 * bits ent (4 * j + 3) (4 * j) + x % 2
      if m = 0 then .zero (sgn j) else .num (sgn j) m ((scale % 256 : Nat) - 129) false)

/-- XFM.R's parameter, which no lane reads where none is Active (R403). -/
def xfmParam (e : Env) (o : Opnd) : Nat :=
  match o with
  | .s .. => if e.act = 0 then 0 else paramOf e.g o
  | o => paramOf e.g o

/-- The parameter's field values are those of its function (R403). -/
def xfmParamOk (fn : Nat) (ty : Ty) (x : Nat) : Bool :=
  match fn with
  | 0 =>
    decide (x < 2 ^ 13) && (tyOfCode (bits x 12 8)).any (fun st => tyCvt st &&
      !((ty.bits == 4 && st.bits == 64) || (ty.bits == 64 && st.bits == 4)))
  | 1 => x < 256
  | 2 => decide (x < 128) && decide (1 ≤ bits x 5 0) && decide (bits x 5 0 ≤ 32)
  | _ => x == 0

/-- The first v register of an operand or destination. -/
def vIdx : Opnd → Nat
  | .v i _ _ => i.toNat
  | _ => 0
def vDst : Dst → Nat
  | .v i => i.toNat
  | _ => 0

/-- Spans that depend on the parameter lie in the budget (R296 order 6). -/
def xfmRange (g : Grp) (w : RWord (BitVec 12)) (x : Nat) : Bool :=
  let n := xfmBlks w.m
  match xfmFn w.m with
  | 0 =>
    let (_, a, d) := cvtSpans ((tyOfCode (bits x 12 8)).getD .f32) (xfmTy w.m)
    decide (vIdx w.a + n * a ≤ g.budget) && decide (vDst w.d + n * d ≤ g.budget)
  | 2 => decide (vIdx w.a + (n * bits x 5 0 + 31) / 32 ≤ g.budget)
  | _ => true

/-- `n` registers of a lane from `r` up, as one value. -/
def regsV (g : Grp) (r n lane : Nat) : Nat := (List.range n).foldl (fun acc q => acc + (regV g (r + q) lane).toNat * 2 ^ (32 * q)) 0

/-- Draws that one block of an XFM.R makes of a thread (R61, R403). -/
def xfmPer (w : RWord (BitVec 12)) (x : Nat) : Nat :=
  match xfmFn w.m with
  | 0 =>
    let st := (tyOfCode (bits x 12 8)).getD .f32
    if exactClass st (xfmTy w.m) then 0 else (cvtSpans st (xfmTy w.m)).1
  | 1 => 16
  | _ => 0

/-- The scale of a `.cb2x`, a uniform operand (R238, R378): `none` where the Active threads differ; and the lanes that split. -/
def xfmScale (e : Env) (w : RWord (BitVec 12)) : Option Nat × Mask :=
  if xfmFn w.m = 1 then unW e .ui32 32 w.c else (some 0, 0)

/-- Block `i` of an XFM.R in a lane: the registers it writes, or CONV (R403). Its draws follow those of the blocks from PX
on, which the thread's index has not yet passed (R61, R65). -/
def xfmBlock (e : Env) (tab : Tab W128) (w : RWord (BitVec 12)) (x i lane : Nat) : Option (List RegW) :=
  let g := e.g
  let ty := xfmTy w.m
  let dir := fun n => dirOf e .none (threadOf g lane) (sibOf g lane) ((i - g.px) * xfmPer w x + n)
  match xfmFn w.m with
  | 0 =>
    let st := (tyOfCode (bits x 12 8)).getD .f32
    let (n, a, d) := cvtSpans st ty
    let v := regsV g (vIdx w.a + i * a) a lane
    (allCvt ((List.range n).map (fun j => convert st ty (bits x 7 0) (dir j) (elem st.bits j v)))).map
      (fun ys => wrV (vDst w.d + i * d) lane d (pack ty.bits ys))
  | 1 =>
    let v := (regV g (vIdx w.a + i) lane).toNat
    let sc := (xfmScale e w).1.getD 0 % 256
    let ws := cb2Weights tab (v % 2 ^ 16) sc ++ cb2Weights tab (v / 2 ^ 16) sc
    let d := ty.bits / 2
    (allCvt ((ws.zipIdx).map (fun y => cvtTo ty x (dir y.2) false y.1))).map (fun ys => wrV (vDst w.d + i * d) lane d (pack ty.bits ys))
  | 2 =>
    let n := bits x 5 0
    let v := regsV g (vIdx w.a) ((xfmBlks w.m * n + 31) / 32) lane / 2 ^ (i * n) % 2 ^ n
    some (wrV (vDst w.d + i) lane 1 (if x / 64 % 2 = 1 then sext n 32 v else v))
  | _ =>
    let t := threadOf g lane
    let base := t / 8 * 8
    some (((List.range 8).map (fun j =>
      let src := base + j
      let v := if absentThread g src || decide (nThreads g ≤ src) then 0 else (regV g (vIdx w.a + t % 8) (laneOf g src (sibOf g lane))).toNat
      wrV (vDst w.d + j) lane 1 v)).flatten)

/-- Draws of a block in each Active thread (R403). -/
def xfmDraws (e : Env) (w : RWord (BitVec 12)) (x : Nat) : List (Nat × Nat) :=
  if xfmPer w x = 0 then [] else drawsOf e .none (xfmPer w x)

/-- A block's writes over the Active lanes. -/
def xfmLanes (e : Env) (tab : Tab W128) (w : RWord (BitVec 12)) (x i : Nat) : Option (List RegW) :=
  (activeLanes e).foldl (fun o l =>
    match o, xfmBlock e tab w x i l with
    | some ws, some v => some (ws ++ v)
    | _, _ => none) (some [])

/-- What fails in the blocks from `i` on, each reading what those before it wrote (R10, R403): NONUNIFORM of the scale, CONV. -/
def xfmFails (e : Env) (tab : Tab W128) (w : RWord (BitVec 12)) (x : Nat) : Nat → Nat → Grp → Option Nat
  | 0, _, _ => none
  | n + 1, i, g =>
    let e' := { e with g := g }
    if (xfmScale e' w).1.isNone then some fcNonuniform
    else
      match xfmLanes e' tab w x i with
      | none => some fcConv
      | some ws => xfmFails e tab w x n (i + 1) (landCells g ws)

/-- XFM.R (R235, R403): one block an issue; every block is checked before the first is written. -/
def execXfmR (w : RWord (BitVec 12)) (s : State) : Host.Outcome State Fault Refusal :=
  issue (.xfmR w) ⟨false, true, false⟩
    (fun s k g e =>
      let x := xfmParam e w.b
      let fn := xfmFn w.m
      let n := xfmBlks w.m
      let slot := hdrSlot w.hdr
      let wordOnly := match w.b with | .imm _ => true | _ => false
      let checked := wordOnly || e.act != 0
      if (xfmScale e w).1.isNone then .fault s fcNonuniform 0
      else if checked && !xfmParamOk fn (xfmTy w.m) x then .fault s fcIllegalOpnd 0
      else if checked && !xfmRange g w x then .fault s fcRegRange 0
      else if fn == 1 && !matrixRole s g then .fault s fcIllegalOpnd 0
      else if e.act = 0 then .ok (sendResult s k (longDone g) .var slot []) Notes.nil
      else if memoryHeld s g then .wait s
      else if fn == 1 && matrixTaken s k g then .fault s fcIllegalOpnd 0
      else
        let tab := (tabGet s.ctxs g.ctx).elim [] (fun c => (getCoreCtx c (coreOf k)).codebook)
        match (if g.px = 0 then xfmFails e tab w x n 0 g else none), xfmLanes e tab w x g.px with
        | some c, _ => .fault s c 0
        | none, none => .fault s fcConv 0
        | none, some ws =>
          let ds := xfmDraws e w x
          let nd := ds.foldl (fun a d => a + d.2) 0
          let g1 := advanceDraws g ds
          let s1 := prfAdd s (ctxVf g.ctx) 0 (dieOf k) (coreOf k % 64) 6 nd
          if g.px + 1 < n then .unit (setGroup s1 k { landCells g1 ws with px := g.px + 1 })
          else .ok (sendResult s1 k (longDone g1) .var slot ws) (Notes.ofSplit (xfmScale e w).2)) s

/-- A symbol that DECODE finds (R406). -/
inductive Sym where
  | sym (vals : List Nat) (cur : Nat) (last : Bool)
  | malformed
  | short
  deriving DecidableEq, Repr

/-- A stream: its bytes, its bits, and the order of bits in a byte. -/
structure Strm where
  bytes : Nat → Nat
  len : Nat
  msb : Bool

/-- Stream bit `b` (R406). -/
def Strm.bit (t : Strm) (b : Nat) : Nat := t.bytes (b / 8) / 2 ^ (if t.msb then 7 - b % 8 else b % 8) % 2

/-- A field of `n` bits (R406). -/
def Strm.field (t : Strm) (cur n : Nat) : Nat :=
  (List.range n).foldl (fun a i => a + t.bit (cur + i) * 2 ^ (if t.msb then n - 1 - i else i)) 0

/-- Zero bits before the first one bit, up to the end. -/
def Strm.zeros (t : Strm) (cur : Nat) : Nat → Nat → Option Nat
  | 0, _ => none
  | n + 1, z => if t.bit (cur + z) = 1 then some z else t.zeros cur n (z + 1)

/-- An exp-Golomb code (R406): `conv` gives the symbol. -/
def symExpg (t : Strm) (k cur : Nat) (conv : Nat → Nat) : Sym :=
  match t.zeros cur (8 * t.len - cur) 0 with
  | none => .short
  | some z =>
    let stop := cur + 2 * z + 1 + k
    if 8 * t.len < stop then .short
    else
      let c := 2 ^ (z + k) - 2 ^ k + t.field (cur + z + 1) (z + k)
      if 2 ^ 32 ≤ c then .malformed else .sym [conv c] stop false

/-- An unsigned LEB128 value at a byte (R405): value and next byte, or what is wrong. -/
def leb (t : Strm) : Nat → Nat → Nat → Nat → Option (Option (Nat × Nat))
  | 0, _, _, _ => some none
  | n + 1, p, sh, acc =>
    if t.len ≤ p then none
    else
      let b := t.bytes p
      let v := acc + b % 128 * 2 ^ sh
      if b < 128 then (if 2 ^ 32 ≤ v then some none else some (some (v, p + 1))) else leb t n (p + 1) (sh + 7) v

/-- A token of the LZ format (R405): literals, their place, match length (0 for the end token), offset, next byte. -/
structure Tok where
  lits : Nat
  at_ : Nat
  match_ : Nat
  off : Nat
  next : Nat
  deriving DecidableEq, Repr

/-- A token at a byte (R405): `none` where it would read past the end, `some none` where it is malformed. -/
def lzToken (t : Strm) (p : Nat) : Option (Option Tok) :=
  if t.len ≤ p then none
  else
    let b := t.bytes p
    let ext := fun (n q : Nat) => if n = 15 then leb t 5 q 0 0 else some (some (0, q))
    match ext (b / 16) (p + 1) with
    | none => none
    | some none => some none
    | some (some (eL, q)) =>
      let l := b / 16 + eL
      if t.len < q + l then none
      else
        match leb t 5 (q + l) 0 0 with
        | none => none
        | some none => some none
        | some (some (o, r)) =>
          if o = 0 then (if b % 16 = 0 then some (some ⟨l, q, 0, 0, r⟩) else some none)
          else
            match ext (b % 16) r with
            | none => none
            | some none => some none
            | some (some (eM, u)) => some (some ⟨l, q, b % 16 + 3 + eM, o, u⟩)

/-- Bytes that the tokens of a stream put out before a byte of it, which starts a token (R405); `none` where none of its tokens
starts there. -/
def lzOut (t : Strm) (stop : Nat) : Nat → Nat → Nat → Option Nat
  | 0, p, out => if p = stop then some out else none
  | n + 1, p, out =>
    if p = stop then some out
    else
      match lzToken t p with
      | some (some x) => if x.off = 0 ∨ stop < x.next then none else lzOut t stop n x.next (out + x.lits + x.match_)
      | _ => none

/-- A token copies from further back than the bytes put out before its match (R405). Bytes that no token of the stream put out are
counted by no one: where no token of the stream starts at CUR, the offset is not checked (assumption log, row 41, DEDUCED). -/
def lzFarBack (t : Strm) (p : Nat) (x : Tok) : Bool := (lzOut t p p 0 0).any (fun n => decide (n + x.lits < x.off))

/-- The next symbol of a stream (R406). -/
def symbol (t : Strm) (mode k base cur : Nat) : Sym :=
  match mode with
  | 0 => if 8 * t.len < cur + k then .short else .sym [t.field cur k] (cur + k) false
  | 1 => symExpg t k cur id
  | 2 => symExpg t k cur (fun c => if c % 2 = 1 then (c + 1) / 2 else wrapInt 32 (-((c / 2 : Nat) : Int)))
  | 3 =>
    match leb t 5 (cur / 8) 0 0 with
    | none => .short
    | some none => .malformed
    | some (some (v, q)) => .sym [v] (8 * q) false
  | _ =>
    match lzToken t (cur / 8) with
    | none => .short
    | some none => .malformed
    | some (some x) =>
      if lzFarBack t (cur / 8) x then .malformed
      else .sym [x.lits % 2 ^ 32, base + x.at_, x.match_ % 2 ^ 32, x.off] (8 * x.next) (x.match_ == 0)

/-- The bytes of a stream that a symbol was read from, as places and lengths: all that is left where it ends or is malformed; the
literals of a token are not read. -/
def symReads (len base mode cur : Nat) : Sym → List (Nat × Nat)
  | .sym vs c _ =>
    if mode = 4 then
      let at_ := vs.getD 1 0 - base
      [(cur / 8, at_ - cur / 8), (at_ + vs.getD 0 0, c / 8 - (at_ + vs.getD 0 0))]
    else [(cur / 8, (c + 7) / 8 - cur / 8)]
  | _ => [(cur / 8, len - cur / 8)]

/-- Range of DECODE's parameter (R406). -/
def decodeRange : Nat → Nat × Nat
  | 0 => (1, 32)
  | 1 | 2 => (0, 15)
  | _ => (0, 0)

/-- s(n+1) as DECODE leaves it (R406). -/
def decodeWord (cur count : Nat) (end_ err : Bool) : Nat :=
  cur % 2 ^ 32 + count % 2 ^ 16 * 2 ^ 32 + (if end_ then 2 ^ 48 else 0) + if err then 2 ^ 49 else 0

/-- Writes of one thread's symbol, to all its siblings. -/
def symWrites (g : Grp) (r t : Nat) (vs : List Nat) : List RegW :=
  ((vs.zipIdx).map (fun v => ((lanesOf g t).map (fun l => wrV (r + v.2) l 1 v.1)).flatten)).flatten

/-- Accesses of DECODE's own group to its stream are still to be performed (R118). -/
def streamPending (s : State) (g : Grp) (base len : Nat) : Bool :=
  (teamOf s g).any (fun t => ownPending s g base (locAddr s t base) len)

/-- The scratchpad bytes of a symbol hold an uncorrectable error (R30). -/
def symPoisoned (s : State) (at_ : Nat) (rs : List (Nat × Nat)) : Bool := rs.any (fun r => decide (0 < r.2) && poisoned s (at_ + r.1) r.2)

/-- DECODE's end: zeros for the threads without a symbol, and s(n+1) (R406). -/
def decodeEnd (s : State) (k : Nat) (g : Grp) (w : RWord (BitVec 12)) (span len cur count : Nat) (last err : Bool)
    (ws : List RegW) (rest : List Nat) : Res :=
  let z := (rest.map (fun t => symWrites g (vDst w.d) t (List.replicate span 0))).flatten
  let x := decodeWord cur count (last || (!err && cur == 8 * len)) err
  let sw := match w.a with | .s i _ _ => wrS (i.toNat + 1) 1 x | _ => []
  .ok (sendResult s k (longDone g) .var (hdrSlot w.hdr) (ws ++ z ++ sw)) Notes.nil

/-- DECODE (R235, R406): one symbol an issue; CUR and COUNT stand with PX. -/
def execDecode (w : RWord (BitVec 12)) (s : State) : Host.Outcome State Fault Refusal :=
  issue (.decode w) ⟨false, true, false⟩
    (fun s k g e =>
      let mode := w.m.toNat % 8
      let (lo, hi) := decodeRange mode
      let span := if mode = 4 then 4 else 1
      let d0 := descS e w.a 0
      let len := bits d0 55 32
      let base := bits d0 23 0
      let cur := if g.px = 0 then descS e w.a 1 % 2 ^ 32 else g.partial_.getD 0 0
      let ts := activeThreads e
      match cntOf e w.b lo hi with
      | none => .fault s fcIllegalOpnd 0
      | some p =>
        if e.act = 0 then .ok (sendResult s k (longDone g) .var (hdrSlot w.hdr) []) Notes.nil
        else if memoryHeld s g || streamPending s g base len then .wait s
        else if d0 ≠ base + len * 2 ^ 32 ∨ 8 * len < cur ∨ (3 ≤ mode ∧ cur % 8 ≠ 0) then .fault s fcIllegalOpnd 0
        else
          match teamOf s g with
          | none => .fault s fcProtection base
          | some tm =>
            if !extOk s g base len then .fault s fcProtection base
            else
              let t : Strm := ⟨fun i => (memByte s.mem (locAddr s tm base + i)).toNat, len, w.m.getLsbD 3⟩
              let rest := ts.drop g.px
              match rest with
              | [] => decodeEnd s k g w span len cur g.px false false [] []
              | th :: more =>
                let y := symbol t mode p base cur
                if symPoisoned s (locAddr s tm base) (symReads len base mode cur y) then .fault s fcUncorrectable (base + cur / 8)
                else
                match y with
                | .malformed => decodeEnd s k g w span len cur g.px false true [] rest
                | .short => decodeEnd s k g w span len cur g.px false false [] rest
                | .sym vs c last =>
                  let ws := symWrites g (vDst w.d) th vs
                  if last || more.isEmpty then decodeEnd s k g w span len c (g.px + 1) last false ws more
                  else .unit (setGroup s k { landCells g ws with px := g.px + 1, partial_ := [c, g.px + 1] })) s

end Sys2Proof.Machine
end

