-- ==== Sys2Proof/Decode.lean ====
section
/-! DEFINITION. From a 96-bit word to an instruction or a named rejection (14_formats R284 to R297), and
back. Checks are made in the order of R296; a word whose opcode is ZTRAP, FALLOFF or unassigned decodes to
the row of that name. -/

namespace Sys2Proof

/-- Why a word is no instruction (R296 orders 4 to 6, as far as the word alone decides). -/
inductive Reject where
  | illegalMod | illegalOpnd | regRange
  deriving DecidableEq, Repr

/-- The fields of a word (R284). -/
structure Raw where
  opc : BitVec 10
  d : BitVec 10
  a : BitVec 16
  b : BitVec 16
  c : BitVec 16
  g : BitVec 4
  mod : BitVec 12
  stall : BitVec 4
  yld : BitVec 1
  set : BitVec 3
  wait : BitVec 4
  deriving DecidableEq, Repr

/-- Splits a word into its fields (R284). -/
def unpack (w : BitVec 96) : Raw where
  opc := w.extractLsb' 0 10
  d := w.extractLsb' 10 10
  a := w.extractLsb' 20 16
  b := w.extractLsb' 36 16
  c := w.extractLsb' 52 16
  g := w.extractLsb' 68 4
  mod := w.extractLsb' 72 12
  stall := w.extractLsb' 84 4
  yld := w.extractLsb' 88 1
  set := w.extractLsb' 89 3
  wait := w.extractLsb' 92 4

/-- Joins the fields into a word (R284). -/
def pack (r : Raw) : BitVec 96 :=
  (r.wait ++ r.set ++ r.yld ++ r.stall ++ r.mod ++ r.g ++ r.c ++ r.b ++ r.a ++ r.d ++ r.opc : BitVec 96)

/-- Special registers in number order (R289). -/
def sregs : List SReg :=
  [.laneid, .tid, .gid, .team, .role, .draw, .seed, .numctl, .numflag, .px, .txcause, .rasbase, .schk]

/-- The number of a special register (R289). -/
def SReg.num : SReg → Nat
  | .laneid => 0 | .tid => 1 | .gid => 2 | .team => 3 | .role => 4 | .draw => 5 | .seed => 6
  | .numctl => 7 | .numflag => 8 | .px => 9 | .txcause => 10 | .rasbase => 11 | .schk => 12

/-- The code of a TYPE (R291). -/
def Ty.code : Ty → Nat
  | .b8 => 0 | .b16 => 1 | .b32 => 2 | .b64 => 3 | .b128 => 4 | .si8 => 5 | .si16 => 6 | .si32 => 7
  | .si64 => 8 | .ui8 => 9 | .ui16 => 10 | .ui32 => 11 | .ui64 => 12 | .f16 => 13 | .bf16 => 14
  | .f32 => 15 | .e4m3 => 16 | .e5m2 => 17 | .e2m1 => 18 | .e8m0 => 19 | .sm8 => 20 | .sm4 => 21 | .cb2 => 22

/-- The code of a RND modifier (R292). -/
def Rnd.code : Rnd → Nat
  | .none => 0 | .rn => 1 | .ru => 2 | .rd => 3 | .rz => 4

/-- The RND modifier of a code below 5. -/
def rndOfCode : Nat → Rnd
  | 1 => .rn | 2 => .ru | 3 => .rd | 4 => .rz | _ => .none

/-- The code of a SCOPE (R292). -/
def Scope.code : Scope → Nat
  | .grp => 0 | .team => 1 | .core => 2 | .clu => 3 | .die => 4 | .pkg => 5 | .pod => 6 | .sys => 7

/-- The SCOPE of a code. -/
def scopeOfCode : Nat → Scope
  | 0 => .grp | 1 => .team | 2 => .core | 3 => .clu | 4 => .die | 5 => .pkg | 6 => .pod | _ => .sys

/-- The code of an ORD (R292). -/
def Ord4.code : Ord4 → Nat
  | .none => 0 | .acq => 1 | .rel => 2 | .ar => 3

/-- The ORD of a code. -/
def ordOfCode : Nat → Ord4
  | 0 => .none | 1 => .acq | 2 => .rel | _ => .ar

/-- The operand a field names (R287); a field that `opndOk` refuses reads as an operand of its kind, one of kind 6 or of an
unassigned subkind as one that is not NONE. -/
def opndOf (x : BitVec 16) : Opnd :=
  let k := (x.extractLsb' 13 3).toNat
  match k with
  | 0 => .v (x.extractLsb' 0 8) (x.getLsbD 11) (x.getLsbD 12)
  | 1 => .s (x.extractLsb' 0 6) (x.getLsbD 11) (x.getLsbD 12)
  | 2 => .imm (x.extractLsb' 0 13)
  | 3 => .cbank (x.extractLsb' 10 3) (x.extractLsb' 0 10)
  | 4 => .pred (x.extractLsb' 0 3) (x.getLsbD 3)
  | 5 =>
    match (x.extractLsb' 8 5).toNat with
    | 0 => .bar (x.extractLsb' 0 6)
    | 1 => .chan (x.extractLsb' 0 6)
    | 2 => .join (x.extractLsb' 0 3)
    | 3 => .acc (x.extractLsb' 0 2)
    | _ => .sreg ((sregs[(x.extractLsb' 0 8).toNat]?).getD .laneid)
  | 6 => .sreg .laneid
  | _ => .none

/-- The field names an operand: no kind 6, no reserved bit, no index or subkind out of range (R287). -/
def opndOk (x : BitVec 16) : Bool :=
  let k := (x.extractLsb' 13 3).toNat
  match k with
  | 0 => x.extractLsb' 8 3 == 0
  | 1 => x.extractLsb' 6 5 == 0
  | 2 | 3 => true
  | 4 => x.extractLsb' 4 9 == 0
  | 5 =>
    let i := (x.extractLsb' 0 8).toNat
    match (x.extractLsb' 8 5).toNat with
    | 0 | 1 => i < 64
    | 2 => i < 8
    | 3 => i < 4
    | 4 => i < 13
    | _ => false
  | 6 => false
  | _ => x.extractLsb' 0 13 == 0

/-- The field of an operand (R287). -/
def encOpnd : Opnd → BitVec 16
  | .v i a n => (0#3 ++ BitVec.ofBool n ++ BitVec.ofBool a ++ 0#3 ++ i : BitVec 16)
  | .s i a n => (1#3 ++ BitVec.ofBool n ++ BitVec.ofBool a ++ 0#5 ++ i : BitVec 16)
  | .imm x => (2#3 ++ x : BitVec 16)
  | .cbank k w => (3#3 ++ k ++ w : BitVec 16)
  | .pred p n => (4#3 ++ 0#9 ++ BitVec.ofBool n ++ p : BitVec 16)
  | .bar i => (5#3 ++ 0#5 ++ 0#2 ++ i : BitVec 16)
  | .chan i => (5#3 ++ 1#5 ++ 0#2 ++ i : BitVec 16)
  | .join j => (5#3 ++ 2#5 ++ 0#5 ++ j : BitVec 16)
  | .acc a => (5#3 ++ 3#5 ++ 0#6 ++ a : BitVec 16)
  | .sreg r => (5#3 ++ 4#5 ++ BitVec.ofNat 8 r.num : BitVec 16)
  | .none => 0xE000#16

/-- What a D field names (R286). -/
def dstOf (x : BitVec 10) : Dst :=
  let i := (x.extractLsb' 0 8).toNat
  match (x.extractLsb' 8 2).toNat with
  | 0 => .v (x.extractLsb' 0 8)
  | 1 => .s (x.extractLsb' 0 6)
  | 2 => .p (x.extractLsb' 0 3)
  | _ =>
    if i < 4 then .acc (x.extractLsb' 0 2)
    else if 0x10 ≤ i && i < 0x18 then .join (x.extractLsb' 0 3)
    else if 0x40 ≤ i && i < 0x80 then .bar (x.extractLsb' 0 6)
    else if 0x80 ≤ i && i < 0x8D then .sreg ((sregs[i - 0x80]?).getD .laneid)
    else .none

/-- The D field is no value that raises ILLEGAL_OPND (R286). -/
def dstOk (x : BitVec 10) : Bool :=
  let i := (x.extractLsb' 0 8).toNat
  (x.extractLsb' 8 2).toNat != 3 || i < 4 || (0x10 ≤ i && i < 0x18) || (0x40 ≤ i && i < 0x80)
    || (0x80 ≤ i && i < 0x8D) || i == 0xFF

/-- The D field is no s above 63 and no p above 7, which raise REG_RANGE (R286). -/
def dstRange (x : BitVec 10) : Bool :=
  let i := (x.extractLsb' 0 8).toNat
  match (x.extractLsb' 8 2).toNat with
  | 1 => i < 64
  | 2 => i < 8
  | _ => true

/-- The D field of a destination (R286). -/
def encDst : Dst → BitVec 10
  | .v i => (0#2 ++ i : BitVec 10)
  | .s i => (1#2 ++ 0#2 ++ i : BitVec 10)
  | .p i => (2#2 ++ 0#5 ++ i : BitVec 10)
  | .acc a => (3#2 ++ 0#6 ++ a : BitVec 10)
  | .join j => (3#2 ++ 2#5 ++ j : BitVec 10)
  | .bar i => (3#2 ++ 1#2 ++ i : BitVec 10)
  | .sreg r => (3#2 ++ BitVec.ofNat 8 (0x80 + r.num) : BitVec 10)
  | .none => 0x3FF#10

/-- Guard and hints of a word (R284). -/
def hdrOf (r : Raw) : Hdr where
  wait := r.wait
  set := if r.set.getLsbD 2 then none else some (r.set.extractLsb' 0 2)
  yld := r.yld.getLsbD 0
  stall := r.stall
  inv := r.g.getLsbD 3
  pred := r.g.extractLsb' 0 3

/-- MOD of the integer class. -/
def intMOf (m : BitVec 12) : IntM :=
  ⟨(tyOfCode (m.extractLsb' 0 5).toNat).getD .b8, m.extractLsb' 5 7⟩

/-- MOD of the floating class. -/
def fltMOf (m : BitVec 12) : FltM :=
  ⟨(tyOfCode (m.extractLsb' 0 5).toNat).getD .b8, rndOfCode (m.extractLsb' 5 3).toNat, m.extractLsb' 8 4⟩

/-- MOD of the memory class. -/
def memMOf (m : BitVec 12) : MemM :=
  ⟨(tyOfCode (m.extractLsb' 0 5).toNat).getD .b8, m.getLsbD 5, scopeOfCode (m.extractLsb' 6 3).toNat,
   ordOfCode (m.extractLsb' 9 2).toNat, m.getLsbD 11⟩

/-- The bits of an integer-class MOD. -/
def encIntM (m : IntM) : BitVec 12 := (m.x ++ BitVec.ofNat 5 m.ty.code : BitVec 12)

/-- The bits of a floating-class MOD. -/
def encFltM (m : FltM) : BitVec 12 := (m.x ++ BitVec.ofNat 3 m.rnd.code ++ BitVec.ofNat 5 m.ty.code : BitVec 12)

/-- The bits of a memory-class MOD. -/
def encMemM (m : MemM) : BitVec 12 :=
  (BitVec.ofBool m.x ++ BitVec.ofNat 2 m.ord.code ++ BitVec.ofNat 3 m.scope.code ++ BitVec.ofBool m.loc
    ++ BitVec.ofNat 5 m.ty.code : BitVec 12)

/-- An R-form word. -/
def rOf {μ : Type} (r : Raw) (m : μ) : RWord μ := ⟨hdrOf r, m, dstOf r.d, opndOf r.a, opndOf r.b, opndOf r.c⟩

/-- An M-form word. -/
def mOf (r : Raw) : MWord := ⟨hdrOf r, memMOf r.mod, dstOf r.d, opndOf r.a, r.b, opndOf r.c⟩

/-- An I-form or J-form word. -/
def iOf {μ : Type} (r : Raw) (m : μ) : IWord μ := ⟨hdrOf r, m, dstOf r.d, opndOf r.a, (r.c ++ r.b : BitVec 32)⟩

/-- Opcodes 0x000 to 0x07F of the opcode map (R295). -/
def buildControl (o : Nat) (r : Raw) : Option Instr :=
  match o with
  | 0x001 => some (.nop (rOf r r.mod))
  | 0x002 => some (.bra (iOf r r.mod))
  | 0x003 => some (.brx (rOf r r.mod))
  | 0x004 => some (.brd (iOf r r.mod))
  | 0x005 => some (.jarm (iOf r r.mod))
  | 0x006 => some (.jarr (rOf r r.mod))
  | 0x007 => some (.call (iOf r r.mod))
  | 0x008 => some (.callx (rOf r r.mod))
  | 0x009 => some (.ret (rOf r r.mod))
  | 0x00A => some (.endI (rOf r r.mod))
  | 0x00B => some (.trap (iOf r r.mod))
  | 0x00C => some (.bkpt (iOf r r.mod))
  | 0x00D => some (.bind (rOf r r.mod))
  | 0x00E => some (.spawn (rOf r r.mod))
  | 0x00F => some (.launch (rOf r r.mod))
  | 0x010 => some (.yield (rOf r r.mod))
  | 0x011 => some (.sleep (iOf r r.mod))
  | 0x012 => some (.mark (iOf r r.mod))
  | 0x013 => some (.rdem (rOf r r.mod))
  | 0x014 => some (.wrem (rOf r r.mod))
  | 0x015 => some (.rdsr (rOf r r.mod))
  | 0x016 => some (.wrsr (rOf r r.mod))
  | 0x017 => some (.rdts (rOf r r.mod))
  | 0x018 => some (.rdcnt (rOf r r.mod))
  | 0x019 => some (.emp (rOf r r.mod))
  | 0x01A => some (.jrd (rOf r r.mod))
  | _ => none

/-- Opcodes 0x080 to 0x0FF of the opcode map (R295). -/
def buildInteger (o : Nat) (r : Raw) : Option Instr :=
  match o with
  | 0x080 => some (.iadd (rOf r (intMOf r.mod)))
  | 0x081 => some (.isub (rOf r (intMOf r.mod)))
  | 0x082 => some (.imul (rOf r (intMOf r.mod)))
  | 0x083 => some (.imad (rOf r (intMOf r.mod)))
  | 0x084 => some (.imulw (rOf r (intMOf r.mod)))
  | 0x085 => some (.imadw (rOf r (intMOf r.mod)))
  | 0x086 => some (.imin (rOf r (intMOf r.mod)))
  | 0x087 => some (.imax (rOf r (intMOf r.mod)))
  | 0x088 => some (.iabs (rOf r (intMOf r.mod)))
  | 0x089 => some (.ineg (rOf r (intMOf r.mod)))
  | 0x08A => some (.shl (rOf r (intMOf r.mod)))
  | 0x08B => some (.shr (rOf r (intMOf r.mod)))
  | 0x08C => some (.rot (rOf r (intMOf r.mod)))
  | 0x08D => some (.bop (rOf r (intMOf r.mod)))
  | 0x08E => some (.bfe (rOf r (intMOf r.mod)))
  | 0x08F => some (.bfi (rOf r (intMOf r.mod)))
  | 0x090 => some (.popc (rOf r (intMOf r.mod)))
  | 0x091 => some (.clz (rOf r (intMOf r.mod)))
  | 0x092 => some (.brev (rOf r (intMOf r.mod)))
  | 0x093 => some (.isetp (rOf r (intMOf r.mod)))
  | 0x094 => some (.sel (rOf r (intMOf r.mod)))
  | 0x095 => some (.mov (rOf r (intMOf r.mod)))
  | 0x096 => some (.movi (iOf r (intMOf r.mod)))
  | 0x097 => some (.movih (iOf r (intMOf r.mod)))
  | 0x098 => some (.lea (rOf r (intMOf r.mod)))
  | 0x099 => some (.plop (rOf r r.mod))
  | 0x09A => some (.isad (rOf r (intMOf r.mod)))
  | 0x09B => some (.idot (rOf r (intMOf r.mod)))
  | 0x09C => some (.shfw (rOf r (intMOf r.mod)))
  | 0x0A0 => some (.xlane (rOf r (intMOf r.mod)))
  | 0x0A1 => some (.pcol (rOf r r.mod))
  | 0x0A2 => some (.redi (rOf r (intMOf r.mod)))
  | 0x0A3 => some (.bsel (rOf r r.mod))
  | 0x0A4 => some (.scan (rOf r (intMOf r.mod)))
  | 0x0A5 => some (.matchI (rOf r (intMOf r.mod)))
  | 0x0A6 => some (.rdlane (rOf r (intMOf r.mod)))
  | 0x0A7 => some (.wrlane (rOf r (intMOf r.mod)))
  | _ => none

/-- Opcodes 0x100 to 0x17F of the opcode map (R295). -/
def buildFloat (o : Nat) (r : Raw) : Option Instr :=
  match o with
  | 0x100 => some (.fadd (rOf r (fltMOf r.mod)))
  | 0x101 => some (.fsub (rOf r (fltMOf r.mod)))
  | 0x102 => some (.fmul (rOf r (fltMOf r.mod)))
  | 0x103 => some (.ffma (rOf r (fltMOf r.mod)))
  | 0x104 => some (.fdot (rOf r (fltMOf r.mod)))
  | 0x105 => some (.fmin (rOf r (fltMOf r.mod)))
  | 0x106 => some (.fmax (rOf r (fltMOf r.mod)))
  | 0x107 => some (.fsetp (rOf r (fltMOf r.mod)))
  | 0x108 => some (.fsel (rOf r (fltMOf r.mod)))
  | 0x109 => some (.fclass (rOf r (fltMOf r.mod)))
  | 0x10A => some (.fdiv (rOf r (fltMOf r.mod)))
  | 0x10B => some (.fsqrt (rOf r (fltMOf r.mod)))
  | 0x10C => some (.frcp (rOf r (fltMOf r.mod)))
  | 0x10D => some (.frsq (rOf r (fltMOf r.mod)))
  | 0x10E => some (.fexp2 (rOf r (fltMOf r.mod)))
  | 0x10F => some (.flog2 (rOf r (fltMOf r.mod)))
  | 0x110 => some (.fsin (rOf r (fltMOf r.mod)))
  | 0x111 => some (.fcos (rOf r (fltMOf r.mod)))
  | 0x112 => some (.ftanh (rOf r (fltMOf r.mod)))
  | 0x113 => some (.fcvt (iOf r (fltMOf r.mod)))
  | 0x114 => some (.f2i (rOf r (fltMOf r.mod)))
  | 0x115 => some (.i2f (rOf r (fltMOf r.mod)))
  | 0x116 => some (.frnd (rOf r (fltMOf r.mod)))
  | 0x117 => some (.fscale (rOf r (fltMOf r.mod)))
  | 0x118 => some (.digits (rOf r (fltMOf r.mod)))
  | 0x119 => some (.sibrd (rOf r (fltMOf r.mod)))
  | 0x11A => some (.sibwr (rOf r (fltMOf r.mod)))
  | 0x11B => some (.sibmed (rOf r (fltMOf r.mod)))
  | 0x11C => some (.sibmean (rOf r (fltMOf r.mod)))
  | 0x11D => some (.sibdiff (rOf r (fltMOf r.mod)))
  | 0x11E => some (.fsgn (rOf r (fltMOf r.mod)))
  | 0x11F => some (.fred (rOf r (fltMOf r.mod)))
  | _ => none

/-- Opcodes 0x180 to 0x1FF of the opcode map (R295). -/
def buildMemory (o : Nat) (r : Raw) : Option Instr :=
  match o with
  | 0x180 => some (.ld (mOf r))
  | 0x181 => some (.st (mOf r))
  | 0x182 => some (.ldx (mOf r))
  | 0x183 => some (.stx (mOf r))
  | 0x184 => some (.aadd (mOf r))
  | 0x185 => some (.amin (mOf r))
  | 0x186 => some (.amax (mOf r))
  | 0x187 => some (.aand (mOf r))
  | 0x188 => some (.aor (mOf r))
  | 0x189 => some (.axor (mOf r))
  | 0x18A => some (.axch (mOf r))
  | 0x18B => some (.acas (mOf r))
  | 0x18C => some (.afadd (mOf r))
  | 0x190 => some (.radd (mOf r))
  | 0x191 => some (.rmin (mOf r))
  | 0x192 => some (.rmax (mOf r))
  | 0x193 => some (.rand (mOf r))
  | 0x194 => some (.ror (mOf r))
  | 0x195 => some (.rxor (mOf r))
  | 0x196 => some (.rfadd (mOf r))
  | 0x198 => some (.waita (mOf r))
  | 0x199 => some (.fence (rOf r (memMOf r.mod)))
  | 0x19A => some (.cinv (mOf r))
  | 0x19B => some (.ctag (mOf r))
  | 0x19C => some (.pref (mOf r))
  | 0x19D => some (.txb (rOf r (memMOf r.mod)))
  | 0x19E => some (.txc (rOf r (memMOf r.mod)))
  | 0x19F => some (.txa (rOf r (memMOf r.mod)))
  | 0x1A0 => some (.snappin (rOf r (memMOf r.mod)))
  | 0x1A1 => some (.snaprel (rOf r (memMOf r.mod)))
  | 0x1A2 => some (.cdrain (rOf r (memMOf r.mod)))
  | _ => none

/-- Opcodes 0x200 to 0x2FF of the opcode map (R295). -/
def buildEngine (o : Nat) (r : Raw) : Option Instr :=
  match o with
  | 0x200 => some (.push (rOf r r.mod))
  | 0x201 => some (.pop (rOf r r.mod))
  | 0x202 => some (.caprd (rOf r r.mod))
  | 0x203 => some (.binit (rOf r r.mod))
  | 0x204 => some (.barrive (rOf r r.mod))
  | 0x205 => some (.bexpect (rOf r r.mod))
  | 0x206 => some (.bwaitp (rOf r r.mod))
  | 0x207 => some (.btest (rOf r r.mod))
  | 0x208 => some (.binval (rOf r r.mod))
  | 0x209 => some (.bclose (rOf r r.mod))
  | 0x20A => some (.bwait (rOf r r.mod))
  | 0x20B => some (.bpoll (rOf r r.mod))
  | 0x20C => some (.qfence (rOf r r.mod))
  | 0x280 => some (.cpy (rOf r r.mod))
  | 0x281 => some (.cpyT (rOf r r.mod))
  | 0x282 => some (.cpyCv (rOf r r.mod))
  | 0x283 => some (.cpyMeta (rOf r r.mod))
  | 0x284 => some (.gather (rOf r r.mod))
  | 0x285 => some (.mzero (rOf r r.mod))
  | 0x286 => some (.mloop (rOf r r.mod))
  | 0x287 => some (.mloopSp (rOf r r.mod))
  | 0x288 => some (.macc (rOf r r.mod))
  | 0x289 => some (.cbload (rOf r r.mod))
  | 0x28A => some (.xfmR (rOf r r.mod))
  | 0x28B => some (.xfmJ (rOf r r.mod))
  | 0x28C => some (.decode (rOf r r.mod))
  | _ => none

/-- The instruction of a word's opcode (R295); `none` where the opcode is unassigned. -/
def build (r : Raw) : Option Instr :=
  let o := r.opc.toNat
  if o < 0x080 then buildControl o r
  else if o < 0x100 then buildInteger o r
  else if o < 0x180 then buildFloat o r
  else if o < 0x200 then buildMemory o r
  else buildEngine o r

/-- The TYPE and RND values of the word are no reserved ones (R291, R292), by the class of its opcode. -/
def modFieldsOk (r : Raw) (i : Instr) : Bool :=
  match i with
  | .nop _ => true
  | .bra _ => true
  | .brx _ => true
  | .brd _ => true
  | .jarm _ => true
  | .jarr _ => true
  | .call _ => true
  | .callx _ => true
  | .ret _ => true
  | .endI _ => true
  | .trap _ => true
  | .bkpt _ => true
  | .bind _ => true
  | .spawn _ => true
  | .launch _ => true
  | .yield _ => true
  | .sleep _ => true
  | .mark _ => true
  | .rdem _ => true
  | .wrem _ => true
  | .rdsr _ => true
  | .wrsr _ => true
  | .rdts _ => true
  | .rdcnt _ => true
  | .emp _ => true
  | .jrd _ => true
  | .plop _ => true
  | .pcol _ => true
  | .bsel _ => true
  | .fadd _ => (r.mod.extractLsb' 0 5).toNat < 23 && (r.mod.extractLsb' 5 3).toNat < 5
  | .fsub _ => (r.mod.extractLsb' 0 5).toNat < 23 && (r.mod.extractLsb' 5 3).toNat < 5
  | .fmul _ => (r.mod.extractLsb' 0 5).toNat < 23 && (r.mod.extractLsb' 5 3).toNat < 5
  | .ffma _ => (r.mod.extractLsb' 0 5).toNat < 23 && (r.mod.extractLsb' 5 3).toNat < 5
  | .fdot _ => (r.mod.extractLsb' 0 5).toNat < 23 && (r.mod.extractLsb' 5 3).toNat < 5
  | .fmin _ => (r.mod.extractLsb' 0 5).toNat < 23 && (r.mod.extractLsb' 5 3).toNat < 5
  | .fmax _ => (r.mod.extractLsb' 0 5).toNat < 23 && (r.mod.extractLsb' 5 3).toNat < 5
  | .fsetp _ => (r.mod.extractLsb' 0 5).toNat < 23 && (r.mod.extractLsb' 5 3).toNat < 5
  | .fsel _ => (r.mod.extractLsb' 0 5).toNat < 23 && (r.mod.extractLsb' 5 3).toNat < 5
  | .fclass _ => (r.mod.extractLsb' 0 5).toNat < 23 && (r.mod.extractLsb' 5 3).toNat < 5
  | .fdiv _ => (r.mod.extractLsb' 0 5).toNat < 23 && (r.mod.extractLsb' 5 3).toNat < 5
  | .fsqrt _ => (r.mod.extractLsb' 0 5).toNat < 23 && (r.mod.extractLsb' 5 3).toNat < 5
  | .frcp _ => (r.mod.extractLsb' 0 5).toNat < 23 && (r.mod.extractLsb' 5 3).toNat < 5
  | .frsq _ => (r.mod.extractLsb' 0 5).toNat < 23 && (r.mod.extractLsb' 5 3).toNat < 5
  | .fexp2 _ => (r.mod.extractLsb' 0 5).toNat < 23 && (r.mod.extractLsb' 5 3).toNat < 5
  | .flog2 _ => (r.mod.extractLsb' 0 5).toNat < 23 && (r.mod.extractLsb' 5 3).toNat < 5
  | .fsin _ => (r.mod.extractLsb' 0 5).toNat < 23 && (r.mod.extractLsb' 5 3).toNat < 5
  | .fcos _ => (r.mod.extractLsb' 0 5).toNat < 23 && (r.mod.extractLsb' 5 3).toNat < 5
  | .ftanh _ => (r.mod.extractLsb' 0 5).toNat < 23 && (r.mod.extractLsb' 5 3).toNat < 5
  | .fcvt _ => (r.mod.extractLsb' 0 5).toNat < 23 && (r.mod.extractLsb' 5 3).toNat < 5
  | .f2i _ => (r.mod.extractLsb' 0 5).toNat < 23 && (r.mod.extractLsb' 5 3).toNat < 5
  | .i2f _ => (r.mod.extractLsb' 0 5).toNat < 23 && (r.mod.extractLsb' 5 3).toNat < 5
  | .frnd _ => (r.mod.extractLsb' 0 5).toNat < 23 && (r.mod.extractLsb' 5 3).toNat < 5
  | .fscale _ => (r.mod.extractLsb' 0 5).toNat < 23 && (r.mod.extractLsb' 5 3).toNat < 5
  | .digits _ => (r.mod.extractLsb' 0 5).toNat < 23 && (r.mod.extractLsb' 5 3).toNat < 5
  | .sibrd _ => (r.mod.extractLsb' 0 5).toNat < 23 && (r.mod.extractLsb' 5 3).toNat < 5
  | .sibwr _ => (r.mod.extractLsb' 0 5).toNat < 23 && (r.mod.extractLsb' 5 3).toNat < 5
  | .sibmed _ => (r.mod.extractLsb' 0 5).toNat < 23 && (r.mod.extractLsb' 5 3).toNat < 5
  | .sibmean _ => (r.mod.extractLsb' 0 5).toNat < 23 && (r.mod.extractLsb' 5 3).toNat < 5
  | .sibdiff _ => (r.mod.extractLsb' 0 5).toNat < 23 && (r.mod.extractLsb' 5 3).toNat < 5
  | .fsgn _ => (r.mod.extractLsb' 0 5).toNat < 23 && (r.mod.extractLsb' 5 3).toNat < 5
  | .fred _ => (r.mod.extractLsb' 0 5).toNat < 23 && (r.mod.extractLsb' 5 3).toNat < 5
  | .push _ => true
  | .pop _ => true
  | .caprd _ => true
  | .binit _ => true
  | .barrive _ => true
  | .bexpect _ => true
  | .bwaitp _ => true
  | .btest _ => true
  | .binval _ => true
  | .bclose _ => true
  | .bwait _ => true
  | .bpoll _ => true
  | .qfence _ => true
  | .cpy _ => true
  | .cpyT _ => true
  | .cpyCv _ => true
  | .cpyMeta _ => true
  | .gather _ => true
  | .mzero _ => true
  | .mloop _ => true
  | .mloopSp _ => true
  | .macc _ => true
  | .cbload _ => true
  | .xfmR _ => true
  | .xfmJ _ => true
  | .decode _ => true
  | _ => (r.mod.extractLsb' 0 5).toNat < 23

/-- Operand fields hold operands (R287); B of an M form and B, C of an I or J form are no operands. -/
def opndFieldsOk (r : Raw) (i : Instr) : Bool :=
  opndOk r.a && dstOk r.d &&
  match i with
  | .bra _ => true
  | .brd _ => true
  | .jarm _ => true
  | .call _ => true
  | .trap _ => true
  | .bkpt _ => true
  | .sleep _ => true
  | .mark _ => true
  | .movi _ => true
  | .movih _ => true
  | .fcvt _ => true
  | .ld _ => opndOk r.c
  | .st _ => opndOk r.c
  | .ldx _ => opndOk r.c
  | .stx _ => opndOk r.c
  | .aadd _ => opndOk r.c
  | .amin _ => opndOk r.c
  | .amax _ => opndOk r.c
  | .aand _ => opndOk r.c
  | .aor _ => opndOk r.c
  | .axor _ => opndOk r.c
  | .axch _ => opndOk r.c
  | .acas _ => opndOk r.c
  | .afadd _ => opndOk r.c
  | .radd _ => opndOk r.c
  | .rmin _ => opndOk r.c
  | .rmax _ => opndOk r.c
  | .rand _ => opndOk r.c
  | .ror _ => opndOk r.c
  | .rxor _ => opndOk r.c
  | .rfadd _ => opndOk r.c
  | .waita _ => opndOk r.c
  | .cinv _ => opndOk r.c
  | .ctag _ => opndOk r.c
  | .pref _ => opndOk r.c
  | _ => opndOk r.b && opndOk r.c

/-- Decodes a word, in the order of R296. -/
def decode (w : BitVec 96) : Except Reject Instr :=
  let r := unpack w
  if r.opc == 0 then .ok .ztrap
  else if w == BitVec.allOnes 96 then .ok .falloff
  else
    match build r with
    | none => .ok (.illegalOp w)
    | some i =>
      match sig i, fields i with
      | some σ, some f =>
        if !(r.set.toNat < 4 || r.set == 7) || !modFieldsOk r i || !σ.modOk then .error .illegalMod
        else if !opndFieldsOk r i || !σ.d.ok f.d || !σ.a.ok f.a || !σ.b.ok f.b || !σ.c.ok f.c || !σ.opndOk then
          .error .illegalOpnd
        else if !dstRange r.d then .error .regRange
        else .ok i
      | _, _ => .ok i

/-- Decodes the first twelve bytes of a text (R4, R284): the instruction or rejection, and the rest. -/
def decodeBytes : List Byte → Option (Except Reject Instr × List Byte)
  | b0 :: b1 :: b2 :: b3 :: b4 :: b5 :: b6 :: b7 :: b8 :: b9 :: b10 :: b11 :: rest =>
    some (decode (b11 ++ b10 ++ b9 ++ b8 ++ b7 ++ b6 ++ b5 ++ b4 ++ b3 ++ b2 ++ b1 ++ b0 : BitVec 96), rest)
  | _ => none

/-- The twelve bytes of a word, lowest first (R4). -/
def wordBytes (w : BitVec 96) : List Byte := (List.range 12).map (fun k => w.extractLsb' (8 * k) 8)

/-- The instruction the decoder reads from a word of the opcode table. -/
def decodeTableWord (nbits w : Nat) : Option Instr :=
  if 96 < nbits then none
  else
    match decodeBytes (wordBytes (BitVec.ofNat 96 w)) with
    | some (.ok i, _) => some i
    | _ => none

/-- The G field of a guard and the hint fields (R284). -/
def rawHdr (h : Hdr) (opc d : BitVec 10) (a b c : BitVec 16) (m : BitVec 12) : Raw where
  opc := opc
  d := d
  a := a
  b := b
  c := c
  g := (BitVec.ofBool h.inv ++ h.pred : BitVec 4)
  mod := m
  stall := h.stall
  yld := BitVec.ofBool h.yld
  set := match h.set with | some n => (0#1 ++ n : BitVec 3) | none => 7#3
  wait := h.wait

/-- The fields of an R-form word. -/
def encR {μ : Type} (opc : BitVec 10) (w : RWord μ) (m : BitVec 12) : Raw :=
  rawHdr w.hdr opc (encDst w.d) (encOpnd w.a) (encOpnd w.b) (encOpnd w.c) m

/-- The fields of an M-form word. -/
def encM (opc : BitVec 10) (w : MWord) : Raw :=
  rawHdr w.hdr opc (encDst w.d) (encOpnd w.a) w.off (encOpnd w.c) (encMemM w.m)

/-- The fields of an I-form or J-form word. -/
def encI {μ : Type} (opc : BitVec 10) (w : IWord μ) (m : BitVec 12) : Raw :=
  rawHdr w.hdr opc (encDst w.d) (encOpnd w.a) (w.imm.extractLsb' 0 16) (w.imm.extractLsb' 16 16) m

/-- The fields of an encoded instruction (R295). -/
def encRaw : Instr → Option Raw
  | .nop w => some (encR 0x001 w w.m)
  | .bra w => some (encI 0x002 w w.m)
  | .brx w => some (encR 0x003 w w.m)
  | .brd w => some (encI 0x004 w w.m)
  | .jarm w => some (encI 0x005 w w.m)
  | .jarr w => some (encR 0x006 w w.m)
  | .call w => some (encI 0x007 w w.m)
  | .callx w => some (encR 0x008 w w.m)
  | .ret w => some (encR 0x009 w w.m)
  | .endI w => some (encR 0x00A w w.m)
  | .trap w => some (encI 0x00B w w.m)
  | .bkpt w => some (encI 0x00C w w.m)
  | .bind w => some (encR 0x00D w w.m)
  | .spawn w => some (encR 0x00E w w.m)
  | .launch w => some (encR 0x00F w w.m)
  | .yield w => some (encR 0x010 w w.m)
  | .sleep w => some (encI 0x011 w w.m)
  | .mark w => some (encI 0x012 w w.m)
  | .rdem w => some (encR 0x013 w w.m)
  | .wrem w => some (encR 0x014 w w.m)
  | .rdsr w => some (encR 0x015 w w.m)
  | .wrsr w => some (encR 0x016 w w.m)
  | .rdts w => some (encR 0x017 w w.m)
  | .rdcnt w => some (encR 0x018 w w.m)
  | .emp w => some (encR 0x019 w w.m)
  | .jrd w => some (encR 0x01A w w.m)
  | .iadd w => some (encR 0x080 w (encIntM w.m))
  | .isub w => some (encR 0x081 w (encIntM w.m))
  | .imul w => some (encR 0x082 w (encIntM w.m))
  | .imad w => some (encR 0x083 w (encIntM w.m))
  | .imulw w => some (encR 0x084 w (encIntM w.m))
  | .imadw w => some (encR 0x085 w (encIntM w.m))
  | .imin w => some (encR 0x086 w (encIntM w.m))
  | .imax w => some (encR 0x087 w (encIntM w.m))
  | .iabs w => some (encR 0x088 w (encIntM w.m))
  | .ineg w => some (encR 0x089 w (encIntM w.m))
  | .shl w => some (encR 0x08A w (encIntM w.m))
  | .shr w => some (encR 0x08B w (encIntM w.m))
  | .rot w => some (encR 0x08C w (encIntM w.m))
  | .bop w => some (encR 0x08D w (encIntM w.m))
  | .bfe w => some (encR 0x08E w (encIntM w.m))
  | .bfi w => some (encR 0x08F w (encIntM w.m))
  | .popc w => some (encR 0x090 w (encIntM w.m))
  | .clz w => some (encR 0x091 w (encIntM w.m))
  | .brev w => some (encR 0x092 w (encIntM w.m))
  | .isetp w => some (encR 0x093 w (encIntM w.m))
  | .sel w => some (encR 0x094 w (encIntM w.m))
  | .mov w => some (encR 0x095 w (encIntM w.m))
  | .movi w => some (encI 0x096 w (encIntM w.m))
  | .movih w => some (encI 0x097 w (encIntM w.m))
  | .lea w => some (encR 0x098 w (encIntM w.m))
  | .plop w => some (encR 0x099 w w.m)
  | .isad w => some (encR 0x09A w (encIntM w.m))
  | .idot w => some (encR 0x09B w (encIntM w.m))
  | .shfw w => some (encR 0x09C w (encIntM w.m))
  | .xlane w => some (encR 0x0A0 w (encIntM w.m))
  | .pcol w => some (encR 0x0A1 w w.m)
  | .redi w => some (encR 0x0A2 w (encIntM w.m))
  | .bsel w => some (encR 0x0A3 w w.m)
  | .scan w => some (encR 0x0A4 w (encIntM w.m))
  | .matchI w => some (encR 0x0A5 w (encIntM w.m))
  | .rdlane w => some (encR 0x0A6 w (encIntM w.m))
  | .wrlane w => some (encR 0x0A7 w (encIntM w.m))
  | .fadd w => some (encR 0x100 w (encFltM w.m))
  | .fsub w => some (encR 0x101 w (encFltM w.m))
  | .fmul w => some (encR 0x102 w (encFltM w.m))
  | .ffma w => some (encR 0x103 w (encFltM w.m))
  | .fdot w => some (encR 0x104 w (encFltM w.m))
  | .fmin w => some (encR 0x105 w (encFltM w.m))
  | .fmax w => some (encR 0x106 w (encFltM w.m))
  | .fsetp w => some (encR 0x107 w (encFltM w.m))
  | .fsel w => some (encR 0x108 w (encFltM w.m))
  | .fclass w => some (encR 0x109 w (encFltM w.m))
  | .fdiv w => some (encR 0x10A w (encFltM w.m))
  | .fsqrt w => some (encR 0x10B w (encFltM w.m))
  | .frcp w => some (encR 0x10C w (encFltM w.m))
  | .frsq w => some (encR 0x10D w (encFltM w.m))
  | .fexp2 w => some (encR 0x10E w (encFltM w.m))
  | .flog2 w => some (encR 0x10F w (encFltM w.m))
  | .fsin w => some (encR 0x110 w (encFltM w.m))
  | .fcos w => some (encR 0x111 w (encFltM w.m))
  | .ftanh w => some (encR 0x112 w (encFltM w.m))
  | .fcvt w => some (encI 0x113 w (encFltM w.m))
  | .f2i w => some (encR 0x114 w (encFltM w.m))
  | .i2f w => some (encR 0x115 w (encFltM w.m))
  | .frnd w => some (encR 0x116 w (encFltM w.m))
  | .fscale w => some (encR 0x117 w (encFltM w.m))
  | .digits w => some (encR 0x118 w (encFltM w.m))
  | .sibrd w => some (encR 0x119 w (encFltM w.m))
  | .sibwr w => some (encR 0x11A w (encFltM w.m))
  | .sibmed w => some (encR 0x11B w (encFltM w.m))
  | .sibmean w => some (encR 0x11C w (encFltM w.m))
  | .sibdiff w => some (encR 0x11D w (encFltM w.m))
  | .fsgn w => some (encR 0x11E w (encFltM w.m))
  | .fred w => some (encR 0x11F w (encFltM w.m))
  | .ld w => some (encM 0x180 w)
  | .st w => some (encM 0x181 w)
  | .ldx w => some (encM 0x182 w)
  | .stx w => some (encM 0x183 w)
  | .aadd w => some (encM 0x184 w)
  | .amin w => some (encM 0x185 w)
  | .amax w => some (encM 0x186 w)
  | .aand w => some (encM 0x187 w)
  | .aor w => some (encM 0x188 w)
  | .axor w => some (encM 0x189 w)
  | .axch w => some (encM 0x18A w)
  | .acas w => some (encM 0x18B w)
  | .afadd w => some (encM 0x18C w)
  | .radd w => some (encM 0x190 w)
  | .rmin w => some (encM 0x191 w)
  | .rmax w => some (encM 0x192 w)
  | .rand w => some (encM 0x193 w)
  | .ror w => some (encM 0x194 w)
  | .rxor w => some (encM 0x195 w)
  | .rfadd w => some (encM 0x196 w)
  | .waita w => some (encM 0x198 w)
  | .fence w => some (encR 0x199 w (encMemM w.m))
  | .cinv w => some (encM 0x19A w)
  | .ctag w => some (encM 0x19B w)
  | .pref w => some (encM 0x19C w)
  | .txb w => some (encR 0x19D w (encMemM w.m))
  | .txc w => some (encR 0x19E w (encMemM w.m))
  | .txa w => some (encR 0x19F w (encMemM w.m))
  | .snappin w => some (encR 0x1A0 w (encMemM w.m))
  | .snaprel w => some (encR 0x1A1 w (encMemM w.m))
  | .cdrain w => some (encR 0x1A2 w (encMemM w.m))
  | .push w => some (encR 0x200 w w.m)
  | .pop w => some (encR 0x201 w w.m)
  | .caprd w => some (encR 0x202 w w.m)
  | .binit w => some (encR 0x203 w w.m)
  | .barrive w => some (encR 0x204 w w.m)
  | .bexpect w => some (encR 0x205 w w.m)
  | .bwaitp w => some (encR 0x206 w w.m)
  | .btest w => some (encR 0x207 w w.m)
  | .binval w => some (encR 0x208 w w.m)
  | .bclose w => some (encR 0x209 w w.m)
  | .bwait w => some (encR 0x20A w w.m)
  | .bpoll w => some (encR 0x20B w w.m)
  | .qfence w => some (encR 0x20C w w.m)
  | .cpy w => some (encR 0x280 w w.m)
  | .cpyT w => some (encR 0x281 w w.m)
  | .cpyCv w => some (encR 0x282 w w.m)
  | .cpyMeta w => some (encR 0x283 w w.m)
  | .gather w => some (encR 0x284 w w.m)
  | .mzero w => some (encR 0x285 w w.m)
  | .mloop w => some (encR 0x286 w w.m)
  | .mloopSp w => some (encR 0x287 w w.m)
  | .macc w => some (encR 0x288 w w.m)
  | .cbload w => some (encR 0x289 w w.m)
  | .xfmR w => some (encR 0x28A w w.m)
  | .xfmJ w => some (encR 0x28B w w.m)
  | .decode w => some (encR 0x28C w w.m)
  | _ => none

/-- The word of an encoded instruction; ZTRAP is the all-zero word (R303), FALLOFF the all-ones word. -/
def encode (i : Instr) : Option (BitVec 96) :=
  match i with
  | .ztrap => some 0
  | .falloff => some (BitVec.allOnes 96)
  | .illegalOp w => if build (unpack w) == none && (unpack w).opc != 0 && w != BitVec.allOnes 96 then some w else none
  | i => (encRaw i).map pack

end Sys2Proof
end

