-- ==== Sys2Proof/Machine/Fetch.lean ====
section
/-! DEFINITION. Instruction fetch (07_page R164, 09_kernel R204) and the choice of the group that a scheduler
issues from (10_group R229). -/

namespace Sys2Proof.Machine

open Sys2Proof

/-- Text virtual address of an instruction index (R164). -/
def textVa (pc : Nat) : Nat := pc / 4096 * 0x10000 + 12 * (pc % 4096)

/-- What a fetch gives: a decoded word (a text fault and a fall off the text count as words), a cause, or nothing yet. -/
inductive Fetched where
  | word (i : Instr)
  | cause (c : Nat)
  /-- The word is on its way from another package. -/
  | wait
  deriving DecidableEq, Repr

/-- The causes of rejected words (R296). -/
def rejectCause : Reject → Nat
  | .illegalMod => fcIllegalMod
  | .illegalOpnd => fcIllegalOpnd
  | .regRange => fcRegRange

/-- The twelve bytes at a place, as the VF's key reads them: a word may lie in two lines. -/
def textBytes (s : State) (vf pa : Nat) : List Byte :=
  let n := min 12 (128 - pa % 128)
  leBytes (viewNat s (.vf vf) pa n) n ++ leBytes (viewNat s (.vf vf) (pa + n) (12 - n)) (12 - n)

/-- What twelve bytes give. -/
def decodeText (bs : List Byte) : Fetched :=
  match decodeBytes bs with
  | some (.ok i, _) => .word i
  | some (.error r, _) => .cause (rejectCause r)
  | none => .cause fcTextFault

/-- The owner of a group's fetches from elsewhere. -/
def fetchOwner (g : Grp) : Nat := 2 ^ 45 + g.serial

/-- A word whose frame another package holds is read at its home, line by line, as data is (R278; DEDUCED, assumption log, row 89). -/
def farText (s : State) (g : Grp) (pa : Nat) : State × Fetched :=
  let n := min 12 (128 - pa % 128)
  let read := fun (t : State) (a m : Nat) => agentRead t (fetchOwner g) g.ctx (.vf (ctxVf g.ctx)) false none a m true
  match read s pa n with
  | .stall s1 _ => (s1, .wait)
  | .fault c => (s, .cause c)
  | .done s1 d =>
    if n = 12 then (dropFars s1 (fetchOwner g) g.ctx, decodeText (leBytes d 12))
    else
      match read s1 (pa + n) (12 - n) with
      | .stall s2 _ => (s2, .wait)
      | .fault c => (s1, .cause c)
      | .done s2 d2 => (dropFars s2 (fetchOwner g) g.ctx, decodeText (leBytes (d + d2 * 2 ^ (8 * n)) 12))

/-- The lines a fetch reads pass their checks (R108, R30). -/
def fetchLine (s : State) (vf line : Nat) : Option Nat :=
  if !sealOk s line (.vf vf) then some fcIntegrity
  else if poisoned s (128 * line) 128 then some fcUncorrectable
  else none

/-- Fetches the word at an instruction index; the text map's leaf is cached and its A bit set. -/
def fetchWord (s : State) (k : Nat) (g : Grp) : State × Fetched :=
  let va := textVa g.pc
  match lookup s g.ctx (coreOf k) true false va with
  | .absent _ => (s, .word .textFault)
  | .bad s1 c => (s1, if c = fcTextFault then .word .textFault else .cause c)
  | .leaf s1 e =>
    let vf := ctxVf g.ctx
    let pa := hostPa (ptePa e.pte + va % 2 ^ e.bits)
    if !anyWell s1 pa && placeOf s1.pkg.id pa != .host then (s1, .cause fcProtection)
    else if (destOf s1 (homeOf s1.pkg.id pa)).isSome then farText s1 g pa
    else
      match fetchLine s1 vf (pa / 128), fetchLine s1 vf ((pa + 11) / 128) with
      | none, none => (s1, decodeText (textBytes s1 vf pa))
      | some c, _ => (noteIntegrity s1 c (.vf vf) g.ctx pa, .cause c)
      | none, some c => (noteIntegrity s1 c (.vf vf) g.ctx (pa + 11), .cause c)

/-- Fetches the next word of a group's running path. A path past the end of its object's text falls off, unless the word
there is all zeros: that case comes first (R204). -/
def fetch (s : State) (k : Nat) (g : Grp) : State × Fetched :=
  if 2 ^ 40 ≤ g.pc then (s, if g.fall then .word .falloff else .cause fcPcWrap)
  else
    match fetchWord s k g with
    | (s1, .word .ztrap) => (s1, .word .ztrap)
    | r => if g.fall then (s, .word .falloff) else r

/-- The group's next word may issue now (R229, R231, R232): a word that is no instruction may, and a request for one that is still
to be sent. -/
def canIssue (s : State) (k : Nat) (g0 : Grp) : Bool :=
  let g := releaseSlots s.cycle g0
  mayIssue s k g &&
  (match (fetch s k g).2 with
   | .wait => (fetch s k g).1.serial != s.serial
   | .cause _ => true
   | .word i =>
     match sig i, fields i with
     | some σ, some f => wordGate s g i σ f (activeMask g f.hdr) != .no
     | _, _ => true)

/-- `a` is older than `b` for the next issue decision: a YLD hint makes its group the youngest (R229). -/
def olderIssue (a b : Nat × Grp) : Bool :=
  if a.2.yld != b.2.yld then b.2.yld
  else if a.2.placed ≠ b.2.placed then a.2.placed < b.2.placed
  else a.1 < b.1

/-- The oldest of the groups that pass a test. -/
def oldest (older : Nat × Grp → Nat × Grp → Bool) (l : List (Nat × Grp)) : Option (Nat × Grp) :=
  l.foldl (fun o x => match o with | none => some x | some y => if older x y then some x else some y) none

/-- The group a scheduler issues from in this cycle (R229). -/
def pickGroup (s : State) (sched : Nat) : Option (Nat × Grp) :=
  oldest olderIssue (s.groups.filter (fun kg => schedOf kg.1 == sched && canIssue s kg.1 kg.2))

end Sys2Proof.Machine
end

