-- ==== Sys2Proof/Machine/PumpEv.lean ====
section
/-! DEFINITION. The memory side's own steps: bank and pump accesses (04_memory R98 to R109), responses and
acknowledgements (10_group R232, 14_formats R293), window keys (04_memory R111, R112), and wait tables (12_barrier R271,
R272). A step that nothing has made due leaves the state as it is. -/

namespace Sys2Proof.Machine

open Sys2Proof

/-- A step of the part: no step takes place while the clocks are stopped (R23). -/
def event (s : State) (t : State) : Host.Outcome State Fault Refusal := .next (if s.pkg.frozen then s else t)

/-- Replaces a part of an access. -/
def setPart (s : State) (id i : Nat) (p : Part) : State :=
  { s with accs := tabUpd s.accs id (fun a => { a with parts := tabPut a.parts i p }) }

/-- The part may be performed: it is translated and not done. -/
def partPending (p : Part) : Bool := !p.done && !awaitsPage p.hold

/-- Two parts touch a common byte: physically, or virtually where one is not translated. -/
def partsOverlap (p q : Part) : Bool :=
  if awaitsPage p.hold || awaitsPage q.hold then overlaps p.va p.size q.va q.size else overlaps p.pa p.size q.pa q.size

/-- The thread of a lane of an access. -/
def accThread (s : State) (a : Acc) (lane : Nat) : Nat := (tabGet s.groups a.grp).elim lane (fun g => threadOf g lane)

/-- An earlier access of the same thread to an overlapping place is not yet performed (R118, R172), or was replayed or
issued again as this one was (R174); or this is a load or store through the L1 and the core has an earlier write of the line
under way, whose value the L1 may have shown already (R118). Within one instruction, stores to a common byte outside the pumps,
whose coalescer puts them together, and atomics to the host go in ascending sr.laneid (R365, R369). -/
def partBlocked (s : State) (id : Nat) (a : Acc) (p : Part) : Bool :=
  (accWrites a && a.parts.any (fun q => !q.2.done && decide (q.2.lane < p.lane) &&
    (if accStores a && a.kind != .red then (match p.home with | .pump _ => false | _ => partsOverlap p q.2)
     else p.home == .host && q.2.home == .host))) ||
  s.accs.any (fun b => decide (b.1 < id) &&
    ((b.2.gser == a.gser && b.2.kind != .waita &&
      b.2.parts.any (fun q => !q.2.done && accThread s a q.2.lane == accThread s a p.lane &&
        (partsOverlap p q.2 || (p.replayed && q.2.replayed)))) ||
     (p.l1 && b.2.core == a.core && accWrites b.2 &&
      b.2.parts.any (fun q => !q.2.done && !awaitsPage q.2.hold && q.2.pa / 128 == p.pa / 128))))

/-- The group of an access, while it is still the same group. -/
def accGroup (s : State) (a : Acc) : Option Grp := (tabGet s.groups a.grp).filter (fun g => g.serial == a.gser)

/-- Changes the group of an access. -/
def updAccGroup (s : State) (a : Acc) (f : Grp → Grp) : State :=
  updGroup s a.grp (fun g => if g.serial == a.gser then f g else g)

/-- Drops an access from the drains that wait for it; a drain with none left releases its slot (R374). -/
def drainDone (s : State) (id : Nat) : State :=
  let s1 : State := { s with accs := tabMap s.accs (fun _ (a : Acc) => if a.kind == .drain then { a with after := a.after.filter (· != id) } else a) }
  (s1.accs.filter (fun a => a.2.kind == .drain && a.2.after.isEmpty)).foldl
    (fun t a => updAccGroup { t with accs := tabDel t.accs a.1 } a.2 (fun g => slotFree g a.2.slot)) s1

/-- An access ends with a fault found after its issue (R362): it writes no destination register; the stop record
names its instruction. -/
def failAcc (s : State) (id : Nat) (key : KeyId) (pa cause va : Nat) : State :=
  match tabGet s.accs id with
  | none => s
  | some a =>
    let gid := (accGroup s a).elim 0 gidOf
    let s1 := { s with accs := tabDel s.accs id, waits := s.waits.filter (fun w => w.acc != id) }
    let s2 := updAccGroup s1 a (fun g => { slotFree g a.slot with faultPc := if a.kind = .pref then g.faultPc else some a.pc })
    let s3 := wakePath s2 a.grp (· == .address id) false
    let s4 := drainDone s3 id
    if a.kind = .pref then s4
    else if cause = fcIntegrity then haltKey s4 key (pumpUnit pa) gid va
    else haltRise s4 a.ctx cause (groupUnit a.grp) gid va true

/-- A wait that goes on keeps the cycle in which it began. -/
def keepHold (old new : Hold) : Hold :=
  match old, new with
  | .snap c, .snap _ => .snap c
  | .pool c, .pool _ => .pool c
  | .link c, .link _ => .link c
  | _, h => h

/-- Performs a part of a load at its home (R98, R142, R143), with the fill of a missed line (R96). The threads of one access
that read a line are counted as one read of it (R416, R426; DEDUCED, assumption log, row 61). -/
def loadAt (s : State) (id i : Nat) (a : Acc) (p : Part) : State :=
  let vf := ctxVf a.ctx
  match pumpRead s p.key p.ver a.snap p.pa p.size with
  | .done s1 d =>
    let first := !(a.parts.any (fun q => q.1 != i && q.2.done && q.2.pa / 128 == p.pa / 128 && q.2.va / 128 == p.va / 128))
    let s2 := if first then countRead s1 vf p.pa p.cmp else s1
    let s3 := if p.l1 && !poisoned s2 (p.pa / 128 * 128) 128 then
      l1Fill s2 a.core vf (p.pa / 128) (BitVec.ofNat 1024 (viewNat s2 p.key (p.pa / 128 * 128) 128)) else s2
    setPart s3 id i { p with
      res := BitVec.ofNat 128 (overlayBytes p.size (p.data2.toNat / 4) p.data.toNat d), done := true, hold := .no }
  | .stall s1 h => setPart s1 id i { p with hold := keepHold p.hold h }
  | .fault c => failAcc s id p.key p.pa c p.va

/-- Marks parts as performed. -/
def partsDone (s : State) (id : Nat) (is : List Nat) : State :=
  is.foldl (fun t i =>
    { t with accs := tabUpd t.accs id (fun a => { a with parts := tabUpd a.parts i (fun p => { p with done := true, hold := .no }) }) }) s

/-- Marks parts as held back. -/
def partsHold (s : State) (id : Nat) (is : List Nat) (h : Hold) : State :=
  is.foldl (fun t i =>
    { t with accs := tabUpd t.accs id (fun a => { a with parts := tabUpd a.parts i (fun p => { p with hold := keepHold p.hold h }) }) }) s

/-- The parts of a store that go to a line together: translated, not done, of one key. Which stores the
coalescer of R102 holds together the spec does not say: those of one instruction with one key, VER and CMP
(log row 74, DESIGN CHOICE). -/
def lineGroup (a : Acc) (line : Nat) : Tab Part :=
  match a.parts.find? (fun p => partPending p.2 && p.2.pa / 128 == line) with
  | none => []
  | some h => a.parts.filter (fun p => partPending p.2 && p.2.pa / 128 == line && p.2.key == h.2.key && p.2.ver == h.2.ver && p.2.cmp == h.2.cmp)

/-- The bytes of the parts, in the order of the lanes (R365). -/
def groupPieces (ps : Tab Part) : Pieces := ps.map (fun p => (p.2.pa, leBytes p.2.data.toNat p.2.size))

/-- Performs the parts of a store that go to a line (R98, R107). -/
def storeAt (s : State) (id : Nat) (a : Acc) (ps : Tab Part) : State :=
  match ps with
  | [] => s
  | (_, h) :: _ =>
    let line := h.pa / 128
    let pieces := groupPieces ps
    let is := ps.map (·.1)
    match pumpWrites s h.key h.ver h.cmp h.pa pieces none none with
    | .done s1 _ =>
      partsDone (countWrite s s1 (ctxVf a.ctx) h.pa h.cmp h.ver (piecesMask line pieces != BitVec.allOnes 128)) id is
    | .stall s1 hd => partsHold s1 id is hd
    | .fault c => failAcc s id h.key h.pa c h.va

/-- Applies the operations of combined parts one after another (R369): the results and the final value. -/
def combineParts (ty : Ty) (op : AOp) (size : Nat) (v : Nat) : Tab Part → List (Nat × Nat) × Nat
  | [] => ([], v)
  | (i, p) :: ps =>
    let (rs, v') := combineParts ty op size (aopApply ty op size v p.data.toNat p.data2.toNat) ps
    ((i, v) :: rs, v')

/-- Performs the parts of a replayed atomic on the view of its transaction, one after another (R150). -/
def atomView (v : TxView) (id : Nat) (a : Acc) : State → Tab Part → State
  | s, [] => s
  | s, (i, p) :: ps =>
    match viewAtomic s a.grp v p.key p.cmp p.va p.pa p.size (fun old => aopApply a.ty a.op p.size old p.data.toNat p.data2.toNat) with
    | .stall s1 hd => setPart s1 id i { p with hold := keepHold p.hold hd }
    | .fault c => failAcc s id p.key p.pa c p.va
    | .done s1 old => atomView v id a (setPart s1 id i { p with res := BitVec.ofNat 128 old, done := true, hold := .no }) ps

/-- Performs combined parts of an atomic as one read-modify-write at their home (R119, R368, R369). -/
def atomAt (s : State) (id : Nat) (a : Acc) (ps : Tab Part) : State :=
  match ps with
  | [] => s
  | (_, h) :: _ =>
    if h.ver && a.tx.isSome then a.tx.elim s (fun v => atomView v id a s ps) else
    let is := ps.map (·.1)
    match pumpRead s h.key h.ver none h.pa h.size with
    | .stall s1 hd => partsHold s1 id is hd
    | .fault c => failAcc s id h.key h.pa c h.va
    | .done s1 old =>
      let (rs, v) := combineParts a.ty a.op h.size old ps
      match pumpWrite s1 h.key h.ver h.cmp h.pa (leBytes v h.size) none none with
      | .stall s2 hd => partsHold s2 id is hd
      | .fault c => failAcc s id h.key h.pa c h.va
      | .done s2 _ =>
        let s3 := countWrite s (pumpCount s2 (ctxVf a.ctx) h.pa 0 1) (ctxVf a.ctx) h.pa h.cmp h.ver true
        partsDone (rs.foldl (fun t r =>
          { t with accs := tabUpd t.accs id (fun a => { a with parts := tabUpd a.parts r.1 (fun p => { p with res := BitVec.ofNat 128 r.2 }) }) }) s3) id is

/-- The parts that an atomic combines with a part: those that name its address (R369); none at a host window. -/
def atomGroup (a : Acc) (i : Nat) (p : Part) : Tab Part :=
  if p.home = .host then [(i, p)] else a.parts.filter (fun q => partPending q.2 && q.2.pa == p.pa)

/-- A load of this kind is answered at its home. -/
def isLoad (k : AccKind) : Bool := k == .load || k == .ldx
def isStore (k : AccKind) : Bool := k == .store || k == .stx
def isAtom (k : AccKind) : Bool := k == .atomic || k == .red

/-- Parts that wait at the pump for a snapshot or for a version record have steps of their own. -/
def waitsOwn (h : Hold) : Bool :=
  match h with
  | .snap _ | .pool _ => true
  | _ => false

/-- Runs `f` on a pending part of an access that nothing holds back. -/
def onPart (s : State) (acc part : Nat) (f : Acc → Part → State) : State :=
  match tabGet s.accs acc with
  | none => s
  | some a =>
    match tabGet a.parts part with
    | none => s
    | some p => if partPending p && !waitsOwn p.hold && !partBlocked s acc a p then f a p else s

/-- A home that is reached over a link: on another package, or the host from a package that is not the bridge (R281). -/
def linkHome (s : State) (h : Home) : Bool := (destOf s h).isSome

/-- The part travels over a link. -/
def linkPart (s : State) (p : Part) : Bool := linkHome s p.home

/-- BANK_ACCESS (R98): a part is performed at a cistern's bank unit, or by the host. -/
def execBankAccess (acc part : Nat) (s : State) : Host.Outcome State Fault Refusal :=
  event s (onPart s acc part (fun a p =>
    match p.home with
    | .bank _ | .host =>
      if linkPart s p then s
      else if isLoad a.kind then loadAt s acc part a p
      else if isStore a.kind then storeAt s acc a [(part, p)]
      else if isAtom a.kind then
        let ps := atomGroup a part p
        if ps.any (fun q => partBlocked s acc a q.2) then s else atomAt s acc a ps
      else s
    | _ => s))

/-- A store's write of a line at its pump: the coalescer sends a full write when the stores cover the line (R102). -/
def pumpStore (s : State) (acc line : Nat) (full : Bool) : State :=
  match tabGet s.accs acc with
  | none => s
  | some a =>
    let ps := lineGroup a line
    if isStore a.kind && ps.all (fun p => (match p.2.home with | .pump _ => true | _ => false) && !waitsOwn p.2.hold && !partBlocked s acc a p.2) &&
        (piecesMask line (groupPieces ps) == BitVec.allOnes 128) == full
    then storeAt s acc a ps else s

/-- PUMP_FULL_WRITE (R107). -/
def execPumpFullWrite (acc line : Nat) (s : State) : Host.Outcome State Fault Refusal := event s (pumpStore s acc line true)

/-- PUMP_PARTIAL_WRITE (R102, R107). -/
def execPumpPartialWrite (acc line : Nat) (s : State) : Host.Outcome State Fault Refusal := event s (pumpStore s acc line false)

/-- The home is a pump of this package. -/
def atPump (p : Part) : Bool := match p.home with | .pump _ => true | _ => false

/-- PUMP_READ (R108). -/
def execPumpRead (acc part : Nat) (s : State) : Host.Outcome State Fault Refusal :=
  event s (onPart s acc part (fun a p => if atPump p && isLoad a.kind then loadAt s acc part a p else s))

/-- PUMP_ATOMIC (R119, R368, R369). -/
def execPumpAtomic (acc part : Nat) (s : State) : Host.Outcome State Fault Refusal :=
  event s (onPart s acc part (fun a p =>
    let ps := atomGroup a part p
    if atPump p && isAtom a.kind && !(ps.any (fun q => partBlocked s acc a q.2 || waitsOwn q.2.hold)) then atomAt s acc a ps else s))

/-- REENCRYPT_COMPLETE (R109): the group is re-encrypted and its stalled writes proceed. -/
def execReencryptComplete (grp : Nat) (s : State) : Host.Outcome State Fault Refusal :=
  event s (endReenc s grp)

/-- A value of `8 * size` bits as the registers of a type hold it: small signed integers are extended (R364). -/
def loadVal (ty : Ty) (scalar : Bool) (v : Nat) : Nat :=
  if scalar then (if ty.isSi && ty.bits ≤ 32 then sext ty.bits 64 v else v)
  else if ty.isSi && ty.bits < 32 then sext ty.bits 32 v else v

/-- Writes of one part of a load or atomic (R81, R83, R364, R366, R369). -/
def partWrites (g : Grp) (a : Acc) (p : Part) : List RegW :=
  match a.d with
  | .s i => wrS i.toNat ((a.ty.bits + 63) / 64) (loadVal a.ty true p.res.toNat)
  | .v i =>
    let n := (a.ty.bits + 31) / 32
    let v := loadVal a.ty false p.res.toNat
    let all := lanesOf g (threadOf g p.lane)
    if a.kind = .ldx ∧ p.data2.toNat % 4 = 1 then wrV i.toNat p.lane n v
    else if a.kind = .ldx ∧ p.data2.toNat % 4 = 2 then
      let (x, y, z) := meandigUnpack p.res.toNat
      if !g.triplex then wrV i.toNat p.lane 1 (p.res.toNat / 32 * 32 % 2 ^ 32)
      else ((all.zip [x, y, z]).map (fun lv => wrV i.toNat lv.1 1 lv.2)).flatten
    else (all.map (fun l => wrV i.toNat l n v)).flatten
  | _ => []

/-- The group's stalled instruction still needs a held register (R234). -/
def stillHeld (s : State) (k : Nat) (g : Grp) : Bool :=
  match (fetch s k g).2 with
  | .word i =>
    match sig i, fields i with
    | some σ, some f => wordGate s g i σ f (activeMask g f.hdr) == .faultWait
    | _, _ => false
  | .cause _ | .wait => false

/-- A group in FAULT_WAIT whose held registers are written becomes READY (R220). -/
def endFaultWait (s : State) (k : Nat) : State :=
  match tabGet s.groups k with
  | some g => if g.state = .faultWait ∧ !stillHeld s k g then setGroup s k { g with state := .ready, readyAt := s.cycle } else s
  | none => s

/-- All parts of an access are performed. -/
def allDone (a : Acc) : Bool := a.parts.all (·.2.done)

/-- MEMORY_RESPONSE (R232, R234): the data reaches the core, destinations are written and the slot goes down. -/
def respond (s : State) (acc : Nat) : State :=
  match tabGet s.accs acc with
  | none => s
  | some a =>
    match a.kind with
    | .load | .ldx | .atomic =>
      if !allDone a then s
      else
        let s0 := { s with accs := tabDel s.accs acc }
        match accGroup s0 a with
        | none => s0
        | some g =>
          let ws := ((a.parts.map (fun p => partWrites g a p.2)).flatten).filter (fun w => !a.cancel.contains w.cell)
          let s1 := setGroup s0 a.grp (slotFree (landCells g ws) a.slot)
          let s2 := if a.acq then acquireL1 s1 a.grp (ctxVf a.ctx) a.scope else s1
          endFaultWait s2 a.grp
    | .pref => if allDone a then { s with accs := tabDel s.accs acc } else s
    | _ => s

def execMemoryResponse (acc : Nat) (s : State) : Host.Outcome State Fault Refusal := event s (respond s acc)

/-- STORE_ACK (R293, R96): the home's acknowledgement of a store or reduction. -/
def storeAck (s : State) (acc : Nat) : State :=
  match tabGet s.accs acc with
  | none => s
  | some a =>
    if accStores a && allDone a then
      drainDone (updAccGroup { s with accs := tabDel s.accs acc } a (fun g => slotFree g a.slot)) acc
    else s

def execStoreAck (acc : Nat) (s : State) : Host.Outcome State Fault Refusal := event s (storeAck s acc)

/-- The key that KEYSTAGE holds (R111). -/
def stagedKey (s : State) : BitVec 256 :=
  BitVec.ofNat 256 ((s.pkg.keystage.zipIdx).foldl (fun n (w, i) => n + w.toNat * 2 ^ (64 * i)) 0)

/-- A command consumes KEYSTAGE and clears it (R111). -/
def takeKey (s : State) : State := { s with pkg := { s.pkg with keystage := [0, 0, 0, 0] } }

/-- A window key slot. -/
def getWin (s : State) (slot : Nat) : Win := tabGetD s.wins slot ⟨.empty, [], none, []⟩
def putWin (s : State) (slot : Nat) (w : Win) : State := { s with wins := tabPut s.wins slot w }

/-- Sets or erases the root counters of a key, one on each die (R105, R112). -/
def setRoot (s : State) (root : Nat) : State :=
  { s with lines := { s.lines with roots := s.lines.roots.filter (fun r => r.1 % 2048 != root) } }

/-- WKEY_LOAD (R112). -/
def execWkeyLoad (slot : Nat) (s : State) : Host.Outcome State Fault Refusal :=
  event s (if slot < 256 ∧ (getWin s slot).state = .empty then
    takeKey (setRoot (putWin s slot { getWin s slot with state := .active, todo := [], key := some (stagedKey s) }) (rootOf (.win slot)))
  else s)

/-- Lines of a window: those that a WIN page of its slot maps in some context's tables (R110), and those stored under the
slot, in the wells of this package. -/
def winLines (s : State) (slot : Nat) : List Nat :=
  let mapped := ((allLeaves s).filter (fun e => pteWin e.1 && pteWkey e.1 == slot)).eraseDups.flatMap
    (fun e => (List.range (2 ^ e.2 / 128)).map (fun i => ptePa e.1 / 128 + i))
  let stored := tabKeys s.lines.lines (fun n l => l.sealed.any (fun e => e.owner == .win slot) && !mapped.contains n)
  (stored ++ mapped).filter (fun n => ownWell s (128 * n))

/-- WKEY_REKEY (R112): LEFT becomes the number of the window's lines, which the device finds itself; the row's list of lines
names none of them. -/
def execWkeyRekey (slot : Nat) (_lines : List Nat) (s : State) : Host.Outcome State Fault Refusal :=
  event s (if slot < 256 ∧ (getWin s slot).state = .active then
    let ls := winLines s slot
    takeKey (putWin s slot { getWin s slot with
      state := if ls.isEmpty then .active else .rekeying, todo := ls, key := some (stagedKey s) })
  else s)

/-- WKEY_CLEAR (R112). -/
def execWkeyClear (slot : Nat) (s : State) : Host.Outcome State Fault Refusal :=
  event s (if slot < 256 ∧ (getWin s slot).state = .active then
    setRoot (putWin s slot { getWin s slot with state := .empty, key := none, todo := [] }) (rootOf (.win slot))
  else s)

/-- REKEY_LINE (R112): one line of the window is rewritten under the new key, its major counter goes up and its
minors are 0; the last one ends the re-keying. -/
def execRekeyLine (slot line : Nat) (s : State) : Host.Outcome State Fault Refusal :=
  event s (
    let w := getWin s slot
    if w.state = .rekeying ∧ w.todo.contains line then
      let s1 := nextMajor s (groupOf line) (.win slot)
      let l := { lineOf s1 line with minor := 0, bad := false }
      let s2 := { s1 with lines := { s1.lines with lines := tabPut s1.lines.lines line l } }
      let s3 := { s2 with lines := { s2.lines with lines := tabPut s2.lines.lines line { l with sealed := some (sealNow s2 line (.win slot)) } } }
      let ls := w.todo.filter (· != line)
      putWin s3 slot { w with todo := ls, state := if ls.isEmpty then .active else .rekeying }
    else s)

/-- SNAPSHOT_WAIT_END (R143): waiting snapshot reads of an access are answered once the wait and any lock allow. -/
def execSnapshotWaitEnd (acc : Nat) (s : State) : Host.Outcome State Fault Refusal :=
  event s (
    match tabGet s.accs acc with
    | none => s
    | some a =>
      a.parts.foldl (fun t ip =>
        match tabGet t.accs acc, ip.2.hold with
        | some b, .snap since =>
          if isLoad a.kind && partPending ip.2 then
            let t1 := loadAt t acc ip.1 b ip.2
            if ((tabGet t1.accs acc).bind (fun b => tabGet b.parts ip.1)).any (·.done) then
              pumpCount t1 (ctxVf a.ctx) ip.2.pa 5 (s.cycle - since)
            else t1
          else if isAtom a.kind && partPending ip.2 then atomAt t acc b [ip]
          else t
        | some b, .lock => if isLoad a.kind && partPending ip.2 then loadAt t acc ip.1 b ip.2 else t
        | _, _ => t) s)

/-- A record can be had for a line (R157). -/
def recordFree (s : State) (line : Nat) : Bool :=
  (lineOf s line).older.length < 14 && (getDie s (line / 2 ^ 32 % 8)).poolUsed < poolRecords s

/-- Parts of an access that wait for a version record. -/
def poolParts (a : Acc) : Tab Part := a.parts.filter (fun p => !p.2.done && (match p.2.hold with | .pool _ => true | _ => false))

/-- POOL_WAIT_END (R157): waiting writes obtain their records and proceed, line by line. -/
def execPoolWaitEnd (acc : Nat) (s : State) : Host.Outcome State Fault Refusal :=
  event s (
    match tabGet s.accs acc with
    | none => s
    | some a =>
      match (poolParts a).find? (fun p => recordFree s (p.2.pa / 128)) with
      | none => s
      | some (i, p) =>
        if isStore a.kind then storeAt s acc a (lineGroup a (p.pa / 128))
        else if isAtom a.kind then atomAt s acc a (atomGroup a i p)
        else s)

/-- POOL_WAIT_TIMEOUT (R157): a write that waited 65,536 cycles and has no record raises VERSION_POOL. -/
def execPoolWaitTimeout (acc : Nat) (s : State) : Host.Outcome State Fault Refusal :=
  event s (
    match tabGet s.accs acc with
    | none => s
    | some a =>
      match (poolParts a).find? (fun p => !recordFree s (p.2.pa / 128) &&
          (match p.2.hold with | .pool c => decide (c + 65536 ≤ s.cycle) | _ => false)) with
      | none => s
      | some (_, p) => failAcc s acc p.key p.pa fcVersionPool p.va)

/-- Wait table of a home: a cistern's has 64 entries, a pump's 256 (R271). -/
def waitHome : Home → Nat
  | .bank c => c
  | .pump p => 512 + p
  | _ => 1000
def waitRoom : Home → Nat
  | .bank _ => 64
  | .pump _ => 256
  | _ => 0

/-- The deadline of a WAITA that has none (R372). -/
abbrev noDeadline : Nat := 2 ^ 80

/-- The words of one WAITA at one home share an entry (R372): its fields, from E, M and the control word. -/
def waitEntry (s : State) (acc part : Nat) (a : Acc) (p : Part) : WaitEnt :=
  let ctl := p.data2.toNat
  let t := bits ctl 63 32
  { home := waitHome p.home, acc := acc, part := part, ctx := a.ctx, pa := p.pa, size := p.size,
    mask := BitVec.ofNat 64 (p.data.toNat / 2 ^ 64), exp := BitVec.ofNat 64 p.data.toNat,
    cmp := bits ctl 2 0, deadline := if t = 0xFFFFFFFF then noDeadline else s.gts + t }

/-- WAITA_REGISTER (R271, R272, R372): the comparison, then a TIMEOUT of 0, then the table's room. -/
def execWaitaRegister (acc part : Nat) (s : State) : Host.Outcome State Fault Refusal :=
  event s (onPart s acc part (fun a p =>
    if a.kind != .waita || s.waits.any (fun w => w.acc == acc && w.pa == p.pa) then s
    else
      match pumpRead s p.key false none p.pa p.size with
      | .stall s1 h => setPart s1 acc part { p with hold := keepHold p.hold h }
      | .fault c => failAcc s acc p.key p.pa c p.va
      | .done s1 v =>
        let w := waitEntry s acc part a p
        let s2 := setPart s1 acc part { p with hold := .no }
        let answer := fun code => partDone s2 acc p.pa (BitVec.ofNat 128 v) code
        if waitHolds s1 w then answer waWoken
        else if bits p.data2.toNat 63 32 = 0 then answer waTimeout
        else if waitRoom p.home ≤ s1.waits.countP (fun x => x.home == w.home) then answer waFull
        else { s2 with waits := s2.waits ++ [w] }))

/-- WAITA_DEADLINE (R272): an armed entry whose deadline has passed ends with TIMEOUT and the current value. -/
def execWaitaDeadline (acc part : Nat) (s : State) : Host.Outcome State Fault Refusal :=
  event s (
    match s.waits.find? (fun w => w.acc == acc && w.part == part && decide (w.deadline ≤ s.gts)) with
    | none => s
    | some w =>
      partDone { s with waits := s.waits.filter (fun x => x != w) } acc w.pa (BitVec.ofNat 128 (waitVal s w)) waTimeout)

/-- Writes of one thread's WAITA (R372): the value, then the status in the next register. -/
def waitWrites (g : Grp) (a : Acc) (p : Part) : List RegW :=
  match a.d with
  | .v i =>
    let n := (a.ty.bits + 31) / 32
    ((lanesOf g (threadOf g p.lane)).map (fun l =>
      wrV i.toNat l n p.res.toNat ++ wrV (i.toNat + n) l 1 (p.data2.toNat % 4))).flatten
  | _ => []

/-- WAITA_WAKE (R372): every entry has a result; the path goes on past the WAITA. A WOKEN .acq is an acquire. -/
def execWaitaWake (acc : Nat) (s : State) : Host.Outcome State Fault Refusal :=
  event s (
    match tabGet s.accs acc with
    | none => s
    | some a =>
      if a.kind != .waita || !allDone a then s
      else
        let s0 := { s with accs := tabDel s.accs acc }
        match accGroup s0 a with
        | none => s0
        | some g =>
          let ws := ((a.parts.map (fun p => waitWrites g a p.2)).flatten).filter (fun w => !a.cancel.contains w.cell)
          let s1 := setGroup s0 a.grp (slotFree (landCells g ws) a.slot)
          let woken := a.parts.any (fun p => p.2.data2.toNat % 4 == waWoken)
          let s2 := if a.acq && woken then acquireL1 s1 a.grp (ctxVf a.ctx) a.scope else s1
          endFaultWait (wakePath s2 a.grp (· == .address acc) true) a.grp)

end Sys2Proof.Machine
end

