-- ==== Sys2Proof/Machine/PageEv.lean ====
section
/-! DEFINITION. The walk units' own steps: walks, dirty bits, fault records, replay and cancel, and invalidation
(07_page R159 to R177). -/

namespace Sys2Proof.Machine

open Sys2Proof

/-- A context whose accesses the device translates. -/
def ctxWalks (s : State) (ck : Nat) : Bool :=
  (tabGet s.ctxs ck).any (fun c => c.state == .running || c.state == .halting || c.state == .saving)

/-- PAGE_WALK (R159, R168, R170): a miss of an address below 2^55 walks the tables; the leaf found is cached with A
set. -/
def execPageWalk (ctx die va : Nat) (s : State) : Host.Outcome State Fault Refusal :=
  event s (if !ctxWalks s ctx || die ≥ 8 || 2 ^ 55 ≤ va || (tlbFind s (512 + die) (ctxVf ctx) false va).isSome then s else
    match walkFill s ctx (512 + die) false va 0 with
    | .leaf s1 _ => s1
    | .bad s1 _ => s1
    | .absent _ => s)

/-- A unit that uses the TLB of an entry. -/
def entAgent (e : TlbEnt) : Agent := match e.level with | 1 => e.at_ | 2 => 8 * e.at_ | _ => 512 + e.at_

/-- A write of the context that is not yet performed was translated through a cached leaf: its core uses the entry's TLB, and
it stands where the leaf puts the page. -/
def writePending (s : State) (ctx va : Nat) (e : TlbEnt) : Bool :=
  s.accs.any (fun a => a.2.ctx == ctx && accWrites a.2 && (tlbsOf a.2.core).any (fun t => t.1 == e.level && t.2.1 == e.at_) &&
    a.2.parts.any (fun p => partPending p.2 && p.2.va / 2 ^ e.bits == va / 2 ^ e.bits && p.2.pa / 2 ^ 16 == (ptePa e.pte + p.2.va % 2 ^ e.bits) / 2 ^ 16))

/-- The tables still hold the leaf of a cached entry, in what a write through it needs. -/
def leafStands (s : State) (ck va : Nat) (e : TlbEnt) : Bool :=
  match walk s ck (agentDie (entAgent e)) false va with
  | .leaf p _ b _ => b == e.bits && ptePa p == ptePa e.pte && pteW p
  | _ => false

/-- SET_DIRTY (R170): before the first write through a cached leaf with W = 1 and D = 0, D is set; where the tables hold another
leaf by now, nothing is set. -/
def execSetDirty (ctx va : Nat) (s : State) : Host.Outcome State Fault Refusal :=
  event s (if !ctxWalks s ctx then s else
    match s.tlb.find? (fun e => e.vf == ctxVf ctx && !e.text && va / 2 ^ e.bits == e.base && pteW e.pte && !pteD e.pte && writePending s ctx va e) with
    | some e => if leafStands s ctx va e then setDirty s ctx (entAgent e) va else s
    | none => s)

/-- The record of a page no longer waits for its ring (R172). -/
def recordPlaced (page seq : Nat) (h : Hold) : Hold :=
  match h with
  | .ring p => if p = page then .page page seq else h
  | _ => h

/-- FAULT_RECORD_WAIT_END (R172, R198): the first waiting record of a context is appended once its ring has room. -/
def execFaultRecordWaitEnd (ctx : Nat) (s : State) : Host.Outcome State Fault Refusal :=
  event s (
    match (tabGet s.ctxs ctx).bind (fun c => c.faults.find? (·.waiting)) with
    | none => s
    | some f =>
      match ringPush s ctx .fault f.words with
      | none => s
      | some s1 =>
        let s2 := updCtx s1 ctx (fun c => { c with faults := c.faults.map (fun x => if x.seq = f.seq then { x with waiting := false } else x) })
        let s3 := mapSess s2 (fun y => if y.ctx = ctx then { y with held := recordPlaced f.page f.seq y.held } else y)
        { s3 with
          accs := tabMap s3.accs (fun _ (a : Acc) => if a.ctx = ctx then { a with parts := tabMap a.parts (fun _ p => { p with hold := recordPlaced f.page f.seq p.hold }) } else a),
          ops := tabMap s3.ops (fun _ (o : EngOp) => if o.ctx = ctx then { o with held := recordPlaced f.page f.seq o.held } else o) })

/-- The serial number lies within the previous 2^31 up to `seq` (R174). -/
def seqSelected (seq x : Nat) : Bool := (seq + 2 ^ 32 - x) % 2 ^ 32 < 2 ^ 31

/-- The part waits on a selected record. -/
def selectedHold (seqs : List Nat) (h : Hold) : Bool :=
  match h with
  | .page _ n => seqs.contains n
  | _ => false

/-- The kind of check that an access in flight makes (R171). -/
def accMKind (a : Acc) : MKind :=
  match a.kind with
  | .load => .load
  | .ldx => .ldx
  | .store => .store
  | .stx => .stx
  | .waita => .waita
  | _ => .atomic

/-- What a replayed access of one thread becomes: its new parts, or a fault. -/
inductive Replayed where
  | ok (s : State) (ps : List Part)
  | fault (s : State) (cause : Nat)

/-- The value of sibling `q` among the kept parts of a held STX. -/
def keptVal (ps : Tab Part) (q : Nat) : Nat := ((ps[q]?).orElse (fun _ => ps.head?)).elim 0 (fun p => p.2.data.toNat)

/-- The value of sibling `q` in a thread's STX: as it was kept, or as the layout of its first translation held it. -/
def keptSib (ps : Tab Part) (q : Nat) : Nat :=
  match ps.head? with
  | some (_, p) =>
    if p.data2 = 6 then
      let (x, y, z) := meandigUnpack p.data.toNat
      [x, y, z].getD q 0
    else keptVal ps q
  | none => 0

/-- The writes of a replayed STX on a page of a layout (R81, R82, R87, R367); data formed for the same layout stand. -/
def stxAgain (a : Acc) (g : Grp) (x : Xl) (h : Part) (ps : Tab Part) : List Wr :=
  let w := fun lane pa v => Wr.mk lane h.va pa h.size v
  if x.numx = 1 then
    [0, 1, 2].map (fun q => w (firstLane g (threadOf g h.lane) + (if g.triplex then q else 0)) (x.frame + 3 * x.off + q * h.size) (keptSib ps q))
  else
    [w (firstLane g (threadOf g h.lane)) x.pa (
      if h.data2 = BitVec.ofNat 128 (4 + x.numx) then h.data.toNat
      else if x.numx = 2 then meandigPack (keptSib ps 0) (keptSib ps 1) (keptSib ps 2)
      else if g.triplex then median a.ty a.ty.bits (keptSib ps 0) (keptSib ps 1) (keptSib ps 2)
      else keptSib ps 0)]

/-- A store of the core that was issued after an access has its way to the line before it: the L1 shows its bytes already
(R118). -/
def laterStores (s : State) (id core line : Nat) : Bool :=
  s.accs.any (fun b => decide (id < b.1) && b.2.core == core && accWrites b.2 &&
    b.2.parts.any (fun q => !q.2.done && !awaitsPage q.2.hold && q.2.pa / 128 == line))

/-- The store or atomic of a replayed access at its translated address, in the transaction in which it was issued (R81, R82,
R150, R365 to R369). Where a later store of the core to the line is under way, the L1 gives the line up (R97, R118; assumption
log, row 29). -/
def replayWrite (s : State) (id : Nat) (a : Acc) (g : Grp) (x : Xl) (h : Part) (ps : Tab Part) : Replayed :=
  let size := h.size
  let w := fun lane pa v => Wr.mk lane h.va pa size v
  let put := fun ws =>
    let r := (ws.foldl (putWr a.grp g a.tx x false) (s, []))
    let t := r.2.foldl (fun t p => if p.l1 && laterStores t id a.core (p.pa / 128) then l1Drop t a.core (ctxVf a.ctx) (p.pa / 128) else t) r.1
    Replayed.ok (if x.win then updGroup t a.grp unmark else t) r.2
  match a.kind with
  | .store => put [w h.lane x.pa h.data.toNat]
  | .stx => put (stxAgain a g x h ps)
  | .waita =>
    match homeOf s.pkg.id x.pa with
    | .bank _ | .pump _ => .ok (l1Drop s a.core (ctxVf a.ctx) (x.pa / 128)) [memPart s h.lane h.va size x x.pa h.data.toNat h.data2.toNat]
    | _ => .fault s fcProtection
  | _ =>
    if homeOf s.pkg.id x.pa == .host && !hostOp a.op then .fault s fcProtection
    else .ok (l1Drop s a.core (ctxVf a.ctx) (x.pa / 128)) [memPart s h.lane h.va size x x.pa h.data.toNat h.data2.toNat]

/-- The view of a transaction that a replayed load reads (R150, R174): its buffer as it stands while the transaction is open,
with the stores of its thread that were replayed before it. A later store of its thread to its bytes has waited (R118). -/
def replayView (g : Grp) (tx : Option TxView) : Option TxView :=
  tx.map (fun v => if v.id = g.tx.id ∧ g.tx.state = .open then { v with lines := g.tx.lines } else v)

/-- One thread's held access walks again (R174): it is held on a new record, or becomes its parts. -/
def replayThread (s : State) (id : Nat) (a : Acc) (g : Grp) (h : Part) (ps : Tab Part) : Replayed :=
  let mk := accMKind a
  match translateOnly s a.ctx a.core h.va (mk.use g.triplex a.ty h.size) with
  | .fault s1 c => .fault s1 c
  | .absent s1 l =>
    if (tabGet s1.ctxs a.ctx).any dpage then
      let (s2, seq) := noteFault s1 a.ctx h.va mk.code l (gidOf g) (dieOf a.grp) (a.core % 64)
      .ok s2 (ps.map (fun p => { p.2 with hold := if p.2.done then p.2.hold else heldBy s2 a.ctx (pageOf h.va) seq }))
    else .fault s1 fcTranslation
  | .ok s1 x =>
    let s2 := if mk.writes then dirtyFor s1 a.ctx a.core h.va else s1
    if isLoad a.kind then .ok s2 (loadParts s2 a.grp g (replayView g a.tx) (threadOf g h.lane) h.va h.size x false)
    else replayWrite s2 id a g x h ps

/-- Puts new parts in the places of old ones: the first takes the first place, further ones go to the end. -/
def replaceParts (parts : Tab Part) (old : List Nat) (new : List Part) : Tab Part :=
  let kept := parts.filter (fun p => !old.contains p.1)
  let free := parts.foldl (fun n p => max n (p.1 + 1)) 0
  let places := old ++ (List.range new.length).map (fun i => free + i)
  (places.zip new).foldl (fun t p => tabPut t p.1 p.2) kept

/-- An access that proves to be on a WIN page acts at .sys (R137). -/
def provenWin (a : Acc) (new : List Part) : Acc :=
  if new.any (fun p => match p.key with | .win _ => true | .vf _ => false) then { a with win := true, scope := .sys } else a

/-- A thread's new parts stand in place of its held ones; they are performed after what it replayed before (R174). -/
def replayedParts (a : Acc) (old : List Nat) (new : List Part) : Acc :=
  { provenWin a new with parts := replaceParts a.parts old (new.map (fun p => { p with replayed := true })) }

/-- What a thread's access becomes: pieces that were performed before it was withdrawn stay performed (R113). -/
def keepDone (old new : List Part) : List Part :=
  if new.length = old.length then List.zipWith (fun o n => if o.done then o else n) old new else new

/-- Replays the threads of one access that are held in a given way, in order of their parts. -/
def replayAcc (sel : Hold → Bool) : Nat → State → Nat → State
  | 0, s, _ => s
  | n + 1, s, id =>
    match tabGet s.accs id with
    | none => s
    | some a =>
      match accGroup s a, a.parts.find? (fun p => !p.2.done && sel p.2.hold) with
      | some g, some (_, h) =>
        let ps := a.parts.filter (fun p => threadOf g p.2.lane == threadOf g h.lane)
        match replayThread s id a g h ps with
        | .fault s1 c => failAcc s1 id (.vf (ctxVf a.ctx)) 0 c h.va
        | .ok s1 new =>
          let s2 := { s1 with accs := tabUpd s1.accs id (fun a => replayedParts a (ps.map (·.1)) (keepDone (ps.map (·.2)) new)) }
          replayAcc sel n s2 id
      | _, _ => s

/-- A store whose parts have all gone into a transaction's buffer has nothing left to be acknowledged. -/
def ackEmpty (s : State) (id : Nat) : State :=
  match tabGet s.accs id with
  | some a => if a.parts.isEmpty then storeAck s id else s
  | none => s

/-- The outstanding records of a VF that a command selects (R174). A record that still waits for room in the ring has not been
appended, and is taken as not outstanding for this (DESIGN CHOICE, assumption log, row 70). -/
def selectedSeqs (s : State) (vf seq : Nat) : List Nat :=
  ((s.ctxs.filter (fun c => ctxVf c.1 == vf)).map (fun c => (c.2.faults.filter (fun f => !f.waiting && seqSelected seq f.seq)).map (·.seq))).flatten

/-- The selected records are no longer outstanding. -/
def dropRecords (s : State) (vf : Nat) (seqs : List Nat) : State :=
  { s with ctxs := tabMap s.ctxs (fun ck (c : Ctx) =>
      if ctxVf ck = vf then { c with faults := c.faults.filter (fun f => f.waiting || !seqs.contains f.seq) } else c) }

/-- Accesses and engine operations of a VF that are held on selected records. -/
def heldAccs (s : State) (vf : Nat) (seqs : List Nat) : List Nat :=
  tabKeys s.accs (fun _ a => ctxVf a.ctx == vf && a.parts.any (fun p => !p.2.done && selectedHold seqs p.2.hold))

/-- FLTREPLAY_REPLAY (R174): held accesses walk again, in program order; engine operations go on at their faulting
line. -/
def execFltreplayReplay (vf seq : Nat) (s : State) : Host.Outcome State Fault Refusal :=
  event s (
    let seqs := selectedSeqs s vf seq
    let ids := heldAccs s vf seqs
    let s1 := dropRecords s vf seqs
    let s2 := ids.foldl (fun t id => ackEmpty (replayAcc (selectedHold seqs) 300 t id) id) s1
    let s3 := mapSess s2 (fun y => if ctxVf y.ctx = vf ∧ selectedHold seqs y.held then { y with held := .no } else y)
    { s3 with ops := tabMap s3.ops (fun _ (o : EngOp) => if ctxVf o.ctx = vf ∧ selectedHold seqs o.held then { o with held := .no } else o) })

/-- Media sessions of a VF that wait on a selected record, with their engine. -/
def waitingSess (s : State) (vf : Nat) (seqs : List Nat) : List (Nat × Sess) :=
  (s.medias.map (fun m => (m.2.sess.filter (fun y => ctxVf y.ctx == vf && selectedHold seqs y.held)).map (fun y => (m.1, y)))).flatten

/-- The unit of a media engine (R187). -/
def mediaUnit (m : Nat) : UnitId := ⟨6, m / 2, 0, m % 2, 0⟩

/-- The unit of an engine operation's class (R187): copy engine, matrix sequencer, gather unit, siphon. -/
def opUnit (o : EngOp) : UnitId := ⟨if o.cls = 0 then 1 else if o.cls = 1 then 2 else if o.cls = 2 then 3 else 4, o.core / 64, o.core % 64, 0, 0⟩

/-- Groups of a VF whose spill, refill or slot read waits on a selected record, with its address (R172, R214). -/
def waitingGroups (s : State) (vf : Nat) (seqs : List Nat) : List (Nat × Nat) :=
  s.groups.filterMap (fun kg => if ctxVf kg.2.ctx == vf then (kg.2.waitRec.filter (fun r => seqs.contains r.1)).map (fun r => (kg.1, r.2)) else none)

/-- FLTREPLAY_CANCEL (R174): the selected accesses raise TRANSLATION. -/
def execFltreplayCancel (vf seq : Nat) (s : State) : Host.Outcome State Fault Refusal :=
  event s (
    let seqs := selectedSeqs s vf seq
    let ids := heldAccs s vf seqs
    let held := s.ops.filter (fun o => ctxVf o.2.ctx == vf && selectedHold seqs o.2.held)
    let s1 := dropRecords s vf seqs
    let media := waitingSess s1 vf seqs
    let groups := waitingGroups s1 vf seqs
    let vas := ids.map (fun id => (id, ((tabGet s1.accs id).bind (fun a => a.parts.find? (fun p => selectedHold seqs p.2.hold))).elim 0 (fun p => p.2.va)))
    let s2 := vas.foldl (fun t x => failAcc t x.1 (.vf vf) 0 fcTranslation x.2) s1
    let s3 := held.foldl (fun t o =>
      haltRise { t with ops := tabUpd t.ops o.1 (fun o => { o with held := .no }) } o.2.ctx fcTranslation (opUnit o.2) o.2.gid 0 true) s2
    let s4 := media.foldl (fun t my => haltRise t my.2.ctx fcTranslation (mediaUnit my.1) my.2.gid 0 true)
      (mapSess s3 (fun y => if ctxVf y.ctx = vf ∧ selectedHold seqs y.held then { y with held := .no } else y))
    groups.foldl (fun t kv => raiseGroup (updGroup t kv.1 (fun g => { g with waitRec := none })) kv.1 fcTranslation kv.2) s4)

/-- A command covers `.glb` bytes of a VF (R176). -/
def invCovers (s : State) (ctl : W64) (vf va n : Nat) : Bool :=
  match fld ctl 57 56 with
  | 0 => vf == fld ctl 8 0 && overlaps va n (invStart s.pkg.tlbinvVa) (invLen ctl)
  | 1 => vf == fld ctl 8 0
  | 2 => true
  | _ => false

/-- A command must wait for an access: it may have been translated through a removed leaf (R177). A part that a replayable
fault holds is not translated. -/
def invWaits (s : State) (ctl : W64) (a : Acc) : Bool :=
  a.kind != .drain && a.parts.any (fun p => (if accStores a then !awaitsPage p.2.hold else partPending p.2) &&
    invCovers s ctl (ctxVf a.ctx) p.2.va p.2.size)

/-- Transactions whose buffered stores a command must wait for: by group and serial number. -/
def invTxs (s : State) (ctl : W64) : List (Nat × Nat) :=
  (s.groups.filter (fun kg => (txOn kg.2 || kg.2.tx.state == .preparing) &&
    kg.2.tx.lines.any (fun l => invCovers s ctl (ctxVf kg.2.ctx) (128 * l.va) 128))).map (fun kg => (kg.1, kg.2.tx.id))

/-- Requests under way of engines, media engines, the launch unit and one-piece accesses, made for a VF that a command names
(R177). -/
def invFars (s : State) (ctl : W64) : List Nat :=
  tabKeys s.fars (fun _ r => r.owner != devOwner && r.res.isNone && r.refused.isNone && (fld ctl 57 56 == 2 || ctxVf r.ctx == fld ctl 8 0))

/-- That transaction is over. -/
def txOver (s : State) (kt : Nat × Nat) : Bool :=
  !(tabGet s.groups kt.1).any (fun g => g.tx.id == kt.2 && g.tx.state != .none && g.tx.state != .doomed)

/-- The RW fields of TLBINV_CTL (R176). -/
def invFields (w : W64) : W64 := w &&& 0x0300FFFFC00001FF#64

/-- A TLBINV_CTL write with GO = 1 (R176): ignored while BUSY and with SIZE 3. -/
def tlbinv (s : State) (ctl : W64) (scope : Nat) : State :=
  if s.pkg.tlbinvBusy || fld ctl 57 56 != scope || fld ctl 31 30 = 3 then s
  else
    { s with
      tlb := s.tlb.filter (fun e => !invRemoves s.pkg.tlbinvVa ctl e),
      walks := s.walks.filter (fun e => !invWalk ctl e),
      pkg := { s.pkg with
        tlbinvCtl := invFields ctl, tlbinvBusy := true, tlbinvAt := s.pkg.tlbinvVa, tlbinvOp := invFields ctl,
        tlbinvWait := tabKeys s.accs (fun _ a => invWaits s ctl a), tlbinvTx := invTxs s ctl, tlbinvFars := invFars s ctl } }

def execTlbinvRange (ctl : BitVec 64) (s : State) : Host.Outcome State Fault Refusal := event s (tlbinv s ctl 0)
def execTlbinvVf (ctl : BitVec 64) (s : State) : Host.Outcome State Fault Refusal := event s (tlbinv s ctl 1)
def execTlbinvAll (ctl : BitVec 64) (s : State) : Host.Outcome State Fault Refusal := event s (tlbinv s ctl 2)
def execTlbinvText (ctl : BitVec 64) (s : State) : Host.Outcome State Fault Refusal := event s (tlbinv s ctl 3)

/-- An access that a command waited for is performed: a load's parts at their home, a store acknowledged (R177); what a
replayable fault holds again is unaffected. -/
def invSettled (s : State) (id : Nat) : Bool :=
  match tabGet s.accs id with
  | none => true
  | some a => (!accStores a || a.parts.any (fun p => awaitsPage p.2.hold)) && a.parts.all (fun p => p.2.done || awaitsPage p.2.hold || s.waits.any (fun w => w.acc == id && w.pa == p.2.pa))

/-- A request that a command waited for has its answer. -/
def farSettled (s : State) (id : Nat) : Bool := !(tabGet s.fars id).any (fun r => r.res.isNone && r.refused.isNone)

/-- TLBINV_COMPLETE (R176, R177): BUSY clears and STAMP is written. -/
def execTlbinvComplete (s : State) : Host.Outcome State Fault Refusal :=
  event s (if s.pkg.tlbinvBusy && s.pkg.tlbinvWait.all (invSettled s) && s.pkg.tlbinvTx.all (txOver s) && s.pkg.tlbinvFars.all (farSettled s) then
    { s with pkg := { s.pkg with tlbinvBusy := false, tlbinvWait := [], tlbinvTx := [], tlbinvFars := [], tlbinvDone := s.gts } }
  else s)

end Sys2Proof.Machine
end

