-- ==== Sys2Proof/Machine/EngineEv.lean ====
section
/-! DEFINITION. Engine operations as they run: copies, gathers, matrix steps, read-outs and siphon jobs, and their
completion (11_queue R254, R255; 19_engines R391 to R405). -/

namespace Sys2Proof.Machine

open Sys2Proof

/-- The outcome of an access of an engine: done, a wait, a not-present page (KIND of its record's access, level), or a
failure. -/
inductive ER (α : Type) where
  | ok (s : State) (x : α)
  | stall (s : State) (h : Hold)
  | absent (s : State) (va level : Nat) (write : Bool)
  | fail (s : State) (cause va : Nat) (key : KeyId) (pa : Nat)

/-- Goes on with what an access gave. -/
def ER.bind {α β : Type} (r : ER α) (f : State → α → ER β) : ER β :=
  match r with
  | .ok s x => f s x
  | .stall s h => .stall s h
  | .absent s v l w => .absent s v l w
  | .fail s c v k p => .fail s c v k p

/-- A failure that the operation's own chapter names. -/
def ER.error {α : Type} (s : State) (cause va : Nat) : ER α := .fail s cause va (.vf 0) 0

/-- The engine of an operation has stopped for a halt (R186). -/
def opStopped (s : State) (o : EngOp) : Bool :=
  match tabGet s.ctxs o.ctx with
  | none => true
  | some c =>
    match c.state with
    | .running => (tabGet s.teams o.team).any (·.away.isSome) || c.saved.any (fun g => g.2.serial == o.gser)
    | .halting =>
      c.recs.any (fun r => r.unit == opUnit o) ||
        (match (getPart s (ctxPart c)).halt with
         | some h => h.own.any (fun x => x.unit == opUnit o) || decide (h.cyc + 4096 ≤ s.cycle)
         | none => true)
    | _ => true

/-- An operation that the queue order lets run: no earlier operation of its queue, no fence before it (R130, R131). -/
def opFirst (s : State) (id : Nat) (o : EngOp) : Bool :=
  (coreOps s o.core).all (fun x => !(decide (x.1 < id)) ||
    (x.2.cls != o.cls && !(x.2.cls == clsMarker && decide (o.cls < 4) && (markerMask x.2).getLsbD o.cls)))

/-- Replaces an operation. -/
def putEng (s : State) (id : Nat) (o : EngOp) : State := { s with ops := tabPut s.ops id o }

/-- Runs `f` on an operation that has started, has units left, and is not held or stopped. -/
def onOp (s : State) (id : Nat) (f : EngOp → State) : State :=
  match tabGet s.ops id with
  | some o => if o.started && decide (o.prog < o.total) && !opStopped s o && !awaitsPage o.held && opFirst s id o then f o else s
  | none => s

/-- The matrix sequencer of a core has run no step for 256 cycles (R19). -/
def seqIdle (s : State) (core : Nat) : Bool :=
  match (getCore s core).lastK with
  | none => true
  | some c => decide (c + 256 ≤ s.cycle)

/-- An MLOOP. -/
def isMloop (o : EngOp) : Bool :=
  match o.i with
  | .mloop _ | .mloopSp _ => true
  | _ => false

/-- A unit of an operation is done. -/
def opStep (o : EngOp) : EngOp := { o with prog := o.prog + 1, held := .no }

/-- The operation fails (R392): its engine is the unit, and it stays at its progress index. -/
def opFail (s : State) (id cause va : Nat) (key : KeyId) (pa : Nat) : State :=
  match tabGet s.ops id with
  | none => s
  | some o => if cause = fcIntegrity then haltKey s key (pumpUnit pa) o.gid va else haltRise s o.ctx cause (opUnit o) o.gid va true

/-- The owner of an operation's far requests: of a core's queue of one class only one operation runs. -/
def engOwner (o : EngOp) : Nat := 2 ^ 41 + o.core * 8 + o.cls

/-- Copies into the state what a waiting access leaves: re-encryption begun, requests to other packages, and the count of a
wait for a version record as it begins (R158). -/
def stallKeep (s s1 : State) (held h : Hold) : State :=
  let s2 := { keepFars s s1 with ctxs := s.ctxs }
  match h, held with
  | .pool _, .pool _ => { s2 with dies := s.dies }
  | _, _ => s2

/-- Ends an attempt at one unit of an operation that began in `s`: done, or the operation waits or fails (R172, R392). -/
def opEnd (s : State) (id : Nat) (o : EngOp) (rd wr : Nat) (r : ER State) : State :=
  match r with
  | .ok _ t => dropFars t (engOwner o) o.ctx
  | .stall s1 h =>
    let h' := keepHold o.held h
    match h' with
    | .pool c => if c + 65536 ≤ s.cycle then opFail s id fcVersionPool 0 (.vf 0) 0 else putEng (stallKeep s s1 o.held h) id { o with held := h' }
    | _ => putEng (stallKeep s s1 o.held h) id { o with held := h' }
  | .absent s1 va l w =>
    if (tabGet s.ctxs o.ctx).any dpage then
      let (s2, seq) := noteFault s1 o.ctx va (if w then wr else rd) l o.gid (o.core / 64) (o.core % 64)
      putEng s2 id { o with held := heldBy s2 o.ctx (pageOf va) seq }
    else opFail s1 id fcTranslation va (.vf 0) 0
  | .fail s1 c va k p => opFail s1 id c va k p

/-- Pieces of a range that lie in one 128-byte line each. -/
def lineSplit : Nat → Nat → Nat → List (Nat × Nat)
  | 0, _, _ => []
  | f + 1, a, n => if n = 0 then [] else let m := min n (128 - a % 128); (a, m) :: lineSplit f (a + m) (n - m)
def linePieces (a n : Nat) : List (Nat × Nat) := lineSplit (n / 128 + 2) a n

/-- A physical range in one page: base, bytes, key, VER and CMP. -/
structure PRange where
  pa : Nat
  n : Nat
  key : KeyId
  ver : Bool
  cmp : Bool
  numx : Nat
  va : Nat

/-- Translates the piece of one line (R169, R171): a TRIPLE page holds three bytes for each of the piece's. `u` is what the access asks of the page's layout. -/
def glbXlate (s : State) (ck : Nat) (a : Agent) (write : Bool) (u : NumxUse) (va n : Nat) : ER PRange :=
  match translate s ck a va ⟨!write, write, u, n, 3 * n⟩ with
  | .fault s1 c => .fail { s1 with raised := s.raised } c va (.vf (ctxVf ck)) ((s1.raised.drop s.raised.length).headD ⟨0, .vf 0, 0, 0⟩).pa
  | .absent s1 l => .absent s1 va l write
  | .ok s1 x =>
    if x.numx = 1 then .ok s1 ⟨x.frame + 3 * x.off, 3 * n, x.key, x.ver, x.cmp, 1, va⟩
    else .ok s1 ⟨x.pa, n, x.key, x.ver, x.cmp, x.numx, va⟩

/-- The same for an operation, whose piece may be `.loc`: it counts as PLAIN. -/
def engXlate (s : State) (o : EngOp) (loc write : Bool) (u : NumxUse) (va n : Nat) : ER PRange :=
  if loc then
    match tabGet s.teams o.team with
    | none => .error s fcProtection va
    | some t =>
      if !numxOk u 0 then .error s fcNumxAccess va
      else if locOk s o.team t va n then .ok s ⟨locAddr s t va, n, .vf (ctxVf o.ctx), false, false, 0, va⟩
      else .error s fcProtection va
  else glbXlate s o.ctx o.core write u va n

/-- Reads a physical range, line by line, at its home. -/
def readRange (s : State) (owner ck : Nat) (r : PRange) (snap : Option Nat) : ER (List Byte) :=
  let vf := ctxVf ck
  (linePieces r.pa r.n).foldl (fun (acc : ER (List Byte)) p =>
    acc.bind (fun s bs =>
      match agentRead s owner ck r.key r.ver snap p.1 p.2 true with
      | .done s1 d => .ok (countRead s1 vf p.1 r.cmp) (bs ++ leBytes d p.2)
      | .stall s1 h => .stall s1 h
      | .fault c => .fail s c r.va r.key p.1)) (ER.ok s [])

/-- Writes a physical range, line by line, at its home; the L1 copies of a core's engine go. -/
def writeRange (s : State) (owner ck : Nat) (core : Option Nat) (r : PRange) (bs : List Byte) : ER Unit :=
  let vf := ctxVf ck
  ((linePieces r.pa r.n).foldl (fun (acc : ER (List Byte)) p =>
    acc.bind (fun s bs =>
      match agentWrite s owner ck r.key r.ver r.cmp p.1 (bs.take p.2) true with
      | .done s1 _ => .ok (countWrite s (core.elim s1 (fun c => l1Drop s1 c vf (p.1 / 128))) vf p.1 r.cmp r.ver (p.2 != 128)) (bs.drop p.2)
      | .stall s1 h => .stall s1 h
      | .fault c => .fail s c r.va r.key p.1)) (.ok s bs)).bind (fun s _ => .ok s ())

/-- Reads `n` bytes at an address: the bytes, and the layouts of the pages passed. -/
def engRead (s : State) (o : EngOp) (loc layout : Bool) (snap : Option Nat) (va n : Nat) : ER (List Byte × List Nat) :=
  (linePieces va n).foldl (fun (acc : ER (List Byte × List Nat)) p =>
    acc.bind (fun s x =>
      (engXlate s o loc false (if layout then .any else .plain) p.1 p.2).bind (fun s r =>
        (readRange s (engOwner o) o.ctx r snap).bind (fun s bs => .ok s (x.1 ++ bs, x.2 ++ [r.numx]))))) (.ok s ([], []))

/-- Writes bytes to `n` logical bytes at an address whose pages have the layout `numx` (R392). -/
def engWrite (s : State) (o : EngOp) (loc : Bool) (numx va n : Nat) (bs : List Byte) : ER Unit :=
  ((linePieces va n).foldl (fun (acc : ER (List Byte)) p =>
    acc.bind (fun s bs =>
      (engXlate s o loc true (.only numx) p.1 p.2).bind (fun s r =>
        (writeRange s (engOwner o) o.ctx (some o.core) r (bs.take r.n)).bind (fun s _ => .ok s (bs.drop r.n))))) (.ok s bs)).bind
    (fun s _ => .ok s ())

/-- Address of row `i`: `.glb` addresses are 55 bits and `.loc` ones are not negative. -/
def rowVa (loc : Bool) (base : Nat) (i : Nat) (stride : Int) : Option Nat :=
  let a : Int := base + i * stride
  if a < 0 ∨ (!loc && decide (2 ^ 55 ≤ a)) then none else some a.toNat

/-- Alignment of row `i`'s address, which is checked before its range (R171, R379). -/
def rowAligned (al base i : Nat) (stride : Int) : Bool := (base + i * stride : Int) % al == 0

/-- The address a row's fault reports. -/
def rowShown (base i : Nat) (stride : Int) : Nat := wrapInt 64 (base + i * stride)

/-- The operation goes on as `o`, with the sectors landed once `n` of them are due (R391): ENGINE_ERROR where SEC_PEND would
pass its range, and the operation then stays where it was (R262). -/
def landTo (s : State) (id : Nat) (o : EngOp) (n : Nat) : ER State :=
  match o.bar with
  | none => .ok s (putEng s id o)
  | some b =>
    if o.counted < n && !barTurn s o.core b (rkSectors + o.cls) then .stall s o.held
    else
    match landSectors (putEng s id { o with counted := n }) o.core b o.cls (n - o.counted) with
    | some t => .ok s t
    | none => .error s fcEngineError 0

/-- A unit of a copy or gather is done: its sectors land as bytes are written, the remainder with the last (R391). -/
def unitDone (s : State) (id : Nat) (o : EngOp) (sectors : Nat) : ER State :=
  let o1 := opStep o
  landTo s id o1 (if o1.prog = o1.total then o.sectors else max o.counted sectors)

/-- One end of a copy: in `.loc`, base, row, stride. -/
structure CopyEnd where
  loc : Bool
  base : Nat
  i : Nat
  stride : Int

/-- A copy of bytes from one place to another, with what `conv` makes of them. -/
def copyUnit (s : State) (id : Nat) (o : EngOp) (f t : CopyEnd) (al sn dn : Nat)
    (conv : State → List Byte → Nat → Except Nat (State × List Byte)) (sectors : Nat) : ER State :=
  if !rowAligned al f.base f.i f.stride then .error s fcMisalign (rowShown f.base f.i f.stride)
  else if !rowAligned al t.base t.i t.stride then .error s fcMisalign (rowShown t.base t.i t.stride)
  else
    let off := fun (x : CopyEnd) => ER.error s (if x.loc then fcProtection else fcTranslation) (rowShown x.base x.i x.stride)
    match rowVa f.loc f.base f.i f.stride, rowVa t.loc t.base t.i t.stride with
    | none, _ => off f
    | _, none => off t
    | some a, some b =>
      (engRead s o f.loc true o.snap a sn).bind (fun s x =>
        let nx := x.2.headD 0
        if x.2.any (· != nx) then .error s fcNumxAccess a
        else
          match conv s x.1 (if nx = 1 then 3 else 1) with
          | .error c => .error s c a
          | .ok (s, bs) => (engWrite s o t.loc nx b dn bs).bind (fun s _ => unitDone s id o sectors))

/-- Bytes as they are. -/
def asIs (s : State) (bs : List Byte) (_ : Nat) : Except Nat (State × List Byte) := .ok (s, bs)

/-- Converts `n` packed elements (R395): NEAREST_EVEN, no draw; a last half byte's other half is a free value
(assumption log, row 6). -/
def convElems (s : State) (st dt : Ty) (pol n : Nat) (x : Nat) : Except Nat (State × List Byte) :=
  match allCvt ((List.range n).map (fun i => convert st dt pol .ne (elem st.bits i x))) with
  | none => .error fcConv
  | some ys =>
    let b := n * dt.bits
    if b % 8 = 0 then .ok (s, leBytes (pack dt.bits ys) (b / 8))
    else
      .ok ({ s with free := s.free + 1 },
        leBytes (pack dt.bits ys + (Config.freeWord s.free 1).toNat % 16 * 2 ^ b) ((b + 7) / 8))

/-- One unit of a copy (R394, R395). -/
def copyStep (s : State) (id : Nat) (o : EngOp) : ER State :=
  let ds := o.vals.map (·.toNat)
  match o.i with
  | .cpy w =>
    let m := w.m.toNat
    let n := 4 * 2 ^ (m % 4)
    let x := ds.getD o.prog 0
    copyUnit s id o ⟨m / 8 % 2 == 1, x % 2 ^ 64, 0, 0⟩ ⟨m / 4 % 2 == 1, x / 2 ^ 64, 0, 0⟩ n n n asIs (n * (o.prog + 1) / 32)
  | .cpyT w =>
    let (src, dst, _, n, dst', src') := descRows ds
    copyUnit s id o ⟨w.m.getLsbD 1, src, o.prog, src'⟩ ⟨w.m.getLsbD 0, dst, o.prog, dst'⟩ 4 n n asIs (n * (o.prog + 1) / 32)
  | .cpyCv w =>
    let (dt, st) := cvTypes w.m
    let (src, dst, _, n, dst', src') := descRows ds
    copyUnit s id o ⟨w.m.getLsbD 11, src, o.prog, src'⟩ ⟨w.m.getLsbD 10, dst, o.prog, dst'⟩ 1 (packBytes st n) (packBytes dt n)
      (fun s bs f => convElems s st dt (ds.getD 4 0) (f * n) (leNat bs)) (packBytes dt n * (o.prog + 1) / 32)
  | _ => .stall s .no

/-- The core's state of the operation's context. -/
def opCore (s : State) (o : EngOp) : CoreCtx := (tabGet s.ctxs o.ctx).elim CoreCtx.reset (fun c => getCoreCtx c o.core)

/-- The latch, 64 rows of 128 bytes. -/
def latchBytesOf (c : CoreCtx) : List Byte := c.latch ++ List.replicate (8192 - c.latch.length) 0

/-- Replaces a row of the latch; `last` zeroes the rows after it (R397). -/
def latchPut (l : List Byte) (j : Nat) (row : List Byte) (last : Bool) : List Byte :=
  l.take (128 * j) ++ row ++ (if last then List.replicate (8192 - 128 * (j + 1)) 0 else l.drop (128 * (j + 1)))

/-- One row of a GATHER (R397). -/
def gatherStep (s : State) (id : Nat) (o : EngOp) : ER State :=
  let list := (o.vals.getD 0 0).toNat
  (engRead s o true false none (list + 2 * o.prog) 2).bind (fun s x =>
    let idx := leNat x.1
    match tabGet s.teams o.team with
    | none => .error s fcEngineError 0
    | some t =>
      if !teamRowOk s o.team t idx then .error s fcEngineError 0
      else
        (readRange s (engOwner o) o.ctx ⟨locAddr s t (128 * idx), 128, .vf (ctxVf o.ctx), false, false, 0, 128 * idx⟩ none).bind (fun s row =>
          unitDone (updCoreCtx s o.ctx o.core (fun c => { c with latch := latchPut (latchBytesOf c) o.prog row (o.prog + 1 == o.total) }))
            id o (4 * (o.prog + 1))))

/-- Clears a tile and its counter (R401); a single-lane kernel's planes 1 and 2 are not written (R87). -/
def tileClear (c : CoreCtx) (acc : Nat) (triplex : Bool) : CoreCtx :=
  { c with
    tiles := c.tiles.filter (fun x => x.1 / 12288 != acc || (!triplex && decide (4096 ≤ x.1 % 12288))), gcount := tabDel c.gcount acc }

/-- 1 KiB as the codebook table (R43). -/
def codeTable (bs : List Byte) : Tab W128 :=
  (List.range 64).filterMap (fun i =>
    let w := BitVec.ofNat 128 (leNat ((bs.drop (16 * i)).take 16))
    if w = 0 then none else some (i, w))

/-- The halt line is up: an MLOOP that would have to ask for a start asks for none, since its request would be withdrawn
(R21). -/
def startBarred (s : State) (o : EngOp) : Bool := (tabGet s.ctxs o.ctx).any (fun c => c.state == .halting)

/-- What an operation does as it starts: MZERO and CBLOAD whole; an MLOOP asks for a start where the sequencer has been
idle (R19, R390, R401). -/
def opStart (s : State) (id : Nat) (o : EngOp) : State :=
  let run := { o with started := true }
  match o.i with
  | .mzero _ => putEng (updCoreCtx s o.ctx o.core (fun c => tileClear c (o.vals.getD 0 0).toNat (o.vals.getD 1 0 == 1))) id (opStep run)
  | .cbload _ =>
    opEnd s id o 0 0 ((engRead s o true false none (o.vals.getD 0 0).toNat 1024).bind (fun s x =>
      .ok s (putEng (updCoreCtx s o.ctx o.core (fun c => { c with codebook := codeTable x.1 })) id (opStep run))))
  | .mloop _ | .mloopSp _ =>
    if seqIdle s o.core && !o.granted then (if startBarred s o then s else putEng s id { o with startReq := true }) else putEng s id run
  | _ => putEng s id run

/-- ENGINE_OP_START (R390). -/
def execEngineOpStart (op : Nat) (s : State) : Host.Outcome State Fault Refusal :=
  event s (
    match tabGet s.ops op with
    | some o => if !o.started && decide (o.cls < 4) && !opStopped s o && opFirst s op o then opStart s op o else s
    | none => s)

/-- ENGINE_LINE_TRANSFER (R391): one thread's copy, one row, or one latch row. -/
def execEngineLineTransfer (op : Nat) (s : State) : Host.Outcome State Fault Refusal :=
  event s (onOp s op (fun o =>
    match o.i with
    | .cpy _ | .cpyT _ | .cpyCv _ => opEnd s op o 3 4 (copyStep s op o)
    | .gather _ => opEnd s op o 3 4 (gatherStep s op o)
    | _ => s))

/-- SPARSITY_QUEUE_PUSH (R255, R396): a full queue holds the copy engine. -/
def execSparsityQueuePush (op : Nat) (s : State) : Host.Outcome State Fault Refusal :=
  event s (onOp s op (fun o =>
    match o.i with
    | .cpyMeta w =>
      if 64 ≤ (opCore s o).sparse.length then s
      else
        let a := (o.vals.getD 0 0).toNat
        opEnd s op o 3 4 (
          if a % 128 ≠ 0 then .error s fcMisalign a
          else
            (engRead s o (w.m.getLsbD 0) false o.snap (a + 128 * o.prog) 128).bind (fun s x =>
              .ok s (putEng (updCoreCtx s o.ctx o.core (fun c => { c with sparse := c.sparse ++ [BitVec.ofNat 1024 (leNat x.1)] })) op (opStep o))))
    | _ => s))

/-- FMT of an MLOOP, whether it is sparse, whether A comes from the latch. -/
def mloopForm (o : EngOp) : Nat × Bool × Bool :=
  match o.i with
  | .mloop w => (w.m.toNat % 16, false, w.m.getLsbD 4)
  | .mloopSp w => (w.m.toNat % 16, true, w.m.getLsbD 4)
  | _ => (0, false, false)

/-- 128-bit words of the A and B blocks of a step that are kept until the group's sum is formed. -/
def aWords (fmt : Nat) : Nat := if 9 ≤ fmt then 32 else 16
def stepWords (fmt : Nat) (sp : Bool) : Nat := aWords fmt + bBytes fmt sp / 16

/-- Steps of an accumulation group (R398). -/
def groupSteps (fmt : Nat) (sp : Bool) : Nat := 16 / ((fmtMat fmt).2.2 * (if sp then 2 else 1))

/-- Bytes as 128-bit words. -/
def toWords : Nat → List Byte → List W128
  | 0, _ => []
  | n + 1, bs => BitVec.ofNat 128 (leNat (bs.take 16)) :: toWords n (bs.drop 16)

/-- The A block that the latch gives for step `i` (R399). -/
def latchBlock (l : List Byte) (i b : Nat) : List Byte := ((List.range 64).map (fun m => (l.drop (128 * m + i * b)).take b)).flatten

/-- The value of words, the first lowest. -/
def wordsNat (ws : List W128) : Nat := ws.foldr (fun w n => w.toNat + 2 ^ 128 * n) 0

/-- Field of a sparsity entry: lower and upper kept positions of a row (R255). -/
def sparseField (e : BitVec 1024) (m f : Nat) : Nat × Nat :=
  let x := e.toNat / 2 ^ (16 * m + 4 * f) % 16
  (x % 4, x / 4)

/-- Every used field is well formed (R255). -/
def sparseOk (e : BitVec 1024) (fields : Nat) : Bool :=
  (List.range 64).all (fun m => (List.range fields).all (fun f => decide ((sparseField e m f).1 < (sparseField e m f).2)))

/-- A's row `m` of a step: values of its stored k (R399). -/
def aRow (ty : Ty) (sk : Nat) (blk m : Nat) : List XV := (List.range sk).map (fun s => decode ty (elem ty.bits (m * sk + s) blk))

/-- B's column `n` of a step: values of its logical k (R399). -/
def bCol (tab : Tab W128) (ty : Ty) (sp : Bool) (l : Nat) (blk n : Nat) : List XV :=
  match ty with
  | .cb2 =>
    let idx := fun j => elem 16 (if sp then 2 * n + j else n) blk
    let sc := elem 8 ((if sp then 256 else 128) + n) blk
    ((List.range (if sp then 2 else 1)).map (fun j => cb2Weights tab (idx j) sc)).flatten
  | _ => (List.range l).map (fun q => decode ty (elem ty.bits (n * l + q) blk))

/-- The k of B that each stored element of row `m` meets (R400). -/
def keptK (sk : Nat) (e : Option (BitVec 1024)) (m : Nat) : List Nat :=
  (List.range sk).map (fun s =>
    match e with
    | none => s
    | some e => let f := sparseField e m (s / 2); 4 * (s / 2) + (if s % 2 = 0 then f.1 else f.2))

/-- One step's share of a group: rows of A with the k each element meets, and columns of B. -/
structure StepData where
  rows : List (List (XV × Nat))
  cols : List (List XV)

/-- Unpacks the words kept of a step. -/
def stepData (tab : Tab W128) (fmt : Nat) (sp : Bool) (ws : List W128) (e : Option (BitVec 1024)) : StepData :=
  let (ta, tb, sk) := fmtMat fmt
  let a := wordsNat (ws.take (aWords fmt))
  let b := wordsNat (ws.drop (aWords fmt))
  { rows := (List.range 64).map (fun m => (aRow ta sk a m).zip (keptK sk e m)),
    cols := (List.range 64).map (bCol tab tb sp (if sp then 2 * sk else sk) b) }

/-- The products of an element over a group's steps. -/
def products (sd : List StepData) (m n : Nat) : List XV :=
  (sd.map (fun d => ((d.rows.getD m []).map (fun x => xMul x.1 ((d.cols.getD n []).getD x.2 (.zero false)))))).flatten

/-- Adds a group's sums to a tile: plane by plane with the direction of its key in triplex mode, plane 0 to the nearest
in single-lane mode (R48, R62, R84, R87). -/
def addGroup (c : CoreCtx) (acc : Nat) (sd : List StepData) (triplex : Bool) (seed : W64) (lin : Nat) : CoreCtx :=
  let g := tabGetD c.gcount acc 0
  let sums := (List.range 4096).map (fun el => (el, groupSum (products sd (el / 64) (el % 64))))
  let plane := fun p => sums.filterMap (fun es =>
    let key := (acc * 3 + p) * 4096 + es.1
    let dir := if triplex then drawDir (tileKey lin acc es.1 g p) seed else .ne
    let y := accAdd dir (tabGetD c.tiles key 0).toNat es.2
    if y = 0 then none else some (key, BitVec.ofNat 32 y))
  let ps := if triplex then [0, 1, 2] else [0]
  let mine := fun k => ps.any (fun p => k / 4096 == acc * 3 + p)
  let base := acc * 12288
  { c with
    tiles := c.tiles.filter (fun x => decide (x.1 < base)) ++ (ps.map plane).flatten ++ c.tiles.filter (fun x => decide (base ≤ x.1) && !mine x.1),
    gcount := tabPut c.gcount acc (g + 1) }

/-- The parts of a group's kept words by step. -/
def splitSteps (n : Nat) : Nat → List W128 → List (List W128)
  | 0, _ => []
  | f + 1, ws => ws.take n :: splitSteps n f (ws.drop n)

/-- Reads `n` bytes of the team's rows from a row up: rows named by an operand reach to the end of the allocation (R93). -/
def engRows (s : State) (o : EngOp) (row : Int) (n : Nat) : ER (List Byte × List Nat) :=
  match tabGet s.teams o.team with
  | none => .error s fcProtection 0
  | some t =>
    if row < 0 ∨ !(List.range ((n + 127) / 128)).all (fun i => teamRowOk s o.team t (row.toNat + i)) then
      .error s fcProtection (wrapInt 64 (128 * row))
    else
      (readRange s (engOwner o) o.ctx ⟨locAddr s t (128 * row.toNat), n, .vf (ctxVf o.ctx), false, false, 0, 128 * row.toNat⟩ none).bind
        (fun s bs => .ok s (bs, [0]))

/-- One K step (R400): its blocks are read; a group's last step adds its sums. -/
def kStep (s : State) (id : Nat) (o : EngOp) : ER State :=
  let (fmt, sp, latch) := mloopForm o
  let v := fun i => (o.vals.getD i 0).toNat
  let w := stepWords fmt sp
  let j := o.work.length / w
  let i := o.prog + j
  let c := opCore s o
  let e := if !sp then none else if j < o.entries.length then o.entries[j]? else c.sparse.head?
  if sp && e.isNone then .stall s .no
  else
    let takes := sp && decide (o.entries.length ≤ j)
    let o := if takes then { o with entries := o.entries ++ e.toList } else o
    let s := if takes then updCoreCtx s o.ctx o.core (fun c => { c with sparse := c.sparse.drop 1 }) else s
    let s := putEng s id o
    if !(e.toList.all (fun x => sparseOk x ((fmtMat fmt).2.2 / 2))) then .error s fcEngineError 0
    else
      let blk := fun (s : State) (d n : Nat) => engRows s o (blockRow d i) n
      let ra := if latch then ER.ok s (latchBlock (latchBytesOf c) i (latchBytes fmt), []) else blk s (v 1) (aBytes fmt)
      ra.bind (fun s xa =>
        (blk s (v 2) (bBytes fmt sp)).bind (fun s xb =>
          let work := o.work ++ toWords (aWords fmt) xa.1 ++ toWords (bBytes fmt sp / 16) xb.1
          let s1 := updCore s o.core (fun c => { c with lastK := some s.cycle })
          if (i + 1) % groupSteps fmt sp ≠ 0 ∧ i + 1 ≠ o.total then
            .ok s1 (putEng s1 id { o with work := work, granted := false, held := .no })
          else
            let sd := ((splitSteps w (j + 1) work).zipIdx).map (fun x => stepData c.codebook fmt sp x.1 (o.entries[x.2]?))
            let s3 := updCoreCtx s1 o.ctx o.core (fun c => addGroup c (v 0) sd (v 4 == 1) (BitVec.ofNat 64 (v 5)) (v 6))
            let s2 := prfAdd s3 (ctxVf o.ctx) 0 (o.core / 64) (o.core % 64) 6 (if v 4 = 1 then 12288 else 0)
            .ok s2 (putEng s2 id { o with work := [], entries := [], granted := false, held := .no, prog := i + 1 })))

/-- MLOOP_K_STEP (R19, R21, R400): after 256 idle cycles it asks for its start again. -/
def execMloopKStep (op : Nat) (s : State) : Host.Outcome State Fault Refusal :=
  event s (onOp s op (fun o =>
    if !isMloop o then s
    else if seqIdle s o.core && !o.granted then (if startBarred s o then s else putEng s op { o with startReq := true })
    else opEnd s op o 3 4 (kStep s op o)))

/-- Element of a plane of a tile. -/
def tileElem (c : CoreCtx) (acc plane el : Nat) : Nat := (tabGetD c.tiles ((acc * 3 + plane) * 4096 + el) 0).toNat

/-- One row of the memory form (R402): its bytes, or CONV. -/
def maccRow (c : CoreCtx) (acc : Nat) (ty : Ty) (pol : Nat) (tri single : Bool) (r : Nat) : Option (List Byte) :=
  let cv := fun p => allCvt ((List.range 64).map (fun n => convert .f32 ty pol .ne (tileElem c acc (if single then 0 else p) (r * 64 + n))))
  match cv 0, cv 1, cv 2 with
  | some a, some b, some d =>
    if tri then
      let w := max 8 ty.bits
      let n := 64 * ty.bits / w
      let x := fun (l : List Nat) o => elem w o (pack ty.bits l)
      some (leBytes (pack w (((List.range n).map (fun o => [x a o, x b o, x d o])).flatten)) (3 * n * w / 8))
    else
      let m := (a.zip (b.zip d)).map (fun y => if single then y.1 else median ty ty.bits y.1 y.2.1 y.2.2)
      some (leBytes (pack ty.bits m) (8 * ty.bits))
  | _, _, _ => none

/-- The register form's writes of a thread (R402), or CONV. -/
def maccThread (g : Grp) (c : CoreCtx) (o : EngOp) (w : RWord (BitVec 12)) (t : Nat) : Option (List RegW) :=
  let v := fun i => (o.vals.getD i 0).toNat
  let ty := maccTy w.m
  let tr := v 3 == 1
  let row := (bits (v 1) 5 0 + t) % 64
  let n := maccCols w.m
  let d := v (5 + t)
  let lane := fun k l =>
    (allCvt ((List.range n).map (fun j =>
      let dir := if tr then drawDir (laneKey (d / 2 ^ 32) (d % 2 ^ 32 + j) k) (BitVec.ofNat 64 (v 4)) else .ne
      convert .f32 ty (v 2) dir (tileElem c (v 0) k (row * 64 + bits (v 1) 11 6 + j))))).map
      (fun ys => wrV (vDst w.d) l (2 ^ (w.m.toNat / 128 % 4)) (pack ty.bits ys))
  ((lanesOf g t).zipIdx).foldl (fun a lk =>
    match a, lane lk.2 lk.1 with
    | some ws, some x => some (ws ++ x)
    | _, _ => none) (some [])

/-- MACC_READOUT (R402): the registers at once, or one row of the memory form; CONV is checked over every element first. -/
def maccStep (s : State) (id : Nat) (o : EngOp) (w : RWord (BitVec 12)) : ER State :=
  let v := fun i => (o.vals.getD i 0).toNat
  let c := opCore s o
  let ty := maccTy w.m
  if w.m.getLsbD 5 then
    let row := maccRow c (v 0) ty (v 2) (w.m.getLsbD 6) (v 3 != 1)
    if o.prog == 0 && (List.range 64).any (fun r => (row r).isNone) then .error s fcConv 0
    else
      match row o.prog with
      | none => .error s fcConv 0
      | some bs =>
        (engWrite s o true 0 (bits (v 1) 23 0 + o.prog * bits (v 1) 47 32) bs.length bs).bind (fun s _ => .ok s (putEng s id (opStep o)))
  else
    match (tabGet s.groups o.grp).filter (fun g => g.serial == o.gser) with
    | none => .ok s (putEng s id (opStep o))
    | some g =>
      let ws := ((List.range (nThreads g)).filter o.threads.getLsbD).foldl (fun a t =>
        match a, maccThread g c o w t with
        | some x, some y => some (x ++ y)
        | _, _ => none) (some [])
      match ws with
      | none => .error s fcConv 0
      | some ws => .ok s (putEng (setGroup s o.grp (slotFree (landCells g (ws.filter (fun x => !o.cancel.contains x.cell))) o.slot)) id (opStep { o with slot := none }))

def execMaccReadout (op : Nat) (s : State) : Host.Outcome State Fault Refusal :=
  event s (onOp s op (fun o =>
    match o.i with
    | .macc w => opEnd s op o 3 4 (maccStep s op o w)
    | _ => s))

/-- The fields of a job card (R404). -/
structure Card3 where
  op : Nat
  dty : Option Ty
  sty : Option Ty
  pol : Nat
  dl : Bool
  sl : Bool
  pad : Nat
  src : Nat
  dst : Nat
  cap : Nat
  len : Nat

def cardOf (ws : List Nat) : Card3 :=
  let w := fun i => ws.getD i 0
  { op := bits (w 0) 63 60, dty := tyOfCode (bits (w 0) 59 55), sty := tyOfCode (bits (w 0) 54 50), pol := bits (w 0) 49 42,
    dl := bits (w 0) 41 41 == 1, sl := bits (w 0) 40 40 == 1, pad := bits (w 0) 39 32, src := bits (w 1) 54 0,
    dst := bits (w 2) 54 0, cap := bits (w 3) 63 32, len := bits (w 3) 31 0 }

/-- The card's fields are legal for its OP (R404). -/
def cardOk (c : Card3) : Bool :=
  c.pad == 0 &&
  (match c.op with
   | 1 => true
   | 2 =>
     c.dty.any tyCvt && c.sty.any tyCvt &&
       !((c.dty.any (·.bits == 4) && c.sty.any (·.bits == 64)) || (c.dty.any (·.bits == 64) && c.sty.any (·.bits == 4)))
   | 3 => c.dty.any tyF && c.len % 8 == 0
   | _ => false)

/-- The job is done (R391, R404): RESULT is its last access, and all its sectors land. -/
def jobDone (s : State) (id : Nat) (o : EngOp) (prog out : Nat) : ER State :=
  (engWrite s o true 0 (o.vals.getD 4 0).toNat 4 (leBytes out 4)).bind (fun s _ =>
    landTo s id { o with prog := prog, total := prog, held := .no } o.sectors)

/-- One byte of a job's source. -/
def srcByte (s : State) (o : EngOp) (c : Card3) (p : Nat) : ER Nat :=
  if c.len ≤ p then .error s fcEngineError (c.src + p)
  else (engRead s o c.sl false o.snap (c.src + p) 1).bind (fun s x => .ok s (leNat x.1))

/-- A LEB128 value of a job's source (R405): value and next byte. -/
def srcLeb (o : EngOp) (c : Card3) : Nat → State → Nat → Nat → Nat → ER (Nat × Nat)
  | 0, s, p, _, _ => .error s fcEngineError (c.src + p)
  | n + 1, s, p, sh, acc =>
    (srcByte s o c p).bind (fun s b =>
      let v := acc + b % 128 * 2 ^ sh
      if b < 128 then (if 2 ^ 32 ≤ v then .error s fcEngineError (c.src + p) else .ok s (v, p + 1))
      else srcLeb o c n s (p + 1) (sh + 7) v)

/-- An extension where a nibble is 15 (R405). -/
def srcExt (s : State) (o : EngOp) (c : Card3) (nib p : Nat) : ER (Nat × Nat) := if nib = 15 then srcLeb o c 5 s p 0 0 else .ok s (0, p)

/-- A match's bytes, one at a time from `off` behind the end of the bytes put out (R405). -/
def lzMatch (off : Nat) : Nat → List Byte → List Byte
  | 0, out => out
  | n + 1, out => lzMatch off n (out ++ [out.getD (out.length - off) 0])

/-- One LZ token (R404, R405): `work` holds the place in the source and the bytes put out. -/
def lzStep (s : State) (id : Nat) (o : EngOp) (c : Card3) : ER State :=
  let p0 := (o.work.getD 0 0).toNat
  let out := (o.work.getD 1 0).toNat
  (srcByte s o c p0).bind (fun s b =>
    (srcExt s o c (b / 16) (p0 + 1)).bind (fun s el =>
      let l := b / 16 + el.1
      if c.len < el.2 + l then ER.error s fcEngineError (c.src + p0)
      else
        (srcLeb o c 5 s (el.2 + l) 0 0).bind (fun s of =>
          (if of.1 = 0 then .ok s (0, of.2) else srcExt s o c (b % 16) of.2).bind (fun s em =>
            let m := if of.1 = 0 then 0 else b % 16 + 3 + em.1
            if (of.1 = 0 ∧ b % 16 ≠ 0) ∨ out + l < of.1 ∨ c.cap < out + l + m then ER.error s fcEngineError (c.src + p0)
            else
              (engRead s o c.sl false o.snap (c.src + el.2) l).bind (fun s lits =>
                let back := min out (of.1 - min of.1 l)
                (engRead s o c.dl false none (c.dst + out - back) back).bind (fun s hist =>
                  let bytes := (lzMatch of.1 m (hist.1 ++ lits.1)).drop back
                  (engWrite s o c.dl 0 (c.dst + out) (l + m) bytes).bind (fun s _ =>
                    if of.1 = 0 then jobDone s id o (o.prog + 1) (out + l)
                    else .ok s (putEng s id { opStep o with work := [BitVec.ofNat 128 em.2, BitVec.ofNat 128 (out + l + m)] }))))))))

/-- Values of a block of a conversion or expansion job: the destination bytes, or what fails (R403, R404). -/
def jobValues (s : State) (o : EngOp) (c : Card3) (dt : Ty) (e0 n : Nat) : ER (List Byte) :=
  let tab := (opCore s o).codebook
  match c.op with
  | 2 =>
    let st := c.sty.getD .f32
    (engRead s o c.sl false o.snap (c.src + e0 * st.bits / 8) (packBytes st n)).bind (fun s x =>
      match convElems s st dt c.pol n (leNat x.1) with
      | .error f => .error s f c.src
      | .ok (s, bs) => .ok s bs)
  | _ =>
    let i0 := e0 / 8
    let k := n / 8
    (engRead s o c.sl false o.snap (c.src + 2 * i0) (2 * k)).bind (fun s x =>
      (engRead s o c.sl false o.snap (c.src + 2 * c.len + i0 / 8) ((i0 + k - 1) / 8 - i0 / 8 + 1)).bind (fun s sc =>
        let ws := ((List.range k).map (fun j => cb2Weights tab (elem 16 j (leNat x.1)) (elem 8 ((i0 + j) / 8 - i0 / 8) (leNat sc.1)))).flatten
        match allCvt (ws.map (cvtTo dt c.pol .ne false)) with
        | none => .error s fcConv c.src
        | some ys => .ok s (leBytes (pack dt.bits ys) (n * dt.bits / 8))))

/-- One block of 128 destination bytes (R392, R404). -/
def jobStep (s : State) (id : Nat) (o : EngOp) (c : Card3) : ER State :=
  let dt := c.dty.getD .f32
  let elems := if c.op = 3 then 8 * c.len else c.len
  let per := 1024 / dt.bits
  let e0 := o.prog * per
  let n := min per (elems - e0)
  if elems = 0 then jobDone s id o 1 0
  else if c.cap < packBytes dt (e0 + n) then .error s fcEngineError (c.dst + 128 * o.prog)
  else
    (jobValues s o c dt e0 n).bind (fun s bs =>
      (engWrite s o c.dl 0 (c.dst + 128 * o.prog) bs.length bs).bind (fun s _ =>
        if e0 + n = elems then jobDone s id o (o.prog + 1) (packBytes dt elems) else .ok s (putEng s id (opStep o))))

/-- XFM_JOB_BLOCK (R404). -/
def execXfmJobBlock (op : Nat) (s : State) : Host.Outcome State Fault Refusal :=
  event s (onOp s op (fun o =>
    match o.i with
    | .xfmJ _ =>
      let c := cardOf (o.vals.map (·.toNat))
      opEnd s op o 5 6 (if !cardOk c then .error s fcEngineError 0 else if c.op = 1 then lzStep s op o c else jobStep s op o c)
    | _ => s))

/-- An operation leaves the open set and the batches of its group (R254). -/
def batchesDrop (b : Batches) (id : Nat) : Batches :=
  pruneBatches { b with openOps := b.openOps.filter (· != id), closed := b.closed.map (fun x => (x.1, x.2.filter (· != id))) }

/-- Waits on a class of a group's batches end as the batches do (R254, R388). -/
def wakeBatches (s : State) (k cls : Nat) : State :=
  match tabGet s.groups k with
  | none => s
  | some g =>
    let b := batchesOf g cls
    let s1 := wakePath s k (fun w => match w with | .batch c n => c == cls && batchDone b n | _ => false) true
    if b.closed.length < 64 then wakePath s1 k (· == .batchFull cls) false else s1

/-- Fences in the queues of a core whose earlier operations have completed are gone (R131); those of a context that is saved stay
with its operations. -/
def dropMarkers (s : State) (core : Nat) : State :=
  { s with ops := s.ops.filter (fun x => !(x.2.cls == clsMarker && x.2.core == core && opLive s x.2 && !markerHolds s x.1 x.2)) }

/-- ENGINE_OP_COMPLETE (R254, R221): the operation leaves its queue; batches may be complete, and its team may end. -/
def execEngineOpComplete (op : Nat) (s : State) : Host.Outcome State Fault Refusal :=
  event s (
    match tabGet s.ops op with
    | none => s
    | some o =>
      if !(o.started && decide (o.total ≤ o.prog) && !opStopped s o) then s
      else
        let s1 := { s with ops := tabDel s.ops op }
        let s2 := updGroup s1 o.grp (fun g =>
          if g.serial == o.gser then { g with batches := tabPut g.batches o.cls (batchesDrop (batchesOf g o.cls) op) } else g)
        let s3 := if (tabGet s2.groups o.grp).any (fun g => g.serial == o.gser) then wakeBatches s2 o.grp o.cls else s2
        endTeam (dropMarkers s3 o.core) o.team)

end Sys2Proof.Machine
end

