-- ==== Sys2Proof/Machine/Package.lean ====
section
/-! DEFINITION. The package as a whole: bring-up, thermal trips, freeze and thaw, core failures, soft errors, and the
current-surge arbiter (01_device R14 to R31); results of variable latency (10_group R232). -/

namespace Sys2Proof.Machine

open Sys2Proof

/-- Moves the boot state where the package is in the state given (R26). -/
def bootStep (s : State) (a b : Boot) : State := if s.pkg.boot = a then { s with pkg := { s.pkg with boot := b } } else s

/-- POWER_GOOD (R26): the boot ROM starts, with the links held DOWN. -/
def execPowerGood (s : State) : Host.Outcome State Fault Refusal :=
  event s (if s.pkg.boot = .reset then { bootStep s .reset .rom with links := tabMap s.links (fun _ l => { l with state := .down, lanes := 0 }) } else s)

/-- SELF_TEST_DONE (R26, R276): the bridge package opens its PCIe function; another package trains its links; a failing
unit is reported. -/
def execSelfTestDone (pass : Bool) (unit : Nat) (s : State) : Host.Outcome State Fault Refusal :=
  event s (
    if s.pkg.boot ≠ .rom then s
    else if pass then
      let s1 := bootStep s .rom .awaitImage
      if s.pkg.bridge then { s1 with pkg := { s1.pkg with pcie := true } }
      else (List.range 24).foldl (fun t l => updLink t l (fun x => if x.state = .down then { x with state := .training, since := s.gts } else x)) s1
    else { s with pkg := { s.pkg with boot := .failed, failedUnit := some unit } })

/-- IMAGE_RECEIVED (R26, R27): a package that is not the bridge receives it over its links. -/
def execImageReceived (s : State) : Host.Outcome State Fault Refusal :=
  event s (if s.pkg.boot = .awaitImage ∧ (s.pkg.bridge ∨ !(usableTo s s.pkg.bridgeId).isEmpty) then bootStep s .awaitImage .verify else s)

/-- The signature of an image is valid (R27): ECDSA on P-384 over its SHA-384 digest, under a public key whose digest is the
fused one. -/
def imageOk (i : FwImage) : Bool :=
  sha384 (beBytes 48 i.key.1 ++ beBytes 48 i.key.2) == Config.fusedDigest.toNat &&
    ecdsaOk i.key (sha384 (i.bytes.map (·.toNat))) i.sig.1 i.sig.2

/-- IMAGE_VERIFIED (R26, R27): the image that was received is verified; its firmware starts and the host work queues enter
UNBOUND, or it is discarded. -/
def execImageVerified (image : FwImage) (s : State) : Host.Outcome State Fault Refusal :=
  event s (
    if s.pkg.boot ≠ .verify then s
    else if imageOk image then { s with pkg := { s.pkg with boot := .run, image := some image }, wqs := [] }
    else { s with pkg := { s.pkg with boot := .failed, image := none } })

/-- A context has something of its own on a core that satisfies a test: a team that is on its core, or, while it is restored, a
group that is placed again (R22, R28, R183). -/
def ctxOnCore (s : State) (ck : Nat) (p : Nat → Bool) : Bool :=
  if (tabGet s.ctxs ck).any (fun c => c.state == .restoring) then s.groups.any (fun g => g.2.ctx == ck && p (coreOf g.1))
  else s.teams.any (fun t => t.2.ctx == ck && t.2.away.isNone && p t.2.core)

/-- A context is resident, or has work in flight, on a die (R22). -/
def ctxOnDie (s : State) (ck d : Nat) : Bool :=
  ctxOnCore s ck (fun core => core / 64 == d) ||
  s.ops.any (fun o => o.2.ctx == ck && o.2.cls < 4 && o.2.core / 64 == d) ||
  (haltWork s ck).any (fun u => u.kind == 5 && u.die == d)

/-- Contexts that are on their partition: RUNNING, HALTING, SAVING or RESTORING. -/
def residentCtxs (s : State) : List Nat :=
  tabKeys s.ctxs (fun _ c => c.state == .running || c.state == .halting || c.state == .saving || c.state == .restoring)

/-- The unit of a halt that no unit of the part raised (R432). -/
def noUnit : UnitId := ⟨0, 0, 0, 0, 0⟩

/-- A die trips (R22): the halt line of every partition with something on it rises, and TRIP is set; during boot the boot
fails (R26). -/
def trip (s : State) (d : Nat) : State :=
  let s1 := ((residentCtxs s).filter (fun ck => ctxOnDie s ck d)).foldl (fun t ck => haltRise t ck fcThermal noUnit 0 0 false) s
  let s2 := updDie s1 d (fun x => { x with trip := true, tripPending := false })
  if s2.pkg.boot = .run then s2 else { s2 with pkg := { s2.pkg with boot := .failed } }

/-- THERMAL_TRIP (R22, R24, R26): a reading of the sensor; one of 105 °C or more trips the die, during boot it fails the
boot, and while frozen it is acted on at thaw. -/
def execThermalTrip (die temp : Nat) (s : State) : Host.Outcome State Fault Refusal :=
  .next (
    if die ≥ 8 then s
    else
      let s1 := updDie s die (fun d => { d with temp := temp % 256 })
      if temp % 256 < 105 then s1
      else if s.pkg.frozen then updDie s1 die (fun d => { d with tripPending := true })
      else trip s1 die)

/-- TRIP_CLEAR (R22, R31): a write of 1 to TRIP is ignored while TEMP reads above 95 °C. -/
def execTripClear (die : Nat) (s : State) : Host.Outcome State Fault Refusal :=
  event s (if die ≥ 8 || 95 < (getDie s die).temp then s else updDie s die (fun d => { d with trip := false }))

/-- FREEZE (R23): every clock stops. -/
def execFreeze (s : State) : Host.Outcome State Fault Refusal :=
  .next (if s.pkg.frozen then s else { s with pkg := { s.pkg with frozen := true, freezeGts := s.gts } })

/-- THAW (R24, R25): the GTS jumps forward to the pod's, every live context is told of the gap, and a trip seen while
frozen is acted on. Token buckets do not see the gap. -/
def execThaw (gts : Nat) (s : State) : Host.Outcome State Fault Refusal :=
  .next (
    if !s.pkg.frozen then s
    else
      let at0 := s.pkg.freezeGts
      let g3 := max s.gts3 (3 * gts)
      let s1 := { s with pkg := { s.pkg with frozen := false }, gts3 := g3 }
      let gap := s1.gts - at0
      let s2 := { s1 with vfs := tabMap s1.vfs (fun _ v => { v with chargedTo := v.chargedTo + gap }) }
      let s3 := (tabKeys s2.ctxs (fun _ c => c.state != .empty)).foldl (fun t ck => eventPush t ck 2 0 at0 s1.gts) s2
      (tabKeys s3.dies (fun _ d => d.tripPending)).foldl trip s3)

/-- CORE_FAILURE (R28): the core is fenced, and contexts with a team on it are halted with the failure's cause. -/
def execCoreFailure (core cause : Nat) (s : State) : Host.Outcome State Fault Refusal :=
  event s (
    if core ≥ 512 then s
    else
      let s1 := updCore s core (fun c => { c with failed := true })
      ((residentCtxs s1).filter (fun ck => ctxOnCore s1 ck (· == core))).foldl
        (fun t ck => haltRise t ck (cause % 256) ⟨0, core / 64, core % 64, 0, 0⟩ 0 0 false) s1)

/-- One more corrected error of a die (R29, R31). -/
def countSoft (s : State) (die : Nat) : State := updDie s die (fun d => { d with softcnt := sat32 (d.softcnt + 1) })

/-- SOFT_ERROR (R29). -/
def execSoftError (die : Nat) (s : State) : Host.Outcome State Fault Refusal := event s (if die ≥ 8 then s else countSoft s die)

/-- PATROL_SCRUB (R29, R30): a corrected line is rewritten with its contents and counted; an uncorrectable error that it
finds, in a line with a poisoned word, is only counted. -/
def execPatrolScrub (die line : Nat) (corrected : Bool) (s : State) : Host.Outcome State Fault Refusal :=
  event s (
    if die ≥ 8 || line / 2 ^ 32 % 8 ≠ die then s
    else if corrected then countSoft s die
    else if poisoned s (128 * line) 128 then updDie s die (fun d => { d with uncorr := d.uncorr + 1 })
    else s)

/-- A cell of a group is poisoned (R30). -/
def poisonCell (s : State) (k : Nat) (c : Cell) : State :=
  updGroup s k (fun g => if g.poison.contains c then g else { g with poison := g.poison ++ [c] })

/-- UNCORRECTABLE_ERROR (R30): the word it lies in is poisoned. -/
def execUncorrectableError (w : ErrWord) (s : State) : Host.Outcome State Fault Refusal :=
  event s (
    match w with
    | .mem pa =>
      match placeOf s.pkg.id pa with
      | .well .. | .cistern .. =>
        if s.lines.poison.contains (pa / 4) then s else { s with lines := { s.lines with poison := s.lines.poison ++ [pa / 4] } }
      | _ => s
    | .v k r lane => poisonCell s k (.v r lane)
    | .s k r => poisonCell s k (.s r)
    | .p k r t => poisonCell s k (.p r t))

/-- A byte of a cistern row. -/
def inCistern (s : State) (pa : Nat) : Bool := match placeOf s.pkg.id pa with | .cistern .. => true | _ => false

/-- PACKAGE_RESET (R26): the package is as after reset; its place in the pod, its time, its wells and measured temperatures,
and the order of what comes next, stay (assumption log, row 18). Cistern rows read as zero, since they pass to other
contexts (R91), and no line keeps a lock or a version record. -/
def execPackageReset (s : State) : Host.Outcome State Fault Refusal :=
  .next { State.reset with
    pkg := { Pkg.reset with id := s.pkg.id, bridge := s.pkg.bridge, l1rows := s.pkg.l1rows, linkless := s.gts, bridgeId := s.pkg.bridgeId },
    cycle := s.cycle, gts3 := s.gts3, mem := s.mem.filter (fun x => !inCistern s x.1),
    lines := { s.lines with
      reenc := [], lines := tabMap s.lines.lines (fun _ l => { l with lock := none, older := [] }),
      poison := s.lines.poison.filter (fun w => !inCistern s (4 * w)) },
    dies := tabMap s.dies (fun _ d => { Die.reset with temp := d.temp }),
    cores := tabMap s.cores (fun _ c => { Core.reset with failed := c.failed }),
    peers := tabMap s.peers (fun _ p => { p with since := s.gts }), agenda := s.later ++ s.agenda, serial := s.serial, free := s.free }

/-- Start requests that wait on a die: operation, partition and core (R19). -/
def startRequests (s : State) (die : Nat) : List (Nat × Nat × Nat) :=
  ((s.ops.filter (fun o => o.2.startReq && !o.2.granted && o.2.core / 64 == die && opLive s o.2)).map
    (fun o => (o.1, (tabGet s.ctxs o.2.ctx).elim 0 ctxPart, o.2.core)))

/-- The request served next (R20): the partition after the one granted last, and in it the lowest core. -/
def nextRequest (last : Nat) (rs : List (Nat × Nat × Nat)) : Option (Nat × Nat × Nat) :=
  let key := fun (r : Nat × Nat × Nat) => ((r.2.1 + 47 - last) % 48) * 512 + r.2.2
  rs.foldl (fun o r => match o with | none => some r | some q => if key r < key q then some r else some q) none

/-- Grants on a die in the last 64 cycles, and the starts reserved there in them that are still to be used (R19). -/
def recentGrants (s : State) (die : Nat) : List Nat := (getDie s die).grants.filter (fun c => decide (s.cycle < c + 64))
def liveReserved (s : State) (die : Nat) : List (Nat × Nat) := (getDie s die).reserved.filter (fun r => decide (s.cycle < r.1 + 64))

/-- The team of an engine operation. -/
def opTeam (s : State) (id : Nat) : Option Nat := (tabGet s.ops id).map (·.team)

/-- A start may be granted to an operation: fewer than 8 in 64 cycles, those reserved for other teams among them (R19;
assumption log, row 69). -/
def grantable (s : State) (die id : Nat) : Bool :=
  decide ((recentGrants s die).length + (liveReserved s die).countP (fun r => some r.2 != opTeam s id) < 8)

/-- START_GRANT (R19, R20): at most 8 starts in any 64 consecutive cycles; the team's own reservation is used up. -/
def execStartGrant (die : Nat) (s : State) : Host.Outcome State Fault Refusal :=
  event s (
    match nextRequest (getDie s die).lastGrant ((startRequests s die).filter (fun r => grantable s die r.1)) with
    | some (id, p, _) =>
      let own := (liveReserved s die).find? (fun r => some r.2 == opTeam s id)
      updDie { s with ops := tabUpd s.ops id (fun o => { o with granted := true, startReq := false }) } die
        (fun d => { d with
          lastGrant := p, grants := recentGrants s die ++ [s.cycle],
          reserved := own.elim (liveReserved s die) (liveReserved s die).erase })
    | none => s)

/-- VARIABLE_LATENCY_RESULT (R232): the result of a non-memory unit lands and its slot goes down. -/
def execVariableLatencyResult (grp res : Nat) (s : State) : Host.Outcome State Fault Refusal :=
  event s (
    match tabGet s.groups grp with
    | none => s
    | some g =>
      match g.vres.find? (fun r => r.id == res) with
      | none => s
      | some r => setGroup s grp (slotFree (landCells { g with vres := g.vres.filter (fun x => x.id != res) } r.writes) r.slot))

end Sys2Proof.Machine
end

