-- ==== Sys2Proof/Machine/Launch.lean ====
section
/-! DEFINITION. Kernel objects, launches, teams and grids (09_kernel R200 to R215). -/

namespace Sys2Proof.Machine

open Sys2Proof

/-- Rows of a partition's quota (R178). -/
def rowLo (s : State) (p : Nat) : Nat := fld (getPart s p).w0 57 45
def rowCnt (s : State) (p : Nat) : Nat := fld (getPart s p).w0 44 32

/-- Exported rows that the contexts of a partition take at most, at its high end (R93, R180). -/
def exportRows (s : State) (p : Nat) : Nat :=
  s.ctxs.foldl (fun n c => if ctxPart c.2 = p then max n (fld (descW c.2 8) 12 0) else n) 0

/-- Two ranges of rows or barriers overlap, an empty range with none. -/
def rangesMeet (a n b m : Nat) : Bool := n != 0 && m != 0 && overlaps a n b m

/-- Scratchpad rows of a core that nothing of their holder takes (R93, R196, R243): inside the quota of partition `p`,
outside the rows of its resident teams, its context queues, and the teams that borrow from it. -/
def rowsFree (s : State) (ck p core row n : Nat) : Bool :=
  n = 0 || (rowLo s p ≤ row && row + n ≤ rowLo s p + rowCnt s p - exportRows s p &&
    !(s.teams.any (fun t => t.2.core == core && (t.2.ctx == ck || t.2.borrowed == some p ||
        (tabGet s.ctxs t.2.ctx).any (fun c => ctxPart c == p && c.state == .running)) && rangesMeet row n t.2.row t.2.rows)) &&
    !((getCore s core).qslots.any (fun q => q.2.team.isNone && rangesMeet row n q.2.base (queueRows q.2))))

/-- The owner of the launch unit's far requests for a context. -/
def launchOwner (ck : Nat) : Nat := 2 ^ 40 + ck

/-- A write of the launch unit to an address waits for a version record since a cycle, or no more (R157). -/
def poolAsk (s : State) (ck va : Nat) (c : Option Nat) : State :=
  updCtx s ck (fun x => { x with poolAsks := c.elim (tabDel x.poolAsks va) (tabPut x.poolAsks va) })

/-- The cycle since which it waits. -/
def poolAsked (s : State) (ck va : Nat) : Option Nat := (tabGet s.ctxs ck).bind (fun x => tabGet x.poolAsks va)

/-- A write of the launch unit through the context's tables (R212): it is not replayable. A wait for a version record ends with
VERSION_POOL after 65,536 cycles (R157). -/
def launchWrite (s : State) (ck va : Nat) (bs : List Byte) : Out :=
  match translate s ck 512 va (Use.store bs.length) with
  | .fault s1 c => .fault s1 c va
  | .absent s1 _ => .fault s1 fcTranslation va
  | .ok s1 x =>
    match agentWrite s1 (launchOwner ck) ck x.key x.ver x.cmp x.pa bs false with
    | .done s2 _ => .ok (countWrite s1 (poolAsk s2 ck va none) (ctxVf ck) x.pa x.cmp x.ver true)
    | .stall s2 (.pool c) =>
      match poolAsked s1 ck va with
      | none => .wait (poolAsk s2 ck va (some c))
      | some c0 => if c0 + 65536 ≤ s.cycle then .fault (poolAsk s1 ck va none) fcVersionPool va else .wait s1
    | .stall s2 _ => .wait s2
    | .fault c => .fault (noteIntegrity s1 c x.key ck x.pa) c va

/-- A posted write is tried at its home, line by line. Where a line has no version record for 65,536 cycles, its part of the
write is lost: the spec names no one in whom VERSION_POOL could be raised (DESIGN CHOICE, assumption log, row 80). -/
def servePost (s : State) (p : Posted) : State :=
  let (t, pa, rest, pool) := hostWrite (fun _ _ => p.cmp) (p.bytes.length + 1) s p.key p.ver p.pa p.bytes
  let keep := fun (u : State) (x : Posted) => if x.bytes.isEmpty then u else { u with posted := u.posted ++ [x] }
  if !pool then keep t { p with pa := pa, bytes := rest, since := none }
  else
    match (if pa = p.pa then p.since else none) with
    | none => keep t { p with pa := pa, bytes := rest, since := some s.cycle }
    | some c =>
      if s.cycle < c + 65536 then keep s p
      else keep s { p with pa := pa + (128 - pa % 128), bytes := rest.drop (128 - pa % 128), since := none }

/-- A posted write of the host waits: its later writes and commands wait behind it (R134). -/
def hostPosted (s : State) : Bool := s.posted.any (·.host)

/-- Writes that wait at their homes are tried again, in their order; what waited behind those of the host comes next (R134). -/
def servePosted (s : State) : State :=
  let t := s.posted.foldl servePost { s with posted := [] }
  if hostPosted t then t else { t with agenda := t.later ++ t.agenda, later := [] }

/-- A write of the launch unit for a context that leaves waits for no one: where its line waits it is posted (R183, R212), and one
to a far home is a request of its own (R278). -/
def launchWriteNow (s : State) (ck va : Nat) (bs : List Byte) : Out :=
  match translate s ck 512 va (Use.store bs.length) with
  | .fault s1 c => .fault s1 c va
  | .absent s1 _ => .fault s1 fcTranslation va
  | .ok s1 x =>
    if (destOf s1 (homeOf s1.pkg.id x.pa)).isSome then .ok (farWrite s1 devOwner ck x.key x.cmp x.pa bs)
    else .ok (servePost s1 ⟨false, ck, x.key, x.ver, x.cmp, x.pa, bs, none⟩)

/-- A read of the launch unit. -/
def launchRead (s : State) (ck va n : Nat) : Out × Nat :=
  match translate s ck 512 va (Use.load n) with
  | .fault s1 c => (.fault s1 c va, 0)
  | .absent s1 _ => (.fault s1 fcTranslation va, 0)
  | .ok s1 x =>
    match agentRead s1 (launchOwner ck) ck x.key x.ver none x.pa n false with
    | .done s2 d => (.ok s2, d)
    | .stall s2 _ => (.wait s2, 0)
    | .fault c => (.fault (noteIntegrity s1 c x.key ck x.pa) c va, 0)

/-- Fields of an LPB (R207). -/
def lpbW (l : List W64) (i : Nat) : W64 := l.getD i 0
def lpbPrio (l : List W64) : Nat := fld (lpbW l 0) 45 44
def lpbOrder (l : List W64) : Nat := fld (lpbW l 0) 43 42
def lpbSwz (l : List W64) : Nat := fld (lpbW l 0) 41 39
def lpbCapn (l : List W64) : Nat := fld (lpbW l 0) 38 34
def lpbGx (l : List W64) : Nat := fld (lpbW l 2) 63 40
def lpbGy (l : List W64) : Nat := fld (lpbW l 2) 39 16
def lpbGz (l : List W64) : Nat := fld (lpbW l 2) 15 0
def lpbScratch (l : List W64) : Nat := fld (lpbW l 5) 63 40
def lpbBars (l : List W64) : Nat := fld (lpbW l 5) 39 32
def lpbTxrows (l : List W64) : Nat := fld (lpbW l 5) 31 16
def lpbCaddr (l : List W64) : Nat := fld (lpbW l 7) 54 5 * 32
def lpbTeams (l : List W64) : Nat := lpbGx l * lpbGy l * lpbGz l

/-- Rows of a team's allocation (R93). -/
def lpbRows (l : List W64) : Nat := (lpbScratch l + 127) / 128

/-- A valid LOCAL entry of kind CISTERN. -/
def entryLocal (e : W64) : Bool := e.getLsbD 63 && e.getLsbD 56 && fld e 62 60 == 0

/-- A capability entry is malformed (R241): `slot` is none for a shared entry, and gives a grid's allocation and the top
of the rows below its transaction area for a grid entry. -/
def entryBad (pkg : Nat) (grid : Option (Nat × Nat)) (e : W64) : Bool :=
  e.getLsbD 63 &&
  (fld e 15 0 != 0 ||
   (match fld e 62 60 with
    | 0 =>
      if e.getLsbD 56 then
        match grid with
        | none => true
        | some (_, top) =>
          fld e 35 32 != 0 || decide (12 < fld e 40 36) || decide (2 ^ fld e 40 36 < fld e 31 16) ||
            decide (top < fld e 55 43 + (2 ^ fld e 40 36 * (8 * 2 ^ fld e 42 41) + 127) / 128)
      else fld e 55 46 != pkg
    | 1 => fld e 58 56 != 0 || fld e 55 42 != 0
    | 2 => fld e 58 56 != 0 || fld e 55 46 != 0 || fld e 42 33 != 0
    | 3 => fld e 58 56 != 0 || fld e 55 32 != 0
    | 4 => fld e 58 56 != 0 || fld e 55 46 == pkg || decide (576 ≤ fld e 55 46)
    | _ => true))

/-- Reserved bits of an LPB that must be zero (R207). -/
def lpbReserved (l : List W64) : Bool :=
  fld (lpbW l 0) 33 0 != 0 || fld (lpbW l 1) 31 8 != 0 || fld (lpbW l 4) 63 29 != 0 || fld (lpbW l 5) 15 0 != 0 ||
  fld (lpbW l 6) 63 55 != 0 || fld (lpbW l 7) 56 55 != 0 || fld (lpbW l 7) 4 0 != 0 || (lpbW l 8).getLsbD 55 ||
  (List.range 7).any (fun i => lpbW l (25 + i) != 0)

/-- The initial capability entries of a grid (R208). -/
def lpbCaps (l : List W64) : List W64 := (List.range (min 16 (lpbCapn l))).map (fun i => lpbW l (9 + i))

/-- Order 1 of R210. -/
def formatBad (pkg : Nat) (l : List W64) : Bool :=
  let log := fld (lpbW l 8) 63 56
  fld (lpbW l 0) 63 56 != 1 || lpbReserved l ||
  (lpbCaps l).any (entryBad pkg (some (lpbRows l, lpbRows l - lpbTxrows l))) ||
  fld (lpbW l 0) 55 54 == 3 || (lpbSwz l != 0 && decide (2 ≤ lpbOrder l)) ||
  lpbGx l == 0 || lpbGy l == 0 || lpbGz l == 0 || decide (16 < lpbCapn l) || decide (64 < lpbBars l) ||
  decide (0xFFF800 ≤ lpbScratch l) || (log != 0 && (decide (log < 8) || decide (20 < log))) ||
  (log != 0 && fld (lpbW l 8) 54 0 % 2 ^ log != 0)

/-- The kernel of a launch: its object, descriptor and roles. -/
def lpbKern (c : Ctx) (l : List W64) : Option (KObj × Kern) :=
  match tabGet c.objs (fld (lpbW l 1) 63 32) with
  | some o => if o.unloading then none else (o.kernels[fld (lpbW l 1) 7 0]?).map (fun k => (o, k))
  | none => none

/-- A kernel's roles. -/
def kernRoles (o : KObj) (k : Kern) : List RoleEnt := (o.roles.drop k.role0).take k.nrole

/-- Hardware groups of a logical group (R205). -/
def kernPaired (k : Kern) : Bool := k.width == 2 * nativeThreads k.triplex
def kernHw (k : Kern) : Nat := if kernPaired k then 2 else 1

/-- Ways of filling one scheduler: for each role, how many of its groups; slots and rows that remain. -/
def fills (hw : Nat) : List RoleEnt → List Nat → Nat → Nat → List (List Nat)
  | r :: rs, n :: ns, slots, rows =>
    ((List.range (n + 1)).filter (fun i => i * hw ≤ slots && i * hw * (8 * r.regs) ≤ rows)).flatMap
      (fun i => (fills hw rs ns (slots - i * hw) (rows - i * hw * (8 * r.regs))).map (fun f => (n - i) :: f))
  | _, _, _, _ => [[]]

/-- The groups of a team can be spread over `n` schedulers (R210 order 5). -/
def canSpread (hw : Nat) (rs : List RoleEnt) (slots rows : Nat) : Nat → List Nat → Bool
  | 0, left => left.all (· == 0)
  | n + 1, left => left.all (· == 0) || (fills hw rs left slots rows).any (canSpread hw rs slots rows n)

/-- Order 5 of R210: no core can hold one team. -/
def quotaBad (w0 : W64) (exprows : Nat) (rs : List RoleEnt) (k : Kern) (l : List W64) : Bool :=
  !canSpread (kernHw k) rs (fld w0 31 27) (fld w0 26 16) 4 (rs.map (·.groups)) ||
  decide (fld w0 15 9 < lpbBars l) || decide (fld w0 44 32 - exprows < lpbRows l) ||
  decide (fld w0 8 3 < (lpbCaps l).countP entryLocal) || decide (lpbRows l < lpbTxrows l)

/-- STATUS codes of a completion record (R212). -/
abbrev stDone : Nat := 0
abbrev stHalted : Nat := 1

/-- The checks of R210: a status, or the kernel. -/
def checkLaunch (s : State) (c : Ctx) (l : List W64) : Except Nat (KObj × Kern) :=
  if formatBad s.pkg.id l then .error 2
  else
    match lpbKern c l with
    | none => .error 3
    | some (o, k) =>
      if 2 ^ 31 < lpbTeams l * 32 * nativeThreads k.triplex || lpbScratch l < k.scratch || lpbBars l < k.bars then .error 2
      else if fld (lpbW l 0) 55 54 = 2 ∧ !(tabGet c.pins (fld (lpbW l 0) 53 46)).any (fun p => p.state == .held) then .error 4
      else if quotaBad (getPart s (ctxPart c)).w0 (fld (descW c 8) 12 0) (kernRoles o k) k l then .error 5
      else .ok (o, k)

/-- A completion record (R212). -/
def recordWords (s : State) (status cause teams addr : Nat) : List W64 :=
  [BitVec.ofNat 64 s.gts, BitVec.ofNat 64 (status * 2 ^ 56 + cause % 256 * 2 ^ 48), BitVec.ofNat 64 teams, BitVec.ofNat 64 addr]

/-- Writes a completion record: `none` where the write waits; a fault halts the context, and the record is not written
again (R212). -/
def writeRecord (s : State) (ck : Nat) (l : List W64) (ws : List W64) : Except State State :=
  match launchWrite s ck (lpbCaddr l) (wordsBytes ws) with
  | .ok s1 => .ok s1
  | .wait s1 => .error (keepFars s s1)
  | .fault s1 c a => .ok (haltRise s1 ck c noUnit 0 a false)

/-- Writes a completion record at once, for a context that leaves. -/
def writeRecordNow (s : State) (ck : Nat) (l : List W64) (ws : List W64) : State :=
  match launchWriteNow s ck (lpbCaddr l) (wordsBytes ws) with
  | .ok s1 => s1
  | .wait s1 => s1
  | .fault s1 c a => haltRise s1 ck c noUnit 0 a false

/-- A draining work queue whose records are consumed and whose grids are complete is CLOSED (R251). -/
def drainDoneQ (s : State) (q : Nat) : State :=
  let w := getWq s q
  if w.state = .draining ∧ w.head = w.drainTo ∧ w.signal.isNone ∧
      !(s.grids.any (fun g => g.2.wq == some q)) ∧ !(s.reqs.any (fun r => r.2.wq == some q)) then
    updWq s q (fun w => { w with state := .closed })
  else s

/-- A completed grid or refused launch of a work queue (R251). -/
def drainOf (s : State) (wq : Option Nat) : State :=
  match wq with
  | some q => drainDoneQ s q
  | none => s

/-- GRID_ACCEPTANCE (R210): the oldest request of its source is checked; a refusal writes its completion record. R212 does not
say whether a refused launch with CEN = 1 also pushes to CCH, since no grid completes: the model makes no push (DESIGN CHOICE,
assumption log, row 86). -/
def execGridAcceptance (req : Nat) (s : State) : Host.Outcome State Fault Refusal :=
  event s (
    match tabGet s.reqs req with
    | none => s
    | some r =>
      match tabGet s.ctxs r.ctx with
      | none => { s with reqs := tabDel s.reqs req }
      | some c =>
        let earlier := s.reqs.any (fun x => decide (x.1 < req) && x.2.ctx == r.ctx && x.2.wq == r.wq)
        if earlier || c.state == .halting || c.state == .halted then s
        else
          let s1 := { s with reqs := tabDel s.reqs req }
          match checkLaunch s c r.words with
          | .error st =>
            match writeRecord s1 r.ctx r.words (recordWords s st 0 0 r.addr) with
            | .ok s2 => drainOf s2 r.wq
            | .error s2 => keepFars s s2
          | .ok (o, k) =>
            let mode := fld (lpbW r.words 0) 55 54
            let pin := fld (lpbW r.words 0) 53 46
            let snap := if mode = 1 then some s.gts else if mode = 2 then (tabGet c.pins pin).map (·.stamp) else none
            let g : Grid := ⟨r.ctx, r.addr, r.words, fld (lpbW r.words 1) 63 32, k, kernRoles o k, snap,
              if mode = 2 then some pin else none, 0, 0, 0, 0, r.wq, s.cycle⟩
            let s2 := if mode = 2 then updCtx s1 r.ctx (fun c => { c with pins := tabUpd c.pins pin (fun p => { p with refs := p.refs + 1 }) }) else s1
            let (n, s3) := fresh s2
            { s3 with grids := tabPut s3.grids n g })

/-- A Morton coordinate: every second bit of `d` from `i` (R211). -/
def mortonBits (d i : Nat) : Nat := (List.range 24).foldl (fun n j => n + d / 2 ^ (2 * j + i) % 2 * 2 ^ j) 0

/-- Side of the square that Morton and Hilbert orders cover, as log2 (R211). -/
def sideLog (n : Nat) : Nat := ((List.range 25).find? (fun j => n ≤ 2 ^ j)).getD 24

/-- The position of step `d` of the Hilbert order on a square of side `2 ^ k` (R211). -/
def hilbert (k d : Nat) : Nat × Nat :=
  let r := (List.range k).foldl
    (fun (u : Nat × Nat × Nat) i =>
      let (x, y, q) := u
      let m := 2 ^ i
      let a := q / 2 % 2
      let b := (q ^^^ a) % 2
      let (x, y) := if b = 0 then (if a = 1 then (m - 1 - y, m - 1 - x) else (y, x)) else (x, y)
      (x + m * a, y + m * b, q / 4)) (0, 0, d)
  (r.1, r.2.1)

/-- The row-major position with swizzle (R211). -/
def rowMajor (swz gx gy d : Nat) : Nat × Nat :=
  let h0 := 2 ^ swz
  let band := d / (gx * h0)
  let rest := d % (gx * h0)
  let h := min h0 (gy - band * h0)
  (rest / h, band * h0 + rest % h)

/-- The position of step `d` of an order (R211). -/
def teamXY (order swz gx gy d : Nat) : Nat × Nat :=
  match order with
  | 0 => rowMajor swz gx gy d
  | 1 => ((rowMajor swz gy gx d).2, (rowMajor swz gy gx d).1)
  | 2 => (mortonBits d 0, mortonBits d 1)
  | _ => hilbert (sideLog (max gx gy)) d

/-- Steps of a plane (R211). -/
def planeLen (order gx gy : Nat) : Nat := if order < 2 then gx * gy else 4 ^ sideLog (max gx gy)

/-- The first step from `d` on, in at most `n` of them, whose position is a team's. -/
def findPos (order swz gx gy : Nat) : Nat → Nat → Option (Nat × Nat × Nat)
  | 0, _ => none
  | n + 1, d =>
    let p := teamXY order swz gx gy d
    if p.1 < gx ∧ p.2 < gy then some (d, p.1, p.2) else findPos order swz gx gy n (d + 1)

/-- The next team of a grid: its plane, step and linear id (R209, R211). -/
def nextTeam (g : Grid) : Option (Nat × Nat × Nat) :=
  let l := g.lpb
  let gx := lpbGx l
  let gy := lpbGy l
  let len := planeLen (lpbOrder l) gx gy
  let at0 := fun z d => (findPos (lpbOrder l) (lpbSwz l) gx gy (len - d) d).map (fun p => (z, p.1, p.2.1 + gx * (p.2.2 + gy * z)))
  if lpbTeams l ≤ g.placed then none
  else
    match at0 g.z g.d with
    | some p => some p
    | none => if g.z + 1 < lpbGz l then at0 (g.z + 1) 0 else none

/-- The grid of a context that the dispatcher serves (R211). -/
def servedGrid (s : State) (ck : Nat) : Option (Nat × Grid) :=
  (s.grids.filter (fun g => g.2.ctx == ck && decide (g.2.placed < lpbTeams g.2.lpb))).foldl
    (fun o g => match o with
      | none => some g
      | some b => if lpbPrio b.2.lpb < lpbPrio g.2.lpb then some g else some b) none

/-- The logical groups of a team: role and team slot, in role and group order (R209). -/
def teamShape (g : Grid) : List (Nat × Nat) :=
  ((((g.roles.zipIdx).map (fun r => List.replicate r.1.groups r.2)).flatten).zipIdx).map (fun r => (r.1, r.2 * kernHw g.kern))

/-- A new group of a team in team slot `j` (R205, R206, R209, R220). -/
def teamGroup (serial ck gk tk lin j role cycle : Nat) (g : Grid) (base : Nat) : Grp :=
  let k := g.kern
  let r := g.roles.getD role ⟨0, 1, 1, false⟩
  let n := nativeThreads k.triplex
  let width := if k.width = 0 then n else k.width
  let lanes := if k.triplex then 3 * width else width
  newGroup serial ck gk tk role lin j k.triplex (kernPaired k) (8 * r.regs) cycle (base + r.entry)
    (lanesFrom lanes &&& BitVec.ofNat 96 (2 ^ (if kernPaired k then 96 else 48) - 1))
    ((List.range width).map (fun t => (t, (lin * 32 + j) * n + t)))
    (lpbW g.lpb 3) (lpbW g.lpb 4) (rasbaseOf g.lpb lin j) [] (startS g.lpb)

/-- The lender whose rows a placement takes (R196): a partition that lends to the context's, on a core of both maps. -/
def lenderOf (s : State) (p core row n : Nat) : Option Nat :=
  if n = 0 ∨ (rowLo s p ≤ row ∧ row + n ≤ rowLo s p + rowCnt s p) then none
  else (List.range 48).find? (fun q => q != p && (getPart s q).w0.getLsbD 0 && (getPart s q).w2.getLsbD 8 &&
    fld (getPart s q).w2 14 9 == p && (placedCores s (getPart s q).w1).contains core &&
    decide (rowLo s q ≤ row) && decide (row + n ≤ rowLo s q + rowCnt s q))

/-- Free queue slots of a partition on a core, ascending (R243). -/
def freeQslots (s : State) (p core : Nat) : List Nat :=
  ((List.range (fld (getPart s p).w0 8 3)).map (fun i => p * 32 + i)).filter (fun q => (tabGet (getCore s core).qslots q).isNone)

/-- The instances of a team's grid entries, and the queues of its LOCAL entries (R239, R243). -/
def teamCaps (tk ck row : Nat) : List (Nat × W64) → List Nat → Tab Cap × Tab QSlot
  | [], _ => ([], [])
  | (i, e) :: rest, free =>
    if entryLocal e then
      let q := free.headD 0
      let r := teamCaps tk ck row rest (free.drop 1)
      (tabPut r.1 i ⟨e, fld e 31 16, [], some q⟩,
       tabPut r.2 q ⟨ck, some tk, false, row + fld e 55 43, 8 * 2 ^ fld e 42 41, 2 ^ fld e 40 36, 0, 0, 0, [], [], []⟩)
    else
      let r := teamCaps tk ck row rest free
      (tabPut r.1 i ⟨e, fld e 31 16, [], none⟩, r.2)

/-- A team that declares matrix use may be placed on a core whose engine its partition can hold (R393). -/
def matrixFree (s : State) (core p : Nat) (g : Grid) : Bool :=
  !(g.roles.any (·.matrix)) || (match matrixHolder s core with | some q => q == p | none => true)

/-- Starts granted, or reserved and not yet used, on a die in the last 64 cycles (R19). -/
def startsTaken (s : State) (die : Nat) : Nat := (recentGrants s die).length + (liveReserved s die).length

/-- The team's role table declares matrix use (R201). -/
def declaresMatrix (g : Grid) : Bool := g.roles.any (·.matrix)

/-- A team that declares matrix use waits for a start to reserve, until 2048 cycles after the launch's acceptance (R19;
assumption log, row 69). -/
def startFree (s : State) (core : Nat) (g : Grid) : Bool :=
  !declaresMatrix g || decide (startsTaken s (core / 64) < 8) || decide (g.since + 2048 ≤ s.cycle)

/-- The dispatcher reserves a start for a placed team that declares matrix use (R19). -/
def reserveStart (s : State) (core tk : Nat) (g : Grid) : State :=
  if declaresMatrix g then
    updDie s (core / 64) (fun d => { d with reserved := liveReserved s (core / 64) ++ [(s.cycle, tk)] })
  else s

/-- Places the groups of a team on the slots given, one after another; `none` where one does not fit (R178, R211). -/
def placeGroups (part ck gk tk lin : Nat) (g : Grid) (base : Nat) : List (Nat × Nat) → List Nat → State → Option State
  | [], [], s => some s
  | (role, j) :: rest, k :: ks, s =>
    let regs := 8 * (g.roles.getD role ⟨0, 1, 1, false⟩).regs
    if (tabGet s.teams tk).any (fun t => coreOf k == t.core) && slotFits s part k regs (kernHw g.kern) then
      let (n, s1) := fresh s
      let s2 := setGroup s1 k (teamGroup n ck gk tk lin j role s.cycle g base)
      let s3 := { s2 with teams := tabUpd s2.teams tk (fun t =>
        { t with slots := (List.range (kernHw g.kern)).foldl (fun m i => tabPut m (j + i) k) t.slots }) }
      placeGroups part ck gk tk lin g base rest ks s3
    else none
  | _, _, _ => none

/-- TEAM_PLACEMENT (R19, R211, R22, R28, R93, R196, R209, R243): the dispatcher places the next team of the grid it serves on
a core with room for it. -/
def execTeamPlacement (grid core : Nat) (slots : List Nat) (row bar : Nat) (s : State) : Host.Outcome State Fault Refusal :=
  event s (
    match tabGet s.grids grid with
    | none => s
    | some g =>
      match tabGet s.ctxs g.ctx, nextTeam g with
      | some c, some (z, d, lin) =>
        let p := ctxPart c
        let part := getPart s p
        let rows := lpbRows g.lpb
        let nb := lpbBars g.lpb
        let lender := lenderOf s p core row rows
        let q := lender.getD p
        let free := freeQslots s p core
        let ok := c.state == .running && ((servedGrid s g.ctx).map (·.1) == some grid) &&
          (placedCores s part.w1).contains core && !(getCore s core).failed && !(getDie s (core / 64)).trip &&
          rowsFree s g.ctx q core row rows && decide (bar + nb ≤ fld part.w0 15 9) &&
          !(s.teams.any (fun t => t.2.ctx == g.ctx && t.2.core == core && rangesMeet (p * 64 + bar) nb t.2.bar t.2.nbars)) &&
          decide ((lpbCaps g.lpb).countP entryLocal ≤ free.length) && matrixFree s core p g && startFree s core g
        if !ok then s
        else
          let (tk, s1) := fresh s
          let (caps, qs) := teamCaps tk g.ctx row (((lpbCaps g.lpb).zipIdx).map (fun e => (e.2, e.1))) free
          let t : Team := ⟨grid, g.ctx, lin, core, row, rows, lpbScratch g.lpb, lpbTxrows g.lpb, p * 64 + bar, nb, [], caps, lender, none, []⟩
          let s2 := { s1 with
            teams := tabPut s1.teams tk t,
            grids := tabPut s1.grids grid { g with z := z, d := d + 1, placed := g.placed + 1 } }
          match placeGroups q g.ctx grid tk lin g ((tabGet c.objs g.obj).elim 0 (·.base)) (teamShape g) slots s2 with
          | none => s
          | some s3 =>
            let s4 := updCore s3 core (fun x => { x with
              bars := x.bars.filter (fun b => b.1 < p * 64 + bar || p * 64 + bar + nb ≤ b.1),
              qslots := qs.foldl (fun m e => tabPut m e.1 e.2) x.qslots })
            putBytes (reserveStart s4 core tk g) (rowAddr s.pkg.id core row 0) ((List.range (128 * rows)).map (Config.undefByte tk))
      | _, _ => s)

/-- Address of the level-3 entry of a text page, where the tables above it exist (R159). -/
def textLeafAddr (s : State) (vf : Nat) (c : Ctx) (va : Nat) : Option Nat :=
  let step := fun (a : Option Nat) level => a.bind (fun t =>
    let p := BitVec.ofNat 64 (viewNat s (.vf vf) (t + 8 * (va / 2 ^ levelBits level % 8192)) 8)
    if pteV p && !pteL p then some (ptePa p) else none)
  ((step (step (some (fld (descW c 2) 51 16 * 2 ^ 16)) 1) 2)).map (fun t => t + 8 * (va / 2 ^ 16 % 8192))

/-- Maps, or unmaps, text pages in the text map (R164, R203, R204). -/
def mapText (s : State) (vf : Nat) (c : Ctx) (page : Nat) (ptes : List W64) : State :=
  (ptes.zipIdx).foldl (fun t e =>
    match textLeafAddr t vf c ((page + e.2) * 0x10000) with
    | some a => hostPut t vf a (leBytes e.1.toNat 8)
    | none => t) s

/-- The object leaves the context (R204): slots resolved into it are unresolved again, its text is unmapped and
invalidated. -/
def objRemove (s : State) (ck id : Nat) : State :=
  match (tabGet s.ctxs ck).bind (fun c => (tabGet c.objs id).map (fun o => (c, o))) with
  | none => s
  | some (c, o) =>
    let s1 := o.slots.foldl (fun t pa => hostPut t (ctxVf ck) pa (leBytes 0 8)) s
    let n := o.size / 4096
    let s2 := mapText s1 (ctxVf ck) c (o.base / 4096) (List.replicate n 0)
    let s3 := { s2 with
      tlb := s2.tlb.filter (fun e => !(e.vf == ctxVf ck && e.text &&
        overlaps (e.base * 2 ^ e.bits) (2 ^ e.bits) (o.base / 4096 * 0x10000) (n * 0x10000))),
      walks := s2.walks.filter (fun e => !(e.vf == ctxVf ck && e.text)) }
    updCtx s3 ck (fun c => { c with objs := tabDel c.objs id })

/-- An UNLOADING object with no grid left is removed (R204). -/
def objDrop (s : State) (ck id : Nat) : State :=
  if ((tabGet s.ctxs ck).bind (fun c => tabGet c.objs id)).any (·.unloading) &&
      !(s.grids.any (fun g => g.2.ctx == ck && g.2.obj == id)) then objRemove s ck id else s

/-- A little-endian field of a file. -/
def fileNat (file : List Byte) (off n : Nat) : Nat := leNat ((file.drop off).take n)

/-- Section `i` of an SXO file: its offset and size (R200). -/
def sectOf (file : List Byte) (i : Nat) : Nat × Nat := (fileNat file (0x10 + 16 * i) 8, fileNat file (0x18 + 16 * i) 8)

/-- Entries of `sz` bytes of a section. -/
def entriesOf (file : List Byte) (i sz : Nat) : List Nat :=
  let x := sectOf file i
  (List.range (x.2 / sz)).map (fun k => x.1 + sz * k)

/-- The kernel descriptors, roles and recipes of a file (R201). -/
def fileKerns (file : List Byte) : List Kern :=
  (entriesOf file 2 32).map (fun a => ⟨fileNat file (a + 8) 1 == 0, fileNat file (a + 9) 1, fileNat file (a + 10) 2,
    fileNat file (a + 12) 2, fileNat file (a + 14) 1, fileNat file (a + 16) 4⟩)
def fileRoles (file : List Byte) : List RoleEnt :=
  (entriesOf file 3 16).map (fun a => ⟨fileNat file a 5, fileNat file (a + 5) 1, fileNat file (a + 6) 1, fileNat file (a + 7) 1 % 2 == 1⟩)
def fileRecipes (file : List Byte) : List Recipe :=
  (entriesOf file 4 32).map (fun a =>
    ⟨fileNat file a 5, (List.range (fileNat file (a + 5) 1)).map (fun i => fileNat file (a + 6) 20 / 2 ^ (20 * i) % 2 ^ 10)⟩)

/-- Banks of a file's const section: number and offset of its words (R200). -/
def fileBanks (file : List Byte) : List (Nat × Nat) := (entriesOf file 1 4100).map (fun a => (fileNat file a 4, a + 4))

/-- The binding entries of a file: symbol name and slot, by data-section offset (R201). -/
def fileBinds (file : List Byte) : List (Nat × Nat) := (entriesOf file 5 16).map (fun a => (fileNat file a 8, fileNat file (a + 8) 8))

/-- The bytes of a section of a file. -/
def sectBytes (file : List Byte) (i : Nat) : List Byte := (file.drop (sectOf file i).1).take (sectOf file i).2

/-- The relocations of a file (R200): place in the text, or in the data section, and target. -/
def fileRelocs (file : List Byte) : List (Bool × Nat × Nat) :=
  if (sectOf file 6).2 = 0 then [] else Config.relocEntries (sectBytes file 6)

/-- Number of instructions of a file's text. -/
def textLen (file : List Byte) : Nat := (sectOf file 0).2 / 12

/-- The layout checks of R202, the first row of its table. A MODE above 1, a COUNT above 8 and a section past the end of the
file, which the table does not list, are taken as wrong too (DESIGN CHOICE, assumption log, row 72). -/
def layoutBad (file : List Byte) : Bool :=
  let sz := fun i => (sectOf file i).2
  let z := fun off n => fileNat file off n != 0
  let banks := fun (_ : Unit) => (fileBanks file).map (·.1)
  decide (file.length < 256) || fileNat file 0 4 != 0x004F5853 || fileNat file 4 2 != 1 || z 6 2 || z 0x0C 4 || z 0x90 112 ||
  fileNat file 8 4 == 0 || decide (255 < fileNat file 8 4) ||
  (List.range 8).any (fun i => decide (file.length < (sectOf file i).1 + sz i)) ||
  sz 0 % 12 != 0 || sz 1 % 4100 != 0 || sz 2 != 32 * fileNat file 8 4 || sz 3 % 16 != 0 || sz 4 % 32 != 0 || sz 5 % 16 != 0 ||
  (banks ()).any (fun b => decide (7 ≤ b)) || (List.range 7).any (fun b => decide (1 < (banks ()).countP (· == b))) ||
  (entriesOf file 2 32).any (fun a => z (a + 15) 1 || z (a + 20) 12 || decide (1 < fileNat file (a + 8) 1)) ||
  (entriesOf file 3 16).any (fun a => decide (1 < fileNat file (a + 7) 1)) ||
  (entriesOf file 4 32).any (fun a => z (a + 26) 6 || decide (8 < fileNat file (a + 5) 1) ||
    (List.range 8).any (fun i => fileNat file (a + 6) 20 / 2 ^ (20 * i + 10) % 2 ^ 10 != 0))

/-- A width that R205 does not accept. -/
def widthBad (k : Kern) : Bool :=
  k.width != 0 && !((if k.triplex then [8, 16, 32] else [24, 48, 96]).contains k.width)

/-- The role and target checks of R202. Roles past the roles section, which the table does not list, are refused too (DESIGN
CHOICE, assumption log, row 72). -/
def rolesBad (file : List Byte) : Bool :=
  let rs := fileRoles file
  (fileKerns file).any (fun k =>
    k.nrole == 0 || decide (4 < k.nrole) || decide (rs.length < k.role0 + k.nrole) ||
    decide (32 < (((rs.drop k.role0).take k.nrole).map (fun r => r.groups * kernHw k)).foldl (· + ·) 0)) ||
  rs.any (fun r => r.groups == 0 || decide (32 < r.groups) || r.regs == 0 || decide (32 < r.regs) || decide (textLen file ≤ r.entry)) ||
  (fileRecipes file).any (fun r => decide (textLen file ≤ r.routine)) ||
  (fileRelocs file).any (fun r => decide (textLen file ≤ r.2.2))

/-- The cause with which onld refuses a file, or none (R202). Where several rows of its table hold, the rule names no order: the
model takes the layout first, then WIDTH, then roles, routines and relocation targets (DESIGN CHOICE, assumption log, row 87). -/
def fileCause (file : List Byte) : Option Nat :=
  if layoutBad file then some fcIllegalOpnd
  else if (fileKerns file).any widthBad then some fcWidth
  else if rolesBad file then some fcIllegalOpnd
  else none

/-- onld accepts a file (R202). -/
def fileOk (file : List Byte) : Bool := (fileCause file).isNone

/-- Constants of a file by bank and word. -/
def fileConsts (file : List Byte) : Tab W32 :=
  (fileBanks file).foldl (fun t b =>
    (List.range 1024).foldl (fun t i =>
      let w := fileNat file (b.2 + 4 * i) 4
      if w = 0 then t else tabPut t (b.1 * 1024 + i) (BitVec.ofNat 32 w)) t) []

/-- The bytes of text page `i`: instructions, then all ones (R203). -/
def pageBytes (file : List Byte) (i : Nat) : List Byte :=
  let x := sectOf file 0
  let bs := ((file.drop x.1).take x.2).drop (49152 * i)
  (bs.take 49152) ++ List.replicate (49152 - (bs.take 49152).length) 0xFF

/-- Where byte `off` of a section stands in its frames, `per` bytes of it in each. -/
def frameByte (frames : List Nat) (per off : Nat) : Nat := frames.getD (off / per) 0 + off % per

/-- A relocation is applied (R204). -/
def applyReloc (s : State) (vf base : Nat) (frames datas : List Nat) (r : (Bool × Nat × Nat) × Nat) : State :=
  let (inText, place, target) := r.1
  hostPut s vf (if inText then frameByte frames 49152 place else frameByte datas 65536 place) (Config.relocBytes r.2 (base + target))

/-- What a load makes of a file: text and data in their frames, relocations applied, binding slots unresolved (R203, R204). -/
def loadBytes (s : State) (vf base : Nat) (file : List Byte) (frames datas : List Nat) : State :=
  let s1 := (frames.zipIdx).foldl (fun t f => hostPut t vf f.1 (pageBytes file f.2)) s
  let s2 := (datas.zipIdx).foldl (fun t f => hostPut t vf f.1 (((sectBytes file 7).drop (65536 * f.2)).take 65536)) s1
  let s3 := ((fileRelocs file).zipIdx).foldl (fun t r => applyReloc t vf base frames datas r) s2
  (fileBinds file).foldl (fun t b => hostPut t vf (frameByte datas 65536 b.2) (leBytes 0 8)) s3

/-- Names of a file's kernels and roles, by data-section offset (R201). -/
def fileKernNames (file : List Byte) : List Nat := (entriesOf file 2 32).map (fun a => fileNat file a 8)
def fileRoleNames (file : List Byte) : List Nat := (entriesOf file 3 16).map (fun a => fileNat file (a + 8) 8)

/-- OBJECT_LOAD (R202 to R204): onld loads an accepted object at a text base and id of its choice, its text and then its data in
the frames given (assumption log, row 20), and reports the cause of a refusal. -/
def execObjectLoad (ctx : Nat) (file : List (BitVec 8)) (id base : Nat) (frames : List Nat) (s : State) :
    Host.Outcome State Fault Refusal :=
  event s (
    match tabGet s.ctxs ctx with
    | none => s
    | some c =>
      let pages := (textLen file + 4095) / 4096
      let size := 4096 * pages
      match fileCause file with
      | some cause => updCtx s ctx (fun c => { c with loadCause := cause })
      | none =>
        if (tabGet c.objs id).isSome || base % 4096 != 0 || decide (2 ^ 40 < base + size) ||
            frames.length != pages + ((sectOf file 7).2 + 65535) / 65536 ||
            frames.any (fun f => f % 0x10000 != 0 || !ownWell s f) ||
            c.objs.any (fun o => rangesMeet base size o.2.base o.2.size) then s
        else
          let texts := frames.take pages
          let datas := frames.drop pages
          let s1 := loadBytes s (ctxVf ctx) base file texts datas
          let s2 := mapText s1 (ctxVf ctx) c (base / 4096) (texts.map (fun f => BitVec.ofNat 64 (f + 7)))
          let o : KObj := ⟨false, base, size, fileKerns file, fileRoles file,
            (fileRecipes file).map (fun r => { r with routine := base + r.routine }), fileConsts file, texts, [],
            datas, fileKernNames file, fileRoleNames file, fileBinds file⟩
          updCtx s2 ctx (fun c => { c with objs := tabPut c.objs id o, loadCause := 0 }))

/-- OBJECT_UNLOAD (R204). -/
def execObjectUnload (ctx id : Nat) (s : State) : Host.Outcome State Fault Refusal :=
  event s (objDrop (updCtx s ctx (fun c => { c with objs := tabUpd c.objs id (fun o => { o with unloading := true }) })) ctx id)

/-- The pin reference of a completed grid is given up (R147). -/
def unpin (s : State) (g : Grid) : State :=
  match g.pin with
  | none => s
  | some i => updCtx s g.ctx (fun c => { c with pins := tabUpd c.pins i (fun p =>
      if p.state = .draining ∧ p.refs ≤ 1 then { p with state := .free, refs := 0 } else { p with refs := p.refs - 1 }) })

/-- The completion entry of a grid with CEN is pushed to its channel (R212; assumption log, row 21). The push takes no
allowance of the channel's instance and waits for none (DESIGN CHOICE, row 73). -/
def pushDone (s : State) (g : Grid) : State :=
  let cch := fld (lpbW g.lpb 7) 63 58
  let e := if cch < lpbCapn g.lpb ∧ cch < 16 then lpbW g.lpb (9 + cch) else 0
  let bad := fun c => haltRise s g.ctx c noUnit 0 0 false
  let id := BitVec.ofNat 64 (s.pkg.id * 2 ^ 54 + (2 ^ 26 - 1) * 2 ^ 6 + cch)
  let bs := leBytes (lpbCaddr g.lpb) 8
  if !(lpbW g.lpb 7).getLsbD 57 then s
  else if !e.getLsbD 63 then bad fcCap
  else if !e.getLsbD 59 then bad fcCapPerm
  else
    let (n, s1) := fresh s
    let p := partOf s g.ctx
    match fld e 62 60 with
    | 0 =>
      if e.getLsbD 56 then bad fcQueueError
      else sendMsgs s1 [.append (fld e 45 43 * 64 + fld e 42 37) (p * 32 + fld e 36 32) g.ctx id bs 0 n 0 none true]
    | 4 => sendMsgs s1 [.link (fld e 55 46) (fld e 45 43 * 64 + fld e 42 37) (fld e 36 32) g.ctx id bs 0 n 0 none true]
    | 1 | 2 => bad fcIllegalOpnd
    | _ => bad fcCap

/-- A grid whose record is written leaves (R204, R212, R251): its entry is pushed, also where the write of the record
faulted (DESIGN CHOICE, assumption log, row 73). -/
def gridGone (s : State) (gk : Nat) (g : Grid) : State :=
  let s1 := unpin { s with grids := tabDel s.grids gk } g
  pushDone (drainOf (objDrop s1 g.ctx g.obj) g.wq) g

/-- A grid leaves with a status and cause (R212): its record is written first; nothing where that waits. -/
def closeGrid (s : State) (gk : Nat) (status cause : Nat) : State :=
  match tabGet s.grids gk with
  | none => s
  | some g =>
    match writeRecord s g.ctx g.lpb (recordWords s status cause g.ended g.lpbAddr) with
    | .ok s1 => gridGone s1 gk g
    | .error s1 => s1

/-- A grid leaves with a context that leaves: its record waits for nothing (R183, R212). -/
def closeGridNow (s : State) (gk : Nat) (status cause : Nat) : State :=
  match tabGet s.grids gk with
  | none => s
  | some g => gridGone (writeRecordNow s g.ctx g.lpb (recordWords s status cause g.ended g.lpbAddr)) gk g

/-- GRID_COMPLETION (R212): the last team of a grid has ended. -/
def execGridCompletion (grid : Nat) (s : State) : Host.Outcome State Fault Refusal :=
  event s (
    match tabGet s.grids grid with
    | none => s
    | some g =>
      let live := (tabGet s.ctxs g.ctx).any (fun c => c.state == .running || c.state == .saving)
      if g.ended < lpbTeams g.lpb || !live then s else closeGrid s grid stDone 0)

/-- Groups of a context with a path that waits on a binding slot. -/
def bindWaiters (s : State) (ck pa : Nat) : List Nat :=
  tabKeys s.groups (fun _ g => g.ctx == ck && (allPaths g).any (fun p => match p.kind with | .waiting _ w => w == .bind pa | _ => false))

/-- BIND_RESOLVE (R215): onld writes a slot, and every BIND that waits on it completes as an acquire at .sys; without a
LOADED target they fail. -/
def execBindResolve (ctx pa : Nat) (target : Option Nat) (s : State) : Host.Outcome State Fault Refusal :=
  event s (
    match tabGet s.ctxs ctx with
    | none => s
    | some c =>
      let ks := bindWaiters s ctx pa
      let obj := target.bind (fun t => c.objs.find? (fun o => !o.2.unloading && decide (o.2.base ≤ t) && decide (t < o.2.base + o.2.size)))
      if ks.isEmpty then s
      else
        match target, obj with
        | some t, some (id, _) =>
          let s1 := hostPut s (ctxVf ctx) pa (leBytes (2 ^ 63 + t) 8)
          let s2 := updCtx s1 ctx (fun c => { c with objs := tabUpd c.objs id (fun o => { o with slots := o.slots ++ [pa] }) })
          ks.foldl (fun u k => acquireL1 (wakePath u k (· == .bind pa) true) k (ctxVf ctx) .sys) s2
        | _, _ => ks.foldl (fun u k => raiseGroup u k fcBindFail 0) s)

end Sys2Proof.Machine
end

