-- ==== Sys2Proof/Machine/Context.lean ====
section
/-! DEFINITION. Partitions, contexts, halts, saves and restores, world and guest switches, borrowed capacity
(08_context R178 to R197). -/

namespace Sys2Proof.Machine

open Sys2Proof

/-- RW fields of PARTQ word 0 (R178). -/
def partFields (w : W64) : W64 := w &&& 0x03FFFFFFFFFFFFF8#64

/-- A quota fits beside those of the other enabled partitions (R179). -/
def quotaFits (s : State) (p : Nat) (w0 w1 : W64) : Bool :=
  let lo := fld w0 57 45
  let n := fld w0 44 32
  let others := (List.range 48).filter (fun q => q != p && (getPart s q).w0.getLsbD 0)
  let maps := others.map (fun q => (q, placedCores s (getPart s q).w1))
  let sum := fun (f : W64 → Nat) (qs : List Nat) => qs.foldl (fun a q => a + f (getPart s q).w0) (f w0)
  decide (s.pkg.l1rows ≤ lo) && decide (lo + n ≤ 8192) &&
  (placedCores s w1).all (fun c =>
    let qs := (maps.filter (fun m => m.2.contains c)).map (·.1)
    decide (sum (fun w => fld w 31 27) qs ≤ 24) && decide (sum (fun w => fld w 26 16) qs ≤ 1024) &&
    decide (sum (fun w => fld w 15 9) qs ≤ 64) && decide (sum (fun w => fld w 8 3) qs ≤ 32) &&
    qs.all (fun q => !rangesMeet lo n (rowLo s q) (rowCnt s q)))

/-- PARTQ_ENABLE (R179): a write of word 0 with EN = 1; ignored where the partition is enabled. A refused write stores the
other fields (DESIGN CHOICE, assumption log, row 71). -/
def execPartqEnable (part : Nat) (w : BitVec 64) (s : State) : Host.Outcome State Fault Refusal :=
  event s (
    if part ≥ 48 || !w.getLsbD 0 || (getPart s part).w0.getLsbD 0 then s
    else updPart s part (fun p => { p with w0 := partFields w ||| (if quotaFits s part w p.w1 then 1#64 else 2#64) }))

/-- Contexts of a partition that are not EMPTY. -/
def partCtxs (s : State) (p : Nat) : List Nat := tabKeys s.ctxs (fun _ c => ctxPart c == p)

/-- PARTQ_DISABLE (R179): a write of word 0 with EN = 0; an enabled partition is disabled only while its contexts are
all EMPTY. -/
def execPartqDisable (part : Nat) (w : BitVec 64) (s : State) : Host.Outcome State Fault Refusal :=
  event s (
    if part ≥ 48 || w.getLsbD 0 || ((getPart s part).w0.getLsbD 0 && !(partCtxs s part).isEmpty) then s
    else updPart s part (fun p => { p with w0 := partFields w ||| (p.w0 &&& 2#64) }))

/-- CMD, SLOT and DESC of CTXCMD (R182). -/
def cmdOp (w : W64) : Nat := fld w 63 60
def cmdSlot (w : W64) : Nat := fld w 59 56

/-- CTXSTAT.BUSY (R182): a command or switch phase of the VF is running. -/
def busyVf (s : State) (v : Nat) : Bool :=
  s.ctxs.any (fun c => ctxVf c.1 == v && (c.2.state == .saving || c.2.state == .restoring || c.2.teardown))

/-- A command is refused (R184). -/
def refuseCmd (s : State) (v : Nat) : State := updVf s v (fun x => { x with cause := fcIllegalOpnd })

/-- A command is accepted: CTXSTAT.CAUSE shows no refusal (R182). -/
def acceptCmd (s : State) (v : Nat) : State := updVf s v (fun x => { x with cause := 0 })

/-- An area lies in one well of the package (R181). -/
def inWell (s : State) (base n : Nat) : Bool :=
  match placeOf s.pkg.id base with
  | .well _ o => decide (o + n ≤ 0x0C00000000)
  | _ => false

/-- Bytes that a save of a partition needs (R181). -/
def saveSize (s : State) (p : Nat) : Nat :=
  let x := getPart s p
  65536 + (placedCores s x.w1).length *
    (4 * fld x.w0 26 16 * 192 + 4 * fld x.w0 31 27 * 4096 + fld x.w0 44 32 * 128 + 200704)

/-- Reserved bits of a descriptor (R180). -/
def descReserved (d : List W64) : Bool :=
  let w := fun i => d.getD i 0
  fld (w 0) 63 56 != 0 || fld (w 0) 40 2 != 0 ||
  [1, 2].any (fun i => fld (w i) 63 52 != 0 || fld (w i) 15 0 != 0) ||
  fld (w 3) 55 52 != 0 || fld (w 3) 5 0 != 0 || fld (w 4) 55 52 != 0 || fld (w 4) 11 0 != 0 ||
  [5, 6, 7].any (fun i => fld (w i) 55 52 != 0 || fld (w i) 4 0 != 0) ||
  fld (w 8) 63 20 != 0 || fld (w 8) 15 13 != 0 || (List.range 7).any (fun i => w (9 + i) != 0)

/-- A descriptor is accepted for a VF (R180, R181). R181 refuses a PART that does not match and names nothing that it should match:
the model asks for a partition of the package, PART below 48 (DESIGN CHOICE, assumption log, row 82). A STOPLOG outside 12 to 30 refuses as a SAVELOG or LOG out of range does, and
so does a POOL above 12 where it would be taken (DESIGN CHOICE, assumption log, row 22). -/
def descOk (s : State) (v : Nat) (d : List W64) : Bool :=
  let w := fun i => d.getD i 0
  let p := fld (w 0) 55 50
  let inRange := fun n lo hi => decide (lo ≤ n) && decide (n ≤ hi)
  (w 0).getLsbD 0 && fld (w 0) 49 41 == v && decide (p < 48) && !descReserved d &&
  inRange (fld (w 3) 63 56) 12 30 && inRange (fld (w 4) 63 56) 16 36 && [5, 6, 7].all (fun i => inRange (fld (w i) 63 56) 4 20) &&
  inWell s (fld (w 1) 51 16 * 2 ^ 16) 65536 && inWell s (fld (w 2) 51 16 * 2 ^ 16) 65536 &&
  inWell s (fld (w 3) 51 6 * 64) (2 ^ fld (w 3) 63 56) && inWell s (fld (w 4) 51 12 * 4096) (2 ^ fld (w 4) 63 56) &&
  [5, 6, 7].all (fun i => inWell s (fld (w i) 51 5 * 32) (32 * 2 ^ fld (w i) 63 56)) &&
  decide (saveSize s p ≤ 2 ^ fld (w 4) 63 56) && (!s.ctxs.isEmpty || decide (fld (w 8) 19 16 ≤ 12))

/-- A context that has just been created (R183). -/
def newCtx (d : List W64) : Ctx where
  state := .loaded
  teardown := false
  desc := d
  cause := 0
  ev := ⟨0, 0, 0⟩
  ne := ⟨0, 0, 0⟩
  fl := ⟨0, 0, 0⟩
  pins := []
  shared := []
  objs := []
  loadCause := 0
  faults := []
  recs := []
  saved := []
  savedBars := []
  savedQ := []
  savedRows := []
  savedPoison := []
  savedBins := []
  heldMsgs := []
  core := []
  switchTo := none
  poolAsks := []

/-- The descriptor at an address of the well, as the VF's key reads it (R180, R108). -/
def readDesc (s : State) (vf a : Nat) : Except Nat (List W64) :=
  match pumpRead s (.vf vf) false none a 128 with
  | .done _ d => .ok ((List.range 16).map (fun i => BitVec.ofNat 64 (d / 2 ^ (64 * i))))
  | .fault c => .error c
  | .stall .. => .ok []

/-- CTX_CREATE (R157, R181, R183): the descriptor is read into an EMPTY slot. Version records that are held when a first context
changes POOL are kept, and count against the new pool: the spec does not say what becomes of them (DESIGN CHOICE, assumption
log, row 81). -/
def execCtxCreate (vf : Nat) (cmd : BitVec 64) (s : State) : Host.Outcome State Fault Refusal :=
  event s (
    if vf ≥ 384 || cmdOp cmd ≠ 1 || busyVf s vf then s
    else
      let ck := vf * 16 + cmdSlot cmd
      let a := fld cmd 51 7 * 128
      if (tabGet s.ctxs ck).isSome || !inWell s a 128 then refuseCmd s vf
      else
        match readDesc s vf a with
        | .error c => refuseCmd (noteRaise s c (.vf vf) ck a) vf
        | .ok d =>
          if !descOk s vf d then refuseCmd s vf
          else
            let s1 := if s.ctxs.isEmpty then { s with pkg := { s.pkg with pool := fld (d.getD 8 0) 19 16 } } else s
            acceptCmd (setCtx s1 ck (newCtx d)) vf)

/-! Time sharing. -/

/-- The running VF of some partition. -/
def vfRuns (s : State) (v : Nat) : Bool := s.parts.any (fun p => p.2.running == some v)

/-- SLICE in µs of the partition of a VF's current context (R178). A VF whose CUR slot is EMPTY has no partition, and R193 does not
say whose SLICE caps it: the model takes 0, so that it accrues nothing (DESIGN CHOICE, assumption log, row 83). -/
def vfSlice (s : State) (v : Nat) : Nat :=
  match tabGet s.ctxs (v * 16 + (getVf s v).cur) with
  | some c => max 1 (fld (getPart s (ctxPart c)).w2 63 48)
  | none => 0

/-- Brings a VF's bucket up to the present (R193): the running VF is charged, others accrue up to their cap. -/
def accrue (s : State) (v : Nat) : State :=
  updVf s v (fun x =>
    let dt := s.gts - x.chargedTo
    let q : Int := x.bucket * 1024000 + x.credit
    let slice : Int := vfSlice s v * 1024000
    let cap := (min x.cap 4 : Nat) * slice
    let q1 : Int :=
      if vfRuns s v then max (q - dt * 1024) (min q (-slice))
      else if cap ≤ q then q else min (q + (dt * min x.rate 1024 : Nat)) cap
    { x with bucket := q1 / 1024000, credit := (q1 % 1024000).toNat, chargedTo := s.gts })

/-- TOKEN_ACCRUAL (R193). -/
def execTokenAccrual (vf : Nat) (s : State) : Host.Outcome State Fault Refusal := event s (if vf ≥ 384 then s else accrue s vf)

/-- A work-queue record is pending for a context (R193, R250). -/
def recordPending (s : State) (ck : Nat) : Bool :=
  s.wqs.any (fun q => q.2.vf * 16 + q.2.slot == ck &&
    ((q.2.state == .open && q.2.head != q.2.tail) || (q.2.state == .draining && q.2.head != q.2.drainTo)))

/-- A VF has work for a partition (R193): its current context is LOADED or SAVED there, with a grid not complete or a
record pending, or a guest switch is pending. -/
def hasWork (s : State) (p v : Nat) : Bool :=
  let x := getVf s v
  let ck := v * 16 + x.cur
  match tabGet s.ctxs ck with
  | none => false
  | some c => ctxPart c == p && (getPart s p).w0.getLsbD 0 && (c.state == .loaded || c.state == .saved) &&
      (x.gsp || s.grids.any (fun g => g.2.ctx == ck) || s.reqs.any (fun r => r.2.ctx == ck) || recordPending s ck)

/-- The VF with work and the largest bucket, ties to the lowest, of those that pass a test (R194). -/
def bestVf (s : State) (p : Nat) (t : Nat → Bool) : Option Nat :=
  ((List.range 384).filter (fun v => hasWork s p v && t v)).foldl
    (fun o v => match o with
      | none => some v
      | some b => if (getVf s b).bucket < (getVf s v).bucket then some v else some b) none

/-- A VF begins its slice (R194). -/
def startVf (s : State) (p v : Nat) : State :=
  let s1 := accrue s v
  updPart s1 p (fun x => { x with running := some v, sliceStart := s.gts, next := none })

/-- All buckets are brought up to the present. -/
def accrueAll (s : State) : State := (tabKeys s.vfs (fun _ _ => true)).foldl accrue s

/-- The CUR context of a VF has gone from a partition. -/
def vfGone (s : State) (p v : Nat) : Bool :=
  match tabGet s.ctxs (v * 16 + (getVf s v).cur) with
  | none => true
  | some c => ctxPart c != p || c.state == .halted

/-- A partition whose running VF has nothing to run has none, and a VF with work then starts at once (R194). -/
def settlePart (s : State) (p : Nat) : State :=
  let s1 := match (getPart s p).running with
    | some v => if vfGone s p v then updPart (accrue s v) p (fun x => { x with running := none }) else s
    | none => s
  match (getPart s1 p).running with
  | some _ => s1
  | none =>
    let s2 := accrueAll s1
    match bestVf s2 p (fun _ => true) with
    | some v => startVf s2 p v
    | none => s1

/-! Saves. -/

/-- The waits of a group are withdrawn: its paths execute their instructions again (R186, R220, R248, R266, R272, R318). -/
def runnableAgain (g : Grp) : Grp :=
  let slots := (allPaths g).filterMap (fun p => match p.kind with | .waiting _ (.barrier _ _ _ _ n) => n | _ => none)
  let f := fun (p : Path) => match p.kind with | .waiting .. => { p with kind := .runnable } | _ => p
  slots.foldl (fun g n => slotFree g (some n)) { g with paths := g.paths.map f, spilled := g.spilled.map f }

/-- The tickets of a group are gone from an order of waiting. -/
def dropSerial (n : Nat) (ws : List (Nat × Nat)) : List (Nat × Nat) := ws.filter (fun x => (x.1 - 1) / 128 != n)

/-- Withdraws a group's waits, with their tickets and armed wait entries. -/
def withdrawWaits (s : State) (k : Nat) : State :=
  match tabGet s.groups k with
  | none => s
  | some g =>
    let mine := s.accs.filter (fun a => a.2.gser == g.serial && a.2.kind == .waita)
    let g1 := mine.foldl (fun g a => slotFree g a.2.slot) (runnableAgain g)
    let cap := fun (c : Cap) => { c with waiting := dropSerial g.serial c.waiting }
    let s1 := setGroup s k g1
    let s2 := { s1 with
      accs := s1.accs.filter (fun a => !(a.2.gser == g.serial && a.2.kind == .waita)),
      waits := s1.waits.filter (fun w => !(mine.any (fun a => a.1 == w.acc))),
      teams := tabMap s1.teams (fun _ (t : Team) => if t.ctx = g.ctx then { t with caps := tabMap t.caps (fun _ c => cap c) } else t),
      cores := tabMap s1.cores (fun _ (c : Core) => { c with qslots := tabMap c.qslots (fun _ q => if q.ctx = g.ctx then { q with waiting := dropSerial g.serial q.waiting } else q) }) }
    updCtx s2 g.ctx (fun c => { c with core := tabMap c.core (fun _ x => { x with shared := tabMap x.shared (fun _ y => cap y) }) })

/-- A hold that a save withdraws (R113, R157, R175, R186, R190); a snapshot wait and a lock end by themselves. -/
def holdSettles (h : Hold) : Bool :=
  match h with
  | .page .. | .ring _ | .pool _ | .rekey | .link _ | .withdrawn => true
  | .no | .snap _ | .lock => false

/-- The same of a part: a re-encryption ends by itself (R109). -/
def partSettles (s : State) (p : Part) : Bool := if p.hold = .rekey then rekeying s p.key else holdSettles p.hold

/-- A request to another package has no usable link: it is withdrawn (R280). -/
def routeless (s : State) (h : Home) : Bool := (destOf s h).any (fun p => (usableTo s p).isEmpty)

/-- An access is complete, or waits and is withdrawn (R186, R190). -/
def accSettled (s : State) (id : Nat) (a : Acc) : Bool :=
  a.kind == .waita || a.kind == .drain ||
  (!allDone a && a.parts.all (fun p => p.2.done || partSettles s p.2 || partBlocked s id a p.2 || routeless s p.2.home))

/-- An access's parts that are not performed are withdrawn. -/
def withdrawParts (a : Acc) : Acc := { a with parts := tabMap a.parts (fun _ p => if p.done then p else { p with hold := .withdrawn }) }

/-- The group whose PUSH sent a message that has left the core (R248). -/
def msgOf : Msg → Option Nat
  | .append _ _ _ _ _ _ ser _ _ _ | .link _ _ _ _ _ _ _ ser _ _ _ | .card _ _ _ _ _ ser _ _ _ _ | .record _ _ _ _ _ ser _ _ _ => some ser
  | .freeCount .. => none

/-- A message that a save waits for: one bound for a cistern queue of this package. -/
def msgLocal : Msg → Nat → Bool
  | .append _ _ c .., ck => c == ck
  | _, _ => false

/-- A message that a group's stop waits for: a push that has left the core and can reach its queue (R248, R280). -/
def msgStays (s : State) : Msg → Bool
  | .link d .. => !(usableTo s d).isEmpty
  | .freeCount .. => false
  | _ => true

/-- A group's mark is used at a slice end or reclaim (R189). -/
def rewinds (g : Grp) : Bool := g.mark.valid && !g.dbgStop

/-- An access that a rewind discards: a load in flight, or what its group drains (R189). -/
def accLost (a : Acc) : Bool :=
  match a.kind with
  | .load | .ldx | .drain => true
  | _ => false

/-- The work in flight of a context has come to rest (R186, R190): `whole` where no group is rewound. -/
def ctxSettled (s : State) (ck : Nat) (whole : Bool) : Bool :=
  let lost := fun (a : Acc) => !whole && accLost a && (accGroup s a).any rewinds
  s.accs.all (fun a => a.2.ctx != ck || lost a.2 || accSettled s a.1 a.2) &&
  !(s.groups.any (fun g => g.2.ctx == ck && g.2.tx.state == .preparing)) && !(s.msgs.any (fun m => msgLocal m.2 ck)) &&
  s.fars.all (fun r => r.2.ctx != ck || r.2.res.isSome || routeless s (homeOf s.pkg.id r.2.pa))

/-- The recipe of a group's mark (R188, R201). -/
def recipeOf (s : State) (g : Grp) : Recipe := ((objOf s g).bind (fun o => o.recipes[g.mark.recipe]?)).getD ⟨0, []⟩

/-- Every result under way lands: an instruction that has issued is complete (R341). -/
def landAll (g : Grp) : Grp :=
  let g1 := g.pend.foldl (fun g p => slotFree (putCells g p.writes) p.slot) { g with pend := [] }
  g.vres.foldl (fun g r => slotFree (putCells g r.writes) r.slot) { g1 with vres := [] }

/-- A rewound group (R65, R189, R235): the listed registers, p0 to p6, j0 to j7 and the mark; every other register is
undefined. -/
def rewindGrp (n : Nat) (r : Recipe) (g0 : Grp) : Grp :=
  let g := landAll g0
  let ds := r.regs.map (fun d => dstOf (BitVec.ofNat 10 d))
  let vs := (ds.filterMap (fun d => match d with | .v i => some i.toNat | _ => none))
  let ss := (ds.filterMap (fun d => match d with | .s i => some i.toNat | _ => none))
  { g with
    pc := r.routine, em := g.mark.em, running := true, fall := false, paths := [], spilled := [], ras := [], rasSpilled := 0,
    ended := BitVec.ofNat 96 (2 ^ nLanes g - 1) &&& ~~~(g.mark.em ||| g.absent), draws := g.mark.draws,
    v := vs.foldl (fun t r => (List.range (nLanes g)).foldl (fun t l => tabPut t (r * 96 + l) (regV g r l)) t) [],
    s := ss.foldl (fun t r => tabPut t r (regS g r)) [],
    p := (List.range 7).foldl (fun t r => (List.range (nThreads g)).foldl (fun t i => tabPut t (r * 96 + i) (regP g r i)) t) [],
    undef := some n, px := 0, partial_ := [], recovering := true }

/-- Loads in flight of a group, and what it drains, are discarded (R189). -/
def discardLoads (s : State) (k : Nat) (g : Grp) : State :=
  let mine := s.accs.filter (fun a => a.2.gser == g.serial && accLost a.2)
  let s1 := { s with accs := s.accs.filter (fun a => !(a.2.gser == g.serial && accLost a.2)) }
  updGroup s1 k (fun g => mine.foldl (fun g a => slotFree g a.2.slot) g)

/-- Saves a group, rewound or whole, and frees its slot (R189, R190): the whole save dooms an open transaction (R149). -/
def saveGroup (whole : Bool) (s : State) (k : Nat) : State :=
  let s0 := withdrawWaits s k
  match tabGet s0.groups k with
  | none => s
  | some g0 =>
    let rew := !whole && rewinds g0
    let (n, s1) := fresh s0
    let s2 := if rew then discardLoads s1 k g0 else s1
    let g1 := (tabGet s2.groups k).getD g0
    let g2 := if rew then rewindGrp n (recipeOf s g1) g1 else { g1 with tx := txDoom g1.tx 5 }
    let s3 := { s2 with
      groups := tabDel s2.groups k,
      teams := tabUpd s2.teams g2.team (fun t => { t with slots := tabMap t.slots (fun _ x => if x = k then savedKey g2.serial else x) }) }
    updCtx s3 g2.ctx (fun c => { c with saved := tabPut c.saved g2.serial { g2 with yld := false, step := false, faultPc := none } })

/-- Bytes of memory in a range, and at their offsets in it. -/
def memSlice (m : Mem) (a n : Nat) : Mem := m.filter (fun x => a ≤ x.1 && x.1 < a + n)
def memRebase (m : Mem) (a b : Nat) : Mem := m.map (fun x => (x.1 - a + b, x.2))
def memMerge (m : Mem) (xs : Mem) : Mem := xs.foldl (fun m x => memPut m x.1 x.2) m

/-- A team leaves borrowed rows (R197): their bytes are kept with the team. -/
def teamAway (s : State) (tk : Nat) : State :=
  match tabGet s.teams tk with
  | none => s
  | some t =>
    let a := rowAddr s.pkg.id t.core t.row 0
    let n := 128 * t.rows
    let mine := fun (w : Nat) => decide (a ≤ 4 * w) && decide (4 * w < a + n)
    { s with
      mem := memClear s.mem a n, lines := { s.lines with poison := s.lines.poison.filter (fun w => !mine w) },
      teams := tabPut s.teams tk { t with
        borrowed := none, away := some (memRebase (memSlice s.mem a n) a 0),
        awayPoison := (s.lines.poison.filter mine).map (· - a / 4) } }

/-- A physical range of every quota row of a partition's core, as base and bytes. -/
def quotaRange (s : State) (p core : Nat) : Nat × Nat := (rowAddr s.pkg.id core (rowLo s p) 0, 128 * rowCnt s p)

/-- A byte lies in rows of a partition's quota that are not lent (R191, R196). -/
def ownRow (s : State) (p a : Nat) : Bool :=
  match placeOf s.pkg.id a with
  | .cistern core row => decide (rowLo s p ≤ row) && decide (row < rowLo s p + rowCnt s p) &&
      (placedCores s (getPart s p).w1).contains core &&
      !(s.teams.any (fun t => t.2.borrowed == some p && t.2.core == core && decide (t.2.row ≤ row) && decide (row < t.2.row + t.2.rows)))
  | _ => false

/-- A spawn bin of a core leaves it with its threads, under a number of its own, and its age stands still (R237). -/
def keepBin (s : State) (ck core : Nat) (b : Bin) : State :=
  updCtx s ck (fun c =>
    let n := ((List.range 1024).find? (fun i => (tabGet c.savedBins (core * 1024 + i)).isNone)).getD 0
    { c with savedBins := tabPut c.savedBins (core * 1024 + n) { b with age := s.cycle - b.age } })

/-- The bins of a context that satisfy a test leave their cores; what waits there to spawn tries again (R236, R237). -/
def takeBins (s : State) (ck : Nat) (p : Bin → Bool) : State :=
  s.cores.foldl (fun t x =>
    let mine := (x.2.bins.filter (fun b => p b.2)).map (·.2)
    if mine.isEmpty then t
    else wakeSpawns (updCore (mine.foldl (fun t b => keepBin t ck x.1 b) t) x.1 (fun c => { c with bins := c.bins.filter (fun b => !p b.2) })) x.1) s

/-- What a save keeps of the cores beside the groups (R191): queues, barriers, bins, rows; the L1 lines of the VF go. -/
def saveCores (s0 : State) (ck : Nat) (c : Ctx) : State :=
  let p := ctxPart c
  let s := takeBins s0 ck (fun b => (tabGet s0.teams b.team).any (fun t => t.ctx == ck))
  let bars := (s.cores.map (fun x => (x.2.bars.filter (fun b => b.1 / 64 == p)).map (fun b => (x.1 * 4096 + b.1, b.2)))).flatten
  let qs := (s.cores.map (fun x => (x.2.qslots.filter (fun q => q.2.ctx == ck)).map (fun q => (x.1 * 2048 + q.1, q.2)))).flatten
  let rows := s.mem.filter (fun x => ownRow s p x.1)
  let s1 := { s with
    mem := s.mem.filter (fun x => !ownRow s p x.1),
    lines := { s.lines with poison := s.lines.poison.filter (fun w => !ownRow s p (4 * w)) },
    cores := tabMap s.cores (fun _ x => { x with
      bars := x.bars.filter (fun b => b.1 / 64 != p), qslots := x.qslots.filter (fun q => q.2.ctx != ck),
      l1 := x.l1.filter (fun l => l.vf != ctxVf ck) }) }
  updCtx s1 ck (fun c => { c with
    savedBars := bars.foldl (fun t b => tabPut t b.1 b.2) [], savedQ := qs.foldl (fun t q => tabPut t q.1 q.2) [],
    savedRows := rows,
    savedPoison := s.lines.poison.filter (fun w => ownRow s p (4 * w)), faults := [] })

/-- Engine operations and accesses of a context come to rest: an accumulation group in progress is discarded (R85), start
requests and holds are withdrawn (R21, R186). -/
def restWork (s : State) (ck : Nat) : State :=
  { s with
    ops := tabMap s.ops (fun _ (o : EngOp) => if o.ctx = ck then
      { o with startReq := false, granted := false, held := .no, work := if isMloop o then [] else o.work } else o),
    accs := tabMap s.accs (fun _ (a : Acc) => if a.ctx = ck then withdrawParts a else a),
    fars := s.fars.filter (fun r => r.2.ctx != ck || (r.2.res.isSome && decide (r.2.owner < 2 ^ 45)) || r.2.owner == devOwner) }

/-- Saves a context whose work has come to rest (R189 to R191). -/
def saveContext (s : State) (ck : Nat) (whole : Bool) : State :=
  let s1 := restWork ((ctxGroups s ck).foldl (saveGroup whole) s) ck
  let s2 := (tabKeys s1.teams (fun _ t => t.ctx == ck && t.borrowed.isSome)).foldl teamAway s1
  match tabGet s2.ctxs ck with
  | some c => saveCores s2 ck c
  | none => s2

/-! Restores. -/

/-- The lowest row of a core where a team's rows fit its partition's quota. -/
def findRow (s : State) (ck p core n : Nat) : Option Nat :=
  ((List.range (rowCnt s p)).map (fun i => rowLo s p + i)).find? (fun r => rowsFree s ck p core r n)

/-- A team that lost borrowed rows takes rows of its own partition where there are any (R197). -/
def teamBack (s : State) (tk : Nat) : State :=
  match tabGet s.teams tk with
  | none => s
  | some t =>
    match t.away with
    | none => s
    | some m =>
      let other := { s with teams := tabDel s.teams tk }
      match findRow other t.ctx (partOf s t.ctx) t.core t.rows with
      | none => if t.rows = 0 then { s with teams := tabPut s.teams tk { t with away := none } } else s
      | some r =>
        let a := rowAddr s.pkg.id t.core r 0
        let s1 := { s with
          mem := memMerge s.mem (memRebase m 0 a),
          lines := { s.lines with poison := s.lines.poison ++ t.awayPoison.map (· + a / 4) },
          teams := tabPut s.teams tk { t with row := r, away := none, awayPoison := [] } }
        updCore s1 t.core (fun c => { c with qslots := tabMap c.qslots (fun _ q =>
          if q.team = some tk then { q with base := q.base - t.row + r } else q) })

/-- The accesses and operations of a group follow it to its slot. -/
def followGroup (s : State) (k ser : Nat) : State :=
  { s with
    accs := tabMap s.accs (fun _ (a : Acc) => if a.gser = ser then { a with grp := k } else a),
    ops := tabMap s.ops (fun _ (o : EngOp) => if o.gser = ser then { o with grp := k } else o) }

/-- A running path that stands behind a LINK push without a route waits with it (R259, R280); not inside a long instruction. -/
def parkRoute (s : State) (k : Nat) (g : Grp) (d : Nat) : State :=
  if g.running && g.px == 0 && (g.state == .active || g.state == .ready) then
    let g1 := parkRunning g (.waiting .queue (.route d)) s.cycle
    setGroup s k { g1 with state := if (allPaths g1).any (selectable g1) then .ready else .wait, readyAt := s.cycle }
  else s

/-- The package to which a LINK push of a group has no usable link. -/
def routeWanted (s : State) (g : Grp) : Option Nat :=
  s.msgs.findSome? (fun m => match m.2 with
    | .link d _ _ _ _ _ _ ser _ _ _ => if ser = g.serial ∧ (usableTo s d).isEmpty = true then some d else none
    | _ => none)

/-- A group is in place again: what a save withdrew is issued again, and the group goes on as after a FENCE.ar.sys: its later
accesses wait for those, its next write is a release, and its core's L1 lines of the VF are gone (R116, R122, R183, R190). -/
def resumeGroup (s : State) (k : Nat) : State :=
  match tabGet s.groups k with
  | none => s
  | some g =>
    let s0 := acquireL1 (updGroup s k (fun g => { g with fenced := s.serial, relNext := BitVec.ofNat 96 (2 ^ nLanes g - 1) })) k (ctxVf g.ctx) .sys
    let s1 := match routeWanted s g, tabGet s0.groups k with
      | some d, some h => parkRoute s0 k h d
      | _, _ => s0
    (tabKeys s1.accs (fun _ a => a.gser == g.serial)).foldl (fun t id => ackEmpty (replayAcc (· == .withdrawn) 300 t id) id) s1

/-- Brings a saved group back to a slot of its core, where there is room and the core may be used (R28): it is PENDING until its
state is loaded (R220).
A team that lost borrowed rows comes back only where `away` allows. -/
def groupBack (ck : Nat) (away front : Bool) (s : State) (ser : Nat) : State :=
  match (tabGet s.ctxs ck).bind (fun c => tabGet c.saved ser) with
  | none => s
  | some g =>
    let s1 := if away then teamBack s g.team else s
    match tabGet s1.teams g.team with
    | none => s1
    | some t =>
      if t.away.isSome then s1
      else
        match (if coreUsable s1 (partOf s1 ck) t.core then findSlot s1 (t.borrowed.getD (partOf s1 ck)) t.core g.budget (if g.paired then 2 else 1) else none) with
        | none => s1
        | some k =>
          let g1 := { g with
            state := if g.state = .retired then .retired else .pending, front := front,
            placed := s.cycle, readyAt := s.cycle, activeAt := s.cycle, nextAt := s.cycle }
          let s2 := setGroup s1 k g1
          let s3 := { s2 with teams := tabUpd s2.teams g.team (fun t =>
            { t with slots := tabMap t.slots (fun _ x => if x = savedKey ser then k else x) }) }
          followGroup (updCtx s3 ck (fun c => { c with saved := tabDel c.saved ser })) k ser

/-- Saved groups of a context take their slots as room allows, older first. -/
def placeSaved (s : State) (ck : Nat) : State :=
  match tabGet s.ctxs ck with
  | some c => (c.saved.map (·.1)).foldl (groupBack ck false false) s
  | none => s

/-- Spawn bins that a save kept take bins of their cores where there are any (R237): the others, and those of a team that has lost
its rows (R197), stay with the save. -/
def restoreBins (s : State) (ck : Nat) : State :=
  match tabGet s.ctxs ck with
  | none => s
  | some c =>
    (c.savedBins.filter (fun b => (tabGet s.teams b.2.team).any (fun t => t.away.isNone))).foldl (fun t b =>
      let core := b.1 / 1024
      match (List.range 8).find? (fun i => (tabGet (getCore t core).bins i).isNone) with
      | some i =>
        updCtx (updCore t core (fun x => { x with bins := tabPut x.bins i { b.2 with age := s.cycle - b.2.age } })) ck
          (fun c => { c with savedBins := tabDel c.savedBins b.1 })
      | none => t) s

/-- Saved groups and spawn bins of a RUNNING context come back as room allows, older first. -/
def requeue (s : State) (ck : Nat) : State :=
  match tabGet s.ctxs ck with
  | some c => if c.state = .running then restoreBins ((c.saved.map (·.1)).foldl (groupBack ck true false) s) ck else s
  | none => s

/-- RESTORE_START (R183, R194): a VF runs with a LOADED or SAVED slot as CUR, and the restore begins. -/
def execRestoreStart (part : Nat) (s : State) : Host.Outcome State Fault Refusal :=
  event s (
    if part ≥ 48 then s
    else
      let s1 := settlePart s part
      match (getPart s1 part).running with
      | none => s1
      | some v =>
        let ck := v * 16 + (getVf s1 v).cur
        match tabGet s1.ctxs ck with
        | some c => if c.state = .loaded ∨ c.state = .saved then placeSaved (setCtx s1 ck { c with state := .restoring }) ck else s1
        | none => s1)

/-- One unit of allowance returns to an instance (R246). -/
def addAllow (s : State) (ck : Nat) (id : W64) : State :=
  match instGet s ck id with
  | none => s
  | some c => wakePush (instPut s ck id { c with allow := min 0xFFFF (c.allow + 1) }) ck id

/-- Puts back what a save kept of the cores (R183, R191). -/
def restoreCores (s : State) (ck : Nat) (c : Ctx) : State :=
  let s1 := c.savedBars.foldl (fun t b => updCore t (b.1 / 4096) (fun x => { x with bars := tabPut x.bars (b.1 % 4096) b.2 })) s
  let s2 := c.savedQ.foldl (fun t q => updCore t (q.1 / 2048) (fun x => { x with qslots := tabPut x.qslots (q.1 % 2048) q.2 })) s1
  let s3 := { s2 with mem := memMerge s2.mem c.savedRows, lines := { s2.lines with poison := s2.lines.poison ++ c.savedPoison } }
  updCtx s3 ck (fun c => { c with
    state := .running, savedBars := [], savedQ := [], savedRows := [], savedPoison := [], heldMsgs := [] })

/-- A restore takes in the profiling session that the host moved from a part with another event set (R420): the selectors are
looked at anew, EVSET is this part's, and EVENTS_CHANGED is appended. -/
def takeSession (s : State) (ck : Nat) : State :=
  let v := ctxVf ck
  if fld (getVf s v).prfctl 39 32 = Config.partEvset then s
  else
    let sel := fun (w : W64) => if prfUnavail w then w ||| 0x4000000000000000#64 else w &&& 0xBFFFFFFFFFFFFFFF#64
    let s1 := updVf s v (fun x => { x with
      prfctl := setFld x.prfctl 39 32 Config.partEvset,
      prfsel := (List.range 4).foldl (fun t i => tabPut t i (sel (tabGetD x.prfsel i 0))) [] })
    eventPush s1 (v * 16 + (getVf s1 v).cur) 5 0 0 0

/-- RESTORE_COMPLETE (R183, R195, R246, R420): lent capacity must have been reclaimed first (R196), and every placed group be
loaded; then the context runs, its groups READY, and what the save withdrew is issued again. For a context that runs, spawn
bins that found no place are tried again. -/
def execRestoreComplete (part : Nat) (s : State) : Host.Outcome State Fault Refusal :=
  event s (
    match (getPart s part).running with
    | none => s
    | some v =>
      let ck := v * 16 + (getVf s v).cur
      match tabGet s.ctxs ck with
      | none => s
      | some c =>
        if c.state = .running then restoreBins s ck
        else if c.state ≠ .restoring || s.teams.any (fun t => t.2.borrowed == some part) then s
        else
          let s0 := placeSaved s ck
          if s0.groups.any (fun g => g.2.ctx == ck && g.2.state == .pending) then s0
          else
            let s1 := restoreCores s0 ck c
            let s2 := { s1 with ops := tabMap s1.ops (fun _ (o : EngOp) => if o.ctx = ck then { o with held := .no } else o) }
            let s3 := (ctxGroups s2 ck).foldl resumeGroup (mapSess s2 (fun y => if y.ctx = ck then { y with paused := false } else y))
            let s4 := c.heldMsgs.foldl (fun t id => addAllow t ck id) (requeue s3 ck)
            takeSession (updVf s4 v (fun x => { x with gsp := false, switching := false })) ck)

/-! Slice ends and switches. -/

/-- The running VF gives way (R194): its bucket is spent, and another VF with work has credit. -/
def givesWay (s : State) (p v : Nat) : Option Nat :=
  if 0 < (getVf s v).bucket then none
  else (bestVf s p (fun w => w != v && decide (0 < (getVf s w).bucket))).bind (fun _ => bestVf s p (fun w => w != v))

/-- The slice end of a VF whose CUR context is not on the cores: another VF may begin its slice (R194); the switch under way is
pending again (R195). -/
def offSlice (s : State) (p v : Nat) : State :=
  let s1 := if (getVf s v).switching then updVf s v (fun x => { x with gsp := true }) else s
  match givesWay s1 p v with
  | some w => startVf s1 p w
  | none => s1

/-- SLICE_END (R183, R194, R195): a restore is abandoned, and begins again with the next RESTORE_START where the VF goes on. -/
def execSliceEnd (part : Nat) (s : State) : Host.Outcome State Fault Refusal :=
  event s (
    let p := getPart s part
    match p.running with
    | none => s
    | some v =>
      if s.gts < p.sliceStart + 1000 * max 1 (fld p.w2 63 48) then s
      else
        let s1 := accrueAll s
        let ck := v * 16 + (getVf s1 v).cur
        let s2 := updPart s1 part (fun x => { x with sliceStart := s.gts })
        match tabGet s2.ctxs ck with
        | none => settlePart s2 part
        | some c =>
          match c.state with
          | .running =>
            match givesWay s2 part v with
            | some w => setCtx (updPart s2 part (fun x => { x with next := some w })) ck { c with state := .saving }
            | none => s2
          | .saving => if c.switchTo.isSome then updVf s2 v (fun x => { x with gsp := true }) else s2
          | .restoring => offSlice (updCtx (abandonRestore s2 ck) ck (fun c => { c with state := .saved })) part v
          | .loaded | .saved => offSlice s2 part v
          | _ => s2)

/-- SAVE_COMPLETE (R183, R191, R194, R195): the save phase ends once the context's work has come to rest. -/
def execSaveComplete (part : Nat) (s : State) : Host.Outcome State Fault Refusal :=
  event s (
    match (getPart s part).running with
    | none => s
    | some v =>
      let ck := v * 16 + (getVf s v).cur
      match tabGet s.ctxs ck with
      | none => s
      | some c =>
        if c.state ≠ .saving || !ctxSettled s ck false then s
        else
          let s1 := accrueAll (updCtx (saveContext s ck false) ck (fun c => { c with state := .saved, switchTo := none }))
          match c.switchTo, (getPart s part).next with
          | some n, _ =>
            let s2 := accrueAll (updVf s1 v (fun x => { x with cur := n, switching := true }))
            if (getVf s2 v).gsp then
              match givesWay s2 part v with
              | some w => startVf s2 part w
              | none => settlePart s2 part
            else settlePart s2 part
          | none, some w =>
            if hasWork s1 part w then startVf s1 part w
            else settlePart (updPart s1 part (fun x => { x with running := none, next := none })) part
          | none, none => settlePart (updPart s1 part (fun x => { x with running := none })) part)

/-- CTX_SWITCH (R184, R195): a guest switch of the running VF, or the target of its next run. -/
def execCtxSwitch (vf : Nat) (cmd : BitVec 64) (s : State) : Host.Outcome State Fault Refusal :=
  event s (
    if vf ≥ 384 || cmdOp cmd ≠ 2 || busyVf s vf then s
    else
      let n := cmdSlot cmd
      let cur := vf * 16 + (getVf s vf).cur
      match tabGet s.ctxs (vf * 16 + n) with
      | none => refuseCmd s vf
      | some t =>
        if !(t.state == .loaded || t.state == .saved) then refuseCmd s vf
        else
          match tabGet s.ctxs cur with
          | some c =>
            if c.state = .running then acceptCmd (setCtx s cur { c with state := .saving, switchTo := some n }) vf
            else if c.state = .halting then refuseCmd s vf
            else settlePart (acceptCmd (updVf s vf (fun x => { x with cur := n, gsp := true })) vf) (ctxPart t)
          | none => settlePart (acceptCmd (updVf s vf (fun x => { x with cur := n, gsp := true })) vf) (ctxPart t))

/-! Halts. -/

/-- Hardware groups, engines and other units of a context that stop for a halt (R186). -/
def stopUnits (s : State) (h : Halt) : List UnitId :=
  let gs := (tabKeys s.groups (fun _ g => g.ctx == h.ctx && g.state != .retired)).map groupUnit
  let es := ((s.ops.filter (fun o => o.2.ctx == h.ctx && decide (o.2.cls < 4))).map (fun o => opUnit o.2))
  (gs ++ es ++ h.work ++ haltWork s h.ctx ++ h.own.map (·.unit)).eraseDups

/-- The own cause of a unit. -/
def ownOf (h : Halt) (u : UnitId) : Option OwnCause := h.own.find? (fun o => o.unit == u)

/-- Scoreboard slots pending, as a mask (R187). -/
def sbPending (g : Grp) : Nat := (List.range 4).foldl (fun n i => if tabGetD g.sb i 0 = 0 then n else n + 2 ^ i) 0

/-- Records of a group, one for each hardware group of it (R187). -/
def groupRecs (s : State) (h : Halt) (u : UnitId) (g : Grp) : List StopRec :=
  let (pc, em) := shownPath g
  let o := ownOf h u
  (if g.paired then [0, 1] else [0]).map (fun half =>
    { unit := { u with slot := u.slot + half }, gts := s.gts, cause := (o.map (·.cause)).getD h.cause, gstate := 6, origin := o.isSome,
      gid := gidOf g, pc := g.faultPc.getD pc, sbpend := sbPending g, em := BitVec.ofNat 64 (em.toNat / 2 ^ (48 * half) % 2 ^ 48),
      prog := g.px, addr := (o.map (·.addr)).getD 0, batch := 0, half := half })

/-- The record of a unit that is no group (R187, R432). -/
def unitRec (s : State) (h : Halt) (u : UnitId) : StopRec :=
  let o := ownOf h u
  let op := s.ops.find? (fun x => x.2.ctx == h.ctx && decide (x.2.cls < 4) && opUnit x.2 == u)
  { unit := u, gts := s.gts, cause := (o.map (·.cause)).getD h.cause, gstate := 0, origin := o.isSome,
    gid := (op.map (·.2.gid)).getD ((o.map (·.gid)).getD 0), pc := op.elim 0 (·.2.pc), sbpend := 0, em := 0,
    prog := op.elim 0 (·.2.prog), addr := (o.map (·.addr)).getD 0, batch := op.elim 0 (·.2.batch), half := 0 }

/-- A session of the halted context has completed its row in progress, or has none (R186). -/
def sessAtRest (y : Sess) : Bool := y.state != .busy || y.awaiting || y.paused || holdSettles y.held

/-- A unit has reached its stopping point (R186): a group once the entries that it sent are appended (R248), a pump its
accepted writes, a media engine its rows in progress, a link port its requests. -/
def unitAtRest (s : State) (h : Halt) (u : UnitId) : Bool :=
  match u.kind with
  | 0 =>
    let k := ((u.die * 64 + u.core) * 4 + u.index) * 24 + u.slot
    (tabGet s.groups k).all (fun g => !(s.msgs.any (fun m => msgOf m.2 == some g.serial && msgStays s m.2)))
  | 6 =>
    h.cyc + 4096 ≤ s.cycle ||
      (tabGet s.medias (u.die * 2 + u.index)).all (fun m => m.sess.all (fun y => y.ctx != h.ctx || sessAtRest y))
  | 5 => s.accs.all (fun a => a.2.ctx != h.ctx || a.2.parts.all (fun p =>
      p.2.done || partSettles s p.2 || p.2.home != .pump (u.die * 16 + u.core) || partBlocked s a.1 a.2 p.2)) &&
    !(s.groups.any (fun g => g.2.ctx == h.ctx && g.2.tx.stamp.isSome && g.2.tx.towrite.any (fun l => pumpOf (128 * l) == u.die * 16 + u.core)))
  | 7 => (getLink s (u.die * 3 + u.index)).sent.all (fun x => !ctxSent s h.ctx x.1)
  | _ => true

/-- Order of the stop records (R187). -/
def recKey (r : StopRec) : Nat :=
  let u := r.unit
  let cls := match u.kind with | 0 => 0 | 1 | 2 | 3 | 4 => 1 | 5 => 2 | 6 => 3 | _ => 4
  ((((cls * 8 + u.die) * 64 + u.core) * 8 + u.index) * 8 + (if cls = 1 then u.kind else 0)) * 32 + u.slot

/-- Words of a stop record (R187). -/
def recWords (r : StopRec) : List W64 :=
  [BitVec.ofNat 64 r.gts,
   BitVec.ofNat 64 (r.unit.kind * 2 ^ 56 + r.cause % 256 * 2 ^ 48 + r.unit.die * 2 ^ 45 + r.unit.core * 2 ^ 39 + r.unit.index * 2 ^ 36 +
     r.gstate * 2 ^ 33 + (if r.origin then 2 ^ 32 else 0) + r.gid % 2 ^ 32),
   BitVec.ofNat 64 (r.pc % 2 ^ 40 * 2 ^ 24 + r.sbpend * 2 ^ 20), r.em, BitVec.ofNat 64 r.prog, BitVec.ofNat 64 (r.addr % 2 ^ 55),
   BitVec.ofNat 64 (r.batch % 2 ^ 16 * 2 ^ 48 + r.half), 0]

/-- Words of the header (R187). -/
def headWords (h : Halt) (count dropped : Nat) : List W64 :=
  [BitVec.ofNat 64 h.gts,
   BitVec.ofNat 64 (h.cause % 256 * 2 ^ 56 + h.unit.kind * 2 ^ 48 + h.unit.die * 2 ^ 45 + h.unit.core * 2 ^ 39 + h.gid % 2 ^ 32),
   BitVec.ofNat 64 (count * 2 ^ 32 + dropped), 0, 0, 0, 0, 0]

/-- Writes the stop area of a halt, and gives the count of records written (R187). -/
def writeStops (s : State) (ck : Nat) (c : Ctx) (h : Halt) : State × Nat :=
  let recs := sortOn recKey c.recs
  let base := fld (descW c 3) 51 6 * 64
  let kept := recs.take (2 ^ fld (descW c 3) 63 56 / 64 - 1)
  let s1 := devWrite s ck base (wordsBytes (headWords h kept.length (recs.length - kept.length)))
  ((kept.zipIdx).foldl (fun t r => devWrite t ck (base + 64 * (r.2 + 1)) (wordsBytes (recWords r.1))) s1, kept.length)

/-- A context slot becomes EMPTY (R183): its grids end with status HALTED, and everything it held is released. -/
def emptyCtx (s : State) (ck : Nat) : State :=
  match tabGet s.ctxs ck with
  | none => s
  | some c =>
    let v := ctxVf ck
    let gks := tabKeys s.grids (fun _ g => g.ctx == ck)
    let s1 := gks.foldl (fun t gk => closeGridNow t gk stHalted c.cause) s
    let s2 := { s1 with
      ctxs := tabDel s1.ctxs ck,
      grids := s1.grids.filter (fun g => g.2.ctx != ck),
      teams := s1.teams.filter (fun t => t.2.ctx != ck),
      groups := s1.groups.filter (fun g => g.2.ctx != ck),
      reqs := s1.reqs.filter (fun r => r.2.ctx != ck),
      accs := s1.accs.filter (fun a => a.2.ctx != ck),
      ops := s1.ops.filter (fun o => o.2.ctx != ck),
      msgs := s1.msgs.filter (fun m => msgCtx m.2 != ck),
      waits := s1.waits.filter (fun w => w.ctx != ck),
      fars := s1.fars.filter (fun r => r.2.ctx != ck || r.2.owner == devOwner),
      medias := tabMap s1.medias (fun _ m => ⟨m.cards.filter (fun x => x.ctx != ck), m.sess.filter (fun x => x.ctx != ck)⟩),
      wqs := tabMap s1.wqs (fun _ (q : Wq) =>
        let q1 := if q.signalCtx = ck then { q with signal := none } else q
        if q.vf * 16 + q.slot = ck ∧ q.state ≠ .unbound then { q1 with state := .closed } else q1) }
    let s3 := updVf s2 v (fun x => if x.cur = ck % 16 then { x with gsp := false, switching := false } else x)
    settlePart s3 (ctxPart c)

/-- The last stop record moves the context to HALTED (R183): every group is saved whole, the HALTED event is appended,
and the partition runs its next VF; a pending TEARDOWN follows. A SWITCH that the halt overtook is dropped, and CUR stays (DESIGN
CHOICE, assumption log, row 71). -/
def tryHalted (s : State) (p : Nat) : State :=
  match (getPart s p).halt with
  | none => s
  | some h =>
    match tabGet s.ctxs h.ctx with
    | none => updPart s p (fun x => { x with halt := none })
    | some c =>
      let done := (stopUnits s h).all (fun u => c.recs.any (fun r => r.unit == u))
      if c.state ≠ .halting || !done || !ctxSettled s h.ctx true then s
      else
        let (s1, n) := writeStops s h.ctx c h
        let s2 := updCtx (saveContext s1 h.ctx true) h.ctx (fun c => { c with state := .halted, recs := [], switchTo := none })
        let s3 := eventPush (updPart s2 p (fun x => { x with halt := none, next := none })) h.ctx 1 h.cause (h.gid % 2 ^ 32) n
        if c.teardown then emptyCtx s3 h.ctx else settlePart s3 p

/-- UNIT_STOP (R186, R187): a unit reaches its stopping point and its record is made; the last one completes the halt.
A unit that has nothing to stop makes no record; where no unit is left to stop, the halt completes so. -/
def execUnitStop (part : Nat) (unit : UnitId) (s : State) : Host.Outcome State Fault Refusal :=
  event s (
    match (getPart s part).halt with
    | none => s
    | some h =>
      match tabGet s.ctxs h.ctx with
      | none => tryHalted s part
      | some c =>
        if c.state ≠ .halting || !(stopUnits s h).contains unit || c.recs.any (fun r => r.unit == unit) || !unitAtRest s h unit then
          tryHalted s part
        else
          let k := ((unit.die * 64 + unit.core) * 4 + unit.index) * 24 + unit.slot
          match unit.kind, (tabGet s.groups k).filter (fun g => g.ctx == h.ctx) with
          | 0, some g =>
            let s1 := setCtx s h.ctx { c with recs := c.recs ++ groupRecs s h unit g }
            tryHalted (updGroup (withdrawWaits s1 k) k (fun g => { g with state := if g.state = .retired then .retired else .stopped })) part
          | _, _ => tryHalted (setCtx s h.ctx { c with recs := c.recs ++ [unitRec s h unit] }) part)

/-- HALT_LINE_RISE (R185): a halt cause reaches the partition's halt controller. -/
def execHaltLineRise (part cause : Nat) (s : State) : Host.Outcome State Fault Refusal :=
  event s (
    match (getPart s part).running with
    | none => s
    | some v =>
      let ck := v * 16 + (getVf s v).cur
      if (tabGet s.ctxs ck).any (fun c => c.state == .running || c.state == .saving) then haltRise s ck (cause % 256) noUnit 0 0 false else s)

/-- CTX_HALT (R183, R185). -/
def execCtxHalt (vf : Nat) (cmd : BitVec 64) (s : State) : Host.Outcome State Fault Refusal :=
  event s (
    if vf ≥ 384 || cmdOp cmd ≠ 3 then s
    else
      let ck := vf * 16 + cmdSlot cmd
      match tabGet s.ctxs ck with
      | none => refuseCmd s vf
      | some c =>
        if c.state = .halting ∨ c.state = .halted then acceptCmd s vf
        else settlePart (haltRise (acceptCmd s vf) ck fcHaltReq noUnit 0 0 false) (ctxPart c))

/-- CTX_RESUME (R183, R184). -/
def execCtxResume (vf : Nat) (cmd : BitVec 64) (s : State) : Host.Outcome State Fault Refusal :=
  event s (
    if vf ≥ 384 || cmdOp cmd ≠ 4 || busyVf s vf then s
    else
      let ck := vf * 16 + cmdSlot cmd
      match tabGet s.ctxs ck with
      | none => refuseCmd s vf
      | some c => if c.state = .halted then settlePart (resumeCtx (acceptCmd s vf) ck) (ctxPart c) else refuseCmd s vf)

/-- Tears a context slot down (R183): a resident context halts first. -/
def teardown (s : State) (ck : Nat) : State :=
  match tabGet s.ctxs ck with
  | none => s
  | some c =>
    match c.state with
    | .running | .saving => haltRise (setCtx s ck { c with teardown := true }) ck fcHaltReq noUnit 0 0 false
    | .halting => setCtx s ck { c with teardown := true }
    | _ => emptyCtx s ck

/-- CTX_TEARDOWN (R183, R184). -/
def execCtxTeardown (vf : Nat) (cmd : BitVec 64) (s : State) : Host.Outcome State Fault Refusal :=
  event s (
    if vf ≥ 384 || cmdOp cmd ≠ 5 then s
    else if (tabGet s.ctxs (vf * 16 + cmdSlot cmd)).isNone then refuseCmd s vf
    else teardown (acceptCmd s vf) (vf * 16 + cmdSlot cmd))

/-- VF_KEY_LOAD (R192): ignored while any context of the VF is not EMPTY. -/
def execVfKeyLoad (vf : Nat) (s : State) : Host.Outcome State Fault Refusal :=
  event s (
    if vf ≥ 384 || s.ctxs.any (fun c => ctxVf c.1 == vf) then s
    else takeKey (setRoot (updVf s vf (fun v => { v with key := some (stagedKey s) })) (rootOf (.vf vf))))

/-- VF_KEY_CLEAR (R192). -/
def execVfKeyClear (vf : Nat) (s : State) : Host.Outcome State Fault Refusal :=
  event s (
    if vf ≥ 384 || s.ctxs.any (fun c => ctxVf c.1 == vf) then s
    else setRoot (updVf s vf (fun v => { v with key := none })) (rootOf (.vf vf)))

/-! Borrowed capacity. -/

/-- How many groups of each role go to each scheduler, given the slots and rows that each has left. -/
def autoSpread (hw : Nat) (rs : List RoleEnt) : List (Nat × Nat) → List Nat → Option (List (List Nat))
  | [], left => if left.all (· == 0) then some [] else none
  | c :: cs, left =>
    (fills hw rs left c.1 c.2).reverse.findSome? (fun rest =>
      (autoSpread hw rs cs rest).map (fun r => List.zipWith (· - ·) left rest :: r))

/-- Slots and rows that a partition has left on each scheduler of a core (R178). -/
def schedRoom (s : State) (p core : Nat) : List (Nat × Nat) :=
  let w0 := (getPart s p).w0
  (List.range 4).map (fun i =>
    let u := schedUse s p (core * 4 + i)
    (fld w0 31 27 - u.1, fld w0 26 16 - u.2))

/-- A core has room of a partition's own for the next team of a grid: slots, register rows and scratchpad rows (R178, R196). -/
def roomFor (s : State) (p ck : Nat) (g : Grid) (core : Nat) : Bool :=
  coreUsable s p core && !(getDie s (core / 64)).trip &&
  (autoSpread (kernHw g.kern) g.roles (schedRoom s p core) (g.roles.map (·.groups))).isSome &&
  (lpbRows g.lpb == 0 || (findRow s ck p core (lpbRows g.lpb)).isSome)

/-- The state without what borrows from a partition. -/
def withoutLent (s : State) (p : Nat) : State :=
  { s with
    groups := s.groups.filter (fun g => !(tabGet s.teams g.2.team).any (fun t => t.borrowed == some p)),
    teams := s.teams.filter (fun t => t.2.borrowed != some p) }

/-- The context has work that only lent capacity holds up: a team or a group that would find its place, or a fired bin (R237). -/
def needsLent (s : State) (p ck : Nat) (c : Ctx) : Bool :=
  let free := withoutLent s p
  let cores := placedCores s (getPart s p).w1
  let fits := fun (t : State) (g : Grp) (core : Nat) => (findSlot t p core g.budget (if g.paired then 2 else 1)).isSome
  (servedGrid s ck).any (fun g => !cores.any (roomFor s p ck g.2) && cores.any (roomFor free p ck g.2)) ||
  c.saved.any (fun g => (tabGet s.teams g.2.team).any (fun t =>
    t.borrowed.isNone && t.away.isNone && coreUsable s p t.core && !fits s g.2 t.core && fits free g.2 t.core)) ||
  s.cores.any (fun x => x.2.bins.any (fun b => b.2.fired && (tabGet s.teams b.2.team).any (fun t => t.ctx == ck && t.borrowed.isNone &&
    (findSlot s p x.1 8 1).isNone && (findSlot free p x.1 8 1).isSome)))

/-- The owner of lent capacity has work needing it, a restore among it, or LEND is cleared (R196). -/
def reclaimDue (s : State) (part : Nat) : Bool :=
  !(getPart s part).w2.getLsbD 8 ||
  (match (getPart s part).running with
   | none => false
   | some v =>
     let ck := v * 16 + (getVf s v).cur
     match tabGet s.ctxs ck with
     | none => false
     | some c =>
       match c.state with
       | .loaded | .saved | .restoring => true
       | .running => needsLent s part ck c
       | _ => false)

/-- What a reclaim discards does not have to come to rest (R189). -/
def grpSettled (s : State) (g : Grp) : Bool :=
  g.tx.state != .preparing &&
  s.accs.all (fun a => a.2.gser != g.serial || (rewinds g && accLost a.2) || accSettled s a.1 a.2)

/-- Accesses of groups that left their slots are withdrawn. -/
def withdrawGroups (s : State) (sers : List Nat) : State :=
  { s with accs := tabMap s.accs (fun _ (a : Acc) => if sers.contains a.gser then withdrawParts a else a) }

/-- RECLAIM (R196, R197): the groups on a core that borrow from a partition are rewound or saved whole, with their teams'
rows and spawn bins. A reclaim that spans several cores is made core by core, with one RECLAIMED event for each: R197 does not
say how many it appends (DESIGN CHOICE, assumption log, row 85). -/
def execReclaim (part core : Nat) (s : State) : Host.Outcome State Fault Refusal :=
  event s (
    let tks := tabKeys s.teams (fun _ t => t.borrowed == some part && t.core == core)
    match tks.head?.bind (tabGet s.teams) with
    | none => s
    | some t0 =>
      let ck := t0.ctx
      let gks := tabKeys s.groups (fun _ g => tks.contains g.team && g.state != .retired)
      let sers := gks.filterMap (fun k => (tabGet s.groups k).map (·.serial))
      if !reclaimDue s part || (getPart s part).reclaim.isSome || gks.any (fun k => (tabGet s.groups k).any (fun g => !grpSettled s g)) ||
          s.msgs.any (fun m => msgLocal m.2 ck) || s.groups.any (fun g => tks.contains g.2.team && g.2.state == .retired) then s
      else
        let s1 := takeBins (withdrawGroups (gks.foldl (saveGroup false) s) sers) ck (fun b => tks.contains b.team)
        updPart (tks.foldl teamAway s1) part (fun p => { p with reclaim := some (ck, sers, 0) }))

/-- Placed earlier, then in the lower slot (R229). -/
def olderPlaced (a b : Nat × Grp) : Bool := if a.2.placed ≠ b.2.placed then decide (a.2.placed < b.2.placed) else decide (a.1 < b.1)

/-- The borrower's youngest group of the lowest team priority on a core that is not in the requeued set (R197). -/
def evictable (s : State) (ck core : Nat) (keep : List Nat) : Option (Nat × Grp) :=
  let prio := fun (g : Grp) => (tabGet s.grids g.grid).elim 0 (fun x => lpbPrio x.lpb)
  (s.groups.filter (fun g => coreOf g.1 == core && g.2.ctx == ck && !keep.contains g.2.serial && g.2.state != .retired)).foldl
    (fun o g => match o with
      | none => some g
      | some b => if prio g.2 < prio b.2 || (prio g.2 == prio b.2 && olderPlaced b g) then some g else some b) none

/-- Requeues a group of a reclaim: while the slots of its core are full, groups are evicted in the same way (R197). `none`: a group
to be evicted has work that is still to come to rest. -/
def requeueOne (ck : Nat) (sers : List Nat) (n : Nat) : Nat → State × Nat → Option (State × Nat)
  | 0, r => some r
  | m + 1, (s, e) =>
    let s1 := groupBack ck true true s n
    match ((tabGet s1.ctxs ck).bind (fun c => tabGet c.saved n)).bind (fun g => tabGet s1.teams g.team) with
    | none => some (s1, e)
    | some t =>
      if t.away.isSome || !coreUsable s1 (partOf s1 ck) t.core then some (s1, e)
      else
        match evictable s1 ck t.core sers with
        | none => some (s1, e)
        | some (k, g) =>
          if grpSettled s1 g then requeueOne ck sers n m (withdrawGroups (saveGroup false s1 k) [g.serial], e + 1) else none

/-- Requeues the groups of a reclaim, in their order. -/
def requeueAll (ck : Nat) (sers : List Nat) (r : State × Nat) : Option (State × Nat) :=
  sers.foldl (fun o n => o.bind (requeueOne ck sers n 97)) (some r)

/-- RECLAIM_COMPLETE (R197, R199): the groups are on the borrower's own slots, and RECLAIMED is appended. -/
def execReclaimComplete (part : Nat) (s : State) : Host.Outcome State Fault Refusal :=
  event s (
    match (getPart s part).reclaim with
    | none => s
    | some (ck, sers, _) =>
      let s0 := updPart s part (fun p => { p with reclaim := none })
      if (tabGet s.ctxs ck).any (fun c => c.state == .running) then
        match requeueAll ck sers (s0, 0) with
        | some (s1, e) => eventPush (restoreBins s1 ck) ck 7 0 sers.length e
        | none => s
      else if (tabGet s.ctxs ck).isSome then eventPush s0 ck 7 0 sers.length 0
      else s0)

end Sys2Proof.Machine
end

