-- ==== Sys2Proof/Machine/GroupEv.lean ====
section
/-! DEFINITION. Steps of groups that are no instruction: loading, the active set, fairness, release, spawn bins and the
end of a SLEEP (10_group R220, R221, R229, R237; 15_control R318). -/

namespace Sys2Proof.Machine

open Sys2Proof

/-- The context of a group is RUNNING. -/
def grpRuns (s : State) (g : Grp) : Bool := (tabGet s.ctxs g.ctx).any (fun c => c.state == .running)

/-- GROUP_STATE_LOADED (R220): the group's state is in place; in a context that runs it starts, or goes on, with an acquire
(R116, R134). -/
def execGroupStateLoaded (grp : Nat) (s : State) : Host.Outcome State Fault Refusal :=
  event s (
    match tabGet s.groups grp with
    | some g =>
      let s1 := setGroup s grp { g with state := if g.dbgStop then .stopped else .ready, readyAt := s.cycle }
      if g.state ≠ .pending then s
      else if grpRuns s g then resumeGroup s1 grp
      else if (tabGet s.ctxs g.ctx).any (fun c => c.state == .restoring) then s1
      else s
    | none => s)

/-- Places of the active set that a scheduler's ACTIVE groups take: a paired group counts as 2 (R229). -/
def activeUse (s : State) (sched : Nat) : Nat :=
  s.groups.foldl (fun n kg => if schedOf kg.1 == sched && kg.2.state == .active then n + (if kg.2.paired then 2 else 1) else n) 0

/-- Team PRIO of a group (R207). -/
def grpPrio (s : State) (g : Grp) : Nat := (tabGet s.grids g.grid).elim 0 (fun x => lpbPrio x.lpb)

/-- `a` enters the active set before `b` (R229); a requeued group goes first (R197), and one that has yielded to those that waited
goes last (R318). -/
def entersBefore (s : State) (a b : Nat × Grp) : Bool :=
  let pa := grpPrio s a.2
  let pb := grpPrio s b.2
  if a.2.yld ≠ b.2.yld then b.2.yld
  else if pa ≠ pb then decide (pb < pa)
  else if a.2.front ≠ b.2.front then a.2.front
  else if a.2.readyAt ≠ b.2.readyAt then decide (a.2.readyAt < b.2.readyAt)
  else olderPlaced a b

/-- READY groups of a scheduler whose contexts run. -/
def readyGroups (s : State) (sched : Nat) : List (Nat × Grp) :=
  s.groups.filter (fun kg => schedOf kg.1 == sched && kg.2.state == .ready && grpRuns s kg.2)

/-- READY groups that yielded have let one in, and wait like the others again (R318). -/
def endYield (s : State) (sched : Nat) : State :=
  { s with groups := tabMap s.groups (fun j (g : Grp) => if schedOf j = sched ∧ g.state = .ready ∧ g.yld = true then { g with yld := false } else g) }

/-- A group `g` without a running path selects one in `s1` (R224, R228); where a refill waits or faults, `s` stands (R225). -/
def selectPath (s s1 : State) (k : Nat) (g : Grp) : State :=
  match settlePaths s1 k with
  | (.ok t, ev) =>
    match numApply s1 t k (shownPath g).1 { Notes.nil with lost := ev } with
    | .ok u => u
    | .error u => raiseGroup u k fcNumi 0
  | (.wait t, _) => memSide s t k
  | (.fault t c a, _) => raiseGroup (memSide s t k) k c a

/-- The group enters the active set, and issues no earlier than 2 cycles later (R220). A group with no running path
selects one (R224); a refill that waits leaves it READY (R225). -/
def enterActive (s0 : State) (k : Nat) (g : Grp) : State :=
  let s := endYield s0 (schedOf k)
  let s1 := setGroup s k { g with
    state := .active, yld := false, front := false, activeAt := s.cycle, nextAt := max g.nextAt (s.cycle + 2) }
  if g.running then s1 else selectPath s s1 k g

/-- ACTIVE_SET_ENTRY (R220, R229): the next READY group enters where there is room. -/
def execActiveSetEntry (sched : Nat) (s : State) : Host.Outcome State Fault Refusal :=
  event s (
    match oldest (entersBefore s) (readyGroups s sched) with
    | some (k, g) => if activeUse s sched + (if g.paired then 2 else 1) ≤ 8 then enterActive s k g else s
    | none => s)

/-- `a` entered the active set before `b` (R229). -/
def activeBefore (a b : Nat × Grp) : Bool :=
  if a.2.activeAt ≠ b.2.activeAt then decide (a.2.activeAt < b.2.activeAt) else olderPlaced a b

/-- PRFCTL.LOCK of a group's VF (R412): its groups take no part in fairness evictions (R419). -/
def grpLocked (s : State) (g : Grp) : Bool := (getVf s (ctxVf g.ctx)).prfctl.getLsbD 61

/-- Evicts ACTIVE groups until `n` places are free; `none` where they cannot be had: the one to be evicted is inside a long
instruction, or those that remain are locked (R419). -/
def evictFor (s : State) (sched n : Nat) : Nat → Option State
  | 0 => if activeUse s sched + n ≤ 8 then some s else none
  | m + 1 =>
    if activeUse s sched + n ≤ 8 then some s
    else
      match oldest activeBefore (s.groups.filter (fun kg => schedOf kg.1 == sched && kg.2.state == .active && !grpLocked s kg.2)) with
      | some (k, g) => if g.px = 0 then evictFor (setGroup s k { g with state := .ready, readyAt := s.cycle }) sched n m else none
      | none => none

/-- FAIRNESS_EVICTION (R229): a group READY for 192 issue cycles takes the place of the group that has been ACTIVE
longest. -/
def execFairnessEviction (sched : Nat) (s : State) : Host.Outcome State Fault Refusal :=
  event s (
    let long := (readyGroups s sched).filter (fun kg => decide (kg.2.readyAt + 192 ≤ s.cycle) && !grpLocked s kg.2)
    let first := fun (a b : Nat × Grp) => if a.2.readyAt ≠ b.2.readyAt then decide (a.2.readyAt < b.2.readyAt) else olderPlaced a b
    match oldest first long with
    | some (k, g) =>
      let n := if g.paired then 2 else 1
      if activeUse s sched + n ≤ 8 then s else (evictFor s sched n 2).elim s (fun t => enterActive t k g)
    | none => s)

/-- A RETIRED group's own work is complete (R220): its slots are zero, and its writes and its commit are acknowledged. -/
def grpDone (s : State) (g : Grp) : Bool :=
  (List.range 4).all (fun n => tabGetD g.sb n 0 == 0) && g.tx.state != .preparing &&
    !(s.accs.any (fun a => a.2.gser == g.serial && accWrites a.2))

/-- GROUP_FREE (R220, R221): slot and rows are released; saved groups that wait for room take it. -/
def execGroupFree (grp : Nat) (s : State) : Host.Outcome State Fault Refusal :=
  event s (
    match tabGet s.groups grp with
    | some g0 =>
      let g := releaseSlots s.cycle g0
      if g.state ≠ .retired || !grpDone s g then s
      else
        let s1 := { s with
          groups := tabDel s.groups grp,
          accs := s.accs.filter (fun a => a.2.gser != g.serial),
          teams := tabUpd s.teams g.team (fun t => { t with slots := t.slots.filter (fun x => x.2 != grp) }) }
        requeue (endTeam s1 g.team) g.ctx
    | none => s)

/-- The context whose threads a bin holds. -/
def binCtx (s : State) (core bin : Nat) : Option (Bin × Ctx) :=
  (tabGet (getCore s core).bins bin).bind (fun b => (tabGet s.teams b.team).bind (fun t => (tabGet s.ctxs t.ctx).map (fun c => (b, c))))

/-- SPAWN_BIN_TIMEOUT (R237): a bin fires 2048 cycles after its first thread entered. -/
def execSpawnBinTimeout (core bin : Nat) (s : State) : Host.Outcome State Fault Refusal :=
  event s (
    match binCtx s core bin with
    | some (b, c) => if !b.fired && c.state == .running && decide (b.age + 2048 ≤ s.cycle) then fireBin s core bin else s
    | none => s)

/-- SPAWN_BIN_PLACE (R237): a fired bin places its group on a slot of the core. -/
def execSpawnBinPlace (core bin slot : Nat) (s : State) : Host.Outcome State Fault Refusal :=
  event s (
    match binCtx s core bin with
    | some (b, c) => if b.fired && c.state == .running then placeBin s core bin (some slot) else s
    | none => s)

/-- A path whose SLEEP has expired runs on past it (R220, R318). -/
def wakeSleeper (s : State) (ck : Nat) (x : Path) : Path :=
  match x.kind with
  | .waiting _ (.sleep n) =>
    if x.since + n ≤ s.cycle then { x with kind := .runnable, pc := x.pc + 1, fall := fallsOff s ck x.pc, bump := x.bump + 1 } else x
  | _ => x

/-- SLEEP_EXPIRY (R318). -/
def execSleepExpiry (grp : Nat) (s : State) : Host.Outcome State Fault Refusal :=
  event s (
    match tabGet s.groups grp with
    | some g =>
      let g1 := { g with paths := g.paths.map (wakeSleeper s g.ctx), spilled := g.spilled.map (wakeSleeper s g.ctx) }
      if g1 = g then s
      else setGroup s grp { g1 with
        state := if g.state = .wait then .ready else g.state,
        readyAt := if g.state = .wait then s.cycle else g.readyAt }
    | none => s)

end Sys2Proof.Machine
end

