-- ==== Sys2Proof/Machine/QueueEv.lean ====
section
/-! DEFINITION. Queues between the steps of programs: shared capability entries, context queues, appends and free-counts,
host work queues and media sessions (11_queue R239 to R259; 12_barrier R270). -/

namespace Sys2Proof.Machine

open Sys2Proof

/-- CAPDATA_WRITE (R242): a write of the shared entry that CAPIDX names; an accepted one resets every instance. -/
def execCapdataWrite (vf : Nat) (w : BitVec 64) (s : State) : Host.Outcome State Fault Refusal :=
  event s (
    let x := (getVf s vf).capidx
    let i := fld x 5 0
    let ck := vf * 16 + fld x 9 6
    if vf ≥ 384 || i < 16 then s
    else
      match tabGet s.ctxs ck with
      | none => refuseCmd s vf
      | some c =>
        if entryBad s.pkg.id none w then refuseCmd s vf
        else
          let cores := c.core.map (·.1)
          let s1 := setCtx (acceptCmd s vf) ck { c with
            shared := tabPut c.shared i w,
            core := tabMap c.core (fun _ y => { y with shared := tabMap y.shared (fun n p =>
              if n = i then { p with entry := w, allow := fld w 31 16 } else p) }) }
          cores.foldl (fun t core => wakePush t ck (chanId t core 0 i)) s1)

/-! Context queues. -/

/-- SLOT, core, queue slot, ESZ and depth of CQCMD (R243). -/
def cqSlot (w : W64) : Nat := fld w 61 58
def cqCore (w : W64) : Nat := fld w 57 55 * 64 + fld w 54 49
def cqQueue (w : W64) : Nat := fld w 48 44
def cqSize (w : W64) : Nat := 8 * 2 ^ fld w 43 42
def cqDepth (w : W64) : Nat := 2 ^ fld w 41 37

/-- The queue slot of a context that is LOADED or SAVED, under the key by which its save holds it. -/
def cqKey (c : Ctx) (w : W64) : Nat := cqCore w * 2048 + ctxPart c * 32 + cqQueue w

/-- Rows of a core that a context's teams and context queues leave free (R243). -/
def ctxRowsFree (s : State) (ck : Nat) (c : Ctx) (core row n : Nat) : Bool :=
  !(s.teams.any (fun t => t.2.ctx == ck && t.2.core == core && t.2.borrowed.isNone && t.2.away.isNone && rangesMeet row n t.2.row t.2.rows)) &&
  !(c.savedQ.any (fun q => q.1 / 2048 == core && q.2.team.isNone && rangesMeet row n q.2.base (queueRows q.2)))

/-- The highest rows of a context's scratchpad rows on a core that are free (R243). -/
def topRows (s : State) (ck : Nat) (c : Ctx) (core n : Nat) : Option Nat :=
  let p := ctxPart c
  let cnt := rowCnt s p - fld (descW c 8) 12 0
  if cnt < n then none
  else ((List.range (cnt - n + 1)).map (fun i => rowLo s p + (cnt - n - i))).find? (fun r => ctxRowsFree s ck c core r n)

/-- The common conditions of CQCMD (R243). -/
def cqReady (s : State) (c : Ctx) (w : W64) : Bool :=
  (c.state == .loaded || c.state == .saved) && (placedCores s (getPart s (ctxPart c)).w1).contains (cqCore w)

/-- CQ_CREATE (R243, R244): a context queue takes the top rows of its context. -/
def execCqCreate (vf : Nat) (w : BitVec 64) (s : State) : Host.Outcome State Fault Refusal :=
  event s (
    if vf ≥ 384 || fld w 63 62 ≠ 1 then s
    else
      let ck := vf * 16 + cqSlot w
      match tabGet s.ctxs ck with
      | none => refuseCmd s vf
      | some c =>
        let q : QSlot := ⟨ck, none, false, 0, cqSize w, cqDepth w, 0, 0, 0, [], [], []⟩
        if !cqReady s c w || decide (12 < fld w 41 37) || decide (fld (getPart s (ctxPart c)).w0 8 3 ≤ cqQueue w) ||
            (tabGet c.savedQ (cqKey c w)).isSome then refuseCmd s vf
        else
          match topRows s ck c (cqCore w) (queueRows q) with
          | none => refuseCmd s vf
          | some r => setCtx (acceptCmd s vf) ck { c with savedQ := tabPut c.savedQ (cqKey c w) { q with base := r } })

/-- CQ_DESTROY (R243, R244): the slot is FREE and its rows are zeroed. -/
def execCqDestroy (vf : Nat) (w : BitVec 64) (s : State) : Host.Outcome State Fault Refusal :=
  event s (
    if vf ≥ 384 || fld w 63 62 ≠ 2 then s
    else
      let ck := vf * 16 + cqSlot w
      match tabGet s.ctxs ck with
      | none => refuseCmd s vf
      | some c =>
        match (tabGet c.savedQ (cqKey c w)).filter (fun q => q.team.isNone) with
        | none => refuseCmd s vf
        | some q =>
          if !cqReady s c w then refuseCmd s vf
          else setCtx (acceptCmd s vf) ck { c with
            savedQ := tabDel c.savedQ (cqKey c w),
            savedRows := memClear c.savedRows (rowAddr s.pkg.id (cqCore w) q.base 0) (128 * queueRows q) })

/-! Appends and free-counts. -/

/-- The result of a push that reaches a queue: appended, or rejected with what stands (R244). -/
inductive Append where
  | ok (s : State)
  | reject (s : State)

/-- A push reaches a queue slot (R244); `unit` says that a unit outside every core made it. -/
def appendTo (s : State) (core q ctx : Nat) (sender : W64) (bs : List Byte) (unit : Bool) : Append :=
  match tabGet (getCore s core).qslots q with
  | none => .reject s
  | some x =>
    let put := fun y => updCore s core (fun c => { c with qslots := tabPut c.qslots q y })
    if x.ctx ≠ ctx ∨ x.esz ≠ bs.length ∨ x.err then .reject s
    else if x.depth ≤ x.count then .reject (put { x with err := true })
    else
      let s1 := put { x with tail := (x.tail + 1) % x.depth, count := x.count + 1, senders := x.senders ++ [sender], units := x.units ++ [unit] }
      let pa := rowAddr s.pkg.id core x.base (x.esz * x.tail)
      .ok (wakePops { s1 with mem := memWrite s1.mem pa bs } core q)

/-- The sender, group and place of a message; a free-count has no group. -/
def msgTag : Msg → Option (W64 × Nat)
  | .append _ _ _ id _ _ ser _ _ _ | .link _ _ _ _ id _ _ ser _ _ _ | .card _ _ id _ _ ser _ _ _ _ | .record _ _ id _ _ ser _ _ _ => some (id, ser)
  | .freeCount .. => none

/-- An earlier message of the same group on the same channel is still under way (R248). -/
def msgBehind (s : State) (n : Nat) (m : Msg) : Bool :=
  match msgTag m with
  | none => false
  | some t => s.msgs.any (fun x => decide (x.1 < n) && msgTag x.2 == some t)

/-- The predicate of a PUSH.nb is written, if it is not yet. -/
def landPush (g : Grp) (pc : Nat) : Grp :=
  match g.vres.find? (fun r => r.push == some pc) with
  | some r => landCells { g with vres := g.vres.filter (fun x => x.id != r.id) } r.writes
  | none => g

/-- The slot of the group of a serial number: groups move, and their messages stay under way. -/
def slotOf (s : State) (ser : Nat) : Option Nat := (s.groups.find? (fun g => g.2.serial == ser)).map (·.1)

/-- The group of a serial number changes, in its slot or in its context's save. -/
def updSerial (s : State) (ctx ser : Nat) (f : Grp → Grp) : State :=
  match slotOf s ser with
  | some k => updGroup s k f
  | none => updCtx s ctx (fun c => { c with saved := tabUpd c.saved ser f })

/-- The SET slot of a push goes down with its last entry, and not before its predicate is written (R293, R383). -/
def pushDoneAt (s : State) (ctx ser pc : Nat) (slot : Option Nat) : State :=
  updSerial s ctx ser (fun g => if slot.isSome then slotFree (landPush g pc) slot else g)

/-- A push is rejected: its group raises a fault, and its stop record names the PUSH (R244, R187). -/
def pushFault (s : State) (ctx k ser pc : Nat) (slot : Option Nat) (cause : Nat) : State :=
  let s1 := pushDoneAt s ctx ser pc slot
  match slotOf s1 ser with
  | some j => haltRise (updGroup s1 j (fun g => { g with faultPc := some pc })) ctx cause (groupUnit j) ((tabGet s1.groups j).elim 0 gidOf) 0 true
  | none => haltRise s1 ctx cause (groupUnit k) 0 0 false

/-- A job card's fields (R256). -/
def jobWords (bs : List Byte) : List W64 := (List.range 8).map (fun i => BitVec.ofNat 64 (leNat ((bs.drop (8 * i)).take 8)))
def cardOp (w : List W64) : Nat := fld (w.getD 0 0) 63 60

/-- The card is malformed: OP is none of the five (R256). -/
def cardBad (w : List W64) : Bool := cardOp w == 0 || decide (5 < cardOp w)

/-- A media engine. -/
def getMedia (s : State) (m : Nat) : Media := tabGetD s.medias m ⟨[], []⟩
def updMedia (s : State) (m : Nat) (f : Media → Media) : State := { s with medias := tabPut s.medias m (f (getMedia s m)) }

/-- One unit of allowance is on its way to an instance (R246, R252, R256). -/
def sendFree (s : State) (ctx : Nat) (id : W64) : State := sendMsgs s [.freeCount ctx id]

/-- A context whose cores hold its state: a push may reach its queues. -/
def ctxOnCores (s : State) (ck : Nat) : Bool :=
  (tabGet s.ctxs ck).any (fun c => c.state == .running || c.state == .halting || c.state == .saving)

/-- A record that a program pushes is appended to a host work queue (R252). -/
def recordPush (s : State) (q ctx : Nat) (sender : W64) (bs : List Byte) : Option State :=
  let w := getWq s q
  if w.state ≠ .open ∨ w.vf ≠ ctx / 16 then none
  else
    let a := hostPa (fld w.base 51 6 * 64 + 64 * (w.tail % 2 ^ fld w.base 63 59))
    some (updWq (devWrite s ctx a bs) q (fun w => { w with
      tail := (w.tail + 1) % 2 ^ 32, senders := tabPut w.senders w.tail (ctx, sender) }))

/-- The channel identity of the launch unit's pushes (R212). -/
def launchId (id : W64) : Bool := !id.getLsbD 44 && idTeam id == 2 ^ 26 - 1

/-- QUEUE_APPEND (R244, R245, R248, R252, R256): a push arrives at its queue, and is appended or rejected. -/
def execQueueAppend (msg : Nat) (s : State) : Host.Outcome State Fault Refusal :=
  event s (
    match tabGet s.msgs msg with
    | none => s
    | some m =>
      let s1 := { s with msgs := tabDel s.msgs msg }
      if msgBehind s msg m then s
      else
        match m with
        | .append core q ctx id bs k ser pc slot _ =>
          if !ctxOnCores s ctx then s
          else
            match appendTo s1 core q ctx id bs (launchId id) with
            | .ok s2 => pushDoneAt s2 ctx ser pc slot
            | .reject s2 => pushFault s2 ctx k ser pc slot fcQueueError
        | .record q ctx id bs k ser pc slot _ =>
          match recordPush s1 q ctx id bs with
          | some s2 => settlePart (pushDoneAt s2 ctx ser pc slot) (partOf s2 ctx)
          | none => pushFault s1 ctx k ser pc slot fcQueueError
        | .card m ctx id bs _ ser pc gid slot _ =>
          let s2 := pushDoneAt s1 ctx ser pc slot
          if cardBad (jobWords bs) then sendFree s2 ctx id
          else updMedia s2 m (fun x => { x with cards := x.cards ++ [⟨ctx, id, gid, jobWords bs⟩] })
        | _ => s)

/-- A unit of allowance reaches an instance of this package: it is held while the context is not RUNNING (R246). -/
def freeArrives (s : State) (ctx : Nat) (id : W64) : State :=
  match tabGet s.ctxs ctx with
  | none => s
  | some c => if c.state = .running then addAllow s ctx id else setCtx s ctx { c with heldMsgs := c.heldMsgs ++ [id] }

/-- FREE_COUNT_RETURN (R246): a free-count message arrives; one for another package goes over a link (R259). -/
def execFreeCountReturn (msg : Nat) (s : State) : Host.Outcome State Fault Refusal :=
  event s (
    match tabGet s.msgs msg with
    | some (.freeCount ctx id) =>
      if idPkg id ≠ s.pkg.id then s else freeArrives { s with msgs := tabDel s.msgs msg } ctx id
    | _ => s)

/-! Host work queues. -/

/-- The context that a work queue is bound to. -/
def wqCtx (w : Wq) : Nat := w.vf * 16 + w.slot

/-- The partition of a work queue's context settles. -/
def settleWq (s : State) (q : Nat) : State :=
  match tabGet s.ctxs (wqCtx (getWq s q)) with
  | some c => settlePart s (ctxPart c)
  | none => s

/-- A work queue's TAIL is written (R249, R251): not while it drains. -/
def setTail (s : State) (q tail : Nat) : State :=
  if (getWq s q).state = .draining then s else settleWq (updWq s q (fun w => { w with tail := tail % 2 ^ 32 })) q

/-- WQDOOR (R249): a queue not bound to the writing VF ignores it. -/
def execWqdoor (vf : Nat) (w : BitVec 64) (s : State) : Host.Outcome State Fault Refusal :=
  event s (
    let q := fld w 41 32
    let x := getWq s q
    if x.state = .unbound ∨ x.vf ≠ vf then s else setTail s q (fld w 31 0))

/-- A write of WQCTL stores its VF and SLOT (R6, R249). -/
def wqctlWrite (s : State) (q : Nat) (w : W64) : State := updWq s q (fun x => { x with vf := fld w 51 43, slot := fld w 42 39 })

/-- WQ_BIND (R251): an UNBOUND queue opens for a slot that is not EMPTY, with LOG in range. -/
def execWqBind (q : Nat) (w : BitVec 64) (s : State) : Host.Outcome State Fault Refusal :=
  event s (
    let x := getWq s q
    let log := fld x.base 63 59
    if q ≥ 1024 then s
    else if x.state ≠ .unbound || log < 4 || 16 < log || (tabGet s.ctxs (fld w 51 43 * 16 + fld w 42 39)).isNone || 384 ≤ fld w 51 43 then wqctlWrite s q w
    else updWq (wqctlWrite s q w) q (fun x => { x with state := .open, head := 0, tail := 0, senders := [] }))

/-- Moves a work queue between states (R251). -/
def wqMove (s : State) (q : Nat) (from_ : List WqState) (new : WqState) : State :=
  if q < 1024 ∧ from_.contains (getWq s q).state then updWq s q (fun w => { w with state := new }) else s

/-- WQ_PAUSE, WQ_RESUME, WQ_UNBIND (R251). -/
def execWqPause (q : Nat) (s : State) : Host.Outcome State Fault Refusal := event s (wqMove s q [.open] .paused)
def execWqResume (q : Nat) (s : State) : Host.Outcome State Fault Refusal := event s (settleWq (wqMove s q [.paused] .open) q)
def execWqUnbind (q : Nat) (s : State) : Host.Outcome State Fault Refusal := event s (wqMove s q [.closed] .unbound)

/-- WQ_DRAIN (R251): the records up to this TAIL are consumed. -/
def execWqDrain (q : Nat) (s : State) : Host.Outcome State Fault Refusal :=
  event s (
    let w := getWq s q
    if q < 1024 ∧ (w.state = .open ∨ w.state = .paused) then
      settleWq (drainDoneQ (updWq s q (fun w => { w with state := .draining, drainTo := w.tail })) q) q
    else s)

/-- WQ_CLOSE (R251): unconsumed records are abandoned; the write of a SIGNAL record that HEAD has passed is still made. -/
def execWqClose (q : Nat) (s : State) : Host.Outcome State Fault Refusal :=
  event s (wqMove s q [.open, .paused, .draining, .error] .closed)

/-- The launch unit may consume a record of a queue (R250, R251). -/
def consumes (s : State) (w : Wq) : Bool :=
  w.signal.isNone && ((w.state == .open && w.head != w.tail) || (w.state == .draining && w.head != w.drainTo)) &&
  (tabGet s.ctxs (wqCtx w)).any (fun c =>
    c.state == .loaded || c.state == .restoring || c.state == .running || c.state == .saving || c.state == .saved)

/-- The owner of the reads of a queue's records. -/
def wqOwner (q : Nat) : Nat := 2 ^ 43 + q

/-- Address of the record at HEAD. -/
def headAddr (w : Wq) : Nat := hostPa (fld w.base 51 6 * 64 + 64 * (w.head % 2 ^ fld w.base 63 59))

/-- The record at HEAD: a fault of its read, or its words (R249); `none` while the read waits. -/
def headRecord (s : State) (q : Nat) (w : Wq) : State × Option (Except Nat (List W64)) :=
  match agentRead s (wqOwner q) (wqCtx w) (.vf w.vf) false none (headAddr w) 64 true with
  | .done s1 d => (s1, some (.ok ((List.range 8).map (fun i => BitVec.ofNat 64 (d / 2 ^ (64 * i))))))
  | .stall s1 _ => (keepFars s s1, none)
  | .fault c => (s, some (.error c))

/-- TYPE of a record, 0 where the record is malformed (R250). -/
def recordType (r : List W64) : Nat :=
  let zero := fun lo => (List.range (8 - lo)).all (fun i => r.getD (lo + i) 0 == 0)
  if fld (r.getD 0 0) 55 0 ≠ 0 then 0
  else match fld (r.getD 0 0) 63 56 with
    | 1 => if zero 2 then 1 else 0
    | 2 => if zero 3 then 2 else 0
    | _ => 0

/-- A queue enters ERROR at the record that failed (R251). -/
def wqError (s : State) (q cause : Nat) : State := updWq (dropRefused (dropFars s (wqOwner q) (wqCtx (getWq s q))) (wqCtx (getWq s q))) q (fun w => { w with state := .error, cause := cause % 256, index := w.head })

/-- A record is consumed: HEAD advances, and a program that pushed it gets its unit back (R252). -/
def consume (s : State) (q : Nat) : State :=
  let w := getWq s q
  let s1 := updWq (dropFars s (wqOwner q) (wqCtx w)) q (fun w => { w with head := (w.head + 1) % 2 ^ 32, senders := tabDel w.senders w.head })
  match tabGet w.senders w.head with
  | some (ctx, id) => sendFree s1 ctx id
  | none => s1

/-- The LPB that a LAUNCH record names (R250). -/
def readLpb (s : State) (ck va : Nat) : Out × List W64 :=
  if va % 256 ≠ 0 then (.fault s fcMisalign va, [])
  else
    let (o1, d1) := launchRead s ck va 128
    match o1 with
    | .ok s1 =>
      let (o2, d2) := launchRead s1 ck (va + 128) 128
      (o2, (List.range 32).map (fun i => BitVec.ofNat 64 ((d1 + d2 * 2 ^ 1024) / 2 ^ (64 * i))))
    | o => (o, [])

/-- WQ_LAUNCH_RECORD (R210, R250): a LAUNCH record is consumed and its LPB submitted. -/
def execWqLaunchRecord (q : Nat) (s : State) : Host.Outcome State Fault Refusal :=
  event s (
    let w := getWq s q
    if !consumes s w then s
    else
      match headRecord s q w with
      | (t, some (.ok r)) =>
        if recordType r ≠ 1 then t
        else
          let va := (r.getD 1 0).toNat
          match readLpb t (wqCtx w) va with
          | (.ok s1, l) =>
            let (n, s2) := fresh s1
            drainDoneQ (consume { s2 with reqs := tabPut s2.reqs n ⟨wqCtx w, va, l, some q⟩ } q) q
          | (.fault s1 c _, _) => wqError s1 q c
          | (.wait s1, _) => keepFars t s1
      | (t, _) => t)

/-- WQ_SIGNAL_RECORD (R250): a SIGNAL record is consumed; its write waits for earlier grids. -/
def execWqSignalRecord (q : Nat) (s : State) : Host.Outcome State Fault Refusal :=
  event s (
    let w := getWq s q
    if !consumes s w then s
    else
      match headRecord s q w with
      | (t, some (.ok r)) =>
        if recordType r ≠ 2 then t
        else updWq (consume t q) q (fun w => { w with signal := some ((r.getD 1 0).toNat, r.getD 2 0), signalCtx := wqCtx w })
      | (t, _) => t)

/-- SIGNAL_WRITE (R250): every grid launched earlier from the queue has completed, and the value is written. -/
def execSignalWrite (q : Nat) (s : State) : Host.Outcome State Fault Refusal :=
  event s (
    let w := getWq s q
    match w.signal with
    | none => s
    | some (va, x) =>
      let paused := (tabGet s.ctxs w.signalCtx).all (fun c => c.state == .halting || c.state == .halted)
      if paused || s.grids.any (fun g => g.2.wq == some q) || s.reqs.any (fun r => r.2.wq == some q) then s
      else
        let gone := fun t => drainDoneQ (updWq t q (fun w => { w with signal := none })) q
        if va % 8 ≠ 0 then gone (haltRise s w.signalCtx fcMisalign noUnit 0 va false)
        else
          match launchWrite s w.signalCtx va (leBytes x.toNat 8) with
          | .ok s1 => gone s1
          | .wait s1 => keepFars s s1
          | .fault s1 c a => gone (haltRise s1 w.signalCtx c noUnit 0 a false))

/-- MALFORMED_RECORD (R250, R251): the record at HEAD is malformed, or its read faults, and the queue enters ERROR. -/
def execMalformedRecord (q : Nat) (s : State) : Host.Outcome State Fault Refusal :=
  event s (
    let w := getWq s q
    if !consumes s w then s
    else
      match headRecord s q w with
      | (t, some (.ok r)) => if recordType r = 0 then wqError t q fcIllegalOpnd else t
      | (t, some (.error c)) => wqError (noteIntegrity t c (.vf w.vf) (wqCtx w) (headAddr w)) q c
      | (t, none) => t)

/-! Media engines. -/

/-- SESSION of a card. -/
def cardNum (w : List W64) : Nat := fld (w.getD 0 0) 55 52

/-- Codes of MEDIA records (R258). -/
abbrev mdQueue : Nat := 4
abbrev mdState : Nat := 5
abbrev mdBusy : Nat := 6

/-- A MEDIA record (R199, R258). -/
def mediaRecord (s : State) (m ctx num code row : Nat) : State :=
  let s1 := eventPush s ctx 3 code (m / 2 * 2 ^ 13 + m % 2 * 2 ^ 12 + num) row
  if code = mdState ∨ code = mdBusy then s1 else prfAdd s1 (ctxVf ctx) 4 (m / 2) (m % 2) 2 1

/-- The session that a context names by its number. -/
def sessOf (x : Media) (ctx num : Nat) : Option Sess := x.sess.find? (fun y => y.ctx == ctx && y.num == num)

/-- Replaces or removes a session. -/
def putSess (s : State) (m : Nat) (y : Sess) : State :=
  updMedia s m (fun x => { x with sess := x.sess.map (fun z => if z.ctx = y.ctx ∧ z.num = y.num then y else z) })
def dropSess (s : State) (m ctx num : Nat) : State :=
  updMedia s m (fun x => { x with sess := x.sess.filter (fun z => !(z.ctx == ctx && z.num == num)) })

/-- A card waits for its session: for a FRAME card, while an earlier frame is coded; for any card, behind the session's
earlier cards and a close in progress, except that a ROWBACK passes FRAME cards, and the close of a session that awaits it
(R257, R258). -/
def cardWaits (x : Media) (before : List Card) (c : Card) : Bool :=
  let mine := before.filter (fun b => b.ctx == c.ctx && cardNum b.words == cardNum c.words)
  (if cardOp c.words = 4 then mine.any (fun b => cardOp b.words != 3) else !mine.isEmpty) ||
  (match sessOf x c.ctx (cardNum c.words) with
   | some y => (y.closing && !(cardOp c.words == 4 && y.awaiting)) || (cardOp c.words == 3 && y.state == .busy)
   | none => false)

/-- The first card of an operation that a media engine can take, and the cards that remain. -/
def pickCard (s : State) (x : Media) (op : Nat) : List Card → List Card → Option (Card × List Card)
  | _, [] => none
  | before, c :: rest =>
    if cardOp c.words = op ∧ !cardWaits x before c ∧ (tabGet s.ctxs c.ctx).any (fun k => k.state == .running) then some (c, before ++ rest)
    else pickCard s x op (before ++ [c]) rest

/-- A media engine takes a card, and returns its unit of allowance (R256); `f` gives what the card does. -/
def takeCard (s : State) (m op : Nat) (f : State → Card → Option Sess → State) : State :=
  let x := getMedia s m
  if m ≥ 16 then s
  else
    match pickCard s x op [] x.cards with
    | none => s
    | some (c, rest) => f (sendFree (updMedia s m (fun x => { x with cards := rest })) c.ctx c.sender) c (sessOf x c.ctx (cardNum c.words))

/-- A card that its session cannot use is discarded (R258). -/
def discardCard (s : State) (m : Nat) (c : Card) : State := mediaRecord s m c.ctx (cardNum c.words) mdState 0

/-- A card for which the session's state has no row (R12, R258): discarded without action, but in CLOSED and FAILED. -/
def strayCard (s : State) (m : Nat) (c : Card) (y : Option Sess) : State :=
  if y.all (fun z => z.state == .failed) then discardCard s m c else s

/-- An OPEN card (R258). -/
def openSess (s : State) (m : Nat) (enc : Bool) (c : Card) (y : Option Sess) : State :=
  let w := c.words.getD 0 0
  match y with
  | some _ => strayCard s m c y
  | none =>
    if 16 ≤ (getMedia s m).sess.length then mediaRecord s m c.ctx (cardNum c.words) mdBusy 0
    else updMedia s m (fun x => { x with sess := x.sess ++
      [⟨c.ctx, cardNum c.words, enc, fld w 59 56, fld w 45 40, .idle, 0, 0, 0, 0, 0, false, false, false, idCore c.sender, c.gid, .no⟩] })

/-- MEDIA_OPEN_DEC and MEDIA_OPEN_ENC (R258). -/
def execMediaOpenDec (eng : Nat) (s : State) : Host.Outcome State Fault Refusal := event s (takeCard s eng 1 (fun s c y => openSess s eng false c y))
def execMediaOpenEnc (eng : Nat) (s : State) : Host.Outcome State Fault Refusal := event s (takeCard s eng 2 (fun s c y => openSess s eng true c y))

/-- MEDIA_FRAME (R258): coding of a frame begins. -/
def execMediaFrame (eng : Nat) (s : State) : Host.Outcome State Fault Refusal :=
  event s (takeCard s eng 3 (fun s c y =>
    match y with
    | some z =>
      if z.state = .idle then
        putSess s eng { z with
          state := .busy, stream := fld (c.words.getD 1 0) 54 0, len := fld (c.words.getD 2 0) 31 0,
          picture := fld (c.words.getD 3 0) 54 0, row := 0, gid := c.gid }
      else strayCard s eng c y
    | none => strayCard s eng c y))

/-- MEDIA_ROWBACK (R257): the row that the session awaits comes back. -/
def execMediaRowback (eng : Nat) (s : State) : Host.Outcome State Fault Refusal :=
  event s (takeCard s eng 4 (fun s c y =>
    match y with
    | some z =>
      if z.state = .busy ∧ z.awaiting ∧ fld (c.words.getD 4 0) 31 16 = z.row % 2 ^ 16 ∧ fld (c.words.getD 4 0) 15 0 = z.frameno % 2 ^ 16 then
        putSess s eng { z with awaiting := false }
      else strayCard s eng c y
    | none => strayCard s eng c y))

/-- MEDIA_CLOSE (R258): a row in progress completes first. -/
def execMediaClose (eng : Nat) (s : State) : Host.Outcome State Fault Refusal :=
  event s (takeCard s eng 5 (fun s c y =>
    match y with
    | some z => if z.state = .busy then putSess s eng { z with closing := true } else dropSess s eng z.ctx z.num
    | none => discardCard s eng c))

/-- The two words of a row handle (R257). -/
def rowHandle (m : Nat) (z : Sess) (addr stage : Nat) : List Byte :=
  wordsBytes [BitVec.ofNat 64 (addr % 2 ^ 55),
    BitVec.ofNat 64 (z.frameno % 2 ^ 16 + z.row % 2 ^ 16 * 2 ^ 16 + z.num * 2 ^ 32 + stage * 2 ^ 36 + m % 2 * 2 ^ 38 + m / 2 * 2 ^ 39)]

/-- A session fails with a code (R258). -/
def sessFail (s : State) (m : Nat) (z : Sess) (code : Nat) : State :=
  let s1 := mediaRecord s m z.ctx z.num code z.row
  if z.closing then dropSess s1 m z.ctx z.num else putSess s1 m { z with state := .failed, awaiting := false }

/-- The instance of a session's output channel. -/
def outCap (s : State) (z : Sess) : Option Cap := if z.outch < 16 then none else instGet s z.ctx (chanId s z.core 0 z.outch)

/-- The entry of an output channel permits a push to a cistern queue. -/
def outOk (c : Cap) : Bool := c.entry.getLsbD 63 && c.entry.getLsbD 59 && capKind c == 0

/-- The session's push waits for its channel's allowance (R246). -/
def rowWaits (s : State) (z : Sess) : Bool := (outCap s z).any (fun c => outOk c && (c.allow == 0 || !c.waiting.isEmpty))

/-- A row handle is pushed to the session's output queue (R257, R258). -/
def pushRow (s : State) (m : Nat) (z : Sess) (addr stage : Nat) (next : Sess) : State :=
  let id := chanId s z.core 0 z.outch
  match outCap s z with
  | none => sessFail s m z mdQueue
  | some c =>
    if !outOk c then sessFail s m z mdQueue
    else
      let q := capQueue (partOf s z.ctx) z.core c
      let s1 := instPut s z.ctx id { c with allow := c.allow - 1 }
      match appendTo s1 q.1 q.2 z.ctx id (rowHandle m z addr stage) true with
      | .reject s2 => sessFail s2 m z mdQueue
      | .ok s2 =>
        let s3 := prfAdd s2 (ctxVf z.ctx) 4 (m / 2) (m % 2) 0 1
        if z.closing && stage == 2 then dropSess s3 m z.ctx z.num else putSess s3 m next

/-- The owner of the far requests of a media session. -/
def sessOwner (m : Nat) (z : Sess) : Nat := 2 ^ 42 + m * 16 + z.num

/-- One access of a media engine through its session's context, line by line (R169, R171). -/
def mediaAccess (s : State) (m : Nat) (z : Sess) (a : MediaAcc) : ER Unit :=
  match a with
  | .read va n =>
    (linePieces va n).foldl (fun (acc : ER Unit) p => acc.bind (fun s _ =>
      (glbXlate s z.ctx (512 + m / 2) false .plain p.1 p.2).bind (fun s r =>
        (readRange s (sessOwner m z) z.ctx r none).bind (fun s _ => .ok s ())))) (.ok s ())
  | .write va bytes =>
    ((linePieces va bytes.length).foldl (fun (acc : ER (List Byte)) p => acc.bind (fun s bs =>
      (glbXlate s z.ctx (512 + m / 2) true .plain p.1 p.2).bind (fun s r =>
        (writeRange s (sessOwner m z) z.ctx none r (bs.take p.2)).bind (fun s _ => .ok s (bs.drop p.2))))) (.ok s bytes)).bind
      (fun s _ => .ok s ())

/-- An access of a media engine faults: the context halts (R185, R258). -/
def mediaFault (s : State) (m : Nat) (z : Sess) (cause va : Nat) (key : KeyId) (pa : Nat) : State :=
  if cause = fcIntegrity then haltKey s key (pumpUnit pa) z.gid va else haltRise s z.ctx cause (mediaUnit m) z.gid va true

/-- Ends the accesses of a row that began in `s`: the row is done, or it waits, or the context halts (R172, R185). -/
def rowEnd (s : State) (m : Nat) (z : Sess) (r : ER Unit) (done : State → State) : State :=
  match r with
  | .ok t _ => done (dropFars t (sessOwner m z) z.ctx)
  | .stall s1 h =>
    let h' := keepHold z.held h
    match h' with
    | .pool c => if c + 65536 ≤ s.cycle then mediaFault s m z fcVersionPool 0 (.vf 0) 0 else putSess (stallKeep s s1 z.held h) m { z with held := h' }
    | _ => putSess (stallKeep s s1 z.held h) m { z with held := h' }
  | .absent s1 va l w =>
    if (tabGet s.ctxs z.ctx).any dpage then
      let (s2, seq) := noteFault s1 z.ctx va (if w then 8 else 7) l z.gid (m / 2) 0xFF
      putSess s2 m { z with held := heldBy s2 z.ctx (pageOf va) seq }
    else mediaFault s1 m z fcTranslation va (.vf 0) 0
  | .fail s1 c va k p => mediaFault s1 m z c va k p

/-- The session may finish its row: while its context runs, or once more after the halt line has risen (R186); not while a
page holds its access. -/
def rowRuns (s : State) (m : Nat) (z : Sess) : Bool :=
  z.state == .busy && !z.awaiting &&
  (match tabGet s.ctxs z.ctx with
   | some c =>
     match c.state, z.held with
     | .running, .page .. | .running, .ring _ => false
     | .running, _ => true
     | .halting, h => !z.paused && !awaitsPage h && !(c.recs.any (fun r => r.unit == mediaUnit m))
     | _, _ => false
   | none => false)

/-- The row's result is a failure, which pushes no handle. -/
def rowFails : MediaRow → Bool
  | .fail .. => true
  | _ => false

/-- The accesses of a row, and what its engine does once they are made. -/
def rowResult (m : Nat) (z : Sess) (out : MediaRow) : List MediaAcc × (State → State) :=
  match out with
  | .final addr last accs =>
    (accs, fun s => pushRow s m z addr 2 (if last then { z with state := .idle, row := 0, frameno := z.frameno + 1 } else { z with row := z.row + 1 }))
  | .recon addr accs => (accs, fun s => pushRow s m z addr 0 z)
  | .awaiting addr accs => (accs, fun s => pushRow s m z addr 1 { z with awaiting := true })
  | .fail code accs => (accs, fun s => if 1 ≤ code ∧ code ≤ 3 then sessFail s m z code else s)

/-- MEDIA_ROW_DONE (R257, R258): the engine finishes a coding row, whose accesses it has made (R169, R172), and pushes its
handle, or fails the session. What the coded data gives is an input. -/
def execMediaRowDone (eng sess : Nat) (out : MediaRow) (s : State) : Host.Outcome State Fault Refusal :=
  event s (
    match (if eng < 16 then sessOf (getMedia s eng) (sess / 16) (sess % 16) else none) with
    | none => s
    | some z =>
      if !rowRuns s eng z || (!rowFails out && rowWaits s z) then s
      else
        let z1 := { z with paused := !(tabGet s.ctxs z.ctx).any (fun c => c.state == .running), held := .no }
        let (accs, done) := rowResult eng z1 out
        rowEnd s eng z (accs.foldl (fun r a => r.bind (fun t _ => mediaAccess t eng z a)) (.ok s ())) done)

/-- BARDROP_CLEAR (R270). -/
def execBardropClear (core : Nat) (s : State) : Host.Outcome State Fault Refusal :=
  event s (if core ≥ 512 then s else updCore s core (fun c => { c with bardrop := 0 }))

end Sys2Proof.Machine
end

