-- ==== Sys2Proof/Machine/LinkEv.lean ====
section
/-! DEFINITION. Bycon links: states, routes, requests sent and acknowledged, and what arrives from other packages
(13_link R273 to R283). -/

namespace Sys2Proof.Machine

open Sys2Proof

/-- Requests outstanding on some link. -/
def sentOn (s : State) (x : Nat × Nat) : Bool := s.links.any (fun l => l.2.sent.contains x)

/-- Where a request goes: the package, its route key, and the VF of its context (R277, R281). -/
structure Route where
  pkg : Nat
  key : Nat
  vf : Nat
  deriving DecidableEq, Repr

/-- Route key of a line: PA[22:7] (R277). -/
def lineKey (pa : Nat) : Nat := bits pa 22 7

/-- The route of a part of an access, a message or another unit's request, by its number: none where it takes no link. -/
def routeOf (s : State) (x : Nat × Nat) : Option Route :=
  match tabGet s.accs x.1, tabGet s.msgs x.1, tabGet s.fars x.1 with
  | some a, _, _ => (tabGet a.parts x.2).bind (fun p => (destOf s p.home).map (fun d => ⟨d, lineKey p.pa, ctxVf a.ctx⟩))
  | none, some (.link d _ _ c id ..), _ => some ⟨d, fld id 15 0, ctxVf c⟩
  | none, some (.freeCount c id), _ => if idPkg id = s.pkg.id then none else some ⟨idPkg id, fld id 15 0, ctxVf c⟩
  | none, none, some r => (destOf s (homeOf s.pkg.id r.pa)).map (fun d => ⟨d, lineKey r.pa, ctxVf r.ctx⟩)
  | _, _, _ => none

/-- Two requests to one package under one key. -/
def sameRoute (s : State) (x y : Nat × Nat) : Bool := (routeOf s x).any (fun r => (routeOf s y).any (fun q => q.pkg == r.pkg && q.key == r.key))

/-- An earlier access of the thread waits for its page: this one is held at its core and asks for no route yet (R172). -/
def partWaitsPage (s : State) (id : Nat) (a : Acc) (p : Part) : Bool :=
  s.accs.any (fun b => decide (b.1 < id) && b.2.gser == a.gser && b.2.kind != .waita &&
    b.2.parts.any (fun q => !q.2.done && awaitsPage q.2.hold && accThread s a q.2.lane == accThread s a p.lane &&
      (partsOverlap p q.2 || (p.replayed && q.2.replayed))))

/-- An access that was replayed or issued again goes after what its thread replayed before it, elsewhere too (R174). -/
def partBehind (s : State) (id : Nat) (a : Acc) (p : Part) : Bool :=
  p.replayed && s.accs.any (fun b => decide (b.1 < id) && b.2.gser == a.gser && b.2.kind != .waita &&
    b.2.parts.any (fun q => !q.2.done && q.2.replayed && accThread s a q.2.lane == accThread s a p.lane && q.2.pa / 128 != p.pa / 128))

/-- A message goes on: a push while its context is on its cores (R186, R280), a free-count always. -/
def msgMoves (s : State) : Msg → Bool
  | .link _ _ _ c .. => ctxOnCores s c
  | _ => true

/-- Requests that wait to be sent, in the order of their issue, each with whether it may go: parts of accesses, LINK pushes,
free-counts for other packages, and the requests of the other units. -/
def unsent (s : State) : List ((Nat × Nat) × Bool) :=
  let ps := (s.accs.map (fun a =>
    if ctxOnCores s a.2.ctx && a.2.kind != .waita then
      (a.2.parts.filter (fun p => linkPart s p.2 && partPending p.2 && !partWaitsPage s a.1 a.2 p.2)).map
        (fun p => ((a.1, p.1), !partBehind s a.1 a.2 p.2))
    else [])).flatten
  let ms := (s.msgs.filter (fun m => (routeOf s (m.1, 0)).isSome && msgMoves s m.2)).map (fun m => ((m.1, 0), true))
  let fs := (s.fars.filter (fun r => r.2.res.isNone && r.2.refused.isNone)).map (fun r => ((r.1, 0), true))
  (sortOn (·.1.1) (ps ++ ms ++ fs)).filter (fun x => !sentOn s x.1)

/-- Sends a request on the link that its key takes, unless the key is still outstanding on another (R277). -/
def sendOne (s : State) (x : Nat × Nat) : Option State :=
  (routeOf s x).bind (fun r =>
    let u := usableTo s r.pkg
    (u[r.key % u.length]?).bind (fun l =>
      if s.links.any (fun y => y.1 != l && y.2.sent.any (fun z => sameRoute s z x)) then none
      else some (prfAdd (updLink s l (fun y => { y with sent := y.sent ++ [x] })) r.vf 3 (l / 3) (l % 3) 0 1)))

/-- Sends requests in their order; one that cannot go holds back those behind it under its key (R277, R279). -/
def sendAll : List ((Nat × Nat) × Bool) → List (Nat × Nat) → State → State
  | [], _, s => s
  | (x, ok) :: xs, stuck, s =>
    if !ok || stuck.any (sameRoute s x) then sendAll xs (x :: stuck) s
    else
      match sendOne s x with
      | some t => sendAll xs stuck t
      | none => sendAll xs (x :: stuck) s

/-- The request is still to be answered. -/
def reqLives (s : State) (x : Nat × Nat) : Bool := (tabGet s.accs x.1).isSome || (tabGet s.msgs x.1).isSome || (tabGet s.fars x.1).any (fun r => r.res.isNone && r.refused.isNone)

/-- Requests that have ended leave their links; a draining link with none left is DOWN (R276). -/
def pruneSent (s : State) : State :=
  { s with links := tabMap s.links (fun _ l =>
      let q := l.sent.filter (reqLives s)
      { l with sent := q, state := if l.state = .draining ∧ q.isEmpty then .down else l.state }) }

/-- Sends what can be sent. -/
def sendRemote (s : State) : State := let s1 := pruneSent s; sendAll (unsent s1) [] s1

/-- Groups with a path that waits on a push. -/
def pushWaiters (s : State) : List (Nat × W64) :=
  (s.groups.map (fun g => ((allPaths g.2).filterMap (fun p => match p.kind with | .waiting _ (.push id _) => some (g.2.ctx, id) | _ => none)))).flatten

/-- The package to which a LINK instance pushes. -/
def linkPkg (c : Cap) : Option Nat := if capKind c = 4 then some (fld c.entry 55 46) else none

/-- Waiting LINK pushes whose route has a usable link again, as it had not in `was`, are made runnable (R259). -/
def wakeLinkPushes (was s : State) : State :=
  (pushWaiters s).foldl (fun t w =>
    match (instGet t w.1 w.2).bind linkPkg with
    | some d => if (usableTo was d).isEmpty && !(usableTo t d).isEmpty then wakePush t w.1 w.2 else t
    | none => t) s

/-- Groups whose LINK push has lost its last usable link wait with it (R259, R280). -/
def parkRoutes (was s : State) : State :=
  s.groups.foldl (fun t x =>
    match routeWanted s x.2, routeWanted was x.2 with
    | some d, none => parkRoute t x.1 x.2 d
    | _, _ => t) s

/-- Groups that waited with such a push go on when its package has a usable link again. -/
def wakeRoutes (s : State) : State :=
  s.groups.foldl (fun t x => wakePath t x.1 (fun w => match w with | .route d => !(usableTo s d).isEmpty | _ => false) false) s

/-- Routes changed from those of `was`: when U to a package became empty is noted, and what can go is sent (R277, R280). -/
def routesMoved (was s : State) : State :=
  let s1 := if !(usableLinks was).isEmpty && (usableLinks s).isEmpty then { s with pkg := { s.pkg with linkless := s.gts } } else s
  let s2 := { s1 with peers := tabMap s1.peers (fun p x => if !(usableTo was p).isEmpty && (usableTo s1 p).isEmpty then { x with since := s.gts } else x) }
  wakeLinkPushes was (wakeRoutes (parkRoutes was (sendRemote s2)))

/-- A link moves to a state; one that goes DOWN or FENCED gives its requests up to be sent again (R276, R277). -/
def moveLink (s : State) (l : Nat) (f : Link → Link) : State :=
  routesMoved s (updLink s l (fun x =>
    let y := f x
    if y.state = .down ∨ y.state = .fenced ∨ (y.state = .draining ∧ y.sent.isEmpty) then
      { y with sent := [], state := if y.state = .draining then .down else y.state }
    else y))

/-- The links that are ACTIVE or DEGRADED at another package change: requests to it that were caught on another link are sent
again (R277; assumption log, row 59). -/
def peerChange (s : State) (pkg : Nat) (up : List Nat) : State :=
  let s1 := { s with
    links := tabMap s.links (fun l x => if up.contains l then x else { x with sent := x.sent.filter (fun q => !(routeOf s q).any (fun r => r.pkg == pkg)) }),
    peers := tabPut s.peers pkg ⟨up, emptySince s pkg⟩ }
  routesMoved s s1

/-- The link carries traffic. -/
def working (x : Link) : Bool := x.state == .active || x.state == .degraded

/-- LINK_TRAIN (R276). -/
def execLinkTrain (link : Nat) (s : State) : Host.Outcome State Fault Refusal :=
  event s (
    let x := getLink s link
    if link < 24 ∧ (x.state = .down ∨ x.state = .fenced) then moveLink s link (fun x => { x with state := .training, since := s.gts }) else s)

/-- LINK_DRAIN (R276): no new route uses the link, which is DOWN once every request on it is acknowledged. -/
def execLinkDrain (link : Nat) (s : State) : Host.Outcome State Fault Refusal :=
  event s (if link < 24 ∧ working (getLink s link) then moveLink s link (fun x => { x with state := .draining }) else s)

/-- LINK_DISABLE (R276). -/
def execLinkDisable (link : Nat) (s : State) : Host.Outcome State Fault Refusal :=
  event s (if link < 24 ∧ working (getLink s link) then moveLink s link (fun x => { x with state := .down }) else s)

/-- ERRCNT_CLEAR (R275). -/
def execErrcntClear (link : Nat) (s : State) : Host.Outcome State Fault Refusal :=
  event s (if link < 24 then updLink s link (fun x => { x with errcnt := 0 }) else s)

/-- LINK_TRAINED (R273, R276): port p of every plane attaches to the package whose id is p, so a link trains only with the port
that has this package's id, which PEER shows. -/
def execLinkTrained (link lanes peer : Nat) (s : State) : Host.Outcome State Fault Refusal :=
  event s (
    if link ≥ 24 || (getLink s link).state ≠ .training || 8 < lanes || peer ≠ s.pkg.id then s
    else if lanes < 4 then moveLink s link (fun x => { x with state := .down })
    else moveLink s link (fun x => { x with state := if lanes = 8 then .active else .degraded, peer := peer % 1024, lanes := lanes }))

/-- TRAINING_TIMEOUT (R276): no peer within 10 ms. -/
def execTrainingTimeout (link : Nat) (s : State) : Host.Outcome State Fault Refusal :=
  event s (
    let x := getLink s link
    if link < 24 ∧ x.state = .training ∧ x.since + 10000000 ≤ s.gts then moveLink s link (fun x => { x with state := .down }) else s)

/-- LANE_LOST (R276): a working link keeps `left` lanes. -/
def execLaneLost (link left : Nat) (s : State) : Host.Outcome State Fault Refusal :=
  event s (
    let x := getLink s link
    if link ≥ 24 || !working x || x.lanes ≤ left then s
    else moveLink s link (fun x => { x with lanes := left, state := if left < 4 then .down else .degraded }))

/-- PEER_LOST (R23, R276): the peer froze or reset. -/
def execPeerLost (link : Nat) (s : State) : Host.Outcome State Fault Refusal :=
  event s (if link < 24 ∧ working (getLink s link) then moveLink s link (fun x => { x with state := .down }) else s)

/-- A request leaves the link that holds it. -/
def unsend (s : State) (x : Nat × Nat) : State :=
  let ls := tabKeys s.links (fun _ l => l.sent.contains x)
  ls.foldl (fun t l => moveLink t l (fun y => { y with sent := y.sent.filter (· != x) })) s

/-- The request is outstanding on a link, and the first of its route: homes answer one key's requests in order (R277, R279). -/
def firstSent (s : State) (link : Nat) (x : Nat × Nat) : Bool := (getLink s link).sent.find? (fun y => sameRoute s y x) == some x

/-- A far home has performed a part. -/
def farDone (s : State) (acc part : Nat) : State := unsend (partsDone s acc [part]) (acc, part)

/-- A message leaves the package's hands: a LINK push's slot goes down with its last entry (R259). -/
def msgGone (s : State) (n : Nat) : State :=
  match tabGet s.msgs n with
  | some (.link _ _ _ ctx _ _ _ ser pc slot _) => pushDoneAt (unsend { s with msgs := tabDel s.msgs n } (n, 0)) ctx ser pc slot
  | some (.freeCount ..) => unsend { s with msgs := tabDel s.msgs n } (n, 0)
  | _ => s

/-- A LINK push is refused or cannot leave: a fault of its group (R259, R280). -/
def linkPushFault (s : State) (n cause : Nat) : State :=
  match tabGet s.msgs n with
  | some (.link _ _ _ ctx _ _ k ser pc slot _) => pushFault (unsend { s with msgs := tabDel s.msgs n } (n, 0)) ctx k ser pc slot cause
  | _ => s

/-- The answer to another unit's request; nothing waits for the device's own writes. -/
def farAnswered (s : State) (n : Nat) (r : FarReq) (data : BitVec 1024) : State :=
  unsend (if r.owner = devOwner then { s with fars := tabDel s.fars n } else { s with fars := tabPut s.fars n { r with res := some data } }) (n, 0)

/-- Another unit's request is refused by its home, or has no route: its owner raises the fault. -/
def farRefused (s : State) (n : Nat) (r : FarReq) (cause : Nat) : State :=
  if r.owner = devOwner then unsend (noteRaise { s with fars := tabDel s.fars n } cause r.key r.ctx r.pa) (n, 0)
  else unsend { s with fars := tabPut s.fars n { r with refused := some cause } } (n, 0)

/-- FLIT_ACK (R274, R277): a request sent on the link is acknowledged: a store or reduction by its home, or a message. -/
def execFlitAck (link acc part : Nat) (s : State) : Host.Outcome State Fault Refusal :=
  event s (
    let s1 := sendRemote s
    if !firstSent s1 link (acc, part) then s1
    else
      match tabGet s1.accs acc, tabGet s1.fars acc with
      | some a, _ => if accStores a then sendRemote (farDone s1 acc part) else s1
      | none, some r => if r.data.isSome then sendRemote (farAnswered s1 acc r 0) else s1
      | none, none => sendRemote (msgGone s1 acc))

/-- The answer of a far home to a part: a load's bytes out of the line, which fills the L1 where it missed there (R96), or an
atomic's old value. -/
def partAnswered (s : State) (acc part : Nat) (a : Acc) (p : Part) (data : BitVec 1024) : State :=
  let v := if isAtom a.kind then data.toNat % 2 ^ (8 * p.size) else data.toNat / 2 ^ (8 * (p.pa % 128)) % 2 ^ (8 * p.size)
  let res := BitVec.ofNat 128 (if isLoad a.kind then overlayBytes p.size (p.data2.toNat / 4) p.data.toNat v else v)
  let s1 := setPart s acc part { p with res := res }
  let s2 := if p.l1 && isLoad a.kind then l1Fill s1 a.core (ctxVf a.ctx) (p.pa / 128) data else s1
  farDone s2 acc part

/-- Operation codes of far atomics. -/
def aopOf (n : Nat) : AOp :=
  match n with
  | 0 => .add | 1 => .min | 2 => .max | 3 => .and | 4 => .or | 5 => .xor | 6 => .xch | 7 => .cas | _ => .fadd

/-- A far access names memory of this package that others may reach: its wells, its exported rows, and for the bridge the host
(R92, R278, R281). -/
def farOk (s : State) (pa n : Nat) : Bool :=
  pa % 128 + n ≤ 128 &&
  (match placeOf s.pkg.id pa with
   | .well .. => true
   | .cistern core row => s.ctxs.any (fun c => exportedRow s c.2 core row)
   | .host => s.pkg.bridge
   | _ => false)

/-- The key under which a far access is performed: the VF's here, or the window's (R103, R278). -/
def farKey (vf : Nat) (win : Option Nat) : KeyId := win.elim (.vf vf) .win

/-- A fault of a far access at its home here: a line that fails its check halts the contexts that hold its key (R108,
R278). -/
def farFault (s : State) (key : KeyId) (pa cause : Nat) : State := if cause = fcIntegrity then haltKey s key (pumpUnit pa) 0 0 else s

/-- Performs a request of another package: the state, and whether it has to wait at its home (R109, R112, R248, R278). Its address
in host memory is one address for the four windows (R281), and no agent of another package reads or writes a VER page (R144). -/
def serveFlit (s : State) (link : Nat) (flit : Flit) : State × Bool :=
  let got := fun (t : State) (vf : Nat) => prfAdd t vf 3 (link / 3) (link % 3) 1 1
  let serve := fun (key : KeyId) (vf pa n : Nat) (f : PumpRes) (done : State → Nat → State × Bool) =>
    if !farOk s pa n || verFrame s pa then (got s vf, false)
    else
      match f with
      | .done t d => done t d
      | .stall t _ => (t, true)
      | .fault c => (got (farFault s key pa c) vf, false)
  match flit with
  | .push core queue ctx sender entry =>
    match tabGet s.ctxs ctx with
    | none => (got s (ctxVf ctx), false)
    | some _ =>
      if core ≥ 512 || 32 ≤ queue then (got s (ctxVf ctx), false)
      else if !ctxOnCores s ctx then (s, true)
      else
        match appendTo s core (partOf s ctx * 32 + queue) ctx sender entry false with
        | .ok t | .reject t => (got t (ctxVf ctx), false)
  | .read vf win pa size =>
    serve (farKey vf win) vf pa size (pumpRead s (farKey vf win) false none (hostPa pa) size) (fun t _ => (got (countRead t vf pa false) vf, false))
  | .write vf win cmp pa bytes =>
    serve (farKey vf win) vf pa bytes.length (pumpWrite s (farKey vf win) false cmp (hostPa pa) bytes none none)
      (fun t _ => (got (countWrite s t vf pa cmp false (bytes.length != 128)) vf, false))
  | .atomic vf win cmp pa ty op value compare =>
    let n := atomSize ty
    let key := farKey vf win
    serve key vf pa n (pumpRead s key false none (hostPa pa) n) (fun t old =>
      serve key vf pa n (pumpWrite t key false cmp (hostPa pa) (leBytes (aopApply ty (aopOf op.toNat) n old value.toNat compare.toNat) n) none none)
        (fun u _ => (got (countWrite t (pumpCount u vf pa 0 1) vf pa cmp false true) vf, false)))
  | _ => (s, false)

/-- The order in which requests that arrived wait for each other: by line key, or by channel (R277, R279). -/
def flitKey : Flit → Option (Bool × Nat)
  | .push _ _ _ id _ => some (true, fld id 15 0)
  | .read _ _ pa _ | .write _ _ _ pa _ | .atomic _ _ _ pa .. => some (false, lineKey pa)
  | _ => none

/-- Serves the requests that arrived, in their order; one that waits holds back those of its key (R274, R279). -/
def serveAll : List (Nat × Nat × Flit) → List (Bool × Nat) → State → State
  | [], _, s => s
  | (n, l, f) :: xs, stuck, s =>
    if (flitKey f).any stuck.contains then serveAll xs stuck s
    else
      match serveFlit s l f with
      | (t, false) => serveAll xs stuck { t with inbox := tabDel t.inbox n }
      | (t, true) => serveAll xs ((flitKey f).toList ++ stuck) t

/-- What waits at its home here is tried again. -/
def serveInbox (s : State) : State := serveAll s.inbox [] s

/-- FLIT_RECEIVED (R274, R278): a flit arrives on a link and its request is delivered. -/
def execFlitReceived (link : Nat) (flit : Flit) (s : State) : Host.Outcome State Fault Refusal :=
  event s (
    let x := getLink s link
    if link ≥ 24 || !(working x || x.state == .draining) then s
    else
      let s1 := sendRemote s
      let got := fun (t : State) (vf : Nat) => prfAdd t vf 3 (link / 3) (link % 3) 1 1
      match flit with
      | .answer acc part data =>
        if !firstSent s1 link (acc, part) then s1
        else
          match tabGet s1.accs acc, tabGet s1.fars acc with
          | some a, _ =>
            match tabGet a.parts part with
            | some p => if accStores a then s1 else sendRemote (got (partAnswered s1 acc part a p data) (ctxVf a.ctx))
            | none => s1
          | none, some r =>
            if r.data.isSome then s1
            else sendRemote (got (farAnswered s1 acc r (BitVec.ofNat 1024 (data.toNat / 2 ^ (8 * (r.pa % 128))))) (ctxVf r.ctx))
          | none, none => s1
      | .refused acc cause =>
        match tabGet s1.accs acc, tabGet s1.fars acc with
        | some a, _ =>
          match a.parts.find? (fun p => firstSent s1 link (acc, p.1)) with
          | some (_, p) =>
            let s2 := (a.parts.map (fun q => (acc, q.1))).foldl unsend s1
            sendRemote (got (failAcc s2 acc p.key p.pa cause p.va) (ctxVf a.ctx))
          | none => s1
        | none, some r => if firstSent s1 link (acc, 0) then sendRemote (got (farRefused s1 acc r cause) (ctxVf r.ctx)) else s1
        | none, none => if firstSent s1 link (acc, 0) then sendRemote (linkPushFault s1 acc fcQueueError) else s1
      | .free ctx sender => if idPkg sender = s.pkg.id then got (freeArrives s1 ctx sender) (ctxVf ctx) else s1
      | _ => serveInbox { s1 with inbox := tabPut s1.inbox s1.serial (link, flit), serial := s1.serial + 1 })

/-- FLIT_CRC_FAIL (R274, R276): a flit is sent again and counted; replays that reach THRESH in a 1 ms window fence the
link. -/
def execFlitCrcFail (link : Nat) (vfs : List Nat) (s : State) : Host.Outcome State Fault Refusal :=
  event s (
    let x := getLink s link
    if link ≥ 24 || !(working x || x.state == .draining) then s
    else
      let at0 := s.gts / 1000000
      let n := if x.windowAt = at0 then x.window + 1 else 1
      let s1 := vfs.foldl (fun t v => prfAdd t v 3 (link / 3) (link % 3) 2 1) s
      moveLink s1 link (fun x => { x with
        errcnt := sat32 (x.errcnt + 1), window := n, windowAt := at0,
        state := if working x && decide (max 1 x.thresh ≤ n) then .fenced else x.state }))

/-- U to a package has been empty for 10 ms of GTS (R280). -/
def routeDead (s : State) (pkg : Nat) : Bool := (usableTo s pkg).isEmpty && decide (emptySince s pkg + 10000000 ≤ s.gts)

/-- A request whose route has been dead for 10 ms faults at its agent: an access, a message, another unit's request, or a
group with a waiting push. -/
def routeFails (s : State) (n : Nat) : State :=
  match tabGet s.accs n, tabGet s.fars n, tabGet s.msgs n with
  | some a, _, _ =>
    match a.parts.find? (fun p => partPending p.2 && (destOf s p.2.home).any (routeDead s)) with
    | some (_, p) => failAcc s n p.key p.pa fcUncorrectable p.va
    | none => s
  | none, some r, _ => if r.res.isNone && r.refused.isNone && (destOf s (homeOf s.pkg.id r.pa)).any (routeDead s) then farRefused s n r fcUncorrectable else s
  | none, none, some m =>
    if (routeOf s (n, 0)).any (fun r => routeDead s r.pkg) then
      match m with
      | .freeCount ctx _ => haltRise s ctx fcUncorrectable noUnit 0 0 false
      | m => if msgMoves s m then linkPushFault s n fcUncorrectable else s
    else s
  | none, none, none =>
    match s.groups.find? (fun g => g.2.serial == n) with
    | some (k, g) =>
      let waits := (allPaths g).any (fun p => match p.kind with
        | .waiting _ (.push id _) => ((instGet s g.ctx id).bind linkPkg).any (routeDead s)
        | _ => false)
      if waits then raiseGroup s k fcUncorrectable 0 else s
    | none => s

/-- ROUTE_TIMEOUT (R280): no link to the request's package has been usable for 10 ms of GTS. -/
def execRouteTimeout (acc : Nat) (s : State) : Host.Outcome State Fault Refusal := event s (routeFails s acc)

/-- The package's PCIe functions answer (R26, R283): its clocks run, and its bridge has opened the port since it was reset; another
package than the bridge reaches it over its links. -/
def functionsUp (s : State) : Bool := !s.pkg.frozen && if s.pkg.bridge then s.pkg.pcie else !(usableTo s s.pkg.bridgeId).isEmpty

/-- FUNCTION_LEVEL_RESET (R283): function 1 + 384 × (id mod 8) + v is VF v of this package; TEARDOWN of each of its contexts. -/
def execFunctionLevelReset (fn : Nat) (s : State) : Host.Outcome State Fault Refusal :=
  event s (
    let base := 1 + 384 * (s.pkg.id % 8)
    if !functionsUp s || fn < base || base + 384 ≤ fn then s else (List.range 16).foldl (fun t i => teardown t ((fn - base) * 16 + i)) s)

end Sys2Proof.Machine
end

