-- ==== Sys2Proof/Machine/DebugEv.lean ====
section
/-! DEFINITION. Debug commands, profiling, and writes of registers without behaviour of their own (20_debug R408 to R421;
00_scope R6, R7). -/

namespace Sys2Proof.Machine

open Sys2Proof

/-- Results of a debug command (R409). -/
abbrev dbOk : Nat := 0
abbrev dbBusy : Nat := 1
abbrev dbNotStopped : Nat := 2
abbrev dbNoGroup : Nat := 3
abbrev dbBadReg : Nat := 4

/-- The group slot that DBGSEL names. -/
def selKey (die : Nat) (sel : W64) : Nat := ((die * 64 + fld sel 38 33) * 4 + fld sel 40 39) * 24 + fld sel 45 41

/-- The group that DBGSEL selects, and which half of it (R409); slots 24 to 31 name none. -/
def selGroup (s : State) (die : Nat) : Option (Nat × Grp × Nat) :=
  let sel := (getDie s die).dbgsel
  let k := selKey die sel
  if 24 ≤ fld sel 45 41 then none
  else
    match tabGet s.groups k with
    | some g => some (k, g, 0)
    | none =>
      if k % 24 = 0 then none
      else ((tabGet s.groups (k - 1)).filter (·.paired)).map (fun g => (k - 1, g, 1))

/-- A command ends with a status. -/
def dbEnd (s : State) (die st : Nat) : State := updDie s die (fun d => { d with dbgstatus := st, dbgrun := false, dbgdrain := none })

/-- A command on the selected group: ignored while another runs, NOGROUP during a freeze, on a FREE slot, or where the
context is not RUNNING (R409, R421). -/
def onSel (s : State) (die : Nat) (f : Nat → Grp → Nat → State) : State :=
  if die ≥ 8 || (getDie s die).dbgrun then s
  else if s.pkg.frozen then dbEnd s die dbNoGroup
  else
    match selGroup s die with
    | none => dbEnd s die dbNoGroup
    | some (k, g, h) => if grpRuns s g then f k g h else dbEnd s die dbNoGroup

/-- The same, for a command that requires a group that a debugger stopped (R410). -/
def onStopped (s : State) (die : Nat) (f : Nat → Grp → Nat → State) : State :=
  onSel s die (fun k g h => if g.state = .stopped ∧ g.dbgStop then f k g h else dbEnd s die dbNotStopped)

/-- DBG_STOP (R410): a precise stop is asked for; a group that is stopped already stays so. -/
def execDbgStop (die : Nat) (s : State) : Host.Outcome State Fault Refusal :=
  .next (onSel s die (fun k g _ =>
    if g.state = .retired then dbEnd s die dbNotStopped
    else if g.state = .stopped then dbEnd (setGroup s k { g with dbgStop := true }) die dbOk
    else updDie (setGroup s k { g with dbgReq := true }) die (fun d => { d with dbgrun := true })))

/-- The STOP command of a die has ended. -/
def stopEnds (s : State) (die : Nat) (st : Nat) : State := if (getDie s die).dbgrun then dbEnd s die st else s

/-- DEBUG_STOP_REACHED (R408, R410, R413, R220): the group is between two instructions, and STOPPED. A group that has
ended meanwhile ends the command. -/
def execDebugStopReached (grp : Nat) (s : State) : Host.Outcome State Fault Refusal :=
  event s (
    let die := dieOf grp
    match tabGet s.groups grp with
    | none => if (getDie s die).dbgdrain.isNone then stopEnds s die dbNoGroup else s
    | some g =>
      if !g.dbgReq then s
      else if g.state = .retired then stopEnds (setGroup s grp { g with dbgReq := false }) die dbNotStopped
      else
        let s1 := setGroup s grp { g with state := .stopped, dbgStop := true, dbgReq := false, step := false }
        stopEnds (prfRecord s1 grp 2 0) die dbOk)

/-- DBG_RESUME (R220, R410). -/
def execDbgResume (die : Nat) (s : State) : Host.Outcome State Fault Refusal :=
  .next (onStopped s die (fun k g _ =>
    dbEnd (setGroup s k { g with state := .ready, dbgStop := false, step := false, readyAt := s.cycle }) die dbOk))

/-- DBG_STEP (R410): the group may issue one instruction of its running path. -/
def execDbgStep (die : Nat) (s : State) : Host.Outcome State Fault Refusal :=
  .next (onStopped s die (fun k g _ =>
    let s1 := if g.running then s else selectPath s s k g
    dbEnd (updGroup s1 k (fun g => { g with step := true })) die dbOk))

/-- DBG_BKEN and DBG_BKDIS (R410). -/
def execDbgBken (die : Nat) (s : State) : Host.Outcome State Fault Refusal :=
  .next (onSel s die (fun k g _ => dbEnd (setGroup s k { g with bken := true }) die dbOk))
def execDbgBkdis (die : Nat) (s : State) : Host.Outcome State Fault Refusal :=
  .next (onSel s die (fun k g _ => dbEnd (setGroup s k { g with bken := false }) die dbOk))

/-- A register that a debugger names (R409). -/
inductive DbgReg where
  | cell (c : Cell)
  | join (j : Nat)
  | sreg (r : SReg)
  | pc
  | em
  | acc (a : Nat)
  | bad
  deriving DecidableEq, Repr

/-- The register of DBGSEL in a group: REG, and LANE within the half selected; outside a freeze an absent lane has none (R411). -/
def selReg (g : Grp) (half : Nat) (sel : W64) (frozen : Bool) : DbgReg :=
  let reg := fld sel 63 54
  let i := reg % 256
  let n := fld sel 53 48
  let lane := 48 * half + n
  let gone := 48 ≤ n || (!frozen && g.absent.getLsbD lane)
  match reg / 256 with
  | 0 => if gone || g.budget ≤ i then .bad else .cell (.v i lane)
  | 1 => if 64 ≤ i then .bad else .cell (.s i)
  | 2 => if gone || 8 ≤ i then .bad else .cell (.p i (threadOf g lane))
  | _ =>
    if i < 4 then .acc i
    else if 0x10 ≤ i ∧ i < 0x18 then .join (i - 0x10)
    else if 0x80 ≤ i ∧ i < 0x8D then
      let r := (sregs[i - 0x80]?).getD .laneid
      if gone && (r = .laneid || r = .tid || r = .draw) then .bad else .sreg r
    else if i = 0xF0 then .pc
    else if i = 0xF1 then .em
    else .bad

/-- The value of a register as DBGDATA shows it (R411). -/
def dbgValue (s : State) (k : Nat) (g : Grp) (half : Nat) (sel : W64) : DbgReg → W64
  | .cell (.v i l) => BitVec.ofNat 64 (regV g i l).toNat
  | .cell (.s i) => regS g i
  | .cell (.p i t) => if i ≠ 7 && regP g i t then 1 else 0
  | .cell (.sh i) => regS g i
  | .join j => BitVec.ofNat 64 (joinState (joinOf g j))
  | .sreg r => BitVec.ofNat 64 (sregLane g r (48 * half + fld sel 53 48))
  | .pc => BitVec.ofNat 64 (shownPath g).1
  | .em => BitVec.ofNat 64 ((shownPath g).2.toNat / 2 ^ (48 * half) % 2 ^ 48)
  | .acc a =>
    let c := (tabGet s.ctxs g.ctx).elim CoreCtx.reset (fun c => getCoreCtx c (coreOf k))
    BitVec.ofNat 64 (tabGetD c.tiles ((a * 3 + fld sel 23 22) * 4096 + fld sel 21 10) 0).toNat
  | .bad => 0

/-- DBG_READ (R409, R411, R421): in a freeze it reads any resident group's registers and the accumulator planes. -/
def execDbgRead (die : Nat) (s : State) : Host.Outcome State Fault Refusal :=
  let sel := (getDie s die).dbgsel
  let give := fun (k : Nat) (g : Grp) (h : Nat) (r : DbgReg) =>
    dbEnd (updDie s die (fun d => { d with dbgdata := dbgValue s k g h sel r })) die dbOk
  .next (
    if die ≥ 8 || (getDie s die).dbgrun then s
    else if s.pkg.frozen then
      match selGroup s die with
      | none => dbEnd s die dbNoGroup
      | some (k, g, h) =>
        match selReg g h sel true with
        | .bad => dbEnd s die dbBadReg
        | .acc a => if 2 < fld sel 23 22 then dbEnd s die dbBadReg else give k g h (.acc a)
        | r => give k g h r
    else onStopped s die (fun k g h =>
      match selReg g h sel false with
      | .bad | .acc _ => dbEnd s die dbBadReg
      | r => give k g h r))

/-- A pending write of a cell by a waiting BWAITP is cancelled. -/
def cancelWait (c : Cell) (p : Path) : Path × Option Nat :=
  match c, p.kind with
  | .p i t, .waiting r (.barrier b tok q th slot) =>
    if i = q ∧ th.getLsbD t then
      let th1 := th &&& ~~~(BitVec.ofNat 96 (2 ^ t))
      if th1 = 0 then ({ p with kind := .waiting r (.barrier b tok q th1 none) }, slot)
      else ({ p with kind := .waiting r (.barrier b tok q th1 slot) }, none)
    else (p, none)
  | _, _ => (p, none)

/-- A pending variable-latency write of a cell is cancelled; a slot goes down where nothing of its instruction is left
to land (R411). -/
def cancelCell (s : State) (k : Nat) (c : Cell) : State :=
  match tabGet s.groups k with
  | none => s
  | some g =>
    let has := fun (v : VRes) => v.writes.any (·.cell == c)
    let vs := g.vres.map (fun v => if has v then { v with writes := v.writes.filter (·.cell != c) } else v)
    let freed := (vs.filter (fun v => v.writes.isEmpty && g.vres.any (fun u => u.id == v.id && has u))).map (·.slot)
    let ps := g.paths.map (cancelWait c)
    let qs := g.spilled.map (cancelWait c)
    let tx := match c, g.tx.pdst with
      | .p i t, some q => if i = q then { g.tx with threads := g.tx.threads &&& ~~~(BitVec.ofNat 96 (2 ^ t)) } else g.tx
      | _, _ => g.tx
    let txDone := g.tx.pdst.isSome && tx.threads == 0 && g.tx.threads != 0
    let g1 := { g with
      vres := vs.map (fun v => if v.writes.isEmpty && g.vres.any (fun u => u.id == v.id && has u) then { v with slot := none } else v),
      paths := ps.map (·.1), spilled := qs.map (·.1), tx := if txDone then { tx with slot := none } else tx }
    let g2 := (freed ++ ps.map (·.2) ++ qs.map (·.2) ++ (if txDone then [g.tx.slot] else [])).foldl slotFree g1
    let s1 := setGroup s k g2
    let s2 := (grpAccs s1 g2).foldl (fun t a =>
      if accReturns a.2 && (accCells g a.2).contains c && !a.2.cancel.contains c then
        let b := { a.2 with cancel := c :: a.2.cancel }
        if (accCells g b).all b.cancel.contains then
          updGroup { t with accs := tabPut t.accs a.1 { b with slot := none } } k (fun g => slotFree g a.2.slot)
        else { t with accs := tabPut t.accs a.1 b }
      else t) s1
    (s2.ops.filter (fun o => o.2.gser == g.serial && (opCells g o.2).contains c)).foldl (fun t o =>
      let b := { o.2 with cancel := c :: o.2.cancel }
      if (opCells g b).isEmpty then updGroup { t with ops := tabPut t.ops o.1 { b with slot := none } } k (fun g => slotFree g o.2.slot)
      else { t with ops := tabPut t.ops o.1 b }) s2

/-- Two cells of one register. -/
def sameReg : Cell → Cell → Bool
  | .v i _, .v j _ | .p i _, .p j _ | .s i, .s j | .s i, .sh j | .sh i, .s j | .sh i, .sh j => i == j
  | _, _ => false

/-- The pending writes of a whole register are cancelled (R411). -/
def cancelReg (s : State) (k : Nat) (g : Grp) (c : Cell) : State :=
  (((outCells s g).filter (sameReg c)).eraseDups).foldl (fun t x => cancelCell t k x) s

/-- The value that a debugger writes to a cell stands against earlier results still to land (R231, R411). -/
def forceCell (g : Grp) (w : RegW) : Grp :=
  landCells g [w]

/-- A half of EM replaced. -/
def emHalf (m : Mask) (half x : Nat) : Mask :=
  BitVec.ofNat 96 (m.toNat - m.toNat / 2 ^ (48 * half) % 2 ^ 48 * 2 ^ (48 * half) + x % 2 ^ 48 * 2 ^ (48 * half))

/-- A special register that a debugger may write: those that WRSR writes, and sr.px (R235, R289, R411). -/
def sregRw (r : SReg) : Bool :=
  match r with
  | .draw | .numctl | .numflag | .rasbase | .schk | .px => true
  | _ => false

/-- A special register written by a debugger, sr.draw for one thread. -/
def sregPut (g : Grp) (r : SReg) (lane x : Nat) : Grp :=
  match r with
  | .draw => if g.triplex then { g with draws := tabPut g.draws (threadOf g lane) (x % 2 ^ 30) } else g
  | .px => { g with px := x % 2 ^ 32 }
  | _ => sregWrite g r x

/-- DBG_WRITE (R411). -/
def execDbgWrite (die : Nat) (force : Bool) (s : State) : Host.Outcome State Fault Refusal :=
  let d := getDie s die
  let x := d.dbgdata.toNat
  .next (onStopped s die (fun k g h =>
    let ok := fun (t : State) => dbEnd t die dbOk
    match selReg g h d.dbgsel false with
    | .bad | .acc _ | .join _ => dbEnd s die dbBadReg
    | .sreg r => if sregRw r then ok (setGroup s k (sregPut g r (48 * h + fld d.dbgsel 53 48) x)) else dbEnd s die dbBadReg
    | .pc =>
      if !g.running || !inText s g.ctx (x % 2 ^ 40 : Nat) then dbEnd s die dbBadReg
      else ok (setGroup s k { g with pc := x % 2 ^ 40, fall := false })
    | .em =>
      let m := emHalf g.em h x
      if !g.running || !emWriteOk g m || !siblingsAgree g m then dbEnd s die dbBadReg
      else if m = 0 then ok (let s1 := setGroup s k { g with em := 0, running := false }; selectPath s1 s1 k g)
      else ok (setGroup s k { g with em := m })
    | .cell c =>
      let w : RegW := ⟨c, match c with | .p .. => BitVec.ofNat 64 (x % 2) | .v .. => BitVec.ofNat 64 (x % 2 ^ 32) | _ => d.dbgdata⟩
      if (match c with | .p 7 _ => true | _ => false) then ok s
      else if (outCells s g).any (sameReg c) then
        if force then ok (endFaultWait (updGroup (cancelReg s k g c) k (fun g => forceCell g w)) k) else dbEnd s die dbBusy
      else ok (setGroup s k (forceCell g w))))

/-- DBG_DRAIN (R411): the command runs while writes that nothing holds are outstanding, and ends BUSY where held writes
remain; a later step of the command tests again. -/
def execDbgDrain (die : Nat) (s : State) : Host.Outcome State Fault Refusal :=
  let test := fun (k : Nat) (g : Grp) =>
    let held := heldCells s g
    let out := (outCells s g).filter (fun c => !held.contains c)
    if !out.isEmpty then updDie s die (fun d => { d with dbgrun := true, dbgdrain := some k })
    else dbEnd s die (if held.isEmpty then dbOk else dbBusy)
  .next (
    if s.pkg.frozen then onSel s die (fun _ _ _ => s)
    else
      match (getDie s die).dbgdrain with
      | some k =>
        match tabGet s.groups k with
        | some g => if g.state = .stopped ∧ grpRuns s g then test k g else dbEnd s die dbNotStopped
        | none => dbEnd s die dbNoGroup
      | none => onStopped s die (fun k g _ => test k g))

/-! Profiling. -/

/-- Issue cycles of a VF's schedulers so far: those in which its halt line is down and the clocks run (R229, R413). -/
def issueCycle (s : State) (vf : Nat) : Nat := s.cycle - (getVf s vf).halted

/-- Contexts of a VF. -/
def vfLive (s : State) (v : Nat) : Bool := s.ctxs.any (fun c => ctxVf c.1 == v)

/-- A halt line is up for a context of the VF: its schedulers are halted, and the cycle is no issue cycle (R185, R229). -/
def vfHalted (s : State) (vf : Nat) : Bool := s.parts.any (fun p => p.2.halt.any (fun h => ctxVf h.ctx == vf))

/-- PROFILE_LOCK records to every other VF that holds a context (R419). -/
def lockRecords (s : State) (vf : Nat) : State :=
  ((List.range 384).filter (fun v => v != vf && vfLive s v)).foldl (fun t v => eventPush t (v * 16 + (getVf t v).cur) 4 0 vf 0) s

/-- PRFCTL_WRITE (R412, R419): GRANT is the physical function's. -/
def execPrfctlWrite (vf : Nat) (physical : Bool) (w : BitVec 64) (s : State) : Host.Outcome State Fault Refusal :=
  event s (
    if vf ≥ 384 then s
    else
      let old := (getVf s vf).prfctl
      let grant := if physical then w.getLsbD 60 else old.getLsbD 60
      let lock := w.getLsbD 63 && w.getLsbD 62 && grant
      let keep := old &&& 0xFFFFFFFFFF#64
      let base := (w &&& 0xCF00000000000000#64) ||| (if grant then 0x1000000000000000#64 else 0) ||| (if lock then 0x2000000000000000#64 else 0)
      let s1 := updVf s vf (fun v =>
        if w.getLsbD 63 then
          { v with
            prfctl := base ||| (keep &&& 0xFF00000000#64), prfcnt := [], lcr := [],
            prfStart := if old.getLsbD 63 then v.prfStart else issueCycle s vf, sampled := if old.getLsbD 63 then v.sampled else [] }
        else { v with prfctl := base ||| keep })
      if lock && !old.getLsbD 61 then lockRecords s1 vf else s1)

/-- The group of a VF that a scheduler's sample names: its oldest ACTIVE group, else its oldest resident group (R413). -/
def sampleGroup (s : State) (vf sched : Nat) : Option (Nat × Grp) :=
  let mine := s.groups.filter (fun kg => schedOf kg.1 == sched && ctxVf kg.2.ctx == vf)
  match oldest olderPlaced (mine.filter (fun kg => kg.2.state == .active)) with
  | some x => some x
  | none => oldest olderPlaced mine

/-- PROFILE_SAMPLE (R413): a sampling period of a scheduler has passed. -/
def execProfileSample (vf sched : Nat) (s : State) : Host.Outcome State Fault Refusal :=
  event s (
    let v := getVf s vf
    let sper := fld v.prfctl 59 56
    if vf ≥ 384 || !v.prfctl.getLsbD 63 || sper = 0 || vfHalted s vf || issueCycle s vf < tabGetD v.sampled sched v.prfStart + 2 ^ (sper + 7) then s
    else
      match sampleGroup s vf sched with
      | none => s
      | some (k, g) =>
        let s1 := updVf s vf (fun v => { v with sampled := tabPut v.sampled sched (issueCycle s vf) })
        prfRecord s1 k 1 (if g.state = .wait then shownReason g else 0))

/-- PRFSEL_WRITE (R416): the counter is connected and cleared. -/
def execPrfselWrite (vf i : Nat) (w : BitVec 64) (s : State) : Host.Outcome State Fault Refusal :=
  event s (
    if vf ≥ 384 || 4 ≤ i then s
    else
      let x := w &&& 0x8000FFFF8000FFFF#64
      let x := if prfUnavail x then x ||| 0x4000000000000000#64 else x
      updVf s vf (fun v => { v with prfsel := tabPut v.prfsel i x, prfcnt := tabPut v.prfcnt i 0 }))

/-- LCRCTL_WRITE (R415). -/
def execLcrctlWrite (vf : Nat) (w : BitVec 64) (s : State) : Host.Outcome State Fault Refusal :=
  event s (if vf ≥ 384 then s else updVf s vf (fun v => { v with lcrctl := w &&& 0xFC0000FFFFFFFFFF#64, lcr := [] }))

/-- PRFCNT_LOW_READ (R417): the high half goes to the reader's latch. -/
def execPrfcntLowRead (vf i : Nat) (physical : Bool) (s : State) : Host.Outcome State Fault Refusal :=
  event s (
    if vf ≥ 384 || 4 ≤ i then s
    else
      let hi := cntVal s vf 0 i / 2 ^ 32
      if physical then { s with pkg := { s.pkg with pfLatch := tabPut s.pkg.pfLatch i hi } }
      else updVf s vf (fun v => { v with latch := tabPut v.latch i hi }))

/-- IDLE lanes of a VF at a PC in `n` cycles (R414, R415). -/
def idleLanes (s : State) (vf : Nat) (k : Nat) (g : Grp) (n : Nat) : State :=
  let s1 := updVf s vf (fun v => { v with lcr := binLanes v (shownPath g).1 v.lcr (4, 48 * n) })
  prfAdd s1 vf 0 (dieOf k) (coreOf k % 64) 4 (48 * n)

/-- A scheduler issues nothing in `n` issue cycles: 48 IDLE lanes in each for every VF of which it holds a group (R414). -/
def idleSched (n : Nat) (s : State) (sched : Nat) : State :=
  let vfs := ((s.groups.filter (fun kg => schedOf kg.1 == sched)).map (fun kg => ctxVf kg.2.ctx)).eraseDups
  (vfs.filter (fun v => !vfHalted s v)).foldl (fun t v =>
    match sampleGroup t v sched with
    | some (k, g) => idleLanes t v k g n
    | none => t) s

/-- Schedulers that hold a group and have not issued in this cycle. -/
def idleScheds (s : State) : List Nat := ((s.groups.map (fun kg => schedOf kg.1)).eraseDups).filter (fun x => !s.issued.contains x)

/-- IDLE_ISSUE_CYCLE (R414): the scheduler issues nothing in this cycle, which is counted now and not again as the cycle ends. -/
def execIdleIssueCycle (sched : Nat) (s : State) : Host.Outcome State Fault Refusal :=
  event s (
    if (idleScheds s).contains sched && (pickGroup s sched).isNone then { idleSched 1 s sched with issued := sched :: s.issued }
    else s)

/-! Registers without behaviour of their own. -/

/-- A write inside a VF's block (R182, R193, R198, R242, R412, R415). The registers of the rings are those of CUR's rings, since a
VF has one set of them and each context its own rings (DESIGN CHOICE, assumption log, row 71). -/
def vfWrite (s : State) (vf off : Nat) (physical : Bool) (w : W64) : State :=
  let cur := vf * 16 + (getVf s vf).cur
  match off with
  | 0x10 => if physical then updVf (accrue s vf) vf (fun v => { v with cap := fld w 15 13, rate := fld w 10 0 }) else s
  | 0x28 => updCtx s cur (fun c => { c with ev := { c.ev with tail := fld w 31 0 } })
  | 0x38 => updCtx s cur (fun c => { c with ne := { c.ne with tail := fld w 31 0 } })
  | 0x48 => updCtx s cur (fun c => { c with fl := { c.fl with tail := fld w 31 0 } })
  | 0x50 => updVf s vf (fun v => { v with capidx := w &&& 0x3FF#64 })
  | 0x80 => updVf s vf (fun v => { v with prfbase := w &&& 0xFF0FFFFFFFFFFFE0#64 })
  | 0x90 => updVf s vf (fun v => { v with prftail := fld w 31 0 })
  | 0xE0 => updVf s vf (fun v => { v with lcridx := fld w 6 0 })
  | _ => s

/-- A write of a work queue's registers (R6, R249). -/
def wqWrite (s : State) (q off : Nat) (w : W64) : State :=
  match off with
  | 0x00 => updWq s q (fun x => { x with base := w &&& 0xF80FFFFFFFFFFFC0#64 })
  | 0x08 => wqctlWrite s q w
  | 0x10 => if (getWq s q).state = .unbound then updWq s q (fun x => { x with tail := fld w 31 0 }) else setTail s q (fld w 31 0)
  | _ => s

/-- A write of a die's debug registers, which the debug port makes during a freeze as well (R409, R421). -/
def dbgRegWrite (s : State) (die off : Nat) (w : W64) : State :=
  match off with
  | 0x0700 => updDie s die (fun d => { d with dbgsel := w &&& 0xFFFF3FFE00FFFC00#64 })
  | 0x0710 => updDie s die (fun d => { d with dbgdata := w })
  | _ => s

/-- A write of a package register at an offset from die 0's base (R111, R176, R178). -/
def pkgWrite (s : State) (off : Nat) (w : W64) : State :=
  if off = 0x0300 then { s with pkg := { s.pkg with tlbinvVa := w &&& 0x007FFFFFFFFF0000#64 } }
  else if off = 0x0308 then
    (if w.getLsbD 63 ∧ (s.pkg.tlbinvBusy ∨ fld w 31 30 ≠ 3) then s else { s with pkg := { s.pkg with tlbinvCtl := invFields w } })
  else if 0x1F00 ≤ off ∧ off < 0x1F20 ∧ off % 8 = 0 then
    { s with pkg := { s.pkg with keystage := (s.pkg.keystage.zipIdx).map (fun x => if x.2 = (off - 0x1F00) / 8 then w else x.1) } }
  else if 0x4000 ≤ off ∧ off < 0x4600 then
    let p := (off - 0x4000) / 32
    match off % 32 with
    | 8 => if (getPart s p).w0.getLsbD 0 then s else updPart s p (fun x => { x with w1 := w &&& 0x000FFFFFFFFFFFC0#64 })
    | 16 => updPart s p (fun x => { x with w2 := w &&& 0xFFFF000000007F00#64 })
    | _ => s
  else if 0x8000 ≤ off ∧ off < 0x10000 then wqWrite s ((off - 0x8000) / 32) (off % 32) w
  else s

/-- Package, die and register offset that a BAR0 offset of the physical function names: (id mod 8) × 2^40 + d × 2^37 + r
(R282). -/
def bar0Of (a : Nat) : Nat × Nat × Nat := (a / 2 ^ 40, a / 2 ^ 37 % 8, a % 2 ^ 37)

/-- REGISTER_WRITE (R6, R7, R282): the RW fields of a register are stored; commands and W1C bits have steps of their own. While the functions
are down, the debug port makes what writes it may (R26, R283). `sel` is
what a BAR0 offset holds above bit 37, eight times (id mod 8) and the die; the offset counts from the die's management base. -/
def execRegisterWrite (sel offset : Nat) (physical : Bool) (w : BitVec 64) (s : State) : Host.Outcome State Fault Refusal :=
  .next (
    let (pkg, die, r) := bar0Of (sel * 2 ^ 37 + offset)
    if pkg ≠ s.pkg.id % 8 ∨ r ≠ offset then s
    else if !functionsUp s then (if physical then dbgRegWrite s die offset w else s)
    else if die = 0 ∧ 0x100000 ≤ offset ∧ offset < 0x100000 + 0x100 * 384 then
      vfWrite s ((offset - 0x100000) / 0x100) (offset % 0x100) physical w
    else if !physical then s
    else if 0x0500 ≤ offset ∧ offset < 0x0530 ∧ offset % 16 = 0 then
      updLink s (die * 3 + (offset - 0x0500) / 16) (fun l => { l with thresh := fld w 31 16 })
    else if die = 0 then pkgWrite (dbgRegWrite s 0 offset w) offset w
    else dbgRegWrite s die offset w)

end Sys2Proof.Machine
end

