-- ==== Sys2Proof/Machine/VersionEv.lean ====
section
/-! DEFINITION. Prepare and commit of transactions, the low-water mark and the sump (06_versions R152 to R158). -/

namespace Sys2Proof.Machine

open Sys2Proof

/-- Runs `f` on the transaction of a group that prepares a commit. -/
def onPreparing (s : State) (k : Nat) (f : Grp → Tx → State) : State :=
  match tabGet s.groups k with
  | some g => if g.tx.state = .preparing then f g g.tx else s
  | none => s

/-- Replaces a group's transaction. -/
def putTx (s : State) (k : Nat) (t : Tx) : State := updGroup s k (fun g => { g with tx := t })

/-- The lines of a buffer that a pump owns. -/
def pumpLines (t : Tx) (pump : Nat) : List TxLine := t.lines.filter (fun l => pumpOf (128 * l.line) == pump)

/-- A line fails a conflict check (R152). -/
def lineConflict (s : State) (ts : Nat) (l : TxLine) : Bool :=
  decide (ts < (lineOf s l.line).stamp) || (lineOf s l.line).lock.isSome

/-- Every line of a pump can have its record reserved (R152, R157). -/
def recordsFree (s : State) (die : Nat) (ls : List TxLine) : Bool :=
  ls.all (fun l => (lineOf s l.line).older.length < 14) && (getDie s die).poolUsed + ls.length ≤ poolRecords s

/-- Locks a line for a transaction. -/
def lockLine (k ts : Nat) (s : State) (l : TxLine) : State :=
  { s with lines := { s.lines with lines := tabPut s.lines.lines l.line { lineOf s l.line with lock := some (k, ts) } } }

/-- TX_PREPARE (R152): a pump votes on its lines. Lines that lack a record wait for the sump, for up to 65,536
cycles from the request, and the vote is then no with POOL (R157). -/
def execTxPrepare (grp pump : Nat) (s : State) : Host.Outcome State Fault Refusal :=
  event s (onPreparing s grp (fun g t =>
    if !t.asked.contains pump || (tabGet t.sent pump).isSome || t.stamp.isSome then s
    else
      let ls := pumpLines t pump
      let vf := ctxVf g.ctx
      let no := fun c => prfAdd (putTx s grp { t with sent := tabPut t.sent pump (.no c) }) vf 1 (pump / 16) (pump % 16) 6 1
      if ls.any (lineConflict s t.ts) then no 1
      else if !recordsFree s (pump / 16) ls then (if t.since + 65536 ≤ s.cycle then no 4 else s)
      else
        let nmax := ls.foldl (fun n l => max n (lineOf s l.line).stamp) 0
        let s1 := ls.foldl (lockLine grp t.ts) s
        let s2 := updDie s1 (pump / 16) (fun d => { d with poolUsed := d.poolUsed + ls.length })
        putTx s2 grp { t with sent := tabPut t.sent pump (.yes (max s.gts (nmax + 1))) }))

/-- The TXC of a group completes: its predicate is written and its slot released (R149). -/
def finishTxc (s : State) (k cause : Nat) (p : Bool) : State :=
  updGroup s k (fun g =>
    let ws := match g.tx.pdst with
      | some r => ((List.range (nThreads g)).filter g.tx.threads.getLsbD).map (fun t => RegW.mk (.p r t) (if p then 1 else 0))
      | none => []
    { slotFree (landCells g ws) g.tx.slot with tx := txEnd g.tx cause })

/-- Causes of the no votes (R149): CONFLICT where one is, otherwise POOL. -/
def noCause (vs : Tab Vote) : Option Nat :=
  if vs.any (fun v => v.2 == .no 1) then some 1
  else if vs.any (fun v => match v.2 with | .no _ => true | _ => false) then some 4
  else none

/-- TX_VOTE (R149, R154): a vote reaches the group's core. The last vote commits at the largest proposal, with the write event
that waits and .cur reads see from then on (R136), or ends the transaction. -/
def execTxVote (grp pump : Nat) (s : State) : Host.Outcome State Fault Refusal :=
  event s (onPreparing s grp (fun _ t =>
    match tabGet t.sent pump with
    | none => s
    | some v =>
      if (tabGet t.votes pump).isSome || t.stamp.isSome then s
      else
        let vs := tabPut t.votes pump v
        let t1 := { t with votes := vs }
        if vs.length < t.asked.length then putTx s grp t1
        else
          match noCause vs with
          | some c => finishTxc s grp c false
          | none =>
            let stamp := vs.foldl (fun n v => match v.2 with | .yes x => max n x | .no _ => n) 0
            let s1 := putTx s grp { t1 with stamp := some stamp, towrite := t.lines.map (·.line) }
            t.lines.foldl (fun u l => wakeWaits u (128 * l.line) 128) s1))

/-- The runs of set bytes of a buffered line, as pieces: one byte each. -/
def txPieces (l : TxLine) : Pieces :=
  ((List.range 128).filter l.mask.getLsbD).map (fun i => (128 * l.line + i, [BitVec.ofNat 8 (l.data.toNat / 2 ^ (8 * i))]))

/-- The lock and the reserved record of a line are given up. -/
def freeLine (s : State) (line : Nat) : State :=
  let s1 := updDie s (line / 2 ^ 32 % 8) (fun d => { d with poolUsed := d.poolUsed - 1 })
  { s1 with lines := { s1.lines with lines := tabPut s1.lines.lines line { lineOf s1 line with lock := none } } }

/-- TX_COMMIT_WRITE (R154): a line is written as a version at the commit stamp, and unlocked. -/
def execTxCommitWrite (grp line : Nat) (s : State) : Host.Outcome State Fault Refusal :=
  event s (onPreparing s grp (fun g t =>
    match t.stamp, t.lines.find? (fun l => l.line == line) with
    | some stamp, some l =>
      if !t.towrite.contains line then s
      else
        let key := KeyId.vf (ctxVf g.ctx)
        let t1 := { t with towrite := t.towrite.filter (· != line) }
        match pumpWrites (freeLine s line) key true l.cmp (128 * line) (txPieces l) none (some stamp) with
        | .done s1 _ =>
          putTx (countWrite s s1 (ctxVf g.ctx) (128 * line) l.cmp true (l.mask != BitVec.allOnes 128)) grp t1
        | .stall s1 _ => if s1.lines.reenc.length = s.lines.reenc.length then s else { s with lines := { s.lines with reenc := s1.lines.reenc } }
        | .fault c =>
          let s1 := putTx (freeLine s line) grp t1
          if c = fcIntegrity then haltKey s1 key (pumpUnit (128 * line)) (gidOf g) 0
          else haltRise s1 g.ctx c (groupUnit grp) (gidOf g) 0 true
    | _, _ => s))

/-- TX_COMMIT_ACK (R154): a pump that has written its lines acknowledges; with the last one the TXC completes. -/
def execTxCommitAck (grp pump : Nat) (s : State) : Host.Outcome State Fault Refusal :=
  event s (onPreparing s grp (fun _ t =>
    if t.stamp.isNone || !t.asked.contains pump || t.acked.contains pump || t.towrite.any (fun l => pumpOf (128 * l) == pump) then s
    else
      let a := t.acked ++ [pump]
      if a.length < t.asked.length then putTx s grp { t with acked := a } else finishTxc s grp 0 true))

/-- LOCK_RELEASE (R149, R153): the locks of a transaction that has aborted. -/
def execLockRelease (grp : Nat) (s : State) : Host.Outcome State Fault Refusal :=
  event s (
    let preparing := (tabGet s.groups grp).any (fun g => g.tx.state == .preparing)
    if preparing then s else txUnlock s grp)

/-- The T_S of a group's transaction, while it has one. -/
def txStamps (t : Tab Grp) : List Nat := (t.filter (fun g => g.2.tx.state != .none)).map (fun g => g.2.tx.ts)

/-- The low-water mark (R155). -/
def lowWater (s : State) : Nat :=
  let pins := (s.ctxs.map (fun c => (c.2.pins.filter (fun p => p.2.state != .free)).map (·.2.stamp))).flatten
  let grids := s.grids.filterMap (fun g => if g.2.pin.isNone then g.2.snap else none)
  let txs := txStamps s.groups ++ (s.ctxs.map (fun c => txStamps c.2.saved)).flatten
  (pins ++ grids ++ txs).foldl min (s.gts - 16)

/-- Versions that are not reclaimable (R156): those whose next newer version is above the mark. -/
def keepVersions (lwm newest : Nat) : List Version → List Version
  | [] => []
  | [v] => if newest ≤ lwm then [] else [v]
  | v :: w :: rest => (if w.stamp ≤ lwm then [] else [v]) ++ keepVersions lwm newest (w :: rest)

/-- The VF whose request a writer waits with, for the sump's counts. -/
def waitingWriters (s : State) (die : Nat) : List Nat :=
  (s.accs.filter (fun a => (poolParts a.2).any (fun p => p.2.pa / 2 ^ 39 % 8 == die))).map (fun a => ctxVf a.2.ctx)

/-- LWM_RECOMPUTE (R155, R156): the sump recomputes the mark and frees the records of reclaimable versions. -/
def execLwmRecompute (die : Nat) (s : State) : Host.Outcome State Fault Refusal :=
  event s (if die ≥ 8 then s else
    let lwm := lowWater s
    let mine := fun (n : Nat) => n / 2 ^ 32 % 8 == die
    let count := s.lines.lines.foldl (fun n l => if mine l.1 then n + (l.2.older.length - (keepVersions lwm l.2.stamp l.2.older).length) else n) 0
    let s1 := { s with lines := { s.lines with
      lines := tabMap s.lines.lines (fun n l => if mine n then { l with older := keepVersions lwm l.stamp l.older } else l) } }
    let s2 := updDie s1 die (fun d => { d with lwm := lwm, poolUsed := d.poolUsed - count })
    (waitingWriters s2 die).foldl (fun t vf => prfAdd (prfAdd (prfAdd t vf 5 die 0 0 count) vf 5 die 0 1 1) vf 5 die 0 2 1) s2)

end Sys2Proof.Machine
end

