-- ==== Sys2Proof/Machine/Dispatch.lean ====
section
/-! DEFINITION. The meaning of every row of the opcode table, one arm per constructor. -/
namespace Sys2Proof.Machine
open Sys2Proof
def exec (i : Instr) (s : State) : Host.Outcome State Fault Refusal :=
  match i with
  | .ztrap => Sys2Proof.Machine.execZtrap s
  | .nop w => Sys2Proof.Machine.execNop w s
  | .bra w => Sys2Proof.Machine.execBra w s
  | .brx w => Sys2Proof.Machine.execBrx w s
  | .brd w => Sys2Proof.Machine.execBrd w s
  | .jarm w => Sys2Proof.Machine.execJarm w s
  | .jarr w => Sys2Proof.Machine.execJarr w s
  | .call w => Sys2Proof.Machine.execCall w s
  | .callx w => Sys2Proof.Machine.execCallx w s
  | .ret w => Sys2Proof.Machine.execRet w s
  | .endI w => Sys2Proof.Machine.execEndI w s
  | .trap w => Sys2Proof.Machine.execTrap w s
  | .bkpt w => Sys2Proof.Machine.execBkpt w s
  | .bind w => Sys2Proof.Machine.execBind w s
  | .spawn w => Sys2Proof.Machine.execSpawn w s
  | .launch w => Sys2Proof.Machine.execLaunch w s
  | .yield w => Sys2Proof.Machine.execYield w s
  | .sleep w => Sys2Proof.Machine.execSleep w s
  | .mark w => Sys2Proof.Machine.execMark w s
  | .rdem w => Sys2Proof.Machine.execRdem w s
  | .wrem w => Sys2Proof.Machine.execWrem w s
  | .rdsr w => Sys2Proof.Machine.execRdsr w s
  | .wrsr w => Sys2Proof.Machine.execWrsr w s
  | .rdts w => Sys2Proof.Machine.execRdts w s
  | .rdcnt w => Sys2Proof.Machine.execRdcnt w s
  | .emp w => Sys2Proof.Machine.execEmp w s
  | .jrd w => Sys2Proof.Machine.execJrd w s
  | .iadd w => Sys2Proof.Machine.execIadd w s
  | .isub w => Sys2Proof.Machine.execIsub w s
  | .imul w => Sys2Proof.Machine.execImul w s
  | .imad w => Sys2Proof.Machine.execImad w s
  | .imulw w => Sys2Proof.Machine.execImulw w s
  | .imadw w => Sys2Proof.Machine.execImadw w s
  | .imin w => Sys2Proof.Machine.execImin w s
  | .imax w => Sys2Proof.Machine.execImax w s
  | .iabs w => Sys2Proof.Machine.execIabs w s
  | .ineg w => Sys2Proof.Machine.execIneg w s
  | .shl w => Sys2Proof.Machine.execShl w s
  | .shr w => Sys2Proof.Machine.execShr w s
  | .rot w => Sys2Proof.Machine.execRot w s
  | .bop w => Sys2Proof.Machine.execBop w s
  | .bfe w => Sys2Proof.Machine.execBfe w s
  | .bfi w => Sys2Proof.Machine.execBfi w s
  | .popc w => Sys2Proof.Machine.execPopc w s
  | .clz w => Sys2Proof.Machine.execClz w s
  | .brev w => Sys2Proof.Machine.execBrev w s
  | .isetp w => Sys2Proof.Machine.execIsetp w s
  | .sel w => Sys2Proof.Machine.execSel w s
  | .mov w => Sys2Proof.Machine.execMov w s
  | .movi w => Sys2Proof.Machine.execMovi w s
  | .movih w => Sys2Proof.Machine.execMovih w s
  | .lea w => Sys2Proof.Machine.execLea w s
  | .plop w => Sys2Proof.Machine.execPlop w s
  | .isad w => Sys2Proof.Machine.execIsad w s
  | .idot w => Sys2Proof.Machine.execIdot w s
  | .shfw w => Sys2Proof.Machine.execShfw w s
  | .xlane w => Sys2Proof.Machine.execXlane w s
  | .pcol w => Sys2Proof.Machine.execPcol w s
  | .redi w => Sys2Proof.Machine.execRedi w s
  | .bsel w => Sys2Proof.Machine.execBsel w s
  | .scan w => Sys2Proof.Machine.execScan w s
  | .matchI w => Sys2Proof.Machine.execMatchI w s
  | .rdlane w => Sys2Proof.Machine.execRdlane w s
  | .wrlane w => Sys2Proof.Machine.execWrlane w s
  | .fadd w => Sys2Proof.Machine.execFadd w s
  | .fsub w => Sys2Proof.Machine.execFsub w s
  | .fmul w => Sys2Proof.Machine.execFmul w s
  | .ffma w => Sys2Proof.Machine.execFfma w s
  | .fdot w => Sys2Proof.Machine.execFdot w s
  | .fmin w => Sys2Proof.Machine.execFmin w s
  | .fmax w => Sys2Proof.Machine.execFmax w s
  | .fsetp w => Sys2Proof.Machine.execFsetp w s
  | .fsel w => Sys2Proof.Machine.execFsel w s
  | .fclass w => Sys2Proof.Machine.execFclass w s
  | .fdiv w => Sys2Proof.Machine.execFdiv w s
  | .fsqrt w => Sys2Proof.Machine.execFsqrt w s
  | .frcp w => Sys2Proof.Machine.execFrcp w s
  | .frsq w => Sys2Proof.Machine.execFrsq w s
  | .fexp2 w => Sys2Proof.Machine.execFexp2 w s
  | .flog2 w => Sys2Proof.Machine.execFlog2 w s
  | .fsin w => Sys2Proof.Machine.execFsin w s
  | .fcos w => Sys2Proof.Machine.execFcos w s
  | .ftanh w => Sys2Proof.Machine.execFtanh w s
  | .fcvt w => Sys2Proof.Machine.execFcvt w s
  | .f2i w => Sys2Proof.Machine.execF2i w s
  | .i2f w => Sys2Proof.Machine.execI2f w s
  | .frnd w => Sys2Proof.Machine.execFrnd w s
  | .fscale w => Sys2Proof.Machine.execFscale w s
  | .digits w => Sys2Proof.Machine.execDigits w s
  | .sibrd w => Sys2Proof.Machine.execSibrd w s
  | .sibwr w => Sys2Proof.Machine.execSibwr w s
  | .sibmed w => Sys2Proof.Machine.execSibmed w s
  | .sibmean w => Sys2Proof.Machine.execSibmean w s
  | .sibdiff w => Sys2Proof.Machine.execSibdiff w s
  | .fsgn w => Sys2Proof.Machine.execFsgn w s
  | .fred w => Sys2Proof.Machine.execFred w s
  | .ld w => Sys2Proof.Machine.execLd w s
  | .st w => Sys2Proof.Machine.execSt w s
  | .ldx w => Sys2Proof.Machine.execLdx w s
  | .stx w => Sys2Proof.Machine.execStx w s
  | .aadd w => Sys2Proof.Machine.execAadd w s
  | .amin w => Sys2Proof.Machine.execAmin w s
  | .amax w => Sys2Proof.Machine.execAmax w s
  | .aand w => Sys2Proof.Machine.execAand w s
  | .aor w => Sys2Proof.Machine.execAor w s
  | .axor w => Sys2Proof.Machine.execAxor w s
  | .axch w => Sys2Proof.Machine.execAxch w s
  | .acas w => Sys2Proof.Machine.execAcas w s
  | .afadd w => Sys2Proof.Machine.execAfadd w s
  | .radd w => Sys2Proof.Machine.execRadd w s
  | .rmin w => Sys2Proof.Machine.execRmin w s
  | .rmax w => Sys2Proof.Machine.execRmax w s
  | .rand w => Sys2Proof.Machine.execRand w s
  | .ror w => Sys2Proof.Machine.execRor w s
  | .rxor w => Sys2Proof.Machine.execRxor w s
  | .rfadd w => Sys2Proof.Machine.execRfadd w s
  | .waita w => Sys2Proof.Machine.execWaita w s
  | .fence w => Sys2Proof.Machine.execFence w s
  | .cinv w => Sys2Proof.Machine.execCinv w s
  | .ctag w => Sys2Proof.Machine.execCtag w s
  | .pref w => Sys2Proof.Machine.execPref w s
  | .txb w => Sys2Proof.Machine.execTxb w s
  | .txc w => Sys2Proof.Machine.execTxc w s
  | .txa w => Sys2Proof.Machine.execTxa w s
  | .snappin w => Sys2Proof.Machine.execSnappin w s
  | .snaprel w => Sys2Proof.Machine.execSnaprel w s
  | .cdrain w => Sys2Proof.Machine.execCdrain w s
  | .push w => Sys2Proof.Machine.execPush w s
  | .pop w => Sys2Proof.Machine.execPop w s
  | .caprd w => Sys2Proof.Machine.execCaprd w s
  | .binit w => Sys2Proof.Machine.execBinit w s
  | .barrive w => Sys2Proof.Machine.execBarrive w s
  | .bexpect w => Sys2Proof.Machine.execBexpect w s
  | .bwaitp w => Sys2Proof.Machine.execBwaitp w s
  | .btest w => Sys2Proof.Machine.execBtest w s
  | .binval w => Sys2Proof.Machine.execBinval w s
  | .bclose w => Sys2Proof.Machine.execBclose w s
  | .bwait w => Sys2Proof.Machine.execBwait w s
  | .bpoll w => Sys2Proof.Machine.execBpoll w s
  | .qfence w => Sys2Proof.Machine.execQfence w s
  | .cpy w => Sys2Proof.Machine.execCpy w s
  | .cpyT w => Sys2Proof.Machine.execCpyT w s
  | .cpyCv w => Sys2Proof.Machine.execCpyCv w s
  | .cpyMeta w => Sys2Proof.Machine.execCpyMeta w s
  | .gather w => Sys2Proof.Machine.execGather w s
  | .mzero w => Sys2Proof.Machine.execMzero w s
  | .mloop w => Sys2Proof.Machine.execMloop w s
  | .mloopSp w => Sys2Proof.Machine.execMloopSp w s
  | .macc w => Sys2Proof.Machine.execMacc w s
  | .cbload w => Sys2Proof.Machine.execCbload w s
  | .xfmR w => Sys2Proof.Machine.execXfmR w s
  | .xfmJ w => Sys2Proof.Machine.execXfmJ w s
  | .decode w => Sys2Proof.Machine.execDecode w s
  | .illegalOp w => Sys2Proof.Machine.execIllegalOp w s
  | .falloff => Sys2Proof.Machine.execFalloff s
  | .powerGood => Sys2Proof.Machine.execPowerGood s
  | .selfTestDone pass unit => Sys2Proof.Machine.execSelfTestDone pass unit s
  | .imageReceived => Sys2Proof.Machine.execImageReceived s
  | .imageVerified image => Sys2Proof.Machine.execImageVerified image s
  | .thermalTrip die temp => Sys2Proof.Machine.execThermalTrip die temp s
  | .tripClear die => Sys2Proof.Machine.execTripClear die s
  | .freeze => Sys2Proof.Machine.execFreeze s
  | .thaw gts => Sys2Proof.Machine.execThaw gts s
  | .coreFailure core cause => Sys2Proof.Machine.execCoreFailure core cause s
  | .softError die => Sys2Proof.Machine.execSoftError die s
  | .patrolScrub die line corrected => Sys2Proof.Machine.execPatrolScrub die line corrected s
  | .uncorrectableError w => Sys2Proof.Machine.execUncorrectableError w s
  | .startGrant die => Sys2Proof.Machine.execStartGrant die s
  | .bankAccess acc part => Sys2Proof.Machine.execBankAccess acc part s
  | .pumpFullWrite acc line => Sys2Proof.Machine.execPumpFullWrite acc line s
  | .pumpPartialWrite acc line => Sys2Proof.Machine.execPumpPartialWrite acc line s
  | .pumpRead acc part => Sys2Proof.Machine.execPumpRead acc part s
  | .pumpAtomic acc part => Sys2Proof.Machine.execPumpAtomic acc part s
  | .reencryptComplete grp => Sys2Proof.Machine.execReencryptComplete grp s
  | .memoryResponse acc => Sys2Proof.Machine.execMemoryResponse acc s
  | .storeAck acc => Sys2Proof.Machine.execStoreAck acc s
  | .wkeyLoad slot => Sys2Proof.Machine.execWkeyLoad slot s
  | .wkeyRekey slot lines => Sys2Proof.Machine.execWkeyRekey slot lines s
  | .wkeyClear slot => Sys2Proof.Machine.execWkeyClear slot s
  | .rekeyLine slot line => Sys2Proof.Machine.execRekeyLine slot line s
  | .snapshotWaitEnd acc => Sys2Proof.Machine.execSnapshotWaitEnd acc s
  | .txPrepare grp pump => Sys2Proof.Machine.execTxPrepare grp pump s
  | .txVote grp pump => Sys2Proof.Machine.execTxVote grp pump s
  | .txCommitWrite grp line => Sys2Proof.Machine.execTxCommitWrite grp line s
  | .txCommitAck grp pump => Sys2Proof.Machine.execTxCommitAck grp pump s
  | .lockRelease grp => Sys2Proof.Machine.execLockRelease grp s
  | .lwmRecompute die => Sys2Proof.Machine.execLwmRecompute die s
  | .poolWaitTimeout acc => Sys2Proof.Machine.execPoolWaitTimeout acc s
  | .poolWaitEnd acc => Sys2Proof.Machine.execPoolWaitEnd acc s
  | .pageWalk ctx die va => Sys2Proof.Machine.execPageWalk ctx die va s
  | .setDirty ctx va => Sys2Proof.Machine.execSetDirty ctx va s
  | .faultRecordWaitEnd ctx => Sys2Proof.Machine.execFaultRecordWaitEnd ctx s
  | .fltreplayReplay vf seq => Sys2Proof.Machine.execFltreplayReplay vf seq s
  | .fltreplayCancel vf seq => Sys2Proof.Machine.execFltreplayCancel vf seq s
  | .tlbinvRange ctl => Sys2Proof.Machine.execTlbinvRange ctl s
  | .tlbinvVf ctl => Sys2Proof.Machine.execTlbinvVf ctl s
  | .tlbinvAll ctl => Sys2Proof.Machine.execTlbinvAll ctl s
  | .tlbinvText ctl => Sys2Proof.Machine.execTlbinvText ctl s
  | .tlbinvComplete => Sys2Proof.Machine.execTlbinvComplete s
  | .partqEnable part w => Sys2Proof.Machine.execPartqEnable part w s
  | .partqDisable part w => Sys2Proof.Machine.execPartqDisable part w s
  | .ctxCreate vf cmd => Sys2Proof.Machine.execCtxCreate vf cmd s
  | .ctxSwitch vf cmd => Sys2Proof.Machine.execCtxSwitch vf cmd s
  | .ctxHalt vf cmd => Sys2Proof.Machine.execCtxHalt vf cmd s
  | .ctxResume vf cmd => Sys2Proof.Machine.execCtxResume vf cmd s
  | .ctxTeardown vf cmd => Sys2Proof.Machine.execCtxTeardown vf cmd s
  | .restoreStart part => Sys2Proof.Machine.execRestoreStart part s
  | .restoreComplete part => Sys2Proof.Machine.execRestoreComplete part s
  | .sliceEnd part => Sys2Proof.Machine.execSliceEnd part s
  | .saveComplete part => Sys2Proof.Machine.execSaveComplete part s
  | .haltLineRise part cause => Sys2Proof.Machine.execHaltLineRise part cause s
  | .unitStop part unit => Sys2Proof.Machine.execUnitStop part unit s
  | .vfKeyLoad vf => Sys2Proof.Machine.execVfKeyLoad vf s
  | .vfKeyClear vf => Sys2Proof.Machine.execVfKeyClear vf s
  | .tokenAccrual vf => Sys2Proof.Machine.execTokenAccrual vf s
  | .reclaim part core => Sys2Proof.Machine.execReclaim part core s
  | .reclaimComplete part => Sys2Proof.Machine.execReclaimComplete part s
  | .objectLoad ctx file id base frames => Sys2Proof.Machine.execObjectLoad ctx file id base frames s
  | .objectUnload ctx id => Sys2Proof.Machine.execObjectUnload ctx id s
  | .gridAcceptance req => Sys2Proof.Machine.execGridAcceptance req s
  | .teamPlacement grid core slots row bar => Sys2Proof.Machine.execTeamPlacement grid core slots row bar s
  | .gridCompletion grid => Sys2Proof.Machine.execGridCompletion grid s
  | .bindResolve ctx pa target => Sys2Proof.Machine.execBindResolve ctx pa target s
  | .groupStateLoaded grp => Sys2Proof.Machine.execGroupStateLoaded grp s
  | .activeSetEntry sched => Sys2Proof.Machine.execActiveSetEntry sched s
  | .fairnessEviction sched => Sys2Proof.Machine.execFairnessEviction sched s
  | .groupFree grp => Sys2Proof.Machine.execGroupFree grp s
  | .spawnBinTimeout core bin => Sys2Proof.Machine.execSpawnBinTimeout core bin s
  | .spawnBinPlace core bin slot => Sys2Proof.Machine.execSpawnBinPlace core bin slot s
  | .sleepExpiry grp => Sys2Proof.Machine.execSleepExpiry grp s
  | .capdataWrite vf w => Sys2Proof.Machine.execCapdataWrite vf w s
  | .cqCreate vf w => Sys2Proof.Machine.execCqCreate vf w s
  | .cqDestroy vf w => Sys2Proof.Machine.execCqDestroy vf w s
  | .queueAppend msg => Sys2Proof.Machine.execQueueAppend msg s
  | .freeCountReturn msg => Sys2Proof.Machine.execFreeCountReturn msg s
  | .wqdoor vf w => Sys2Proof.Machine.execWqdoor vf w s
  | .wqBind q w => Sys2Proof.Machine.execWqBind q w s
  | .wqPause q => Sys2Proof.Machine.execWqPause q s
  | .wqResume q => Sys2Proof.Machine.execWqResume q s
  | .wqDrain q => Sys2Proof.Machine.execWqDrain q s
  | .wqClose q => Sys2Proof.Machine.execWqClose q s
  | .wqUnbind q => Sys2Proof.Machine.execWqUnbind q s
  | .wqLaunchRecord q => Sys2Proof.Machine.execWqLaunchRecord q s
  | .wqSignalRecord q => Sys2Proof.Machine.execWqSignalRecord q s
  | .signalWrite q => Sys2Proof.Machine.execSignalWrite q s
  | .mediaOpenDec eng => Sys2Proof.Machine.execMediaOpenDec eng s
  | .mediaOpenEnc eng => Sys2Proof.Machine.execMediaOpenEnc eng s
  | .mediaFrame eng => Sys2Proof.Machine.execMediaFrame eng s
  | .mediaRowback eng => Sys2Proof.Machine.execMediaRowback eng s
  | .mediaClose eng => Sys2Proof.Machine.execMediaClose eng s
  | .mediaRowDone eng sess out => Sys2Proof.Machine.execMediaRowDone eng sess out s
  | .bardropClear core => Sys2Proof.Machine.execBardropClear core s
  | .waitaRegister acc part => Sys2Proof.Machine.execWaitaRegister acc part s
  | .waitaDeadline acc part => Sys2Proof.Machine.execWaitaDeadline acc part s
  | .waitaWake acc => Sys2Proof.Machine.execWaitaWake acc s
  | .linkTrain link => Sys2Proof.Machine.execLinkTrain link s
  | .linkDrain link => Sys2Proof.Machine.execLinkDrain link s
  | .linkDisable link => Sys2Proof.Machine.execLinkDisable link s
  | .errcntClear link => Sys2Proof.Machine.execErrcntClear link s
  | .linkTrained link lanes peer => Sys2Proof.Machine.execLinkTrained link lanes peer s
  | .trainingTimeout link => Sys2Proof.Machine.execTrainingTimeout link s
  | .laneLost link left => Sys2Proof.Machine.execLaneLost link left s
  | .peerLost link => Sys2Proof.Machine.execPeerLost link s
  | .flitReceived link flit => Sys2Proof.Machine.execFlitReceived link flit s
  | .flitCrcFail link vfs => Sys2Proof.Machine.execFlitCrcFail link vfs s
  | .flitAck link acc part => Sys2Proof.Machine.execFlitAck link acc part s
  | .routeTimeout acc => Sys2Proof.Machine.execRouteTimeout acc s
  | .functionLevelReset fn => Sys2Proof.Machine.execFunctionLevelReset fn s
  | .engineOpStart op => Sys2Proof.Machine.execEngineOpStart op s
  | .engineLineTransfer op => Sys2Proof.Machine.execEngineLineTransfer op s
  | .sparsityQueuePush op => Sys2Proof.Machine.execSparsityQueuePush op s
  | .mloopKStep op => Sys2Proof.Machine.execMloopKStep op s
  | .maccReadout op => Sys2Proof.Machine.execMaccReadout op s
  | .xfmJobBlock op => Sys2Proof.Machine.execXfmJobBlock op s
  | .engineOpComplete op => Sys2Proof.Machine.execEngineOpComplete op s
  | .dbgStop die => Sys2Proof.Machine.execDbgStop die s
  | .debugStopReached grp => Sys2Proof.Machine.execDebugStopReached grp s
  | .dbgResume die => Sys2Proof.Machine.execDbgResume die s
  | .dbgStep die => Sys2Proof.Machine.execDbgStep die s
  | .dbgRead die => Sys2Proof.Machine.execDbgRead die s
  | .dbgWrite die force => Sys2Proof.Machine.execDbgWrite die force s
  | .dbgDrain die => Sys2Proof.Machine.execDbgDrain die s
  | .dbgBken die => Sys2Proof.Machine.execDbgBken die s
  | .dbgBkdis die => Sys2Proof.Machine.execDbgBkdis die s
  | .prfctlWrite vf physical w => Sys2Proof.Machine.execPrfctlWrite vf physical w s
  | .profileSample vf sched => Sys2Proof.Machine.execProfileSample vf sched s
  | .prfselWrite vf n w => Sys2Proof.Machine.execPrfselWrite vf n w s
  | .lcrctlWrite vf w => Sys2Proof.Machine.execLcrctlWrite vf w s
  | .prfcntLowRead vf n physical => Sys2Proof.Machine.execPrfcntLowRead vf n physical s
  | .registerWrite die offset physical w => Sys2Proof.Machine.execRegisterWrite die offset physical w s
  | .packageReset => Sys2Proof.Machine.execPackageReset s
  | .textFault => Sys2Proof.Machine.execTextFault s
  | .malformedRecord q => Sys2Proof.Machine.execMalformedRecord q s
  | .variableLatencyResult grp res => Sys2Proof.Machine.execVariableLatencyResult grp res s
  | .idleIssueCycle sched => Sys2Proof.Machine.execIdleIssueCycle sched s
end Sys2Proof.Machine
end

