-- ==== Sys2Proof/Machine/Sched.lean ====
section
/-! DEFINITION. Time, the choice of what moves next where the agenda gives none, and the placing of a word where
the next step fetches it (assumption log, rows 1 to 3 and 8). -/

namespace Sys2Proof.Machine

open Sys2Proof

/-- VFs with a BUSY session on a media engine. -/
def busyVfs (x : Media) : List Nat := ((x.sess.filter (·.state == .busy)).map (fun z => ctxVf z.ctx)).eraseDups

/-- Cycles in which media engines had a BUSY session are counted for its VF (R416; assumption log, row 61). -/
def countBusy (s : State) (n : Nat) : State :=
  { s with vfs := (s.medias.foldl (fun t m => (busyVfs m.2).foldl (fun t v => prfAdd t v 4 (m.1 / 2) (m.1 % 2) 1 n) t) s).vfs }

/-- Cycles in which a VF's halt line is up are no issue cycles of its schedulers (R229). -/
def countHalted (s : State) (n : Nat) : State :=
  s.parts.foldl (fun t p => p.2.halt.elim t (fun h => updVf t (ctxVf h.ctx) (fun v => { v with halted := v.halted + n }))) s

/-- What is counted in `n` cycles as they pass: IDLE lanes of the schedulers that issued nothing, cycles of a halt line, and busy
cycles of media engines (R229, R414, R416). -/
def countCycles (s : State) (n : Nat) : State := countBusy (countHalted ((idleScheds s).foldl (idleSched n) s) n) n

/-- One arithmetic cycle passes: 5/3 ns of GTS, less what events within it have passed already; a frozen package has no cycles
(R15, R17, R23). The waits on barriers that advanced are tested after the last event of the cycle that ends (R264), and the
faults kept from it are taken (R30, R108). -/
def tick (s : State) : State :=
  if s.pkg.frozen then s
  else
    let t := growHalts (servePosted (flushBars (countCycles s 1)))
    takeRaised { t with cycle := t.cycle + 1, gts3 := t.gts3 + (5 - t.sub), sub := 0, issued := [], barEvents := [] }

/-- A row that a group's word or fetch gives, and not an event of the rest of the part. -/
def isWordRow (i : Instr) : Bool :=
  match i with
  | .ztrap | .illegalOp _ | .falloff | .textFault => true
  | _ => (sig i).isSome

/-- A command of the host, which comes after the writes that it made before (R134). -/
def hostRow (i : Instr) : Bool :=
  match i with
  | .tripClear _ | .wkeyLoad _ | .wkeyRekey .. | .wkeyClear _ | .fltreplayReplay .. | .fltreplayCancel .. | .tlbinvRange _ | .tlbinvVf _
  | .tlbinvAll _ | .tlbinvText _ | .partqEnable .. | .partqDisable .. | .ctxCreate .. | .ctxSwitch .. | .ctxHalt .. | .ctxResume ..
  | .ctxTeardown .. | .vfKeyLoad _ | .vfKeyClear _ | .objectLoad .. | .objectUnload .. | .bindResolve .. | .capdataWrite ..
  | .cqCreate .. | .cqDestroy .. | .wqdoor .. | .wqBind .. | .wqPause _ | .wqResume _ | .wqDrain _ | .wqClose _ | .wqUnbind _
  | .bardropClear _ | .linkTrain _ | .linkDrain _ | .linkDisable _ | .errcntClear _ | .functionLevelReset _ | .prfctlWrite ..
  | .prfselWrite .. | .lcrctlWrite .. | .prfcntLowRead .. | .registerWrite .. => true
  | _ => false

/-- An input comes from the host, and waits behind an earlier write of it (R134). -/
def hostWaits (s : State) : Choice → Bool
  | .write .. => hostPosted s
  | .event i | .same (.event i) | .within _ i => hostRow i && hostPosted s
  | _ => false

/-- A write of the host: what of it has to wait for its line is posted (R107, R109, R112, R115, R134). -/
def hostWrites (s : State) (pa : Nat) (key : KeyId) (ver cmp : Bool) (bytes : List Byte) : State :=
  servePost s ⟨true, 0, key, ver, cmp, pa, bytes, none⟩

/-- The time of an entry of the agenda: an event may fall within the cycle, `d` thirds of a nanosecond after it began (R17), and the
barrier events of a cycle come together (R264); anything else begins a cycle. -/
def entryTime (s : State) : Choice → State
  | .within d _ =>
    if s.sub < d ∧ d < 5 ∧ s.pkg.frozen = false then { s with gts3 := s.gts3 + (d - s.sub), sub := d } else tick s
  | .same (.issue _) | .same (.event _) => if s.barEvents.isEmpty then tick s else s
  | _ => tick s

/-- The first entry of the agenda, and the state with the rest of it. -/
def takeChoice (s : State) : Option Choice × State :=
  match s.agenda with
  | [] => (none, s)
  | c :: cs => (some c, { s with agenda := cs })

/-- Cycles in which nothing moves. -/
def idleFor (s : State) (n : Nat) : State :=
  if s.pkg.frozen then s
  else
    let t := countCycles s n
    { t with cycle := t.cycle + n, gts3 := t.gts3 + 5 * n }

/-- An L1 replacement takes the least recently used line (R97): nothing where it names another. -/
def evictLine (s : State) (core line : Nat) : State :=
  updCore s core (fun c => if c.l1.head?.any (fun l => l.line == line) then { c with l1 := c.l1.tail } else c)

/-- The VFs that the host lets hold a window key slot (R110; assumption log, row 15). -/
def setHolders (s : State) (slot : Nat) (vfs : List Nat) : State :=
  { s with wins := tabPut s.wins slot { tabGetD s.wins slot ⟨.empty, [], none, []⟩ with holders := vfs } }

/-- The number of L1 rows that the host fixes before it enables partitions (R93, R97): the least recently used lines beyond it
go. -/
def setL1rows (s : State) (n : Nat) : State :=
  if ¬ [1024, 2048, 3072, 4096].contains n ∨ s.parts.any (fun p => p.2.w0.getLsbD 0) = true then s
  else { s with pkg := { s.pkg with l1rows := n }, cores := tabMap s.cores (fun _ (c : Core) => { c with l1 := c.l1.drop (c.l1.length - n) }) }

/-- The profiling session that the host gives a VF as it moves it here (R420). -/
def setSession (s : State) (vf : Nat) (x : Session) : State :=
  updVf s vf (fun v => { v with
    prfctl := x.prfctl, prfbase := x.prfbase, prfhead := x.head, prftail := x.tail, prfsel := x.sel, prfcnt := x.cnt,
    latch := x.latch, lcrctl := x.lcrctl, lcr := x.lcr })

/-- Groups of a scheduler that a YLD of an earlier issue kept back: that issue decision is over (R229). -/
def unyield (s : State) (sched k : Nat) : State :=
  { s with groups := tabMap s.groups (fun j (g : Grp) =>
      if j / 24 = sched ∧ j ≠ k ∧ g.yld = true ∧ g.state = .active then { g with yld := false } else g) }

/-! The steps of the part that may be due: the model's own choice where the agenda is empty. A step that is not due
changes nothing. Commands of the host, and what arrives from outside, come from the agenda alone. -/

/-- A step of the part. -/
abbrev Act : Type := State → Host.Outcome State Fault Refusal

/-- Steps of a memory access. -/
def accActs (x : Nat × Acc) : List Act :=
  let (id, a) := x
  (a.parts.map (fun p =>
    match p.2.home with
    | .remote _ => [execRouteTimeout id]
    | .host => [execBankAccess id p.1, execRouteTimeout id]
    | h =>
      if a.kind = .waita then [execWaitaRegister id p.1, execWaitaDeadline id p.1]
      else
        match h with
        | .pump _ =>
          if isStore a.kind then [execPumpFullWrite id (p.2.pa / 128), execPumpPartialWrite id (p.2.pa / 128)]
          else if isAtom a.kind then [execPumpAtomic id p.1]
          else [execPumpRead id p.1]
        | _ => [execBankAccess id p.1])).flatten ++
  [execMemoryResponse id, execStoreAck id, execWaitaWake id, execSnapshotWaitEnd id, execPoolWaitEnd id, execPoolWaitTimeout id]

/-- Steps of an engine operation. -/
def opActs (x : Nat × EngOp) : List Act :=
  [execEngineOpStart x.1, execEngineLineTransfer x.1, execSparsityQueuePush x.1, execMloopKStep x.1, execMaccReadout x.1,
   execXfmJobBlock x.1, execEngineOpComplete x.1]

/-- Steps of a group. -/
def grpActs (x : Nat × Grp) : List Act :=
  let (k, g) := x
  (match g.state with
   | .pending => [execGroupStateLoaded k]
   | .retired => [execGroupFree k]
   | _ => [execSleepExpiry k]) ++
  g.vres.map (fun r => execVariableLatencyResult k r.id) ++
  (if g.tx.state = .preparing then
    (g.tx.asked.map (fun p => [execTxPrepare k p, execTxVote k p, execTxCommitAck k p])).flatten ++ g.tx.towrite.map (execTxCommitWrite k)
   else [execLockRelease k]) ++
  (if g.state = .wait then [execRouteTimeout g.serial] else []) ++
  (if g.dbgReq then [execDebugStopReached k] else [])

/-- Steps of a scheduler beside its issues. -/
def schedActs (sched : Nat) : List Act := [execActiveSetEntry sched, execFairnessEviction sched, execIdleIssueCycle sched]

/-- Slots for the groups of a team as a spread gives them, the lowest of each scheduler first. -/
def autoSlots (part core gk tk lin ck : Nat) (g : Grid) : List (Nat × Nat) → List (List Nat) → State → List Nat
  | [], _, _ => []
  | (role, j) :: rest, spread, s =>
    match (List.range spread.length).find? (fun i => decide (0 < (spread.getD i []).getD role 0)) with
    | none => []
    | some i =>
      let regs := 8 * (g.roles.getD role ⟨0, 1, 1, false⟩).regs
      match ((List.range 24).map (fun x => core * 96 + i * 24 + x)).find? (fun k => slotFits s part k regs (kernHw g.kern)) with
      | none => []
      | some k =>
        k :: autoSlots part core gk tk lin ck g rest (spread.modify i (fun l => l.modify role (· - 1)))
          (setGroup s k (teamGroup 0 ck gk tk lin j role s.cycle g 0))

/-- A place for the next team of a context's grid on a core: slots, row and first barrier. -/
def autoPlace (s : State) (p ck core : Nat) : List Act :=
  match servedGrid s ck with
  | none => []
  | some (gk, g) =>
    let nb := lpbBars g.lpb
    let rows := lpbRows g.lpb
    let clash := fun b => s.teams.any (fun t => t.2.ctx == ck && t.2.core == core && rangesMeet (p * 64 + b) nb t.2.bar t.2.nbars)
    match (if rows = 0 then some (rowLo s p) else findRow s ck p core rows), (List.range 65).find? (fun b => !clash b) with
    | some r, some b => [execTeamPlacement gk core
      (match autoSpread (kernHw g.kern) g.roles (schedRoom s p core) (g.roles.map (·.groups)) with
       | some sp => autoSlots p core gk s.serial 0 ck g (teamShape g) sp s
       | none => []) r b]
    | _, _ => []

/-- Steps of a partition. -/
def partActs (s : State) (p : Nat) (x : Part48) : List Act :=
  [execRestoreStart p, execRestoreComplete p, execSliceEnd p, execSaveComplete p, execReclaimComplete p] ++
  ((s.teams.filter (fun t => t.2.borrowed == some p && t.2.away.isNone)).map (fun t => t.2.core)).eraseDups.map (execReclaim p) ++
  (match x.halt with
   | some h => (noUnit :: stopUnits s h).map (execUnitStop p)
   | none => []) ++
  (match x.running with
   | some v =>
     let cs := placedCores s x.w1
     match cs[s.cycle % cs.length]? with
     | some core => autoPlace s p (v * 16 + (getVf s v).cur) core
     | none => []
   | none => [])

/-- Steps of a message. -/
def msgActs (x : Nat × Msg) : List Act :=
  match x.2 with
  | .freeCount .. => [execFreeCountReturn x.1, execRouteTimeout x.1]
  | .link .. => [execRouteTimeout x.1]
  | _ => [execQueueAppend x.1]

/-- Steps of a spawn bin. -/
def binActs (s : State) (core : Nat) (x : Nat × Bin) : List Act :=
  let part := match tabGet s.teams x.2.team with
    | some t => t.borrowed.getD (partOf s t.ctx)
    | none => 0
  if x.2.fired then
    match findSlot s part core 8 1 with
    | some k => [execSpawnBinPlace core x.1 k]
    | none => []
  else [execSpawnBinTimeout core x.1]

/-- Every step beside issues that may be due. -/
def acts (s : State) (scheds : List Nat) : List Act :=
  (scheds.map schedActs).flatten ++ (s.groups.map grpActs).flatten ++ (s.accs.map accActs).flatten ++ (s.ops.map opActs).flatten ++
  (s.msgs.map msgActs).flatten ++ s.reqs.map (fun r => execGridAcceptance r.1) ++ s.grids.map (fun g => execGridCompletion g.1) ++
  (s.parts.map (fun p => partActs s p.1 p.2)).flatten ++
  (s.wqs.map (fun q => [execWqLaunchRecord q.1, execWqSignalRecord q.1, execSignalWrite q.1, execMalformedRecord q.1])).flatten ++
  (s.medias.map (fun m => [execMediaOpenDec m.1, execMediaOpenEnc m.1, execMediaFrame m.1, execMediaRowback m.1, execMediaClose m.1])).flatten ++
  (s.cores.map (fun c => (c.2.bins.map (binActs s c.1)).flatten)).flatten ++
  s.ctxs.map (fun c => execFaultRecordWaitEnd c.1) ++ s.lines.reenc.map (fun r => execReencryptComplete r.1) ++
  (s.dies.map (fun d => [execStartGrant d.1, execLwmRecompute d.1])).flatten ++
  (s.dies.filter (fun d => d.2.dbgdrain.isSome)).map (fun d => execDbgDrain d.1) ++
  (if s.ops.isEmpty then [] else (List.range 8).map execStartGrant) ++
  s.links.map (fun l => execTrainingTimeout l.1) ++ s.fars.map (fun r => execRouteTimeout r.1) ++
  (if s.inbox.isEmpty then [] else [fun s => event s (serveInbox s)]) ++
  (s.vfs.map (fun v => scheds.map (fun x => execProfileSample v.1 x))).flatten ++
  (if s.pkg.tlbinvBusy then [execTlbinvComplete] else [])

/-- What moves next where the agenda is empty: of the issues and steps that may be due, the one whose turn it is; an
issue is named by its scheduler (assumption log, row 3). -/
def autoTurn (s : State) : Nat ⊕ Act :=
  let scheds := (s.groups.map (fun g => schedOf g.1)).eraseDups
  let cs : List (Nat ⊕ Act) := scheds.map .inl ++ (acts s scheds).map .inr
  (cs[s.cycle % cs.length]?).getD (.inr (fun s => .next (idleFor s 1)))

/-- Text frame, table frames and tables of the state that holds one placed word: a root, a level-2 and a
level-3 table whose entry 0 leads to one 64 KiB text leaf. -/
def placedTables : List (Nat × Nat) :=
  [(0x10000, 0x20001), (0x20000, 0x30001), (0x30000, 0x40407)]

/-- Writes 64-bit words to memory. -/
def placeWords (m : Mem) (ws : List (Nat × Nat)) : Mem := ws.foldl (fun m w => memWrite m w.1 (leBytes w.2 8)) m

/-- The context descriptor of the placed word: partition 0, VF 0, tables as above, STOPBASE 0x60000, SAVEBASE
0x100000, and rings of sixteen entries. -/
def placedDesc : List W64 :=
  [0x1, 0x10000, 0x10000, 0x1000000000060000, 0x1400000000100000, 0x0400000000070000, 0x0400000000071000,
   0x0400000000072000, 0x0, 0x0, 0x0, 0x0, 0x0, 0x0, 0x0, 0x0]

/-- A context whose tables are the placed ones, RUNNING, with one object of one text page. -/
def placedCtx : Ctx where
  state := .running
  teardown := false
  desc := placedDesc
  cause := 0
  ev := ⟨0, 0, 0⟩
  ne := ⟨0, 0, 0⟩
  fl := ⟨0, 0, 0⟩
  pins := []
  shared := []
  objs := [(0, ⟨false, 0, 4096, [⟨true, 1, 0, 0, 0, 0⟩], [⟨0, 1, 32, false⟩], [], [], [0x40000], [], [], [], [], []⟩)]
  loadCause := 0
  faults := []
  recs := []
  saved := []
  savedBars := []
  savedQ := []
  savedRows := []
  savedPoison := []
  savedBins := []
  heldMsgs := []
  core := []
  switchTo := none
  poolAsks := []

/-- The one group of the placed word: slot 0 of scheduler 0, triplex, ACTIVE at PC 0, every register 0. -/
def placedGrp (cycle : Nat) : Grp :=
  { newGroup 0 0 0 0 0 0 0 true false 256 cycle 0 0 ((List.range 16).map (fun t => (t, t))) 0 0 0 [] [] with
    state := .active, undef := none }

/-- The grid and team of the placed word. -/
def placedGrid : Grid :=
  ⟨0, 0, List.replicate 32 0, 0, ⟨true, 1, 0, 0, 0, 0⟩, [⟨0, 1, 32, false⟩], none, none, 1, 0, 1, 0, none, 0⟩
def placedTeam : Team := ⟨0, 0, 0, 0, 1024, 0, 0, 0, 0, 0, [(0, 0)], [], none, none, []⟩

/-- The state in which the next step fetches and issues a word: a running package, context 0 of VF 0 in
partition 0, and one ACTIVE group whose PC names the word. -/
def placeWord (s : State) (w : Nat) : State :=
  { s with
    pkg := { s.pkg with boot := .run, frozen := false, pcie := true },
    mem := memWrite (placeWords s.mem placedTables) 0x40000 (wordBytes (BitVec.ofNat 96 w)),
    tlb := [], walks := [], raised := [],
    lines := ⟨[], [], [], [], [], [], []⟩,
    parts := tabPut s.parts 0 { Part48.reset with w0 := 0x00001C00C4008101#64, running := some 0 },
    ctxs := tabPut s.ctxs 0 placedCtx,
    grids := tabPut s.grids 0 placedGrid,
    teams := tabPut s.teams 0 placedTeam,
    groups := [(0, placedGrp s.cycle)],
    accs := [], ops := [], fars := [], issued := [], barEvents := [], barDue := [],
    serial := max s.serial 1,
    agenda := [.issue 0],
    posted := [], later := [], sub := 0,
    cur := none }

end Sys2Proof.Machine
end

