-- ==== Sys2Proof/Machine/Step.lean ====
section
/-! DEFINITION. One step of the package, and the placing of a word that the next step runs. -/

namespace Sys2Proof.Machine

open Sys2Proof

/-- A scheduler issues from the group it picks (R229), once in a cycle: the word it fetches runs with that group as current. -/
def stepIssue (s : State) (sched : Nat) : Host.Outcome State Fault Refusal :=
  if s.issued.contains sched then .next s
  else
    match pickGroup s sched with
    | none => .next s
    | some (k, g) =>
      match fetch { unyield s sched k with issued := sched :: s.issued } k (releaseSlots s.cycle g) with
      | (s1, .cause c) => takeFault s1 k c 0
      | (s1, .wait) => .next (noIssue s1 k)
      | (s1, .word i) => exec i { s1 with cur := some k }

/-- An entry of the agenda that is neither an issue nor an event: its effect. -/
def stepInput (s : State) : Choice → State
  | .write pa key ver cmp bytes => hostWrites s pa key ver cmp bytes
  | .idle n => idleFor s n
  | .evict core line => evictLine s core line
  | .holders slot vfs => setHolders s slot vfs
  | .l1rows n => setL1rows s n
  | .session vf x => setSession s vf x
  | .peer pkg links => peerChange s pkg links
  | .inbox => serveInbox s
  | .issue _ | .event _ | .same _ | .within .. => s

/-- One entry of the agenda. What comes from outside waits at the end of the agenda while the clocks are stopped (R23), and what the
host does after a write that waits, behind it (R134). -/
def stepChoice (s : State) (c : Choice) : Host.Outcome State Fault Refusal :=
  if hostWaits s c then .next { s with later := s.later ++ [c] }
  else
    match c with
    | .issue sched | .same (.issue sched) => stepIssue s sched
    | .event i | .same (.event i) | .within _ i => if isWordRow i then .next s else exec i s
    | .same _ => .next s
    | c => .next (if s.pkg.frozen then { s with agenda := s.agenda ++ [c] } else stepInput s c)

/-- The model's own choice. -/
def stepAuto (s : State) : Host.Outcome State Fault Refusal :=
  match autoTurn s with
  | .inl sched => stepIssue s sched
  | .inr f => f s

/-- One step: a cycle passes and the next entry of the agenda, or the model's own choice, is performed. -/
def step (s : State) : Host.Outcome State Fault Refusal :=
  match takeChoice s with
  | (some c, s1) => stepChoice (entryTime s1 c) c
  | (none, s1) => stepAuto (tick s1)

/-- The instruction of `nbits` bits placed where the next step fetches it; every bit above is zero. -/
def State.withFetchWord (s : State) (nbits w : Nat) : State := placeWord s (w % 2 ^ nbits)

end Sys2Proof.Machine
end

