-- ==== Sys2Proof/Machine/Registers.lean ====
section
/-! DEFINITION. What the registers read as (00_scope R6, R7; 01_device R31; 04_memory R111; 06_versions R158; 07_page R176; 08_context R178,
R182, R192, R193, R198; 11_queue R242, R249; 12_barrier R270; 13_link R275; 20_debug R409, R412 to R417, R421). A read changes no
state but the latch of PRFCNT, which PRFCNT_LOW_READ copies. -/

namespace Sys2Proof.Machine

open Sys2Proof

/-- Who reads: the physical function, a VF through its own BAR, or the debug port. -/
inductive Reader where
  | physical
  | vf (v : Nat)
  | port
  deriving DecidableEq, Repr

/-- Codes of state fields (R31, R111, R182, R249, R275). -/
def bootCode : Boot → Nat
  | .reset => 0 | .rom => 1 | .awaitImage => 2 | .verify => 3 | .run => 4 | .failed => 5
def ctxCode : CtxState → Nat
  | .empty => 0 | .loaded => 1 | .running => 2 | .halting => 3 | .halted => 4 | .saving => 5 | .saved => 6 | .restoring => 7
def winCode : WinState → Nat
  | .empty => 0 | .active => 1 | .rekeying => 2
def wqCode : WqState → Nat
  | .unbound => 0 | .open => 1 | .paused => 2 | .draining => 3 | .error => 4 | .closed => 5
def linkCode : LinkState → Nat
  | .down => 0 | .training => 1 | .active => 2 | .degraded => 3 | .fenced => 4 | .draining => 5

/-- A bit at its place. -/
def bitAt (b : Bool) (i : Nat) : Nat := if b then 2 ^ i else 0

/-- DIESTAT of a die (R31). -/
def diestat (s : State) (die : Nat) : Nat :=
  let d := getDie s die
  d.softcnt % 2 ^ 32 * 2 ^ 32 + d.temp % 256 * 2 ^ 24 + bitAt d.trip 7 + bitAt s.pkg.frozen 6 + (if die = 0 then bootCode s.pkg.boot else 0)

/-- FREE and POOLWAITS of a die (R158). -/
def sumpStat (s : State) (die : Nat) : Nat :=
  let d := getDie s die
  sat32 (poolRecords s - d.poolUsed) * 2 ^ 32 + sat32 d.poolWaits

/-- WKCTL of a window key slot (R111). -/
def wkctl (s : State) (slot : Nat) : Nat :=
  match tabGet s.wins slot with
  | some w => (if w.state = .rekeying then sat32 w.todo.length else 0) * 2 ^ 32 + winCode w.state
  | none => 0

/-- LINKSTAT of a link (R275). -/
def linkstat (s : State) (l : Nat) : Nat :=
  let x := getLink s l
  x.errcnt % 2 ^ 32 * 2 ^ 32 + x.peer % 1024 * 2 ^ 22 + x.lanes % 16 * 2 ^ 12 + linkCode x.state

/-- A word of a work queue's registers (R249). -/
def wqRead (s : State) (q off : Nat) : Nat :=
  let w := getWq s q
  match off with
  | 0x00 => w.base.toNat
  | 0x08 => w.vf % 512 * 2 ^ 43 + w.slot % 16 * 2 ^ 39 + wqCode w.state
  | 0x10 => w.head % 2 ^ 32 * 2 ^ 32 + w.tail % 2 ^ 32
  | 0x18 => w.cause % 256 * 2 ^ 56 + w.index % 2 ^ 32
  | _ => 0

/-- CTXSTAT of a VF (R182). -/
def ctxstat (s : State) (v : Nat) : Nat :=
  let x := getVf s v
  x.cur % 16 * 2 ^ 60 + bitAt x.gsp 59 + bitAt (busyVf s v) 58 + statCause s v % 256 * 2 ^ 48 +
    (List.range 16).foldl (fun n i => n + (tabGet s.ctxs (v * 16 + i)).elim 0 (fun c => ctxCode c.state) * 2 ^ (3 * i)) 0

/-- VFSCHED of a VF: BUCKET as it stands at this moment (R193). -/
def vfsched (s : State) (v : Nat) : Nat :=
  let x := getVf (accrue s v) v
  (x.bucket % 2 ^ 22).toNat * 2 ^ 42 + x.cap % 8 * 2 ^ 13 + x.rate % 2 ^ 11

/-- A register of a VF's block (R182, R192, R193, R198, R242, R412 to R417): the rings' are those of CUR (assumption log, row 71). -/
def vfRead (s : State) (r : Reader) (v off : Nat) : Nat :=
  let x := getVf s v
  let own := match r with | .vf _ => true | _ => false
  let ring := fun (f : Ctx → Nat) => (tabGet s.ctxs (v * 16 + x.cur)).elim 0 f
  if off = 0x08 then ctxstat s v
  else if off = 0x10 then (if own then 0 else vfsched s v)
  else if off = 0x18 then (if own then 0 else bitAt x.key.isSome 0)
  else if off = 0x20 then ring (fun c => c.ev.head % 2 ^ 32)
  else if off = 0x28 then ring (fun c => sat32 c.ev.drops * 2 ^ 32 + c.ev.tail % 2 ^ 32)
  else if off = 0x30 then ring (fun c => c.ne.head % 2 ^ 32)
  else if off = 0x38 then ring (fun c => c.ne.tail % 2 ^ 32)
  else if off = 0x40 then ring (fun c => c.fl.head % 2 ^ 32)
  else if off = 0x48 then ring (fun c => c.fl.tail % 2 ^ 32)
  else if off = 0x50 then x.capidx.toNat
  else if off = 0x58 then
    (if fld x.capidx 5 0 < 16 then 0
     else (tabGet s.ctxs (v * 16 + fld x.capidx 9 6)).elim 0 (fun c => (tabGetD c.shared (fld x.capidx 5 0) 0).toNat))
  else if off = 0x78 then x.prfctl.toNat
  else if off = 0x80 then x.prfbase.toNat
  else if off = 0x88 then x.prfhead % 2 ^ 32
  else if off = 0x90 then x.prftail % 2 ^ 32
  else if 0x98 ≤ off ∧ off < 0xB8 then (tabGetD x.prfsel ((off - 0x98) / 8) 0).toNat
  else if 0xB8 ≤ off ∧ off < 0xD8 then
    (if off % 8 = 4 then tabGetD (if own then x.latch else s.pkg.pfLatch) ((off - 0xB8) / 8) 0 else cntVal s v 0 ((off - 0xB8) / 8))
  else if off = 0xD8 then x.lcrctl.toNat
  else if off = 0xE0 then x.lcridx
  else if off = 0xE8 then (if x.lcridx < 80 then (tabGetD x.lcr x.lcridx 0).toNat else 0)
  else 0

/-- A register of die 0's space beside those that every die has (R111, R174, R176, R178, R249): KEYSTAGE and FLTREPLAY are
write-only. -/
def pkgRead (s : State) (off : Nat) : Nat :=
  if off = 0x0300 then s.pkg.tlbinvVa.toNat
  else if off = 0x0308 then (invFields s.pkg.tlbinvCtl).toNat + bitAt s.pkg.tlbinvBusy 62
  else if off = 0x0310 then s.pkg.tlbinvDone % 2 ^ 64
  else if 0x2000 ≤ off ∧ off < 0x2800 ∧ off % 8 = 0 then wkctl s ((off - 0x2000) / 8)
  else if 0x4000 ≤ off ∧ off < 0x4600 then
    let x := getPart s ((off - 0x4000) / 32)
    match off % 32 with
    | 0 => x.w0.toNat
    | 8 => x.w1.toNat
    | 16 => x.w2.toNat
    | _ => 0
  else if 0x8000 ≤ off ∧ off < 0x10000 then wqRead s ((off - 0x8000) / 32) (off % 32)
  else 0

/-- A register that every die has (R31, R158, R270, R275, R409). -/
def dieRead (s : State) (die off : Nat) : Nat :=
  let d := getDie s die
  if off = 0x0100 then diestat s die
  else if off = 0x0200 then d.lwm % 2 ^ 64
  else if off = 0x0208 then sumpStat s die
  else if 0x0500 ≤ off ∧ off < 0x0530 then
    let l := die * 3 + (off - 0x0500) / 16
    match off % 16 with
    | 0 => (getLink s l).thresh % 2 ^ 16 * 2 ^ 16
    | 8 => linkstat s l
    | _ => 0
  else if off = 0x0700 then d.dbgsel.toNat
  else if off = 0x0708 then d.dbgstatus % 8 * 2 + bitAt d.dbgrun 0
  else if off = 0x0710 then d.dbgdata.toNat
  else if 0x0800 ≤ off ∧ off < 0x0A00 ∧ off % 8 = 0 then sat32 (getCore s (die * 64 + (off - 0x0800) / 8)).bardrop
  else 0

/-- What a register reads as, by the die and the offset from its management base: none where no one answers (a VF outside its
block, and the host while the functions are down, R23, R182, R283). Reserved bits and write-only fields read zero (R6, R7). After a
self-test that failed the debug port finds the failing unit in die 0's DBGDATA: R26 says that it is reported in the debug port, and
no register for it (DESIGN CHOICE, assumption log, row 90). -/
def registerRead (s : State) (r : Reader) (die off : Nat) : Option W64 :=
  if die ≥ 8 ∨ 2 ^ 37 ≤ off then none
  else
    let block := die == 0 && decide (0x100000 ≤ off) && decide (off < 0x100000 + 0x100 * 384)
    let v := (off - 0x100000) / 0x100
    let answers := match r with
      | .port => true
      | .physical => functionsUp s
      | .vf u => functionsUp s && block && u == v
    if !answers then none
    else if r = .port ∧ die = 0 ∧ off = 0x0710 ∧ s.pkg.boot = .failed ∧ s.pkg.failedUnit.isSome then
      some (BitVec.ofNat 64 (s.pkg.failedUnit.getD 0))
    else if block then some (BitVec.ofNat 64 (vfRead s r v (off % 0x100)))
    else some (BitVec.ofNat 64 (if die = 0 ∧ pkgRead s off ≠ 0 then pkgRead s off else dieRead s die off))

/-- What the physical function reads at a BAR0 offset (R282): none where the offset names another package or no die. -/
def barRead (s : State) (a : Nat) : Option W64 :=
  let (pkg, die, r) := bar0Of a
  if pkg ≠ s.pkg.id % 8 then none else registerRead s .physical die r

/-- Bytes of memory as the debug port reads them during a freeze (R421): a well line is decoded under its own key. -/
def portBytes (s : State) (pa n : Nat) : Option (List Byte) :=
  if !s.pkg.frozen then none
  else some ((List.range n).map (fun i =>
    let a := pa + i
    match placeOf s.pkg.id a with
    | .well .. => BitVec.ofNat 8 (viewNat s (((lineOf s (a / 128)).sealed).elim (.vf 0) (·.owner)) a 1)
    | .cistern .. => memByte s.mem a
    | _ => 0))

end Sys2Proof.Machine
end

