-- ==== Sys2Proof/Safety.lean ====
section
/-! DEFINITION. What a safe run is, and the terms the claims use: when an instruction is at the head of its group
with nothing holding it, and what a completed issue leaves. -/

namespace Sys2Proof

open Sys2Proof.Machine

/-- The step goes on. -/
def Goes (o : Host.Outcome State Fault Refusal) : Prop := ∃ t, o = .next t

/-- The canonical form of the state's memory. -/
def MemInv (s : State) : Prop := Memory.wf s.mem = true

/-- The group as its word finds it: slots whose latency has passed are released (R293), and no yield is noted. -/
def atIssue (s : State) (g : Grp) : Grp := { releaseSlots s.cycle g with yld := false }

/-- The current group and its key, where nothing holds the instruction: the group may issue (R186, R219, R231), the
word waits for no slot and no outstanding write (R232, R234, R293), and its registers and mode are in order (R296). -/
def headOf (i : Instr) (s : State) : Option (Nat × Grp) :=
  match s.cur with
  | none => none
  | some k =>
    match tabGet s.groups k, sig i, fields i with
    | some g0, some σ, some f =>
      if issueReady i (setGroup s k (atIssue s g0)) k (atIssue s g0) σ f then some (k, atIssue s g0) else none
    | _, _, _ => none

/-- No numerical cause of the group halts (R74). -/
def noHalt (g : Grp) : Bool := (List.range 5).all (fun c => !numHalts g c)

/-- The flags that the causes of an instruction set (R74, R77). -/
def flagsAfter (g : Grp) (n : Notes) : W64 :=
  (numEvents g n).foldl (fun f e => f ||| BitVec.ofNat 64 (2 ^ e.code)) g.numflag

/-- None of the causes an instruction noted is enabled: no numeric event is appended (R77). -/
def quiet (g : Grp) (n : Notes) : Bool := (numEvents g n).all (fun e => !numEnabled g e.code)

/-- The state changes as a write of the device's own does: memory and its lines, the WAITAs that it wakes, a fault found there,
and a request to another package where the ring lies in its host memory. -/
structure DeviceWrote (s t : State) : Prop where
  same : t = { s with
    mem := t.mem, lines := t.lines, accs := t.accs, waits := t.waits, raised := t.raised, fars := t.fars, serial := t.serial }

/-- What a completed issue leaves: group `k` is `g1`, with the flags that the causes
noted set; no other part of the state changes, but that an
enabled cause appends to the context's numeric ring (R77, R78) and profiling counts on the VF (R414, R416): lanes alone while
no session runs. -/
structure Done (s t : State) (k : Nat) (g g1 : Grp) (n : Notes) : Prop where
  group : ∃ fl, tabGet t.groups k = some { g1 with numflag := fl } ∧
    (fl = flagsAfter g1 n ∨ fl = flagsAfter g1 n ||| 0x20#64) ∧ (quiet g n = true → fl = flagsAfter g1 n)
  others : ∀ j, j ≠ k → tabGet t.groups j = tabGet s.groups j
  rest : DeviceWrote { s with groups := t.groups, ctxs := t.ctxs, vfs := t.vfs, cur := none } t
  still : quiet g n = true → t = { s with groups := t.groups, vfs := t.vfs, cur := none }
  vfs : (getVf s (ctxVf g.ctx)).prfctl.getLsbD 63 = false →
    ∃ l, t.vfs = tabPut s.vfs (ctxVf g.ctx) { getVf s (ctxVf g.ctx) with lcr := l }

/-- The group with a fixed-latency result on its way (R231): written after a counted distance of `n`. -/
def sends (g : Grp) (n : Nat) (slot : Option Nat) (ws : List RegW) : Grp :=
  { slotUp g slot with pend := g.pend ++ [⟨n, ws, slot, none⟩] }

/-- The group after its word has issued and goes on to the next one (R204, R229, R231). -/
def goesOn (s : State) (g : Grp) (h : Hdr) : Grp := hints s.cycle (advance s g) h

/-- The group with a variable-latency result on its way (R232): named by the state's serial number. -/
def awaits (s : State) (g : Grp) (slot : Option Nat) (ws : List RegW) : Grp :=
  { slotUp g slot with vres := g.vres ++ [⟨s.serial, ws, slot, none⟩] }

/-- The group after an instruction that moves paths: its hints, then the completions of R227 and R228 and the selection of
the next path (R224, R220); and the joins and entries that completed as lost. -/
def settled (s : State) (g : Grp) (h : Hdr) : Grp × List (Nat × Mask) := settle (hints s.cycle (marksSlot s g h) h) s.cycle settleFuel

/-- Every path is on chip, and no more return entries than fit there: nothing is spilled, refilled or read back (R214, R225). -/
def onChip (g : Grp) : Bool :=
  g.fromSpill.isNone && g.spilled.isEmpty && decide (g.paths.length ≤ 8) && decide (g.ras.length - g.rasSpilled ≤ 16)

/-- An instruction that moves paths and whose parked paths stay on chip: from the group its own effect leaves, the joins and
entries that are lost complete, and the next path runs (R224 to R228). -/
def PathDone (i : Instr) (h : Hdr) (s base : State) (k : Nat) (g G : Grp) (n : Notes) : Prop :=
  onChip (settled s G h).1 = true → ∃ t, exec i s = .next t ∧
    Done base t k g (settled s G h).1 { n with lost := n.lost ++ (settled s G h).2 }

/-- As `settled`, for an instruction that counts its own SET slot. -/
def settledOwn (s : State) (g : Grp) (h : Hdr) : Grp × List (Nat × Mask) := settle (hints s.cycle g h) s.cycle settleFuel

/-- As `PathDone`, for an instruction that counts its own SET slot. -/
def OwnDone (i : Instr) (h : Hdr) (s base : State) (k : Nat) (g G : Grp) (n : Notes) : Prop :=
  onChip (settledOwn s G h).1 = true → ∃ t, exec i s = .next t ∧
    Done base t k g (settledOwn s G h).1 { n with lost := n.lost ++ (settledOwn s G h).2 }

/-- The running path waits at its instruction, which executes again (R225): it is parked as `G` has it, nothing of the
instruction's hints is noted, and the next path runs. -/
def Parks (i : Instr) (s base : State) (k : Nat) (g G : Grp) : Prop :=
  let p := settle { G with step := false } s.cycle settleFuel
  onChip p.1 = true → ∃ t, exec i s = .next t ∧ Done base t k g p.1 { Notes.nil with lost := p.2 }

/-- One unit of a long instruction is done, and the group stays at it (R235): it is `G`, and nothing else changes but the counts of
the lanes that issued (R414). -/
def UnitDone (i : Instr) (s : State) (k : Nat) (g G : Grp) : Prop :=
  ∃ v, exec i s = .next { setGroup s k { G with step := false } with vfs := v, cur := none } ∧
    ((getVf s (ctxVf g.ctx)).prfctl.getLsbD 63 = false → ∃ l, v = tabPut s.vfs (ctxVf g.ctx) { getVf s (ctxVf g.ctx) with lcr := l })

/-- The instruction takes a fault on the state as it found it (R10). -/
def Traps (i : Instr) (s : State) (k : Nat) (g : Grp) (c a : Nat) : Prop := exec i s = takeFault (setGroup s k g) k c a

/-- The instruction of group `k` does not issue now, and executes again. -/
def Holds (i : Instr) (s : State) (k : Nat) (t : State) : Prop := exec i s = .next (noIssue t k)

/-- An instruction that only changes its group: it completes and goes on at PC + 1. -/
def Turns (i : Instr) (h : Hdr) (s : State) (k : Nat) (g G : Grp) (n : Notes) : Prop :=
  ∃ t, exec i s = .next t ∧ Done s t k g (goesOn s (marksSlot s G h) h) n

/-- What is said of an instruction at the head of its group, no cause of which halts. -/
def AtHead (i : Instr) (h : Hdr) (p : State → Nat → Grp → Env → Prop) : Prop :=
  i.wf = true → ∀ s k g, headOf i s = some (k, g) → noHalt g = true → p s k g (envOf s g h)

end Sys2Proof
end

