-- ==== Sys2Proof/Certificates/Slice0/Obligations.lean ====
section
/-! DEFINITION. Statements for the provers, from the rules of the spec. -/

namespace Sys2Proof.Claims

open Sys2Proof Sys2Proof.Machine

/-- What a lane instruction computes, as a rule of the spec states it: the word, its guard and hints, its latency, and its
result from what the word reads. -/
structure LaneRule where
  i : Instr
  h : Hdr
  lat : Lat
  res : Env → Except Nat LaneRes

/-- A lane instruction at the head of its group, no cause of which halts: its result is on its way to the registers it
names, its draws are made, and the group goes on at PC + 1; nothing else of the state changes (`Done`). Where its operands
raise a cause, it takes that fault on the state before it (R10). -/
def LaneRule.holds (r : LaneRule) : Prop :=
  r.i.wf = true → ∀ s k g, headOf r.i s = some (k, g) →
    (∀ x, noHalt g = true → r.res (envOf s g r.h) = .ok x → ∃ t, exec r.i s = .next t ∧
      match r.lat with
      | .fix n => Done s t k g (goesOn s (sends (advanceDraws g x.draws) n (hdrSlot r.h) x.writes) r.h) x.notes
      | _ => Done { s with serial := s.serial + 1 } t k g
          (goesOn s (awaits s (advanceDraws g x.draws) (hdrSlot r.h) x.writes) r.h) x.notes) ∧
    ∀ c, r.res (envOf s g r.h) = .error c → exec r.i s = takeFault (setGroup s k g) k c 0

/-- Saturation to the range of a TYPE, then wrapping to its width (R328). -/
def clamp (m : IntM) (x : Int) : Nat :=
  wrapInt m.ty.bits (if m.x.getLsbD 0 then min (max x (tyLo m.ty)) (tyHi m.ty) else x)

/-- Arithmetic of R328. -/
def r328 (w : RWord IntM) : List LaneRule :=
  let ty := w.m.ty
  let W := ty.bits
  let v := ival ty
  let a := opX ty w.a
  let b := opX ty w.b
  let c := opX ty w.c
  [⟨.iadd w, w.hdr, .fix 4, fun e => aluRes e w.d ty W [a, b] (f2 fun a b => clamp w.m (v a + v b))⟩,
   ⟨.isub w, w.hdr, .fix 4, fun e => aluRes e w.d ty W [a, b] (f2 fun a b => clamp w.m (v a - v b))⟩,
   ⟨.imul w, w.hdr, .fix 6, fun e => aluRes e w.d ty W [a, b]
      (f2 fun a b => wrapInt W (if w.m.x.getLsbD 0 then v a * v b / 2 ^ W else v a * v b))⟩,
   ⟨.imad w, w.hdr, .fix 6, fun e => aluRes e w.d ty W [a, b, c] (f3 fun a b c => clamp w.m (v a * v b + v c))⟩,
   ⟨.imulw w, w.hdr, .fix 6, fun e => aluRes e w.d ty 64 [a, b] (f2 fun a b => wrapInt 64 (v a * v b))⟩,
   ⟨.imadw w, w.hdr, .fix 6, fun e => aluRes e w.d ty 64 [a, b, opX (wideTy ty) w.c]
      (f3 fun a b c => wrapInt 64 (v a * v b + ival (wideTy ty) c))⟩,
   ⟨.imin w, w.hdr, .fix 4, fun e => aluRes e w.d ty W [a, b] (f2 fun a b => wrapInt W (min (v a) (v b)))⟩,
   ⟨.imax w, w.hdr, .fix 4, fun e => aluRes e w.d ty W [a, b] (f2 fun a b => wrapInt W (max (v a) (v b)))⟩,
   ⟨.iabs w, w.hdr, .fix 4, fun e => aluRes e w.d ty W [a] (f1 fun a => clamp w.m (|v a|))⟩,
   ⟨.ineg w, w.hdr, .fix 4, fun e => aluRes e w.d ty W [a] (f1 fun a => clamp w.m (-(v a)))⟩]

/-- Shifts of R329. -/
def r329 (w : RWord IntM) : List LaneRule :=
  let ty := w.m.ty
  let W := ty.bits
  let flag := w.m.x.getLsbD 0
  let amt := fun n : Nat => if flag then n % W else n
  let ops := [opX ty w.a, opSv .ui32 w.b]
  [⟨.shl w, w.hdr, .fix 4, fun e => aluRes e w.d ty W ops (f2 fun a n => if W ≤ amt n then 0 else a * 2 ^ amt n % 2 ^ W)⟩,
   ⟨.shr w, w.hdr, .fix 4, fun e => aluRes e w.d ty W ops (f2 fun a n => wrapInt W (ival ty a / 2 ^ min (amt n) W))⟩,
   ⟨.rot w, w.hdr, .fix 4, fun e => aluRes e w.d ty W ops
      (f2 fun a n => rotR W a (if flag then (W - n % W) % W else n % W))⟩,
   ⟨.shfw w, w.hdr, .fix 4, fun e => aluRes e w.d .b32 32 [opX .b32 w.a, opX .b32 w.b, opSv .ui32 w.c]
      (f3 fun a b c =>
        let x := b % 2 ^ 32 * 2 ^ 32 + a % 2 ^ 32
        let n := if w.m.x.getLsbD 1 then c % 32 else min c 32
        if flag then x * 2 ^ n / 2 ^ 32 % 2 ^ 32 else x / 2 ^ n % 2 ^ 32)⟩]

/-- The function of one bit that BOP names (R330). -/
def bopBit (op : Nat) (a b c : Bool) : Bool :=
  match op with
  | 0 => a && b
  | 1 => a || b
  | 2 => a != b
  | 3 => a && !b
  | 4 => a || !b
  | 5 => !(a && b)
  | 6 => !(a || b)
  | 7 => a == b
  | 8 => a && b && c
  | 9 => a || b || c
  | 10 => (a != b) != c
  | 11 => a && b || a && c || b && c
  | 12 => if c then b else a
  | 13 => a && b || c
  | 14 => (a != b) && c
  | _ => !a

/-- BOP of R330: bit by bit over the width. -/
def bopRule (w : RWord IntM) : LaneRule :=
  ⟨.bop w, w.hdr, .fix 4, fun e => aluRes e w.d w.m.ty w.m.ty.bits [opX w.m.ty w.a, opX w.m.ty w.b, opX w.m.ty w.c]
    (f3 fun a b c => ((List.range w.m.ty.bits).map fun i =>
      if bopBit w.m.x.toNat (a.testBit i) (b.testBit i) (c.testBit i) then 2 ^ i else 0).sum)⟩

/-- PLOP of R330. -/
def plopRule (w : RWord (BitVec 12)) : LaneRule :=
  ⟨.plop w, w.hdr, .fix 4, fun e => .ok (predRes e w.d fun t =>
    let a := rdPred e w.a t
    let b := rdPred e w.b t
    let x := match w.m.toNat / 32 % 8 with
      | 0 => a && b
      | 1 => a || b
      | 2 => a != b
      | 3 => a && !b
      | _ => a || !b
    [match w.m.toNat / 256 with
      | 1 => x && rdPred e w.c t
      | 2 => x || rdPred e w.c t
      | 3 => x != rdPred e w.c t
      | _ => x])⟩

/-- Bit fields and counts of R331. -/
def r331 (w : RWord IntM) : List LaneRule :=
  let ty := w.m.ty
  let W := ty.bits
  let len := fun ctl : Nat => if ctl % 256 < W then min (ctl / 256 % 256) (W - ctl % 256) else 0
  [⟨.bfe w, w.hdr, .fix 4, fun e => aluRes e w.d ty W [opX ty w.a, opSv .ui32 w.b]
      (f2 fun a ctl => if len ctl = 0 then 0 else
        let f := a / 2 ^ (ctl % 256) % 2 ^ len ctl
        if ty.isSi then sext (len ctl) W f else f)⟩,
   ⟨.bfi w, w.hdr, .fix 4, fun e => aluRes e w.d ty W [opX ty w.a, opSv .ui32 w.b, opX ty w.c]
      (f3 fun a ctl c => if len ctl = 0 then c else
        c - c / 2 ^ (ctl % 256) % 2 ^ len ctl * 2 ^ (ctl % 256) + a % 2 ^ len ctl * 2 ^ (ctl % 256))⟩,
   ⟨.popc w, w.hdr, .fix 4, fun e => aluRes e w.d ty 32 [opX ty w.a] (f1 fun a => ((List.range W).filter fun i => a.testBit i).length)⟩,
   ⟨.clz w, w.hdr, .fix 4, fun e => aluRes e w.d ty 32 [opX ty w.a] (f1 fun a => if a = 0 then W else W - 1 - Nat.log2 a)⟩,
   ⟨.brev w, w.hdr, .fix 4, fun e => aluRes e w.d ty W [opX ty w.a]
      (f1 fun a => ((List.range W).map fun i => if a.testBit i then 2 ^ (W - 1 - i) else 0).sum)⟩]

/-- ISETP and SEL of R332. -/
def r332 (w : RWord IntM) : List LaneRule :=
  let ty := w.m.ty
  [⟨.isetp w, w.hdr, .fix 4, fun e => .ok (predRes e w.d fun t => (lanesOf e.g t).map fun l =>
      let a := ival ty (rd e ty w.a l)
      let b := ival ty (rd e ty w.b l)
      let x := match w.m.x.toNat % 8 with
        | 0 => a == b
        | 1 => a != b
        | 2 => decide (a < b)
        | 3 => decide (a ≤ b)
        | 4 => decide (b < a)
        | _ => decide (b ≤ a)
      match w.m.x.toNat / 8 with
        | 1 => x && rdPred e w.c t
        | 2 => x || rdPred e w.c t
        | 3 => x != rdPred e w.c t
        | _ => x)⟩,
   ⟨.sel w, w.hdr, .fix 4, fun e =>
      match w.d with
      | .v i => .ok ⟨((activeLanes e).map fun l =>
          wrV i.toNat l ty.span (rd e ty (if rdPred e w.c (threadOf e.g l) then w.a else w.b) l)).flatten, Notes.nil, []⟩
      | _ =>
        let ts := activeThreads e
        if ts.any (rdPred e w.c) && ts.any (fun t => !rdPred e w.c t) then .error fcNonuniform
        else aluRes e w.d ty ty.bits [opX ty w.a, opX ty w.b] (f2 fun a b => if ts.any (rdPred e w.c) then a else b)⟩]

/-- Moves of R333. -/
def r333 (w : RWord IntM) (v : IWord IntM) : List LaneRule :=
  [⟨.mov w, w.hdr, .fix 4, fun e => aluRes e w.d w.m.ty w.m.ty.bits [opX w.m.ty w.a] (f1 fun a => a)⟩,
   ⟨.movi v, v.hdr, .fix 4, fun e => aluRes e v.d v.m.ty 32 [] fun _ => v.imm.toNat⟩,
   ⟨.movih v, v.hdr, .fix 4, fun e => .ok ⟨match v.d with
      | .s i => if e.act = 0 then [] else [⟨.sh i.toNat, BitVec.ofNat 64 v.imm.toNat⟩]
      | .v i => ((activeLanes e).map fun l => wrV (i.toNat + 1) l 1 v.imm.toNat).flatten
      | _ => [], Notes.nil, []⟩⟩]

/-- The elements of a lane in the signedness of a packed TYPE (R32). -/
def packed (ty : Ty) (x : Nat) : List Int := (List.range (32 / ty.bits)).map fun i => ival ty (x / 2 ^ (ty.bits * i) % 2 ^ ty.bits)

/-- LEA, ISAD and IDOT of R334. -/
def r334 (w : RWord IntM) : List LaneRule :=
  let ty := w.m.ty
  [⟨.lea w, w.hdr, .fix 4, fun e => aluRes e w.d ty 64 [opX .ui64 w.a, opX ty w.b, opSv .ui64 w.c]
      (f3 fun a b c => wrapInt 64 (a + ival ty b * 2 ^ (c % 64)))⟩,
   ⟨.isad w, w.hdr, .fix 6, fun e => aluRes e w.d ty 32 [opX ty w.a, opX ty w.b, opX .ui32 w.c]
      (f3 fun a b c => wrapInt 32 (c + ((List.zipWith (fun x y => |x - y|) (packed ty a) (packed ty b)).sum)))⟩,
   ⟨.idot w, w.hdr, .fix 6, fun e =>
      let tb := if w.m.x.getLsbD 0 then otherSign ty else ty
      aluRes e w.d ty 32 [opX ty w.a, opX tb w.b, opX .si32 w.c]
      (f3 fun a b c =>
        let x := toInt 32 c + (List.zipWith (· * ·) (packed ty a) (packed tb b)).sum
        wrapInt 32 (if w.m.x.getLsbD 1 then min (max x (-2 ^ 31)) (2 ^ 31 - 1) else x))⟩]

/-- BSEL of R334: byte i of the result is byte SEL[3i+2:3i] of the pool of B above A. -/
def bselRule (w : RWord (BitVec 12)) : LaneRule :=
  let pick := fun a b sel : Nat => ((List.range 4).map fun i =>
    (a % 2 ^ 32 + b % 2 ^ 32 * 2 ^ 32) / 2 ^ (8 * (sel / 2 ^ (3 * i) % 8)) % 256 * 2 ^ (8 * i)).sum
  ⟨.bsel w, w.hdr, .fix 4, fun e =>
    match w.c with
    | .none => aluRes e w.d .b32 32 [opX .b32 w.a, opX .b32 w.b] (f2 fun a b => pick a b w.m.toNat)
    | c => aluRes e w.d .b32 32 [opX .b32 w.a, opX .b32 w.b, opX .ui32 c] (f3 pick)⟩

/-- The source thread of XLANE (R336): none where the table does not define it. -/
def xlaneFrom (mode n t b : Nat) : Option Nat :=
  let base := t - t % n
  let r := t % n
  match mode with
  | 0 => if b < n then some (base + b) else none
  | 1 => some (base + (r + b) % n)
  | 2 => if b < n then some (base + (r ^^^ b)) else none
  | 3 => some (base + n - 1 - r)
  | _ =>
    let x : Int := (t : Int) + toInt 32 b
    if (base : Int) ≤ x ∧ x < (base + n : Nat) then some x.toNat else none

/-- XLANE (R336), MATCH (R337), RDLANE and WRLANE (R338). -/
def laneCross (w : RWord IntM) : List LaneRule :=
  let ty := w.m.ty
  let mode := w.m.x.toNat
  [⟨.xlane w, w.hdr, .fix 8, fun e =>
      let c := rdW e .ui64 64 w.c 0
      let n := if c = 0 then nThreads e.g else c
      let bt := if mode = 4 then Ty.si32 else .ui32
      if mode = 3 ∧ w.b ≠ .imm 0 then .error fcIllegalOpnd
      else if (isImm w.c || e.act != 0) && !(c == 0 || [1, 2, 4, 8, 16, 32, 64].any fun p => p == c && decide (c ≤ nThreads e.g)) then
        .error fcIllegalOpnd
      else match w.d with
        | .v i => .ok ⟨((activeLanes e).map fun l =>
            let t := threadOf e.g l
            wrV i.toNat l ty.span (match xlaneFrom mode n t (svW e bt 32 w.b t).1 with
              | some u => rd e ty w.a (if absentThread e.g u then l else laneOf e.g u (sibOf e.g l))
              | none => rd e ty w.a l)).flatten, Notes.ofSplit (svAll e bt 32 w.b).2, []⟩
        | _ => .ok ⟨[], Notes.nil, []⟩⟩,
   ⟨.matchI w, w.hdr, .fix 8, fun e =>
      let vals := svAll e ty ty.width w.a
      match w.d with
      | .v i => .ok ⟨((activeLanes e).map fun l =>
          let x := (vals.1.find? fun p => p.1 == threadOf e.g l).elim 0 (·.2)
          wrV i.toNat l 1 ((vals.1.find? fun p => p.2 == x).elim 0 (·.1))).flatten, Notes.ofSplit vals.2, []⟩
      | _ => .ok ⟨[], Notes.nil, []⟩⟩,
   ⟨.rdlane w, w.hdr, .fix 8, fun e =>
      let i := rdW e .ui64 64 w.b 0
      if !laneIdxOk e w.b then .error fcIllegalOpnd
      else match w.d with
        | .v d => .ok ⟨((activeLanes e).map fun l => wrV d.toNat l ty.span (rd e ty w.a (laneOf e.g i (sibOf e.g l)))).flatten, Notes.nil, []⟩
        | .s d =>
          let x := svW e ty ty.width w.a i
          .ok ⟨if e.act = 0 then [] else wrS d.toNat 1 x.1, Notes.ofSplit (if x.2 && e.act != 0 then threadMask e.g i else 0), []⟩
        | _ => .ok ⟨[], Notes.nil, []⟩⟩,
   ⟨.wrlane w, w.hdr, .fix 8, fun e =>
      match unW e ty ty.width w.a with
      | (none, _) => .error fcNonuniform
      | (some x, sp) =>
        let i := rdW e .ui64 64 w.b 0
        if !laneIdxOk e w.b then .error fcIllegalOpnd
        else match w.d with
          | .v d => .ok ⟨((if (activeThreads e).contains i then lanesOf e.g i else []).map fun l => wrV d.toNat l ty.span x).flatten,
              Notes.ofSplit sp, []⟩
          | _ => .ok ⟨[], Notes.nil, []⟩⟩]

/-- PCOL (R337). -/
def pcolRule (w : RWord (BitVec 12)) : LaneRule :=
  ⟨.pcol w, w.hdr, .fix 8, fun e =>
    let n := (activeThreads e).length
    let yes := (activeThreads e).filter (rdPred e w.a)
    let k := yes.length
    let s := match w.d with | .s i => i.toNat | _ => 64
    .ok (match w.m.toNat / 32 with
      | 0 => predRes e w.d fun _ => [k == n]
      | 1 => predRes e w.d fun _ => [decide (0 < k)]
      | 2 => predRes e w.d fun _ => [k == 0]
      | 3 => predRes e w.d fun _ => [k == 0 || k == n]
      | 4 => ⟨if w.d.kind != .s || n == 0 then [] else wrMask e.g s (maskOf e.g yes (fun _ => true) &&& e.act), Notes.nil, []⟩
      | _ => ⟨if w.d.kind != .s || n == 0 then [] else wrS s 1 k, Notes.nil, []⟩)⟩

/-- The combination of sibling `q` of A over threads, from a start (R339). -/
def comb (e : Env) (ty : Ty) (op : Nat) (a : Opnd) (ts : List Nat) (start : Nat) (q : Nat) : Nat :=
  ts.foldl (fun x t => redOp ty op x (rd e ty a (laneOf e.g t q))) start

/-- The partials of a long REDI or SCAN: one for each sibling index. -/
def combs (e : Env) (ty : Ty) (op : Nat) (a : Opnd) (ts : List Nat) (start : List Nat) : List Nat :=
  (sibIdx e.g).map fun q => comb e ty op a ts (start.getD q (redId ty op)) q

/-- The threads that the issue of a REDI or SCAN that writes takes: the upper half in a paired group (R340). -/
def lastThreads (e : Env) : List Nat := if e.g.paired then halfThreads e 1 else activeThreads e

/-- REDI and SCAN (R339, R340): in a paired group the first issue holds the lower half's totals with PX, SCAN writing its
threads' results at once, and does not advance; the other issue, and the only one of another group, sends the result. -/
def groupOps (w : RWord IntM) : Prop :=
  let ty := w.m.ty
  let op := w.m.x.toNat
  let opS := w.m.x.toNat % 8
  let d := match w.d with | .v i => i.toNat | _ => 0
  (∀ s k g, headOf (.redi w) s = some (k, g) → noHalt g = true →
    let e := envOf s g w.hdr
    if g.paired && g.px == 0 && e.act != 0 then
      UnitDone (.redi w) s k g { g with px := 1, partial_ := combs e ty op w.a (halfThreads e 0) [] }
    else
      let r := rediRes e ty w.d (combs e ty op w.a (lastThreads e) g.partial_)
      ∃ t, exec (.redi w) s = .next t ∧ Done { s with serial := s.serial + 1 } t k g
        (goesOn s (awaits s { g with px := 0, partial_ := [] } (hdrSlot w.hdr) r.writes) w.hdr) r.notes) ∧
  (∀ s k g, headOf (.scan w) s = some (k, g) → noHalt g = true →
    let e := envOf s g w.hdr
    let ws := fun ts start => scanWrites e ty opS (w.m.x.getLsbD 3) w.a d start ts
    if g.paired && g.px == 0 && e.act != 0 then
      UnitDone (.scan w) s k g { landCells g (ws (halfThreads e 0) []) with
        px := 1, partial_ := combs e ty opS w.a (halfThreads e 0) [] }
    else
      ∃ t, exec (.scan w) s = .next t ∧ Done { s with serial := s.serial + 1 } t k g
        (goesOn s (awaits s { g with px := 0, partial_ := [] } (hdrSlot w.hdr) (ws (lastThreads e) g.partial_)) w.hdr) Notes.nil)

/-- Two operands of the TYPE, and three. -/
def fa (w : RWord FltM) : ASpec := opX w.m.ty w.a
def fb (w : RWord FltM) : ASpec := opX w.m.ty w.b
def fc (w : RWord FltM) : ASpec := opX w.m.ty w.c

/-- Arithmetic of R347: the exact result of each element, rounded once in the direction of R344; CANCEL of R76. -/
def r347 (w : RWord FltM) : List LaneRule :=
  let ty := w.m.ty
  let rnd := fun (dir : RDir) (x : XV) => roundTo (fmtOf ty) dir x
  let v := Machine.decode ty
  let res := fun note ps f e => fltRes e w.d ty w.m.rnd true note ps f
  [⟨.fadd w, w.hdr, .fix 5, res .cancel [fa w, fb w] fun dir => f2 fun a b => rnd dir (xAdd (v a) (v b))⟩,
   ⟨.fsub w, w.hdr, .fix 5, res .cancel [fa w, fb w] fun dir => f2 fun a b => rnd dir (xAdd (v a) (xNeg (v b)))⟩,
   ⟨.fmul w, w.hdr, .fix 5, res .no [fa w, fb w] fun dir => f2 fun a b => rnd dir (xMul (v a) (v b))⟩,
   ⟨.ffma w, w.hdr, .fix 5, res .cancel [fa w, fb w, fc w] fun dir => f3 fun a b c => rnd dir (xAdd (xMul (v a) (v b)) (v c))⟩]

/-- FDOT of R348: the group sum of the products, added to C with one rounding; one draw. -/
def fdotRule (w : RWord FltM) : LaneRule :=
  let ty := w.m.ty
  let span := 2 ^ (w.m.x.toNat % 4)
  let at_ := fun i x => Machine.decode ty (x / 2 ^ (ty.bits * i) % 2 ^ ty.bits)
  ⟨.fdot w, w.hdr, .fix 6, fun e =>
    match w.d with
    | .v d => .ok ⟨((activeLanes e).map fun l =>
        let a := rdW e ty (32 * span) w.a l
        let b := rdW e ty (32 * span) w.b l
        wrV d.toNat l 1 (accAdd (dirOf e w.m.rnd (threadOf e.g l) (sibOf e.g l) 0) (rd e .f32 w.c l)
          (groupSum ((List.range (span * (32 / min ty.bits 32))).map fun i => xMul (at_ i a) (at_ i b))))).flatten,
        Notes.nil, drawsOf e w.m.rnd 1⟩
    | _ => .ok ⟨[], Notes.nil, []⟩⟩

/-- Selection and classification of R349, and FSETP of R350. -/
def r349 (w : RWord FltM) : List LaneRule :=
  let ty := w.m.ty
  let nan := isNanBits ty
  let key := medKey ty ty.bits
  let res := fun f e => fltRes e w.d ty .none false .no [fa w, fb w] fun _ => f2 f
  let pick := fun (mx : Bool) (a b : Nat) =>
    if nan a && nan b then (fmtOf ty).nan.getD 0 else if nan a then b else if nan b then a
    else if mx then (if key b < key a then a else b) else if key b < key a then b else a
  let sign := 2 ^ (ty.bits - 1)
  let bit := fun x => x / sign % 2
  [⟨.fmin w, w.hdr, .fix 5, res (pick false)⟩,
   ⟨.fmax w, w.hdr, .fix 5, res (pick true)⟩,
   ⟨.fsgn w, w.hdr, .fix 5, res fun a b => a % sign + sign * (match w.m.x.toNat with
      | 0 => bit b
      | 1 => 1 - bit b
      | _ => (bit a + bit b) % 2)⟩,
   ⟨.fclass w, w.hdr, .fix 5, fun e => aluRes e w.d .ui32 32 [⟨w.a, ty, if w.d.kind == .s then ty.bits else 32, false⟩]
      (f1 fun a => fclassI ty (elemVal ty 0 a))⟩,
   ⟨.fsel w, w.hdr, .fix 5, fun e =>
      match w.d with
      | .v i => .ok ⟨((activeLanes e).map fun l =>
          wrV i.toNat l 1 (rd e ty (if rdPred e w.c (threadOf e.g l) then w.a else w.b) l)).flatten, Notes.nil, []⟩
      | _ =>
        let ts := activeThreads e
        if ts.any (rdPred e w.c) && ts.any (fun t => !rdPred e w.c t) then .error fcNonuniform
        else aluRes e w.d .b32 32 [fa w, fb w] (f2 fun a b => if ts.any (rdPred e w.c) then a else b)⟩,
   ⟨.fsetp w, w.hdr, .fix 5, fun e => .ok (predRes e w.d fun t => (lanesOf e.g t).map fun l =>
      let a := elemVal ty 0 (rd e ty w.a l)
      let b := elemVal ty 0 (rd e ty w.b l)
      let num := !(nan a || nan b)
      let x := numKey ty a
      let y := numKey ty b
      let r := match w.m.x.toNat % 8 with
        | 0 => num && x == y
        | 1 => !num || x != y
        | 2 => num && decide (x < y)
        | 3 => num && decide (x ≤ y)
        | 4 => num && decide (y < x)
        | 5 => num && decide (y ≤ x)
        | 6 => num
        | _ => !num
      if w.c.kind == .pred then (if w.m.x.getLsbD 3 then r || rdPred e w.c t else r && rdPred e w.c t) else r)⟩]

/-- Division, roots and functions of R351 and R352: the exact real, rounded once; DIVZ of R76. -/
def r351 (w : RWord FltM) : List LaneRule :=
  let v := Machine.decode .f32
  let one := fun (note : FNote) (f : XV → XV) (e : Env) =>
    fltRes e w.d .f32 w.m.rnd true note [opX .f32 w.a] fun dir => f1 fun a => roundTo (fmtOf .f32) dir (f (v a))
  [⟨.fdiv w, w.hdr, .var, fun e => fltRes e w.d .f32 w.m.rnd true (.divz (opX .f32 w.b)) [fa w, fb w]
      fun dir => f2 fun a b => roundTo (fmtOf .f32) dir (xDiv (v a) (v b))⟩,
   ⟨.fsqrt w, w.hdr, .var, one .no xSqrt⟩,
   ⟨.frcp w, w.hdr, .var, one (.divz (opX .f32 w.a)) (xDiv (.num false 1 0 false))⟩,
   ⟨.frsq w, w.hdr, .var, one (.divz (opX .f32 w.a)) xRsqrt⟩,
   ⟨.fexp2 w, w.hdr, .var, one .no xExp2⟩,
   ⟨.flog2 w, w.hdr, .var, one .no xLog2⟩,
   ⟨.fsin w, w.hdr, .var, one .no xSin⟩,
   ⟨.fcos w, w.hdr, .var, one .no xCos⟩,
   ⟨.ftanh w, w.hdr, .var, one .no xTanh⟩]

/-- F2I and I2F of R354, FRND and FSCALE of R355. -/
def r354 (w : RWord FltM) : List LaneRule :=
  let ty := w.m.ty
  let it := itype w.m.x.toNat
  let n := max 32 it.bits
  let toI := fun dir x =>
    let y := (convert ty it 0 dir x).getD 0
    if it.isSi && it.bits < 32 then sext it.bits 32 y else y
  let toF := fun dir x => roundTo (fmtOf ty) dir (Machine.decode it (x % 2 ^ it.bits))
  let dir := fun e l => dirOf e w.m.rnd (threadOf e.g l) (sibOf e.g l) 0
  [⟨.f2i w, w.hdr, .fix 5, fun e =>
      match w.d with
      | .v i => .ok ⟨((activeLanes e).map fun l => wrV i.toNat l (n / 32) (toI (dir e l) (elemVal ty 0 (rd e ty w.a l)))).flatten,
          Notes.nil, drawsOf e w.m.rnd 1⟩
      | _ => aluRes e w.d (if it.isSi then .si32 else .ui32) n [⟨w.a, ty, ty.bits, false⟩] (f1 (toI (dirS w.m.rnd)))⟩,
   ⟨.i2f w, w.hdr, .fix 5, fun e =>
      match w.d with
      | .v i => .ok ⟨((activeLanes e).map fun l => wrV i.toNat l 1 (toF (dir e l) (rd e it w.a l))).flatten,
          Notes.nil, if exactClass it ty then [] else drawsOf e w.m.rnd 1⟩
      | _ => aluRes e w.d .b32 ty.bits [⟨w.a, it, it.bits, false⟩] (f1 (toF (dirS w.m.rnd)))⟩,
   ⟨.frnd w, w.hdr, .fix 5, fun e => fltRes e w.d ty w.m.rnd true .no [fa w] fun dir => f1 fun a =>
      match Machine.decode ty a with
        | .num neg m x st => roundTo (fmtOf ty) dir (if quanta dir neg m x st 0 = 0 then .zero neg else .num neg (quanta dir neg m x st 0) 0 false)
        | _ => a⟩,
   ⟨.fscale w, w.hdr, .fix 5, fun e => fltRes e w.d ty w.m.rnd true .no [fa w, opX .si32 w.b] fun dir => f2 fun a b =>
      match Machine.decode ty a with
        | .num neg m x st => roundTo (fmtOf ty) dir (.num neg m (x + max (min (toInt 32 b) 1000) (-1000)) st)
        | _ => a⟩]

/-- FCVT of R353 with its own check of the IMM32: a vector form that no element's conversion stops converts each element; the scalar form converts one. -/
def fcvtRule (w : IWord FltM) : LaneRule :=
  let st := (tyOfCode (w.imm.toNat / 256 % 32)).getD .f32
  let dt := w.m.ty
  let pol := w.imm.toNat % 256
  let n := 32 / min (min st.bits dt.bits) 32
  let negated := match w.a with | .v _ _ x | .s _ _ x => x | _ => false
  let cv := fun dir x => if st = .e8m0 ∧ negated = true then cvtTo dt pol dir (exactClass st dt) (xNeg (Machine.decode st x))
    else convert st dt pol dir x
  let own := fun (r : Except Nat LaneRes) =>
    if 8192 ≤ w.imm.toNat ∨ !(tyOfCode (w.imm.toNat / 256 % 32)).any tyCvt then .error fcIllegalOpnd
    else if (dt.bits = 4 ∧ st.bits = 64) ∨ (dt.bits = 64 ∧ st.bits = 4) then .error fcIllegalMod
    else r
  ⟨.fcvt w, w.hdr, .fix 5, fun e =>
    match w.d with
    | .v i => own <|
      let lane := fun l => allCvt ((List.range n).map fun j =>
        cv (dirOf e w.m.rnd (threadOf e.g l) (sibOf e.g l) j)
          (rdW e st (max 32 (n * st.bits)) w.a l / 2 ^ (st.bits * j) % 2 ^ st.bits))
      if (activeLanes e).any fun l => (lane l).isNone then .error fcConv
      else .ok ⟨((activeLanes e).map fun l => wrV i.toNat l (max 1 (n * dt.bits / 32)) (Machine.pack dt.bits ((lane l).getD []))).flatten,
        Notes.nil, if exactClass st dt then [] else drawsOf e w.m.rnd n⟩
    | .s i =>
      match unW e st st.bits w.a with
      | (none, _) => .error fcNonuniform
      | (some x, m) => own <|
        if e.act = 0 then .ok ⟨[], Notes.ofSplit m, []⟩
        else match cv (dirS w.m.rnd) x with
          | none => .error fcConv
          | some y => .ok ⟨wrS i.toNat 1 (extS dt dt.bits y), Notes.ofSplit m, []⟩
    | _ => .ok ⟨[], Notes.nil, []⟩⟩

/-- DIGITS of R356 and the sibling instructions of R357. -/
def r357 (w : RWord FltM) : List LaneRule :=
  let ty := w.m.ty
  let j := match w.b with | .imm x => x.toNat | _ => 0
  let v := Machine.decode ty
  let each := fun rnd rounds f (e : Env) => Except.ok (ε := Nat) (sibRes e w.d ty rnd rounds w.a f)
  let i := match w.d with | .v i => i.toNat | _ => 0
  let isV := w.d.kind == .v
  let own := fun (r : LaneRes) => if 2 < j then Except.error fcIllegalOpnd else .ok r
  [⟨.digits w, w.hdr, .fix 8, each .none false fun _ _ a b c => digits ty a b c⟩,
   ⟨.sibrd w, w.hdr, .fix 6, fun e => own ⟨if isV then ((activeLanes e).map fun l =>
      wrV i l ty.span (rd e ty w.a (laneOf e.g (threadOf e.g l) j))).flatten else [], Notes.nil, []⟩⟩,
   ⟨.sibwr w, w.hdr, .fix 6, fun e => own ⟨if isV then (((activeLanes e).filter fun l => sibOf e.g l == j).map fun l =>
      wrV i l ty.span (rd e ty w.a l)).flatten else [], Notes.nil, []⟩⟩,
   ⟨.sibmed w, w.hdr, .fix 6, each .none false fun _ _ a b c => median ty ty.bits a b c⟩,
   ⟨.sibmean w, w.hdr, .fix 6, each w.m.rnd true fun dir _ a b c => roundTo (fmtOf ty) dir (xMean (v a) (v b) (v c))⟩,
   ⟨.sibdiff w, w.hdr, .fix 6, each w.m.rnd true fun dir k a b c =>
      roundTo (fmtOf ty) dir (xDiff (v (if k = 0 then a else if k = 1 then b else c)) (v a) (v b) (v c))⟩]

/-- FRED of R358: as REDI in its units, with the exact sum or the chosen bits of each sibling index. -/
def fredHolds (w : RWord FltM) : Prop :=
  let op := w.m.x.toNat
  ∀ s k g, headOf (.fred w) s = some (k, g) → noHalt g = true →
    let e := envOf s g w.hdr
    if g.paired && g.px == 0 && e.act != 0 then
      UnitDone (.fred w) s k g { g with px := 1, partial_ := fredTotals e op w.a (halfThreads e 0) [] }
    else
      let r := fredRes e w (fredTotals e op w.a (lastThreads e) g.partial_)
      ∃ t, exec (.fred w) s = .next t ∧ Done { s with serial := s.serial + 1 } t k g
        (goesOn s (awaits s (advanceDraws { g with px := 0, partial_ := [] } r.draws) (hdrSlot w.hdr) r.writes) w.hdr) r.notes

/-- The lanes of threads that are Active. -/
def activeOf (e : Env) (ts : List Nat) : Mask := maskOf e.g ts (fun _ => true) &&& e.act

/-- The Active threads that a condition takes: all of them without one (R307). -/
def takers (e : Env) (a : Opnd) : List Nat :=
  match a with
  | .none => activeThreads e
  | p => (activeThreads e).filter (rdPred e p)

/-- BRA and BRD of R307: the taken lanes at the target, the others of the path at PC + 1. -/
def branchRules (w : IWord (BitVec 12)) : Prop :=
  let taken := fun (e : Env) => takers e w.a
  let tgt := fun (g : Grp) => (g.pc : Int) + w.imm.toInt
  let moved := fun (s : State) (g : Grp) (e : Env) =>
    let m := activeOf e (taken e)
    splitPath g [((tgt g).toNat, m, false), (g.pc + 1, g.em &&& ~~~m, fallsOff s g.ctx g.pc)] s.cycle
  AtHead (.bra w) w.hdr (fun s k g e =>
    if activeThreads e = [] then PathDone (.bra w) w.hdr s s k g (advance s g) Notes.nil
    else if taken e ≠ [] ∧ (taken e).length ≠ (activeThreads e).length then Traps (.bra w) s k g fcNonuniform 0
    else if !inText s g.ctx (tgt g) then Traps (.bra w) s k g fcPcWrap 0
    else PathDone (.bra w) w.hdr s s k g (moved s g e) Notes.nil) ∧
  AtHead (.brd w) w.hdr (fun s k g e =>
    if activeThreads e = [] then PathDone (.brd w) w.hdr s s k g (advance s g) Notes.nil
    else if !inText s g.ctx (tgt g) then Traps (.brd w) s k g fcPcWrap 0
    else PathDone (.brd w) w.hdr s s k g (moved s g e) Notes.nil)

/-- One part of the path for each Active thread's target. -/
def partsTo (e : Env) (tg : List (Nat × Nat)) : List (Nat × Mask × Bool) := tg.map fun x => (x.2, threadMask e.g x.1 &&& e.act, false)

/-- BRX of R307: a target for each Active thread. -/
def brxRule (w : RWord (BitVec 12)) : Prop :=
  AtHead (.brx w) w.hdr (fun s k g e =>
    let tg := svAll e .ui64 64 w.a
    if tg.1 = [] then PathDone (.brx w) w.hdr s s k g (advance s g) Notes.nil
    else if tg.1.any fun x => !inText s g.ctx x.2 then Traps (.brx w) s k g fcPcWrap 0
    else PathDone (.brx w) w.hdr s s k g
      (splitPath g (partsTo e tg.1 ++ [(g.pc + 1, g.em &&& ~~~e.act, fallsOff s g.ctx g.pc)]) s.cycle) (Notes.ofSplit tg.2))

/-- The mask of JARM: D, or the EM of the running path; none with a bit 63:48 set. -/
def jarmMask (e : Env) (d : Dst) : Option Mask := match d with | .s r => rdMask e r.toNat | _ => some e.g.em

/-- Index of a join operand. -/
def joinNo (o : Opnd) : Nat := match o with | .join j => j.toNat | _ => 0

/-- JARM of R308 and R226: its checks in order, then the join is armed. -/
def jarmRule (w : IWord (BitVec 12)) : Prop :=
  let j := joinNo w.a
  AtHead (.jarm w) w.hdr (fun s k g e =>
    let t := (g.pc : Int) + w.imm.toInt
    let on := fun G => ∃ u, exec (.jarm w) s = .next u ∧ Done s u k g (goesOn s (marksSlot s G w.hdr) w.hdr) Notes.nil
    if e.act = 0 then on g
    else match jarmMask e w.d with
      | none => Traps (.jarm w) s k g fcIllegalOpnd 0
      | some m =>
        if !inText s g.ctx t then Traps (.jarm w) s k g fcPcWrap 0
        else if !siblingsAgree g m then Traps (.jarm w) s k g fcMaskSplit 0
        else if ((joinOf g j).armed && (allPaths g).any fun p => p.kind == .joined j) || !within m (liveLanes g) then
          Traps (.jarm w) s k g fcIllegalOpnd 0
        else on { g with joins := tabPut g.joins j ⟨true, false, m, 0, t.toNat⟩ })

/-- JARR of R308 and R226 to R228: a full join completes, another parks the lanes at it. -/
def jarrRule (w : RWord (BitVec 12)) : Prop :=
  let j := joinNo w.a
  AtHead (.jarr w) w.hdr (fun s k g e =>
    let x := joinOf g j
    let arr := x.arr ||| e.act
    let left := g.em &&& ~~~e.act
    let g1 := { advance s g with joins := tabPut g.joins j { x with arr := arr }, em := left, running := left != 0 }
    if e.act = 0 then PathDone (.jarr w) w.hdr s s k g (advance s g) Notes.nil
    else if !x.armed || !within e.act x.exp || (e.act &&& x.arr) != 0 then Traps (.jarr w) s k g fcIllegalOpnd 0
    else PathDone (.jarr w) w.hdr s s k g
      (if arr = x.exp then formPaths (closeJoin g1 j false) [(x.tgt, arr)] s.cycle
       else park g1 (.joined j) x.tgt e.act false 0 s.cycle) Notes.nil)

/-- JRD of R308. -/
def jrdRule (w : RWord (BitVec 12)) : LaneRule :=
  ⟨.jrd w, w.hdr, .fix 4, fun e =>
    let j := joinOf e.g (joinNo w.a)
    .ok ⟨match w.m.toNat % 4 with
      | 0 => wrEm e w.d j.exp
      | 1 => wrEm e w.d j.arr
      | _ => wrGroup e w.d 2 (j.tgt % 2 ^ 40 * 2 ^ 24 + (if j.lost then 2 else 0) + (if j.armed then 1 else 0)), Notes.nil, []⟩⟩

/-- The limit of the return-address stack (R214). -/
def rasLimit (s : State) (g : Grp) : Nat := if stackLog s g = 0 then 17 else 2 ^ (stackLog s g - 4)

/-- A call of R310 while the top sixteen entries hold the stack: one entry is pushed, one path for each target. -/
def callRule (i : Instr) (h : Hdr) (tg : Grp → Env → List (Nat × Int)) (n : Env → Notes) : Prop :=
  AtHead i h (fun s k g e =>
    let dests := (tg g e).map fun x => (x.1, x.2.toNat)
    let multi := dests.any fun x => some x.2 != (dests.head?).map (·.2)
    if tg g e = [] then PathDone i h s s k g (advance s g) (n e)
    else if rasLimit s g ≤ g.ras.length + 1 then Traps i s k g fcIllegalOpnd 0
    else if (tg g e).any fun x => !inText s g.ctx x.2 then Traps i s k g fcPcWrap 0
    else g.ras.length - g.rasSpilled < 16 →
      PathDone i h s s k g
        (splitPath { g with ras := g.ras ++ [⟨g.pc + 1, multi, g.em, g.em &&& ~~~e.act⟩] } (partsTo e dests) s.cycle) (n e))

/-- RET of R311, with its top entry on chip. -/
def retRule (w : RWord (BitVec 12)) : Prop :=
  AtHead (.ret w) w.hdr (fun s k g e =>
    let left := g.em &&& ~~~e.act
    let g1 := { advance s g with em := left, running := left != 0 }
    if e.act = 0 then PathDone (.ret w) w.hdr s s k g (advance s g) Notes.nil
    else match g.ras.getLast? with
      | none => Traps (.ret w) s k g fcIllegalOpnd 0
      | some top => g.rasSpilled < g.ras.length →
        let arr := top.arr ||| e.act
        if !within e.act top.exp || (e.act &&& top.arr) != 0 then Traps (.ret w) s k g fcIllegalOpnd 0
        else if !inText s g.ctx top.ret then Traps (.ret w) s k g fcPcWrap 0
        else PathDone (.ret w) w.hdr s s k g
          (if arr = top.exp then formPaths { g1 with ras := g1.ras.dropLast } [(top.ret, arr)] s.cycle
           else { g1 with ras := g1.ras.dropLast ++ [{ top with arr := arr }] }) Notes.nil)

/-- END of R314: the Active lanes leave their path and every join and entry. -/
def endRule (w : RWord (BitVec 12)) : Prop :=
  AtHead (.endI w) w.hdr (fun s k g e =>
    let left := g.em &&& ~~~e.act
    if e.act = 0 then PathDone (.endI w) w.hdr s s k g (advance s g) Notes.nil
    else PathDone (.endI w) w.hdr s s k g { advance s g with
      ended := g.ended ||| e.act, em := left, running := left != 0,
      joins := tabMap g.joins fun _ j => { j with arr := j.arr &&& ~~~e.act },
      ras := g.ras.map fun r => { r with arr := r.arr &&& ~~~e.act } } Notes.nil)

/-- The number of recipes of the group's object. -/
def recipesOf (s : State) (g : Grp) : Nat := match objOf s g with | some o => o.recipes.length | none => 0

/-- NOP of R314, YIELD and MARK of R318, WRSR of R320. -/
def groupRules (w : RWord (BitVec 12)) (v : IWord (BitVec 12)) : Prop :=
  AtHead (.nop w) w.hdr (fun s k g _ => Turns (.nop w) w.hdr s k g g Notes.nil) ∧
  AtHead (.yield w) w.hdr (fun s k g e => Turns (.yield w) w.hdr s k g
    (if e.act = 0 then g
     else if readyWaits (setGroup s k g) (schedOf k) then
       { g with state := if g.state = .active then .ready else g.state, yld := true, readyAt := s.cycle }
     else { g with yld := true }) Notes.nil) ∧
  AtHead (.mark v) v.hdr (fun s k g e =>
    if recipesOf s g ≤ v.imm.toNat then Traps (.mark v) s k g fcIllegalOpnd 0
    else Turns (.mark v) v.hdr s k g
      (if g.recovering && g.mark.valid && g.mark.pc == g.pc then { g with em := g.mark.em, draws := g.mark.draws, recovering := false }
       else if e.act = 0 then g
       else if markable g then { g with mark := ⟨true, g.pc, g.em, g.draws, v.imm.toNat⟩ }
       else { g with mark := { g.mark with valid := false } }) Notes.nil) ∧
  AtHead (.wrsr w) w.hdr (fun s k g e =>
    match w.d with
    | .sreg .draw =>
      let vs := svAll e .ui64 64 w.a
      Turns (.wrsr w) w.hdr s k g
        (if g.triplex then { g with draws := vs.1.foldl (fun t x => tabPut t x.1 (x.2 % 2 ^ 30)) g.draws } else g) (Notes.ofSplit vs.2)
    | .sreg r =>
      let u := unW e .ui64 64 w.a
      match u.1 with
      | none => Traps (.wrsr w) s k g fcNonuniform 0
      | some x =>
        let word := BitVec.ofNat 64 x
        Turns (.wrsr w) w.hdr s k g (if e.act = 0 then g else match r with
          | .numctl => { g with numctl := word &&& 0x1F1F1F1F#64 }
          | .numflag => { g with numflag := word &&& 0x3F#64 }
          | .rasbase => { g with rasbase := word }
          | .schk => { g with schk := x % 2 == 1 }
          | _ => g) (Notes.ofSplit u.2)
    | _ => True)

/-- The number of an s register operand. -/
def sNo (o : Opnd) : Nat := match o with | .s i _ _ => i.toNat | _ => 0

/-- WREM and EMP of R319 and R223: neither sets a bit. -/
def emRules (w : RWord (BitVec 12)) : Prop :=
  AtHead (.wrem w) w.hdr (fun s k g e =>
    if e.act = 0 then PathDone (.wrem w) w.hdr s s k g (advance s g) Notes.nil
    else match rdMask e (sNo w.a) with
      | none => Traps (.wrem w) s k g fcIllegalOpnd 0
      | some m =>
        if !siblingsAgree g m then Traps (.wrem w) s k g fcMaskSplit 0
        else if !emWriteOk g m then Traps (.wrem w) s k g fcIllegalOpnd 0
        else PathDone (.wrem w) w.hdr s s k g { advance s g with em := g.em &&& m } Notes.nil) ∧
  AtHead (.emp w) w.hdr (fun s k g e =>
    PathDone (.emp w) w.hdr s s k g (if e.act = 0 then advance s g else
      { advance s g with em := g.em &&& ~~~(maskOf g ((List.range (nThreads g)).filter fun t => !rdPred e w.a t) fun _ => true) }) Notes.nil)

/-- RDEM of R319 and RDSR of R320. -/
def readRules (w : RWord (BitVec 12)) : List LaneRule :=
  [⟨.rdem w, w.hdr, .fix 4, fun e => .ok ⟨wrEm e w.d e.g.em, Notes.nil, []⟩⟩,
   ⟨.rdsr w, w.hdr, .fix 4, fun e =>
      let r := match w.a with | .sreg r => r | _ => .gid
      .ok ⟨match w.d with
        | .s i => if e.act = 0 then [] else wrS i.toNat 1 (sregVal e.g r)
        | .v i => ((activeLanes e).map fun l => wrV i.toNat l 1 (sregLane e.g r l / (if w.m = 1 then 2 ^ 32 else 1) % 2 ^ 32)).flatten
        | _ => [], Notes.nil, []⟩⟩]

/-- Bit 12 of an immediate operand. -/
def immTop (o : Opnd) : Bool := match o with | .imm x => x.getLsbD 12 | _ => false

/-- RDTS and RDCNT of R321: a 64-bit value of the core, of variable latency. -/
def counterRules (w : RWord (BitVec 12)) : Prop :=
  let sends := fun (i : Instr) (s : State) k g (e : Env) x => ∃ t, exec i s = .next t ∧ Done { s with serial := s.serial + 1 } t k g
    (goesOn s (awaits s g (hdrSlot w.hdr) (wrGroup e w.d 2 x)) w.hdr) Notes.nil
  AtHead (.rdts w) w.hdr (fun s k g e => sends (.rdts w) s k g e s.gts) ∧
  AtHead (.rdcnt w) w.hdr (fun s k g e =>
    if immTop w.a then Traps (.rdcnt w) s k g fcIllegalOpnd 0
    else sends (.rdcnt w) s k g e (cntVal s (ctxVf g.ctx) (dieOf k) (rdW e .ui64 64 w.a 0)))

/-- SLEEP of R318: the path waits IMM32 cycles at the instruction. -/
def sleepRule (v : IWord (BitVec 12)) : Prop :=
  AtHead (.sleep v) v.hdr (fun s k g e =>
    PathDone (.sleep v) v.hdr s s k g
      (if e.act = 0 || v.imm = 0 then advance s g else parkRunning g (.waiting .sleep (.sleep v.imm.toNat)) s.cycle) Notes.nil)

/-- BIND of R315 and R215, with its slot readable: a RESOLVED slot completes it, after an acquire at .sys; otherwise the
path waits on the slot's address. -/
def bindRule (w : RWord (BitVec 12)) : Prop :=
  AtHead (.bind w) w.hdr (fun s k g e =>
    let u := unW e .ui64 64 w.a
    match u.1 with
    | none => Traps (.bind w) s k g fcNonuniform 0
    | some va =>
      if e.act = 0 then PathDone (.bind w) w.hdr s s k g (advance s g) Notes.nil
      else if va % 8 ≠ 0 then Traps (.bind w) s k g fcMisalign va
      else if memoryHeld (setGroup s k g) g then Holds (.bind w) s k (setGroup s k g)
      else ∀ s1 d, loadNow (setGroup s k g) k g va 8 none = (.ok s1, d) → tabGet s1.groups k = some g → s1.cycle = s.cycle →
        if d / 2 ^ 63 = 1 then
          PathDone (.bind w) w.hdr s (acquireL1 s1 k (ctxVf g.ctx) .sys) k g (advance s1 g) (Notes.ofSplit u.2)
        else ∀ s2 x, translate s1 g.ctx (coreOf k) va (Use.load 8) = .ok s2 x → tabGet s2.groups k = some g →
          s2.cycle = s.cycle →
          PathDone (.bind w) w.hdr s s2 k g (parkRunning g (.waiting .bind (.bind x.pa)) s.cycle) (Notes.ofSplit u.2))

/-- What SPAWN reads of each Active thread (R316): id, argument words and entry, and whether its siblings differ. -/
def spawnArgs (w : RWord (BitVec 12)) (e : Env) (t : Nat) : (Nat × List Nat × Nat) × Bool :=
  let a := svW e .ui32 32 w.a t
  let b := (List.range 4).map fun q => svW e .b32 32 (vPlus w.b q) t
  let c := svW e .ui64 64 w.c t
  ((a.1, b.map (·.1), c.1), a.2 || b.any (·.2) || c.2)

/-- SPAWN of R316 and R236: every thread enters a bin, or none does and the path waits to execute it again; with FLUSH every bin that received a
thread fires. -/
def spawnRule (w : RWord (BitVec 12)) : Prop :=
  AtHead (.spawn w) w.hdr (fun s k g e =>
    let ts := activeThreads e
    let xs := ts.map fun t => (spawnArgs w e t).1
    let n := Notes.ofSplit (maskOf g ts fun t => (spawnArgs w e t).2)
    let role := w.m.toNat % 4
    let core := coreOf k
    match xs.find? fun x => decide (2 ^ 31 ≤ x.1) || !inText s g.ctx x.2.2 with
    | some x => Traps (.spawn w) s k g (if 2 ^ 31 ≤ x.1 then fcIllegalOpnd else fcPcWrap) 0
    | none =>
      if (match tabGet s.grids g.grid with | some x => x.kern.nrole | none => 0) ≤ role then Traps (.spawn w) s k g fcIllegalOpnd 0
      else if ts = [] then PathDone (.spawn w) w.hdr s s k g (advance s g) Notes.nil
      else if releaseHeld (setGroup s k g) k g then Holds (.spawn w) s k (setGroup s k g)
      else match enterAll (getCore s core).bins (nativeThreads g.triplex) g.team role s.cycle
          (xs.map fun x => (x.2.2, ⟨x.1, x.2.1.map (BitVec.ofNat 32)⟩)) with
        | none => Parks (.spawn w) s s k g (parkRunning g (.waiting .spawn .spawn) s.cycle)
        | some (bins, is) =>
          let got := is.foldl (fun l i => if l.contains i then l else l ++ [i]) []
          let fire := got.filter fun i => w.m.getLsbD 2 || (tabGet bins i).any (·.fired)
          let s1 := setGroup (updCore s core fun c => { c with bins := bins }) k { advance s g with mark := { g.mark with valid := false } }
          let s2 := fire.foldl (fun u i => fireBin u core i) s1
          ∀ G, tabGet s2.groups k = some G → PathDone (.spawn w) w.hdr s s2 k g G n)

/-- LAUNCH of R317 and R213, with its 256 bytes readable: a request with the LPB's words is submitted, the mark is no longer
valid, and the group goes on. -/
def launchRule (w : RWord (BitVec 12)) : Prop :=
  AtHead (.launch w) w.hdr (fun s k g e =>
    let va := rdW e .ui64 64 w.a 0
    let snap := (tabGet s.grids g.grid).bind (·.snap)
    let s0 := setGroup s k g
    if e.act = 0 then Turns (.launch w) w.hdr s k g g Notes.nil
    else if va % 256 ≠ 0 then Traps (.launch w) s k g fcMisalign va
    else if memoryHeld s0 g || releaseHeld s0 k g then Holds (.launch w) s k s0
    else ∀ s1 d1 s2 d2, loadNow s0 k g va 128 snap = (.ok s1, d1) → loadNow s1 k g (va + 128) 128 snap = (.ok s2, d2) →
      tabGet s2.groups k = some g →
      let req : Req := ⟨g.ctx, va, (List.range 32).map fun i => BitVec.ofNat 64 ((d1 + d2 * 2 ^ 1024) / 2 ^ (64 * i)), none⟩
      ∃ t, exec (.launch w) s = .next t ∧
        Done { s2 with serial := s2.serial + 1, reqs := tabPut s2.reqs s2.serial req } t k g
          (goesOn s (marksSlot s { g with mark := { g.mark with valid := false } } w.hdr) w.hdr) Notes.nil)

/-- A word that is no instruction, or whose fetch failed, raises its cause when its group may issue; otherwise its group
tries again. -/
def wordFault (i : Instr) (c : Nat) : Prop :=
  ∀ s k g, s.cur = some k → tabGet s.groups k = some g →
    exec i s = if mayIssue s k g then takeFault s k c 0 else .next { s with cur := none }

/-- TRAP and BKPT of R314. -/
def trapRules (v : IWord (BitVec 12)) : Prop :=
  AtHead (.trap v) v.hdr (fun s k g e =>
    if e.act = 0 then Turns (.trap v) v.hdr s k g g Notes.nil else Traps (.trap v) s k g fcTrap 0) ∧
  AtHead (.bkpt v) v.hdr (fun s k g e =>
    if e.act = 0 then PathDone (.bkpt v) v.hdr s s k g (advance s g) Notes.nil
    else if g.bken then
      let G := { advance s g with state := .stopped, dbgStop := true }
      PathDone (.bkpt v) v.hdr s (prfRecord (setGroup s k G) k 3 v.imm.toNat) k g G Notes.nil
    else Traps (.bkpt v) s k g fcBkpt 0)

/-- What taking a fault in a running context leaves (R183, R185): the context is HALTING with the cause, its partition's
halt line is raised with the origin and the raising group as the unit that stopped, the VF shows the cause, the context's
engine starts that are not granted are withdrawn and its transactions end or are doomed (R21, R149); every PC, mask and
path of every group, its registers but those of a transaction that prepares, and memory, are as they were. -/
def FaultTaken (s t : State) (k c a : Nat) : Prop :=
  ∀ g x, tabGet s.groups k = some g → tabGet s.ctxs g.ctx = some x → x.state = .running →
    tabGet t.ctxs g.ctx = some { x with state := .halting, cause := c, recs := [], faults := [], poolAsks := [] } ∧
    (∃ h, (getPart t (ctxPart x)).halt = some h ∧ h.cause = c ∧ h.unit = groupUnit k ∧ h.gid = gidOf g ∧ h.gts = s.gts ∧
      h.cyc = s.cycle ∧ h.ctx = g.ctx ∧ h.own = [⟨groupUnit k, c, a, gidOf g⟩]) ∧
    ((getVf s (ctxVf g.ctx)).cur = g.ctx % 16 → statCause t (ctxVf g.ctx) = c) ∧
    (∀ j a n p, tabGet t.accs j = some a → a.ctx = g.ctx → tabGet a.parts n = some p → p.hold = withdrawnPart s p) ∧
    (∀ j o, tabGet t.ops j = some o → o.ctx = g.ctx → o.granted = false → o.startReq = false) ∧
    (∀ j q, tabGet t.groups j = some q → q.ctx = g.ctx → q.tx.state ≠ .open) ∧
    (∀ j q, tabGet s.groups j = some q → ∃ r, tabGet t.groups j = some r ∧ r.pc = q.pc ∧ r.em = q.em ∧ r.paths = q.paths ∧
      r.joins = q.joins ∧ r.ras = q.ras ∧ r.state = q.state ∧ r.numflag = q.numflag ∧
      (q.tx.state ≠ .preparing → r.v = q.v ∧ r.s = q.s ∧ r.p = q.p)) ∧
    (∀ m, memByte t.mem m = memByte s.mem m) ∧ t.cur = none
/-- A step of the part, with its next state: one takes place unless the clocks are stopped (R23). -/
def Acts (i : Instr) (s t : State) : Prop := s.pkg.frozen = false → exec i s = .next t

/-- As `Acts`, with what holds of the next state. -/
def Leaves (i : Instr) (s : State) (p : State → Prop) : Prop := s.pkg.frozen = false → ∃ t, exec i s = .next t ∧ p t

/-- The boot steps of R26 and R27, each from its own state and without effect in another, and PACKAGE_RESET from any: the
image is taken over a link unless the package is the bridge, and verified. -/
def bringUp (s : State) (image : FwImage) (u : Nat) : Prop :=
  let boot := fun b => { s with pkg := { s.pkg with boot := b } }
  (s.pkg.boot = .reset → Leaves .powerGood s fun t => t = { boot .rom with links := t.links } ∧
    ∀ l x, tabGet s.links l = some x → tabGet t.links l = some { x with state := .down, lanes := 0 }) ∧
  (s.pkg.boot ≠ .reset → Acts .powerGood s s) ∧
  (s.pkg.boot = .rom →
    (s.pkg.bridge = true → Acts (.selfTestDone true u) s { s with pkg := { s.pkg with boot := .awaitImage, pcie := true } }) ∧
    (s.pkg.bridge = false → Leaves (.selfTestDone true u) s fun t => t = { boot .awaitImage with links := t.links } ∧
      ∀ l, l < 24 → getLink t l =
        if (getLink s l).state = .down then { getLink s l with state := .training, since := s.gts } else getLink s l) ∧
    Acts (.selfTestDone false u) s { s with pkg := { s.pkg with boot := .failed, failedUnit := some u } }) ∧
  (s.pkg.boot ≠ .rom → ∀ b, Acts (.selfTestDone b u) s s) ∧
  (s.pkg.boot = .awaitImage → s.pkg.bridge = true ∨ usableTo s s.pkg.bridgeId ≠ [] →
    Acts .imageReceived s (boot .verify)) ∧
  (s.pkg.boot ≠ .awaitImage ∨ (s.pkg.bridge = false ∧ usableTo s s.pkg.bridgeId = []) → Acts .imageReceived s s) ∧
  (s.pkg.boot = .verify → Acts (.imageVerified image) s
    (if imageOk image = true then { s with pkg := { s.pkg with boot := .run, image := some image }, wqs := [] }
      else { s with pkg := { s.pkg with boot := .failed, image := none } })) ∧
  (s.pkg.boot ≠ .verify → Acts (.imageVerified image) s s) ∧
  ∃ t, exec .packageReset s = .next t ∧ t.pkg.boot = .reset ∧ t.pkg.frozen = false ∧ t.pkg.image = none ∧ t.pkg.id = s.pkg.id ∧
    t.gts = s.gts ∧ t.groups = [] ∧ t.teams = [] ∧ t.grids = [] ∧ t.reqs = [] ∧ t.ctxs = [] ∧ t.parts = [] ∧ t.vfs = [] ∧
    t.wins = [] ∧ t.tlb = [] ∧ t.accs = [] ∧ t.ops = [] ∧ t.msgs = [] ∧ t.waits = [] ∧ t.wqs = [] ∧ t.medias = [] ∧ t.links = [] ∧
    t.fars = [] ∧ t.inbox = [] ∧ t.posted = [] ∧ t.later = [] ∧
    (MemInv s → ∀ a, memByte t.mem a = if inCistern s a then memDefault else memByte s.mem a)

/-- Every context of a set that is RUNNING is HALTING with the cause (R183, R185). -/
def Halts (s t : State) (p : Nat → Prop) (c : Nat) : Prop :=
  ∀ ck x, tabGet s.ctxs ck = some x → x.state = .running → p ck →
    ∃ y, tabGet t.ctxs ck = some y ∧ y.state = .halting ∧ y.cause = c

/-- No context is in the middle of a restore. -/
def NoRestore (s : State) : Prop := ∀ ck x, tabGet s.ctxs ck = some x → x.state ≠ .restoring

/-- THERMAL_TRIP and TRIP_CLEAR of R22, R24, R26 and R31. -/
def thermal (s : State) (d v : Nat) : Prop :=
  d < 8 → v < 256 →
  let read := updDie s d fun x => { x with temp := v }
  (v < 105 → exec (.thermalTrip d v) s = .next read) ∧
  (105 ≤ v → s.pkg.frozen = true → exec (.thermalTrip d v) s = .next (updDie s d fun x => { x with temp := v, tripPending := true })) ∧
  (105 ≤ v → s.pkg.frozen = false → ∃ t, exec (.thermalTrip d v) s = .next t ∧
    t.pkg = (if s.pkg.boot = .run then s.pkg else { s.pkg with boot := .failed }) ∧
    (getDie t d).temp = v ∧ (getDie t d).trip = true ∧ (getDie t d).tripPending = false ∧ (NoRestore s → t.mem = s.mem) ∧
    Halts s t (fun ck => ctxOnDie s ck d = true) fcThermal) ∧
  ((getDie s d).temp ≤ 95 → Acts (.tripClear d) s (updDie s d fun x => { x with trip := false })) ∧
  (95 < (getDie s d).temp → Acts (.tripClear d) s s)

/-- FREEZE and THAW of R23 to R25: the time jumps forward, no bucket sees the gap, and trips seen while frozen are acted on. -/
def freezing (s : State) (gts : Nat) : Prop :=
  (s.pkg.frozen = false → exec .freeze s = .next { s with pkg := { s.pkg with frozen := true, freezeGts := s.gts } }) ∧
  (s.pkg.frozen = true → exec .freeze s = .next s) ∧
  (s.pkg.frozen = false → exec (.thaw gts) s = .next s) ∧
  (s.pkg.frozen = true → ∃ t, exec (.thaw gts) s = .next t ∧ t.pkg =
      (if s.pkg.boot = .run ∨ ∀ x ∈ s.dies, x.2.tripPending = false then { s.pkg with frozen := false }
       else { s.pkg with frozen := false, boot := .failed }) ∧
    t.gts3 = max s.gts3 (3 * gts) ∧
    (NoRestore s → t.teams = s.teams ∧
      ∀ k g, tabGet s.groups k = some g → ∃ h, tabGet t.groups k = some h ∧ h.pc = g.pc ∧ h.em = g.em) ∧
    ((∀ x ∈ s.dies, x.2.tripPending = false) → t.groups = s.groups ∧ t.teams = s.teams ∧ t.ops = s.ops ∧
      (∀ v x, tabGet s.vfs v = some x → tabGet t.vfs v = some { x with chargedTo := x.chargedTo + (t.gts - s.pkg.freezeGts) }) ∧
      ((s.ctxs.map (·.1)).Nodup → ∀ ck c, tabGet s.ctxs ck = some c → c.state ≠ .empty → ringFull c .event = false →
        ∃ y, tabGet t.ctxs ck = some { c with ev := y } ∧ y.head = (c.ev.head + 1) % 2 ^ 32)) ∧
    (∀ d x, tabGet s.dies d = some x → x.tripPending = true → (getDie t d).trip = true ∧
      Halts s t (fun ck => ctxOnDie s ck d = true) fcThermal))

/-- The rows that act while the clocks are stopped (R23, R24, R409): the sensor, FREEZE and THAW, the debug path's registers,
and reset. -/
def awake : Instr → Bool
  | .thermalTrip .. | .freeze | .thaw _ | .packageReset | .registerWrite .. | .dbgStop _ | .dbgResume _ | .dbgStep _ | .dbgRead ..
  | .dbgWrite .. | .dbgDrain _ | .dbgBken _ | .dbgBkdis _ => true
  | _ => false

/-- CORE_FAILURE, SOFT_ERROR, PATROL_SCRUB and UNCORRECTABLE_ERROR of R28 to R30. -/
def errorSteps (s : State) : Prop :=
  let counted := fun d => updDie s d fun x => { x with softcnt := min (x.softcnt + 1) (2 ^ 32 - 1) }
  (∀ core c, core < 512 → c < 256 → Leaves (.coreFailure core c) s fun t =>
    getCore t core = { getCore s core with failed := true } ∧ (NoRestore s → t.mem = s.mem) ∧
    Halts s t (fun ck => s.teams.any fun x => x.2.ctx == ck && x.2.away.isNone && x.2.core == core) c) ∧
  (∀ d, d < 8 → Acts (.softError d) s (counted d)) ∧
  (∀ d n, d < 8 → n / 2 ^ 32 % 8 = d → Acts (.patrolScrub d n true) s (counted d) ∧
    Acts (.patrolScrub d n false) s
      (if poisoned s (128 * n) 128 then updDie s d fun x => { x with uncorr := x.uncorr + 1 } else s)) ∧
  (∀ pa, (∃ a b, placeOf s.pkg.id pa = .well a b ∨ placeOf s.pkg.id pa = .cistern a b) → Leaves (.uncorrectableError (.mem pa)) s fun t =>
    t = { s with lines := { s.lines with poison := t.lines.poison } } ∧ t.lines.poison.contains (pa / 4) = true ∧
    ∀ w, s.lines.poison.contains w = true → t.lines.poison.contains w = true) ∧
  (∀ k g, tabGet s.groups k = some g →
    let marks := fun c => setGroup s k { g with poison := if g.poison.contains c then g.poison else g.poison ++ [c] }
    (∀ r l, Acts (.uncorrectableError (.v k r l)) s (marks (.v r l))) ∧ (∀ r, Acts (.uncorrectableError (.s k r)) s (marks (.s r))) ∧
    ∀ r u, Acts (.uncorrectableError (.p k r u)) s (marks (.p r u)))

/-- START_GRANT of R19 and R20: of the requests of a die that may be granted, that of the partition next in turn, its lowest core; at
most eight starts in 64 cycles, those reserved for another team among them (assumption log, row 69), and a team's own reservation
is used up. -/
def startGrant (s : State) (d : Nat) : Prop :=
  let recent := (getDie s d).grants.filter fun c => decide (s.cycle < c + 64)
  let held := (getDie s d).reserved.filter fun r => decide (s.cycle < r.1 + 64)
  let turn := fun (r : Nat × Nat × Nat) => (r.2.1 + 47 - (getDie s d).lastGrant) % 48 * 512 + r.2.2
  let free := (startRequests s d).filter fun r =>
    decide (recent.length + (held.filter fun x => some x.2 != (tabGet s.ops r.1).map (·.team)).length < 8)
  (free = [] → Acts (.startGrant d) s s) ∧
  (8 ≤ recent.length → free = []) ∧
  (free ≠ [] → ∃ r ∈ free, (∀ q ∈ free, turn r ≤ turn q) ∧
    ∀ o, tabGet s.ops r.1 = some o → Acts (.startGrant d) s
      (updDie { s with ops := tabPut s.ops r.1 { o with granted := true, startReq := false } } d
        fun x => { x with
          lastGrant := r.2.1, grants := recent ++ [s.cycle],
          reserved := match held.find? fun y => y.2 == o.team with
            | some y => held.erase y
            | none => held }))

/-- VARIABLE_LATENCY_RESULT of R232: the result's writes land, and its slot goes down by one. -/
def resultLands (s : State) (k n : Nat) : Prop :=
  ∀ g r, tabGet s.groups k = some g → g.vres.find? (fun x => x.id == n) = some r → Leaves (.variableLatencyResult k n) s fun t =>
    ∃ h, tabGet t.groups k = some h ∧ t = setGroup s k h ∧ h.vres = g.vres.filter (fun x => x.id != n) ∧
      h.sb = (match r.slot with | some m => tabPut g.sb m (tabGetD g.sb m 0 - 1) | none => g.sb) ∧
      h.pc = g.pc ∧ h.em = g.em ∧ h.paths = g.paths ∧ h.numflag = g.numflag ∧
      (∀ q x, r.writes = [⟨.s q, x⟩] → tabGet h.s q = some x ∧ h.v = g.v ∧ h.p = g.p) ∧
      (∀ q l x, r.writes = [⟨.v q l, x⟩] → tabGet h.v (q * 96 + l) = some (x.truncate 32) ∧ h.s = g.s ∧ h.p = g.p)

/-- The part of an access that is due at its home: nothing holds it back (R118, R172). -/
def Due (s : State) (acc part : Nat) (a : Acc) (p : Part) : Prop :=
  tabGet s.accs acc = some a ∧ tabGet a.parts part = some p ∧ partPending p = true ∧ waitsOwn p.hold = false ∧
  partBlocked s acc a p = false

/-- A part is performed with a result, and its access goes on. -/
def PartDone (t : State) (acc part : Nat) (r : Option Nat) : Prop :=
  ∃ a p, tabGet t.accs acc = some a ∧ tabGet a.parts part = some p ∧ p.done = true ∧ p.hold = .no ∧ ∀ x, r = some x → p.res.toNat = x

/-- Only the bytes from an address up were written, with a value in little-endian order (R4). -/
def Wrote (s t : State) (pa n v : Nat) : Prop :=
  MemInv s → (∀ a, a < pa ∨ pa + n ≤ a → memByte t.mem a = memByte s.mem a) ∧ memNat t.mem pa n = v % 2 ^ (8 * n)

/-- The home reads and writes the place without a check that fails or holds (R107, R108): a bank or host memory, or an
unversioned well line, sealed under the key it is accessed with or not at all, that passes its checks, neither re-keyed nor re-encrypted, with room in
its minor counter, and no commit under way to it. -/
def OpenAt (s : State) (key : KeyId) (pa n : Nat) : Prop :=
  destOf s (homeOf s.pkg.id pa) = none ∧ poisoned s (128 * (pa / 128)) 128 = false ∧ poisoned s pa n = false ∧
  match placeOf s.pkg.id pa with
  | .cistern .. | .host => True
  | .well .. => rekeying s key = false ∧ tabGet s.lines.reenc (groupOf (pa / 128)) = none ∧
      lineClear s (pa / 128) key = true ∧ sealOk s (pa / 128) key = true ∧ (lineOf s (pa / 128)).minor < 127 ∧ commitLine s (pa / 128) = none
  | _ => False

/-- The part of an access lies in such a place, on a page that is not versioned. -/
def Open (s : State) (p : Part) : Prop := p.ver = false ∧ OpenAt s p.key p.pa p.size

/-- The step of a home on a load's part: the bytes at its address (R98, R108). -/
def loadStep (i : Nat → Nat → Instr) (here : State → Part → Bool) : Prop :=
  ∀ s acc part a p, Due s acc part a p → here s p = true → Open s p → p.size ≤ 16 → isLoad a.kind = true → p.data2.toNat < 4 →
    Leaves (i acc part) s fun t =>
      PartDone t acc part (some (memNat s.mem p.pa p.size)) ∧ t.mem = s.mem ∧ t.groups = s.groups ∧ t.ctxs = s.ctxs

/-- The step of a home on an atomic's part that combines with no other: the old bytes are its result, and the operation's
value is stored (R119, R368). -/
def atomStep (i : Nat → Nat → Instr) (here : State → Part → Bool) : Prop :=
  ∀ s acc part a p, Due s acc part a p → here s p = true → Open s p → 0 < p.size → p.size ≤ 16 → isAtom a.kind = true →
    atomGroup a part p = [(part, p)] → Leaves (i acc part) s fun t =>
      PartDone t acc part (some (memNat s.mem p.pa p.size)) ∧
      Wrote s t p.pa p.size (aopApply a.ty a.op p.size (memNat s.mem p.pa p.size) p.data.toNat p.data2.toNat) ∧
      t.groups = s.groups ∧ t.ctxs = s.ctxs

/-- The home is a bank unit, or the host, and no link leads there (R98, R281). -/
def atBank (s : State) (p : Part) : Bool :=
  !linkPart s p && match p.home with
  | .bank _ | .host => true
  | _ => false

/-- BANK_ACCESS of R98, on a store too. -/
def bankSteps : Prop :=
  loadStep .bankAccess atBank ∧ atomStep .bankAccess atBank ∧
  ∀ s acc part a p, Due s acc part a p → atBank s p = true → Open s p → 0 < p.size → p.size ≤ 16 → isStore a.kind = true →
    Leaves (.bankAccess acc part) s fun t =>
      PartDone t acc part none ∧ Wrote s t p.pa p.size p.data.toNat ∧ t.groups = s.groups ∧ t.ctxs = s.ctxs

/-- The parts of a store that go to a line are due at their pump, which writes them. -/
def LineDue (s : State) (acc line : Nat) (a : Acc) (ps : Tab Part) : Prop :=
  tabGet s.accs acc = some a ∧ isStore a.kind = true ∧ lineGroup a line = ps ∧ ps ≠ [] ∧
  ∀ x ∈ ps, atPump x.2 = true ∧ waitsOwn x.2.hold = false ∧ partBlocked s acc a x.2 = false ∧ Open s x.2 ∧ x.2.ver = false ∧
    (∃ d o, placeOf s.pkg.id x.2.pa = .well d o) ∧ tabGet a.parts x.1 = some x.2

/-- PUMP_READ, PUMP_ATOMIC, PUMP_PARTIAL_WRITE and PUMP_FULL_WRITE of R102, R107 and R108: a write stores the parts' bytes in
the order of their lanes, moves the line's minor counter and root counter up, and seals it under its key. -/
def pumpSteps : Prop :=
  let pump := fun (_ : State) p => atPump p
  loadStep .pumpRead pump ∧ atomStep .pumpAtomic pump ∧
  ∀ s acc line a ps, LineDue s acc line a ps →
    let whole := piecesMask line (groupPieces ps) == BitVec.allOnes 128
    Leaves (if whole then .pumpFullWrite acc line else .pumpPartialWrite acc line) s fun t =>
      (∀ x ∈ ps, PartDone t acc x.1 none) ∧ (∀ b, memByte t.mem b = memByte (putPieces s (groupPieces ps)).mem b) ∧
      (lineOf t line).minor = (lineOf s line).minor + 1 ∧ t.groups = s.groups ∧ t.ctxs = s.ctxs ∧
      ∀ x ∈ ps, lineClear t line x.2.key = true ∧
        tabGetD t.lines.roots (rootAt x.2.key line) 0 = tabGetD s.lines.roots (rootAt x.2.key line) 0 + 1

/-- REENCRYPT_COMPLETE of R109: the group's major counter goes up, every line of it is sealed under it with minor 0, and its
writes are stalled no more. -/
def reencrypts (s : State) (n : Nat) : Prop :=
  ∀ key, tabGet s.lines.reenc n = some key → Leaves (.reencryptComplete n) s fun t =>
    t = { s with lines := t.lines } ∧ tabGet t.lines.reenc n = none ∧ tabGetD t.lines.majors n 0 = tabGetD s.lines.majors n 0 + 1 ∧
    tabGetD t.lines.roots (rootAt key (64 * n)) 0 = tabGetD s.lines.roots (rootAt key (64 * n)) 0 + 1 ∧
    (∀ m l, tabGet s.lines.lines m = some l → groupOf m = n → (lineOf t m).minor = 0 ∧
      ∀ k, lineClear s m k = true → lineClear t m k = true) ∧
    ∀ m, groupOf m ≠ n → lineOf t m = lineOf s m

/-- MEMORY_RESPONSE of R232 to a load or atomic whose parts are performed: its destinations hold the results, but those a
debugger cancelled, its slot goes down, and it is complete. -/
def responds (s : State) (acc : Nat) : Prop :=
  ∀ a g, tabGet s.accs acc = some a → (a.kind = .load ∨ a.kind = .ldx ∨ a.kind = .atomic) → a.parts.all (·.2.done) = true →
    tabGet s.groups a.grp = some g → g.serial = a.gser → a.acq = false → g.state ≠ .faultWait → a.cancel = [] →
    Leaves (.memoryResponse acc) s fun t => tabGet t.accs acc = none ∧
      ∃ h, t = setGroup { s with accs := tabDel s.accs acc } a.grp h ∧ h.pc = g.pc ∧ h.em = g.em ∧ h.paths = g.paths ∧
        h.sb = (match a.slot with | some m => tabPut g.sb m (tabGetD g.sb m 0 - 1) | none => g.sb) ∧
        (∀ i n p, a.d = .s i → a.ty = .b64 → a.parts = [(n, p)] → tabGet h.s i.toNat = some (BitVec.ofNat 64 p.res.toNat) ∧ h.v = g.v) ∧
        (∀ i n p l, a.kind ≠ .ldx → a.d = .v i → a.ty = .b32 → a.parts = [(n, p)] → l ∈ lanesOf g (threadOf g p.lane) →
          tabGet h.v (i.toNat * 96 + l) = some (BitVec.ofNat 32 p.res.toNat) ∧ h.s = g.s)

/-- STORE_ACK of R293: a performed store or reduction is complete and its slot goes down. -/
def acknowledges (s : State) (acc : Nat) : Prop :=
  ∀ a, tabGet s.accs acc = some a → accStores a = true → a.parts.all (·.2.done) = true →
    (∀ x ∈ s.accs, x.2.kind ≠ .drain) → Leaves (.storeAck acc) s fun t =>
      t = { s with accs := t.accs, groups := t.groups } ∧ (∀ n, tabGet t.accs n = if n = acc then none else tabGet s.accs n) ∧
      ∀ g, tabGet s.groups a.grp = some g → g.serial = a.gser → t.groups = tabPut s.groups a.grp
        { g with sb := match a.slot with | some m => tabPut g.sb m (tabGetD g.sb m 0 - 1) | none => g.sb }

/-- The window key commands of R112 and REKEY_LINE: what KEYSTAGE held becomes the slot's key; re-keying goes line by
line and ends with the last. -/
def windowKeys (s : State) (w : Nat) : Prop :=
  let staged := { s with pkg := { s.pkg with keystage := [0, 0, 0, 0] } }
  let x := getWin s w
  let put := fun (u : State) y => { u with wins := tabPut s.wins w y }
  w < 256 →
    (x.state = .empty → Acts (.wkeyLoad w) s { put staged { x with state := .active, todo := [], key := some (stagedKey s) } with
      lines := { s.lines with roots := s.lines.roots.filter fun r => r.1 % 2048 != 1024 + w } }) ∧
    (x.state = .active → ∀ more, Acts (.wkeyRekey w more) s (put staged { x with
      state := if (winLines s w).isEmpty then .active else .rekeying, todo := winLines s w, key := some (stagedKey s) })) ∧
    (x.state = .active → Acts (.wkeyClear w) s { put s { x with state := .empty, key := none, todo := [] } with
      lines := { s.lines with roots := s.lines.roots.filter fun r => r.1 % 2048 != 1024 + w } }) ∧
    (x.state ≠ .empty → Acts (.wkeyLoad w) s s) ∧ (x.state ≠ .active → (∀ more, Acts (.wkeyRekey w more) s s) ∧ Acts (.wkeyClear w) s s) ∧
    (x.state = .rekeying → ∀ n, x.todo.contains n = true → Leaves (.rekeyLine w n) s fun t =>
      t = { s with wins := t.wins, lines := t.lines } ∧ lineClear t n (.win w) = true ∧
      tabGetD t.lines.majors (groupOf n) 0 = tabGetD s.lines.majors (groupOf n) 0 + 1 ∧
      let left := x.todo.filter (· != n)
      getWin t w = { x with todo := left, state := if left.isEmpty then .active else .rekeying })

/-- The result of a WAITA's word, in every part that names it and nothing holds (R372). -/
def WaitEnds (t : State) (acc part v code : Nat) : Prop :=
  ∃ a p, tabGet t.accs acc = some a ∧ tabGet a.parts part = some p ∧ p.done = true ∧ p.res.toNat = v ∧ p.data2.toNat = code

/-- WAITA_REGISTER, WAITA_DEADLINE and WAITA_WAKE of R271, R272 and R372. -/
def waitSteps (s : State) (acc part : Nat) : Prop :=
  (∀ a p, Due s acc part a p → a.kind = .waita → p.hold = .no → Open s p → p.size ≤ 8 →
    (∀ w ∈ s.waits, w.acc ≠ acc) →
    let w := waitEntry s acc part a p
    let v := memNat s.mem p.pa p.size
    Leaves (.waitaRegister acc part) s fun t => t.mem = s.mem ∧ t.groups = s.groups ∧
      if waitHolds s w then WaitEnds t acc part v waWoken ∧ t.waits = s.waits
      else if p.data2.toNat / 2 ^ 32 % 2 ^ 32 = 0 then WaitEnds t acc part v waTimeout ∧ t.waits = s.waits
      else if waitRoom p.home ≤ s.waits.countP (fun x => x.home == waitHome p.home) then WaitEnds t acc part v waFull ∧ t.waits = s.waits
      else t.waits = s.waits ++ [w]) ∧
  (∀ w a p, w ∈ s.waits → w.acc = acc → w.part = part → w.deadline ≤ s.gts →
    (∀ x ∈ s.waits, x.acc = acc → x.part = part → x = w) → tabGet s.accs acc = some a → tabGet a.parts part = some p →
    p.pa = w.pa → p.done = false → p.hold = .no → w.size ≤ 8 → Leaves (.waitaDeadline acc part) s fun t =>
      WaitEnds t acc part (curNat s p.key w.pa w.size) waTimeout ∧ t.mem = s.mem ∧ t.groups = s.groups ∧ w ∉ t.waits) ∧
  (∀ a g, tabGet s.accs acc = some a → a.kind = .waita → a.parts.all (·.2.done) = true → tabGet s.groups a.grp = some g →
    g.serial = a.gser → a.acq = false → g.state = .wait → Leaves (.waitaWake acc) s fun t => tabGet t.accs acc = none ∧ t.mem = s.mem ∧
      ∃ h, tabGet t.groups a.grp = some h ∧
        ∀ q ∈ g.paths, (q.kind = .waiting .address (.address acc) →
          h.state = .ready ∧ { q with kind := .runnable, pc := q.pc + 1, fall := fallsOff s g.ctx q.pc, bump := q.bump + 1 } ∈ h.paths))

/-- SNAPSHOT_WAIT_END, POOL_WAIT_END and POOL_WAIT_TIMEOUT of R143 and R157, on an access of one part. -/
def holdSteps (s : State) (acc part : Nat) : Prop :=
  ∀ a p c, tabGet s.accs acc = some a → a.parts = [(part, p)] → p.done = false → p.size ≤ 16 → 0 < p.size →
    (∃ d o, placeOf s.pkg.id p.pa = .well d o) → rekeying s p.key = false → lineClear s (p.pa / 128) p.key = true →
    sealOk s (p.pa / 128) p.key = true → poisoned s (128 * (p.pa / 128)) 128 = false → poisoned s p.pa p.size = false →
    (∀ n, p.hold = .snap c → isLoad a.kind = true → a.snap = some n → p.ver = true → p.data2.toNat < 4 →
      (lineOf s (p.pa / 128)).lock = none →
      (n + 8 < s.gts → (∀ v, versionAt s (p.pa / 128) n = some v → versionOk s (p.pa / 128) p.key v = true ∧ v.poison = 0) →
        Leaves (.snapshotWaitEnd acc) s fun t => t.mem = s.mem ∧ t.groups = s.groups ∧
          PartDone t acc part (some (match versionAt s (p.pa / 128) n with
            | none => memNat s.mem p.pa p.size
            | some v => v.data.toNat / 2 ^ (8 * (p.pa % 128)) % 2 ^ (8 * p.size)))) ∧
      (s.gts ≤ n + 8 → Leaves (.snapshotWaitEnd acc) s fun t => t.mem = s.mem ∧ t.groups = s.groups ∧
        ∃ b, tabGet t.accs acc = some b ∧ b.parts = a.parts)) ∧
    (p.hold = .pool c → isStore a.kind = true → p.ver = true → (lineOf s (p.pa / 128)).lock = none →
      tabGet s.lines.reenc (groupOf (p.pa / 128)) = none → (lineOf s (p.pa / 128)).minor < 127 →
      p.pa % 128 + p.size ≤ 128 →
      (recordFree s (p.pa / 128) = true → Leaves (.poolWaitEnd acc) s fun t => PartDone t acc part none ∧
        Wrote s t p.pa p.size p.data.toNat ∧ t.groups = s.groups ∧
        (lineOf t (p.pa / 128)).older = (lineOf s (p.pa / 128)).older ++
          [⟨(lineOf s (p.pa / 128)).stamp, lineData s (p.pa / 128),
            recordSeal s (p.pa / 128 / 2 ^ 32 % 8) p.key (lineData s (p.pa / 128)), 0⟩]) ∧
      (recordFree s (p.pa / 128) = false → Acts (.poolWaitEnd acc) s s) ∧
      (recordFree s (p.pa / 128) = false → c + 65536 ≤ s.cycle → ∀ x, tabGet s.ctxs a.ctx = some x → x.state = .running →
        Leaves (.poolWaitTimeout acc) s fun t => tabGet t.accs acc = none ∧ t.mem = s.mem ∧
          ∃ y, tabGet t.ctxs a.ctx = some y ∧ y.state = .halting ∧ y.cause = fcVersionPool))

/-- A record has been appended to the numeric ring of a context (R78, R198): HEAD has moved on, and the entry holds the words. -/
def Recorded (s t : State) (ck : Nat) (y : Ctx) (ws : List Nat) : Prop :=
  let a := fld (descW y 6) 51 5 * 32 + 32 * (y.ne.head % 2 ^ fld (descW y 6) 63 56)
  tabGet t.ctxs ck = some { y with ne := { y.ne with head := (y.ne.head + 1) % 2 ^ 32 } } ∧
  (MemInv s → OpenAt s (.vf (ctxVf ck)) a 32 → (∀ i w, ws[i]? = some w → memW64 t.mem (a + 8 * i) = BitVec.ofNat 64 w) ∧
    ∀ m, m < a ∨ a + 32 ≤ m → memByte t.mem m = memByte s.mem m)

/-- The words of a numeric event record (R78). -/
def numWords (s : State) (g : Grp) (halted : Nat) (e : NumEv) : List Nat :=
  [s.gts, g.pc % 2 ^ 40 * 2 ^ 24 + e.code * 2 ^ 20 + halted * 2 ^ 19 + e.half * 2 ^ 18, e.lanes,
   gidOf g * 2 ^ 32 + e.rdig * 2 ^ 27 + e.odig * 2 ^ 22 + e.joinIdx * 2 ^ 19]

/-- The first cause that held and that is enabled with action HALT, in the order SPLIT, CMP, CANCEL, DIVZ, LOST (R74, R77). -/
def firstHalt (g : Grp) (es : List NumEv) : Option Nat :=
  [3, 1, 0, 2, 4].find? fun c => g.numctl.getLsbD c && g.numctl.getLsbD (8 + c) && es.any (fun e => e.code == c)

/-- The numerical causes of a lane instruction at the head of its group (R77 to R79): one that halts raises NUMI on the state
before the instruction, with its record marked HALTED unless the ring is full; a cause that is enabled and counts appends its
record as the instruction completes, or sets RINGOVF where the ring is full. -/
def LaneRule.numeric (r : LaneRule) : Prop :=
  r.i.wf = true → ∀ s k g x y, headOf r.i s = some (k, g) → r.res (envOf s g r.h) = .ok x → tabGet s.ctxs g.ctx = some y →
    let es := numEvents g x.notes
    (∀ c, firstHalt g es = some c → ∃ u, exec r.i s = takeFault u k fcNumi 0 ∧ u.groups = tabPut s.groups k g ∧
      (ringFull y .numeric = true → u = setGroup s k g) ∧
      ∀ e, es.filter (fun e => e.code == c) = [e] → ringFull y .numeric = false → Recorded s u g.ctx y (numWords s g 1 e)) ∧
    (noHalt g = true → ∀ e, es.filter (fun e => g.numctl.getLsbD e.code) = [e] → ∃ t, exec r.i s = .next t ∧
      (ringFull y .numeric = false → Recorded s t g.ctx y (numWords s g 0 e)) ∧
      (ringFull y .numeric = true → t.ctxs = s.ctxs ∧ t.mem = s.mem ∧ ∃ h, tabGet t.groups k = some h ∧ h.numflag.getLsbD 5 = true))

/-- A group that prepares a commit, and its transaction. -/
def Preparing (s : State) (k : Nat) (g : Grp) (x : Tx) : Prop :=
  tabGet s.groups k = some g ∧ g.tx = x ∧ x.state = .preparing

/-- Only the transaction of a group changed. -/
def OnlyTx (s t : State) (k : Nat) (g : Grp) (x : Tx) : Prop := tabGet t.groups k = some { g with tx := x } ∧ t.mem = s.mem

/-- TX_PREPARE of R152 and R157: a pump refuses a line that another commit took or locked, waits for records up to 65,536
cycles, and otherwise locks its lines, reserves their records, and proposes a stamp above them. -/
def prepares (s : State) (k p : Nat) : Prop :=
  ∀ g x, Preparing s k g x → x.asked.contains p = true → tabGet x.sent p = none → x.stamp = none →
    let ls := x.lines.filter fun l => pumpOf (128 * l.line) == p
    let bad := ls.any fun l => decide (x.ts < (lineOf s l.line).stamp) || (lineOf s l.line).lock.isSome
    (bad = true → Leaves (.txPrepare k p) s fun t => OnlyTx s t k g { x with sent := tabPut x.sent p (.no 1) } ∧ t.lines = s.lines) ∧
    (bad = false → recordsFree s (p / 16) ls = false → x.since + 65536 ≤ s.cycle →
      Leaves (.txPrepare k p) s fun t => OnlyTx s t k g { x with sent := tabPut x.sent p (.no 4) } ∧ t.lines = s.lines) ∧
    (bad = false → recordsFree s (p / 16) ls = false → s.cycle < x.since + 65536 → Acts (.txPrepare k p) s s) ∧
    (bad = false → recordsFree s (p / 16) ls = true → Leaves (.txPrepare k p) s fun t => ∃ v,
      OnlyTx s t k g { x with sent := tabPut x.sent p (.yes v) } ∧ s.gts ≤ v ∧
      (getDie t (p / 16)).poolUsed = (getDie s (p / 16)).poolUsed + ls.length ∧
      (∀ l ∈ ls, (lineOf s l.line).stamp < v ∧ lineOf t l.line = { lineOf s l.line with lock := some (k, x.ts) }) ∧
      ∀ n, (∀ l ∈ ls, l.line ≠ n) → lineOf t n = lineOf s n)

/-- A TXC has ended: its transaction is none with its cause, its slot went down, and its predicate holds `b` in the threads
that committed (R149). -/
def TxEnds (s t : State) (k : Nat) (g : Grp) (c : Nat) (b : Bool) : Prop :=
  ∃ h, t = setGroup s k h ∧ h.tx.state = .none ∧ h.tx.cause = c ∧ h.tx.lines = [] ∧ h.pc = g.pc ∧ h.em = g.em ∧ h.v = g.v ∧ h.s = g.s ∧
    h.sb = (match g.tx.slot with | some m => tabPut g.sb m (tabGetD g.sb m 0 - 1) | none => g.sb) ∧
    ∀ r j, g.tx.pdst = some r → r ≠ 7 → r < 96 → j < nThreads g → g.tx.threads.getLsbD j = true → tabGet h.p (r * 96 + j) = some b

/-- TX_VOTE of R149 and R154: the last vote ends the transaction where one is no, and otherwise fixes the commit stamp, the
largest proposal. -/
def votes (s : State) (k p : Nat) : Prop :=
  ∀ g x v, Preparing s k g x → tabGet x.sent p = some v → tabGet x.votes p = none → x.stamp = none →
    let vs := tabPut x.votes p v
    (vs.length < x.asked.length → Leaves (.txVote k p) s fun t => OnlyTx s t k g { x with votes := vs } ∧ t.lines = s.lines) ∧
    (x.asked.length ≤ vs.length → (∃ y ∈ vs, y.2 = .no 1) → Leaves (.txVote k p) s fun t => TxEnds s t k g 1 false) ∧
    (x.asked.length ≤ vs.length → (∀ y ∈ vs, y.2 ≠ .no 1) → (∃ y ∈ vs, ∃ c, y.2 = .no c) →
      Leaves (.txVote k p) s fun t => TxEnds s t k g 4 false) ∧
    (x.asked.length ≤ vs.length → (∀ y ∈ vs, ∃ n, y.2 = .yes n) → Leaves (.txVote k p) s fun t => ∃ n,
      OnlyTx s t k g { x with votes := vs, stamp := some n, towrite := x.lines.map (·.line) } ∧ t.lines = s.lines ∧
      (∃ y ∈ vs, y.2 = .yes n) ∧ ∀ y ∈ vs, ∀ m, y.2 = .yes m → m ≤ n)

/-- TX_COMMIT_WRITE, TX_COMMIT_ACK and LOCK_RELEASE of R149, R153 and R154: a line becomes a version at the commit stamp and
is unlocked; the last pump's acknowledgement ends the TXC with its predicate set; an aborted transaction's locks go. -/
def commits (s : State) (k n : Nat) : Prop :=
  (∀ g x l st d o, Preparing s k g x → x.stamp = some st → x.lines.find? (fun l => l.line == n) = some l → x.towrite.contains n = true →
    placeOf s.pkg.id (128 * n) = .well d o → tabGet s.lines.reenc (groupOf n) = none → lineClear s n (.vf (ctxVf g.ctx)) = true →
    sealOk s n (.vf (ctxVf g.ctx)) = true → poisoned s (128 * n) 128 = false → (lineOf s n).minor < 127 →
    recordFree (freeLine s n) n = true → Leaves (.txCommitWrite k n) s fun t =>
      tabGet t.groups k = some { g with tx := { x with towrite := x.towrite.filter (· != n) } } ∧
      (lineOf t n).stamp = st ∧ (lineOf t n).lock = none ∧
      (lineOf t n).older = (lineOf s n).older ++
        [⟨(lineOf s n).stamp, lineData s n, recordSeal s (n / 2 ^ 32 % 8) (.vf (ctxVf g.ctx)) (lineData s n), 0⟩] ∧
      (MemInv s → (∀ a, a < 128 → memByte t.mem (128 * n + a) =
        if l.mask.getLsbD a then BitVec.ofNat 8 (l.data.toNat / 2 ^ (8 * a)) else memByte s.mem (128 * n + a)) ∧
      ∀ a, a < 128 * n ∨ 128 * n + 128 ≤ a → memByte t.mem a = memByte s.mem a)) ∧
  (∀ g x, Preparing s k g x → x.stamp.isSome = true → x.asked.contains n = true → x.acked.contains n = false →
    (x.towrite.any fun l => pumpOf (128 * l) == n) = false →
    (x.acked.length + 1 < x.asked.length → Leaves (.txCommitAck k n) s fun t => OnlyTx s t k g { x with acked := x.acked ++ [n] }) ∧
    (x.asked.length ≤ x.acked.length + 1 → Leaves (.txCommitAck k n) s fun t => TxEnds s t k g 0 true)) ∧
  ((∀ g, tabGet s.groups k = some g → g.tx.state ≠ .preparing) → Leaves (.lockRelease k) s fun t =>
    t = { s with lines := { s.lines with lines := t.lines.lines }, dies := t.dies } ∧
    ∀ m l, tabGet s.lines.lines m = some l → tabGet t.lines.lines m = some { l with lock := match l.lock with
      | some y => if y.1 = k then none else some y
      | none => none })

/-- LWM_RECOMPUTE of R155 and R156: a die's mark is the low-water mark, and of each line only the versions stay whose next
newer version is above it. -/
def recomputes (s : State) (d : Nat) : Prop :=
  d < 8 → Leaves (.lwmRecompute d) s fun t => (getDie t d).lwm = lowWater s ∧ t.mem = s.mem ∧ t.groups = s.groups ∧
    (∀ n, n / 2 ^ 32 % 8 = d → (lineOf t n).stamp = (lineOf s n).stamp ∧
      (lineOf t n).older = (((lineOf s n).older.zip (((lineOf s n).older.map (·.stamp)).tail ++ [(lineOf s n).stamp])).filter
        fun v => decide (lowWater s < v.2)).map (·.1)) ∧
    ∀ n, n / 2 ^ 32 % 8 ≠ d → lineOf t n = lineOf s n

/-- A PTE was written back with a value: where its place is open, its eight bytes hold it and no other byte changed. -/
def PteWritten (s t : State) (ck a : Nat) (p : W64) : Prop :=
  MemInv s → OpenAt s (.vf (ctxVf ck)) a 8 → memW64 t.mem a = p ∧ ∀ x, x < a ∨ a + 8 ≤ x → memByte t.mem x = memByte s.mem x

/-- PAGE_WALK and SET_DIRTY of R159, R168 and R170: the leaf is cached with A, or A and D, set, and written back so. -/
def walks (s : State) (ck d va : Nat) : Prop :=
  ctxWalks s ck = true → s.pkg.tlbinvBusy = false →
    (d < 8 → va < 2 ^ 55 → tlbFind s (512 + d) (ctxVf ck) false va = none → ∀ p a b path, walk s ck d false va = .leaf p a b path →
      Leaves (.pageWalk ck d va) s fun t => DeviceWrote { s with tlb := t.tlb, walks := t.walks } t ∧
        tlbFind t (512 + d) (ctxVf ck) false va = some ⟨3, d, ctxVf ck, false, va / 2 ^ b, b, p ||| 0x400#64⟩ ∧
        PteWritten s t ck a (p ||| 0x400#64)) ∧
    (∀ l, walk s ck d false va = .absent l → d < 8 → va < 2 ^ 55 → tlbFind s (512 + d) (ctxVf ck) false va = none →
      Acts (.pageWalk ck d va) s s) ∧
    (∀ e p a b path, s.tlb.find? (fun e => e.vf == ctxVf ck && !e.text && va / 2 ^ e.bits == e.base && pteW e.pte && !pteD e.pte &&
        writePending s ck va e) = some e →
      walk s ck (agentDie (entAgent e)) false va = .leaf p a b path →
      (¬ (b = e.bits ∧ ptePa p = ptePa e.pte ∧ pteW p = true) → Acts (.setDirty ck va) s s) ∧
      (b = e.bits → ptePa p = ptePa e.pte → pteW p = true → Leaves (.setDirty ck va) s fun t => DeviceWrote { s with tlb := t.tlb, walks := t.walks } t ∧
        (∀ q ∈ tlbsOf (entAgent e), (⟨q.1, q.2.1, ctxVf ck, false, va / 2 ^ b, b, p ||| 0xC00#64⟩ : TlbEnt) ∈ t.tlb) ∧
        PteWritten s t ck a (p ||| 0xC00#64)))

/-- Fault records of R172 to R174: a waiting record is appended when its ring has room; REPLAY translates a held load again,
and CANCEL raises TRANSLATION. -/
def faultRecords (s : State) (ck acc vf seq : Nat) : Prop :=
  (∀ c f, tabGet s.ctxs ck = some c → c.faults.find? (·.waiting) = some f → (∀ x ∈ c.faults, x.seq = f.seq → x = f) →
    (ringFull c .fault = true → Acts (.faultRecordWaitEnd ck) s s) ∧
    (ringFull c .fault = false → Leaves (.faultRecordWaitEnd ck) s fun t => t.groups = s.groups ∧
      tabGet t.ctxs ck = some { c with fl := { c.fl with head := (c.fl.head + 1) % 2 ^ 32 }
                                       faults := c.faults.map fun x => if x = f then { f with waiting := false } else x })) ∧
  ∀ a g n h, tabGet s.accs acc = some a → heldAccs s vf (selectedSeqs s vf seq) = [acc] → a.kind = .load → a.parts = [(n, h)] →
    h.done = false → selectedHold (selectedSeqs s vf seq) h.hold = true → tabGet s.groups a.grp = some g → g.serial = a.gser →
    (∀ u x, translateOnly (dropRecords s vf (selectedSeqs s vf seq)) a.ctx a.core h.va (MKind.load.use g.triplex a.ty h.size) = .ok u x → Leaves (.fltreplayReplay vf seq) s fun t => selectedSeqs t vf seq = [] ∧
        ∃ b q, tabGet t.accs acc = some b ∧ tabGet b.parts n = some q ∧ q.va = h.va ∧ q.pa = x.pa ∧ q.key = x.key ∧ q.hold = .no) ∧
    ((∀ o ∈ s.ops, selectedHold (selectedSeqs s vf seq) o.2.held = false) → waitingSess s vf (selectedSeqs s vf seq) = [] →
      waitingGroups s vf (selectedSeqs s vf seq) = [] → ∀ c, tabGet s.ctxs a.ctx = some c → c.state = .running →
      Leaves (.fltreplayCancel vf seq) s fun t => tabGet t.accs acc = none ∧ t.mem = s.mem ∧
        ∃ y, tabGet t.ctxs a.ctx = some y ∧ y.state = .halting ∧ y.cause = fcTranslation)

/-- The cached leaves that an invalidation removes (R176). -/
def invalidated (s : State) (ctl : W64) (e : TlbEnt) : Bool :=
  let size := match fld ctl 31 30 with | 0 => 2 ^ 16 | 1 => 2 ^ 29 | _ => 2 ^ 42
  let lo := fld s.pkg.tlbinvVa 54 16 * 2 ^ 16
  let mine := e.vf == fld ctl 8 0
  match fld ctl 57 56 with
  | 0 => mine && !e.text && decide (e.base * 2 ^ e.bits < lo + max 1 (fld ctl 47 32) * size) && decide (lo < e.base * 2 ^ e.bits + 2 ^ e.bits)
  | 1 => mine
  | 2 => true
  | _ => mine && e.text

/-- The invalidation commands of R176 and R177, in the order of their SCOPE, and TLBINV_COMPLETE. -/
def invalidates (s : State) (ctl : W64) : Prop :=
  (∀ n i, [Instr.tlbinvRange ctl, .tlbinvVf ctl, .tlbinvAll ctl, .tlbinvText ctl][n]? = some i → fld ctl 57 56 = n →
    (s.pkg.tlbinvBusy = true ∨ fld ctl 31 30 = 3 → Acts i s s) ∧
    (s.pkg.tlbinvBusy = false → fld ctl 31 30 ≠ 3 → Leaves i s fun t => t = { s with tlb := t.tlb, walks := t.walks, pkg := t.pkg } ∧
      t.tlb = s.tlb.filter (fun e => !invalidated s ctl e) ∧ t.walks = s.walks.filter (fun e => !invWalk ctl e) ∧
      t.pkg.tlbinvBusy = true ∧ t.pkg.tlbinvDone = s.pkg.tlbinvDone ∧ t.pkg.tlbinvAt = s.pkg.tlbinvVa ∧
      fld t.pkg.tlbinvOp 57 56 = n ∧ fld t.pkg.tlbinvOp 8 0 = fld ctl 8 0)) ∧
  (s.pkg.tlbinvBusy = true → s.pkg.tlbinvWait.all (fun id => (tabGet s.accs id).isNone) = true → s.pkg.tlbinvTx.all (txOver s) = true →
    s.pkg.tlbinvFars.all (fun id => !(tabGet s.fars id).any fun r => r.res.isNone && r.refused.isNone) = true →
    Acts .tlbinvComplete s
      { s with pkg := { s.pkg with tlbinvBusy := false, tlbinvWait := [], tlbinvTx := [], tlbinvFars := [], tlbinvDone := s.gts } }) ∧
  (∀ id ∈ s.pkg.tlbinvFars, ∀ r, tabGet s.fars id = some r → r.res = none → r.refused = none → Acts .tlbinvComplete s s) ∧
  (s.pkg.tlbinvBusy = true → ∀ id ∈ s.pkg.tlbinvWait, ∀ a, tabGet s.accs id = some a → accStores a = true →
    (∀ p ∈ a.parts, awaitsPage p.2.hold = false) → Acts .tlbinvComplete s s) ∧
  (s.pkg.tlbinvBusy = false → Acts .tlbinvComplete s s)

/-- A command of R182 of a VF, for a slot. -/
def Cmd (w : W64) (op slot : Nat) : Prop := fld w 63 60 = op ∧ fld w 59 56 = slot

/-- The state of a context slot. -/
def InState (s : State) (ck : Nat) (st : CtxState) : Prop := ∃ y, tabGet s.ctxs ck = some y ∧ y.state = st

/-- PARTQ_ENABLE and PARTQ_DISABLE of R178 and R179: a quota that fits beside the others is enabled, another only marked. -/
def quotas (s : State) (p : Nat) (w : W64) : Prop :=
  p < 48 →
    let field := w &&& 0x03FFFFFFFFFFFFF8#64
    (w.getLsbD 0 = true → (getPart s p).w0.getLsbD 0 = false → Acts (.partqEnable p w) s (updPart s p fun x => { x with
      w0 := if quotaFits s p w x.w1 then field ||| 1#64 else field ||| 2#64 })) ∧
    (w.getLsbD 0 = true → (getPart s p).w0.getLsbD 0 = true → Acts (.partqEnable p w) s s) ∧
    (w.getLsbD 0 = false → (getPart s p).w0.getLsbD 0 = false ∨ partCtxs s p = [] → Acts (.partqDisable p w) s
      (updPart s p fun x => { x with w0 := field ||| (x.w0 &&& 2#64) })) ∧
    (w.getLsbD 0 = false → (getPart s p).w0.getLsbD 0 = true → partCtxs s p ≠ [] → Acts (.partqDisable p w) s s)

/-- The context commands of R183 and R184: CREATE, SWITCH, HALT, RESUME and TEARDOWN. -/
def ctxCommands (s : State) (v n : Nat) (w : W64) : Prop :=
  v < 384 →
    let ck := v * 16 + n
    let refused := updVf s v fun x => { x with cause := fcIllegalOpnd }
    let accepted := updVf s v fun x => { x with cause := 0 }
    let at_ := fld w 51 7 * 128
    (∀ desc, Cmd w 1 n → busyVf s v = false → tabGet s.ctxs ck = none → inWell s at_ 128 = true → readDesc s v at_ = .ok desc →
      descOk s v desc = true → Leaves (.ctxCreate v w) s fun t => InState t ck .loaded ∧ t.mem = s.mem ∧ t.groups = s.groups ∧
        (∀ y, tabGet t.ctxs ck = some y → y.desc = desc ∧ y.objs = [] ∧ y.cause = 0) ∧ ∀ j, j ≠ ck → tabGet t.ctxs j = tabGet s.ctxs j) ∧
    (Cmd w 1 n → busyVf s v = false → (tabGet s.ctxs ck).isSome = true ∨ inWell s at_ 128 = false ∨
      (∃ desc, readDesc s v at_ = .ok desc ∧ descOk s v desc = false) → Acts (.ctxCreate v w) s refused) ∧
    (∀ c, Cmd w 2 n → busyVf s v = false → (InState s ck .loaded ∨ InState s ck .saved) →
      tabGet s.ctxs (v * 16 + (getVf s v).cur) = some c →
      (c.state = .running → Acts (.ctxSwitch v w) s (setCtx accepted (v * 16 + (getVf s v).cur) { c with state := .saving, switchTo := some n })) ∧
      (c.state = .halting → Acts (.ctxSwitch v w) s refused) ∧
      (c.state = .halted → Leaves (.ctxSwitch v w) s fun t => (getVf t v).cur = n ∧ (getVf t v).gsp = true ∧ t.ctxs = s.ctxs)) ∧
    (Cmd w 2 n → busyVf s v = false → tabGet s.ctxs ck = none → Acts (.ctxSwitch v w) s refused) ∧
    (Cmd w 3 n → InState s ck .running → Leaves (.ctxHalt v w) s fun t => InState t ck .halting ∧ t.mem = s.mem ∧
      ∀ y, tabGet t.ctxs ck = some y → y.cause = fcHaltReq) ∧
    (Cmd w 3 n → (InState s ck .loaded ∨ InState s ck .saved ∨ InState s ck .restoring) → Leaves (.ctxHalt v w) s fun t => InState t ck .halted) ∧
    (Cmd w 4 n → busyVf s v = false → InState s ck .halted → Leaves (.ctxResume v w) s fun t => InState t ck .saved ∧ t.groups = s.groups) ∧
    (Cmd w 4 n → busyVf s v = false → InState s ck .running → Acts (.ctxResume v w) s refused) ∧
    (Cmd w 5 n → (InState s ck .loaded ∨ InState s ck .saved ∨ InState s ck .halted) → (∀ g ∈ s.grids, g.2.ctx ≠ ck) →
      Leaves (.ctxTeardown v w) s fun t => tabGet t.ctxs ck = none ∧ t.mem = s.mem ∧
        (∀ g ∈ t.groups, g.2.ctx ≠ ck) ∧ (∀ x ∈ t.teams, x.2.ctx ≠ ck) ∧ (∀ a ∈ t.accs, a.2.ctx ≠ ck) ∧ (∀ o ∈ t.ops, o.2.ctx ≠ ck) ∧
        ∀ k g, tabGet s.groups k = some g → g.ctx ≠ ck → (k, g) ∈ t.groups) ∧
    (Cmd w 5 n → InState s ck .running → Leaves (.ctxTeardown v w) s fun t => InState t ck .halting ∧
      ∀ y, tabGet t.ctxs ck = some y → y.teardown = true)

/-- HALT_LINE_RISE and UNIT_STOP of R183, R185 to R187, on the context of the running VF: a group's stop makes its record,
the last stop completes the halt, and its groups are saved. -/
def haltSteps (s : State) (p v : Nat) : Prop :=
  let ck := v * 16 + (getVf s v).cur
  ((getPart s p).running = some v → InState s ck .running → ∀ c, c < 256 → Leaves (.haltLineRise p c) s fun t => InState t ck .halting ∧
    ∀ y, tabGet t.ctxs ck = some y → y.cause = c) ∧
  (∀ h c k g, (getPart s p).halt = some h → tabGet s.ctxs h.ctx = some c → c.state = .halting → tabGet s.groups k = some g →
    g.ctx = h.ctx → g.state ≠ .retired → k < 512 * 96 → g.paired = false → (∀ m ∈ s.msgs, msgOf m.2 ≠ some g.serial) → c.recs.any (fun r => r.unit == groupUnit k) = false →
    (∃ j x, tabGet s.groups j = some x ∧ x.ctx = h.ctx ∧ x.state ≠ .retired ∧ j < 512 * 96 ∧ groupUnit j ≠ groupUnit k ∧
      c.recs.any (fun r => r.unit == groupUnit j) = false) →
    Leaves (.unitStop p (groupUnit k)) s fun t => InState t h.ctx .halting ∧
      (∃ y r, tabGet t.ctxs h.ctx = some y ∧ y.recs = c.recs ++ [r] ∧ r.unit = groupUnit k ∧ r.gid = gidOf g ∧ r.gts = s.gts ∧
        (g.faultPc = none → r.pc = (shownPath g).1) ∧ r.origin = (ownOf h (groupUnit k)).isSome) ∧
      ∃ x, tabGet t.groups k = some x ∧ x.state = .stopped ∧ x.pc = g.pc ∧ x.em = g.em ∧ x.v = g.v ∧ x.s = g.s) ∧
  ∀ h c u, (getPart s p).halt = some h → tabGet s.ctxs h.ctx = some c → c.state = .halting → c.teardown = false →
    (stopUnits s h).all (fun u => c.recs.any fun r => r.unit == u) = true → ctxSettled s h.ctx true = true → ctxPart c < 48 →
    c.recs.any (fun r => r.unit == u) = true →
    Leaves (.unitStop p u) s fun t => InState t h.ctx .halted ∧ (getPart t p).halt = none ∧
      (∀ k g, tabGet t.groups k = some g → g.ctx ≠ h.ctx) ∧
      ∀ y, tabGet t.ctxs h.ctx = some y → y.cause = c.cause ∧
        ∀ k g, tabGet s.groups k = some g → g.ctx = h.ctx → ∃ x, tabGet y.saved g.serial = some x

/-- RESTORE_START, RESTORE_COMPLETE, SLICE_END and SAVE_COMPLETE of R183 and R191 to R195. -/
def slices (s : State) (p v : Nat) : Prop :=
  let ck := v * 16 + (getVf s v).cur
  let t0 := s.gts
  p < 48 → (getPart s p).running = some v → ∀ c, tabGet s.ctxs ck = some c → ctxPart c = p →
    (c.state = .loaded ∨ c.state = .saved → Leaves (.restoreStart p) s fun t => InState t ck .restoring ∧
      (c.saved = [] → t = setCtx s ck { c with state := .restoring })) ∧
    (c.state = .restoring → (∀ x ∈ s.teams, x.2.borrowed ≠ some p) → c.saved = [] → c.heldMsgs = [] → s.accs = [] → s.msgs = [] →
      (∀ g ∈ s.groups, g.2.ctx = ck → g.2.state ≠ .pending) →
      Leaves (.restoreComplete p) s fun t => InState t ck .running ∧ (getVf t v).gsp = false ∧
        ∀ k g, tabGet s.groups k = some g → ∃ x, tabGet t.groups k = some x ∧ x.pc = g.pc ∧ x.em = g.em ∧ x.v = g.v ∧ x.s = g.s) ∧
    (t0 < (getPart s p).sliceStart + 1000 * max 1 (fld (getPart s p).w2 63 48) → Acts (.sliceEnd p) s s) ∧
    ((getPart s p).sliceStart + 1000 * max 1 (fld (getPart s p).w2 63 48) ≤ t0 → c.state = .running →
      let now := updPart (accrueAll s) p fun x => { x with sliceStart := t0 }
      (∀ x, givesWay now p v = some x → Leaves (.sliceEnd p) s fun t => InState t ck .saving ∧ (getPart t p).next = some x) ∧
      (givesWay now p v = none → Acts (.sliceEnd p) s now)) ∧
    ((getPart s p).sliceStart + 1000 * max 1 (fld (getPart s p).w2 63 48) ≤ t0 → c.state = .restoring →
      Leaves (.sliceEnd p) s fun t => InState t ck .saved ∧ t.mem = s.mem ∧ (∀ k g, tabGet t.groups k = some g → g.ctx ≠ ck) ∧
        ∀ k g, tabGet s.groups k = some g → g.ctx ≠ ck → tabGet t.groups k = some g) ∧
    (c.state = .saving → ctxSettled s ck false = true → c.switchTo = none → Leaves (.saveComplete p) s fun t => InState t ck .saved ∧
      (∀ k g, tabGet t.groups k = some g → g.ctx ≠ ck) ∧
      ∀ y, tabGet t.ctxs ck = some y → ∀ k g, tabGet s.groups k = some g → g.ctx = ck → ∃ x, tabGet y.saved g.serial = some x)

/-- TOKEN_ACCRUAL of R193, in 1/1024 of a nanosecond's credit: the running VF is charged down to one slice below zero, and
another accrues at its rate up to its cap. -/
def accrues (s : State) (v : Nat) : Prop :=
  v < 384 → Leaves (.tokenAccrual v) s fun t =>
    let x := getVf s v
    let y := getVf t v
    let held := fun (u : Vf) => u.bucket * 1024000 + (u.credit : Int)
    let dt : Int := s.gts - x.chargedTo
    let slice : Int := vfSlice s v * 1024000
    t = { s with vfs := t.vfs } ∧ y.chargedTo = s.gts ∧
    (x.chargedTo ≤ s.gts → vfRuns s v = true → -slice ≤ held x → held y = max (held x - dt * 1024) (-slice)) ∧
    (x.chargedTo ≤ s.gts → vfRuns s v = false → held x < (min x.cap 4 : Nat) * slice →
      held y = min (held x + dt * (min x.rate 1024 : Nat)) ((min x.cap 4 : Nat) * slice)) ∧
    (vfRuns s v = false → (min x.cap 4 : Nat) * slice ≤ held x → held y = held x)

/-- VF_KEY_LOAD and VF_KEY_CLEAR of R192. -/
def vfKeys (s : State) (v : Nat) : Prop :=
  v < 384 →
    ((∀ c ∈ s.ctxs, c.1 / 16 ≠ v) →
      Leaves (.vfKeyLoad v) s (fun t => getVf t v = { getVf s v with key := some (stagedKey s) } ∧ t.pkg.keystage = [0, 0, 0, 0] ∧
        (∀ l, tabGetD t.lines.roots (rootAt (.vf v) l) 0 = 0) ∧ t.mem = s.mem) ∧
      Leaves (.vfKeyClear v) s fun t => getVf t v = { getVf s v with key := none } ∧ (∀ l, tabGetD t.lines.roots (rootAt (.vf v) l) 0 = 0) ∧ t.mem = s.mem) ∧
    ((∃ c ∈ s.ctxs, c.1 / 16 = v) → Acts (.vfKeyLoad v) s s ∧ Acts (.vfKeyClear v) s s)

/-- RECLAIM and RECLAIM_COMPLETE of R197. -/
def reclaims (s : State) (p core : Nat) : Prop :=
  (∀ tk x, tabKeys s.teams (fun _ t => t.borrowed == some p && t.core == core) = [tk] → tabGet s.teams tk = some x →
    x.borrowed = some p → x.core = core → reclaimDue s p = true → (getPart s p).reclaim = none → s.accs = [] → s.msgs = [] →
    (∀ g ∈ s.groups, g.2.team = tk → g.2.ctx = x.ctx ∧ g.2.state ≠ .retired ∧ g.2.tx.state = .none ∧ g.2.mark.valid = false) →
    (s.groups.map (·.1)).Nodup → (tabGet s.ctxs x.ctx).isSome = true → (∀ c ∈ s.cores, ∀ b ∈ c.2.bins, b.2.team ≠ tk) →
    Leaves (.reclaim p core) s fun t => (getPart t p).reclaim.isSome = true ∧
      (∀ g ∈ t.groups, g.2.team ≠ tk) ∧ (∃ y, tabGet t.teams tk = some y ∧ y.borrowed = none ∧ y.away.isSome = true) ∧
      (∀ k g, tabGet s.groups k = some g → g.team = tk → ∃ y h, tabGet t.ctxs x.ctx = some y ∧ tabGet y.saved g.serial = some h) ∧
      ∀ k g, tabGet s.groups k = some g → g.team ≠ tk → tabGet t.groups k = some g) ∧
  ∀ ck sers e c, (getPart s p).reclaim = some (ck, sers, e) → tabGet s.ctxs ck = some c → (c.state ≠ .running ∨ (sers = [] ∧ c.savedBins = [])) →
    ringFull c .event = false → Leaves (.reclaimComplete p) s fun t => (getPart t p).reclaim = none ∧ t.groups = s.groups ∧
      tabGet t.ctxs ck = some { c with ev := { c.ev with head := (c.ev.head + 1) % 2 ^ 32 } }

/-- OBJECT_LOAD and OBJECT_UNLOAD of R202 to R204: an accepted file becomes an object at the base and id that were chosen, its
recipes' routines in text indices; an object without a grid leaves, another waits as UNLOADING. -/
def objects (s : State) (ck : Nat) (file : List (BitVec 8)) (id base : Nat) (frames : List Nat) : Prop :=
  ∀ c, tabGet s.ctxs ck = some c →
    let pages := (textLen file + 4095) / 4096
    (fileCause file = none → tabGet c.objs id = none → base % 4096 = 0 → base + 4096 * pages ≤ 2 ^ 40 →
      frames.length = pages + ((sectOf file 7).2 + 65535) / 65536 → (∀ f ∈ frames, f % 0x10000 = 0 ∧ ownWell s f = true) →
      (∀ o ∈ c.objs, rangesMeet base (4096 * pages) o.2.base o.2.size = false) →
      Leaves (.objectLoad ck file id base frames) s fun t => t.groups = s.groups ∧ t.grids = s.grids ∧
        ∃ o, tabGet t.ctxs ck = some { c with objs := tabPut c.objs id o, loadCause := 0 } ∧ o.unloading = false ∧ o.base = base ∧
          o.size = 4096 * pages ∧ o.kernels = fileKerns file ∧ o.roles = fileRoles file ∧ o.consts = fileConsts file ∧
          o.recipes = (fileRecipes file).map (fun r => ⟨base + r.routine, r.regs⟩) ∧ o.frames = frames.take pages ∧ o.datas = frames.drop pages) ∧
    (∀ cause, fileCause file = some cause → Acts (.objectLoad ck file id base frames) s (setCtx s ck { c with loadCause := cause })) ∧
    ∀ o, tabGet c.objs id = some o →
      ((∃ g ∈ s.grids, g.2.ctx = ck ∧ g.2.obj = id) → Acts (.objectUnload ck id) s
        (setCtx s ck { c with objs := tabPut c.objs id { o with unloading := true } })) ∧
      ((∀ g ∈ s.grids, g.2.ctx ≠ ck ∨ g.2.obj ≠ id) → Leaves (.objectUnload ck id) s fun t => t.groups = s.groups ∧
        ∃ y, tabGet t.ctxs ck = some y ∧ tabGet y.objs id = none ∧ y.state = c.state)

/-- BIND_RESOLVE of R215: with a target, the slot takes it and the paths that wait on the slot go on past their BIND; without
one, BIND_FAIL. -/
def bindResolves (s : State) (ck pa : Nat) : Prop :=
  ∀ c, tabGet s.ctxs ck = some c →
    (bindWaiters s ck pa = [] → ∀ x, Acts (.bindResolve ck pa x) s s) ∧
    (bindWaiters s ck pa ≠ [] → (∀ k ∈ bindWaiters s ck pa, ∃ g, tabGet s.groups k = some g ∧ g.ctx = ck) → c.state = .running →
      Leaves (.bindResolve ck pa none) s fun t =>
      t.mem = s.mem ∧ ∃ y, tabGet t.ctxs ck = some y ∧ y.state = .halting ∧ y.cause = fcBindFail) ∧
    ∀ tgt, (∃ o ∈ c.objs, o.2.unloading = false ∧ o.2.base ≤ tgt ∧ tgt < o.2.base + o.2.size) →
      Leaves (.bindResolve ck pa (some tgt)) s fun t =>
        (bindWaiters s ck pa ≠ [] → t.mem = (hostPut s (ctxVf ck) pa (leBytes (2 ^ 63 + tgt) 8)).mem) ∧
        ∀ k ∈ bindWaiters s ck pa, (∀ l ∈ (getCore t (coreOf k)).l1, l.vf ≠ ctxVf ck) ∧
          ∀ g, tabGet s.groups k = some g → ∃ h, tabGet t.groups k = some h ∧ h.em = g.em ∧ h.v = g.v ∧ h.s = g.s ∧ h.p = g.p ∧
            ∀ q ∈ g.paths, ∀ r, q.kind = .waiting r (.bind pa) → h.state = (if g.state = .wait then .ready else g.state) ∧
              { q with kind := .runnable, pc := q.pc + 1, fall := fallsOff s g.ctx q.pc, bump := q.bump + 1 } ∈ h.paths

/-- GRID_ACCEPTANCE of R210: the oldest request of its source is accepted with its snapshot, or refused with its record. -/
def gridStarts (s : State) (q : Nat) : Prop :=
  ∀ r c, tabGet s.reqs q = some r → tabGet s.ctxs r.ctx = some c → c.state ≠ .halting → c.state ≠ .halted →
    (∀ x ∈ s.reqs, x.1 < q → x.2.ctx ≠ r.ctx ∨ x.2.wq ≠ r.wq) →
    let mode := fld (lpbW r.words 0) 55 54
    (∀ o k, checkLaunch s c r.words = .ok (o, k) → Leaves (.gridAcceptance q) s fun t => tabGet t.reqs q = none ∧ t.mem = s.mem ∧
      t.groups = s.groups ∧ ∃ g, tabGet t.grids s.serial = some g ∧ g.ctx = r.ctx ∧ g.lpb = r.words ∧ g.lpbAddr = r.addr ∧
        g.kern = k ∧ g.roles = kernRoles o k ∧ g.placed = 0 ∧ g.ended = 0 ∧ g.wq = r.wq ∧ g.since = s.cycle ∧
        (mode = 0 → g.snap = none ∧ t.ctxs = s.ctxs) ∧ (mode = 1 → g.snap = some s.gts ∧ t.ctxs = s.ctxs) ∧
        ∀ p, mode = 2 → tabGet c.pins (fld (lpbW r.words 0) 53 46) = some p → g.snap = some p.stamp ∧
          ∃ y, tabGet t.ctxs r.ctx = some y ∧ tabGet y.pins (fld (lpbW r.words 0) 53 46) = some { p with refs := p.refs + 1 }) ∧
    ∀ e u, checkLaunch s c r.words = .error e →
      launchWrite { s with reqs := tabDel s.reqs q } r.ctx (lpbCaddr r.words) (wordsBytes (recordWords s e 0 0 r.addr)) = .ok u →
      Leaves (.gridAcceptance q) s fun t => tabGet t.reqs q = none ∧ t.mem = u.mem ∧ t.grids = s.grids ∧ t.groups = s.groups

/-- GRID_COMPLETION of R212: with its last team ended, a grid writes its completion record and leaves. -/
def gridEnds (s : State) (gk : Nat) : Prop :=
  ∀ g c, tabGet s.grids gk = some g → tabGet s.ctxs g.ctx = some c →
    (g.ended < lpbTeams g.lpb → Acts (.gridCompletion gk) s s) ∧
    ∀ u, lpbTeams g.lpb ≤ g.ended → (c.state = .running ∨ c.state = .saving) → (lpbW g.lpb 7).getLsbD 57 = false →
      (∀ o, tabGet c.objs g.obj = some o → o.unloading = false) →
      launchWrite s g.ctx (lpbCaddr g.lpb) (wordsBytes (recordWords s 0 0 g.ended g.lpbAddr)) = .ok u →
      Leaves (.gridCompletion gk) s fun t => tabGet t.grids gk = none ∧ t.mem = u.mem ∧ t.groups = s.groups ∧ t.teams = s.teams

/-- TEAM_PLACEMENT of R209, R211 and R220, for teams of one group: the next team of the served grid is placed with its rows and
barriers, its group PENDING at its role's entry. -/
def teamStarts (s : State) (gk core k row bar : Nat) : Prop :=
  ∀ g c z d lin r, tabGet s.grids gk = some g → tabGet s.ctxs g.ctx = some c → c.state = .running → nextTeam g = some (z, d, lin) →
    g.roles = [r] → r.groups = 1 → kernPaired g.kern = false → (servedGrid s g.ctx).map (·.1) = some gk →
    let p := ctxPart c
    let rows := lpbRows g.lpb
    let nb := lpbBars g.lpb
    (placedCores s (getPart s p).w1).contains core = true → (getCore s core).failed = false → (getDie s (core / 64)).trip = false →
    lenderOf s p core row rows = none → rowsFree s g.ctx p core row rows = true → bar + nb ≤ fld (getPart s p).w0 15 9 →
    (∀ t ∈ s.teams, t.2.ctx = g.ctx → t.2.core = core → rangesMeet (p * 64 + bar) nb t.2.bar t.2.nbars = false) →
    (lpbCaps g.lpb).countP entryLocal ≤ (freeQslots s p core).length → matrixFree s core p g = true → startFree s core g = true →
    coreOf k = core → slotFits s p k (8 * r.regs) 1 = true → (∀ x ∈ s.groups, x.2.team ≠ s.serial) →
    Leaves (.teamPlacement gk core [k] row bar) s fun t =>
      tabGet t.grids gk = some { g with z := z, d := d + 1, placed := g.placed + 1 } ∧
      (∃ x, tabGet t.teams s.serial = some x ∧ x.grid = gk ∧ x.ctx = g.ctx ∧ x.lin = lin ∧ x.core = core ∧ x.row = row ∧
        x.rows = rows ∧ x.bar = p * 64 + bar ∧ x.nbars = nb ∧ x.slots = [(0, k)] ∧ x.borrowed = none) ∧
      (∃ h, tabGet t.groups k = some h ∧ h.state = .pending ∧ h.pc = (tabGet c.objs g.obj).elim 0 (·.base) + r.entry ∧ h.lin = lin ∧
        h.tslot = 0 ∧ h.role = 0 ∧ h.ctx = g.ctx ∧ h.running = true ∧ h.paths = [] ∧ h.ended = 0) ∧
      (∀ j, j ≠ k → tabGet t.groups j = tabGet s.groups j) ∧
      (declaresMatrix g = true → (s.cycle, s.serial) ∈ (getDie t (core / 64)).reserved) ∧
      (MemInv s → ∀ a, a < rowAddr s.pkg.id core row 0 ∨ rowAddr s.pkg.id core row 0 + 128 * rows ≤ a → memByte t.mem a = memByte s.mem a)

/-- GROUP_STATE_LOADED, ACTIVE_SET_ENTRY and FAIRNESS_EVICTION of R220 and R229, on groups with a running path. -/
def schedules (s : State) (sched k : Nat) : Prop :=
  (∀ g, tabGet s.groups k = some g → g.state = .pending → grpRuns s g = true → s.accs = [] → s.msgs = [] →
    Acts (.groupStateLoaded k) s (acquireL1 (setGroup s k { g with
      state := if g.dbgStop then .stopped else .ready, readyAt := s.cycle, fenced := s.serial
      relNext := BitVec.ofNat 96 (2 ^ nLanes g - 1) }) k (ctxVf g.ctx) .sys)) ∧
  (∀ g c, tabGet s.groups k = some g → g.state = .pending → tabGet s.ctxs g.ctx = some c → c.state = .restoring →
    Acts (.groupStateLoaded k) s (setGroup s k { g with state := if g.dbgStop then .stopped else .ready, readyAt := s.cycle })) ∧
  (readyGroups s sched = [] → Acts (.activeSetEntry sched) s s ∧ Acts (.fairnessEviction sched) s s) ∧
  ∀ g, (k, g) ∈ readyGroups s sched → g.running = true →
    let n := if g.paired then 2 else 1
    let enters := fun u => setGroup (endYield u sched) k { g with
      state := .active, yld := false, front := false, activeAt := s.cycle, nextAt := max g.nextAt (s.cycle + 2) }
    ((∀ x ∈ readyGroups s sched, x = (k, g) ∨ entersBefore s (k, g) x = true) →
      (activeUse s sched + n ≤ 8 → Acts (.activeSetEntry sched) s (enters s)) ∧
      (8 < activeUse s sched + n → Acts (.activeSetEntry sched) s s)) ∧
    ((∀ x ∈ readyGroups s sched, s.cycle < x.2.readyAt + 192) → Acts (.fairnessEviction sched) s s) ∧
    ((∀ x ∈ readyGroups s sched, x = (k, g) ∨ g.readyAt < x.2.readyAt) → g.readyAt + 192 ≤ s.cycle → grpLocked s g = false →
      (activeUse s sched + n ≤ 8 → Acts (.fairnessEviction sched) s s) ∧
      (8 < activeUse s sched + n → (∀ x ∈ s.groups, schedOf x.1 = sched → x.2.state = .active → grpLocked s x.2 = true) →
        Acts (.fairnessEviction sched) s s) ∧
      ∀ j h, n = 1 → activeUse s sched = 8 → (s.groups.map (·.1)).Pairwise (· < ·) → tabGet s.groups j = some h → h.state = .active →
        schedOf j = sched → grpLocked s h = false → h.px = 0 →
        (∀ x ∈ s.groups, schedOf x.1 = sched → x.2.state = .active → grpLocked s x.2 = false → x = (j, h) ∨ h.activeAt < x.2.activeAt) →
        Acts (.fairnessEviction sched) s (enters (setGroup s j { h with state := .ready, readyAt := s.cycle })))

/-- GROUP_FREE of R220 and R221: the slot of a RETIRED group whose work is complete is free, and the last one ends its team. -/
def groupFrees (s : State) (k : Nat) : Prop :=
  ∀ g c, tabGet s.groups k = some g → tabGet s.ctxs g.ctx = some c → c.saved = [] → c.savedBins = [] →
    (g.state ≠ .retired → Acts (.groupFree k) s s) ∧
    (g.state = .retired → grpDone s (releaseSlots s.cycle g) = true → Leaves (.groupFree k) s fun t =>
      tabGet t.groups k = none ∧ (∀ j, j ≠ k → tabGet t.groups j = tabGet s.groups j) ∧ t.ctxs = s.ctxs ∧
      ∀ x, tabGet s.teams g.team = some x →
        let y := { x with slots := x.slots.filter fun e => e.2 != k }
        if teamDone s g.team y then tabGet t.teams g.team = none ∧
          ∀ q, tabGet s.grids x.grid = some q → tabGet t.grids x.grid = some { q with ended := q.ended + 1 }
        else tabGet t.teams g.team = some y ∧ t.grids = s.grids ∧ t.mem = s.mem)

/-- SPAWN_BIN_TIMEOUT and SPAWN_BIN_PLACE of R237, SLEEP_EXPIRY of R318. -/
def binSteps (s : State) (core bin k : Nat) : Prop :=
  (∀ b c, binCtx s core bin = some (b, c) → c.state = .running →
    let fired := updCore s core fun x => { x with bins := tabPut x.bins bin { b with fired := true } }
    (b.fired = false → s.cycle < b.age + 2048 → Acts (.spawnBinTimeout core bin) s s) ∧
    (b.fired = false → b.age + 2048 ≤ s.cycle → (∀ t, tabGet s.teams b.team = some t → freeTeamSlot t 1 = none) →
      Acts (.spawnBinTimeout core bin) s fired) ∧
    (b.fired = true → ∀ t g j, tabGet s.teams b.team = some t → tabGet s.grids t.grid = some g → freeTeamSlot t 1 = some j →
      let regs := (g.roles[b.role]?).elim 0 (fun r => r.regs * 8)
      coreOf k = core → t.away = none → coreUsable s (partOf s t.ctx) core = true → slotFits s (t.borrowed.getD ((tabGet s.ctxs t.ctx).elim 0 ctxPart)) k regs 1 = true →
      Leaves (.spawnBinPlace core bin k) s fun u => tabGet u.groups k = some (binGroup s.serial t.ctx t g b regs j s.cycle) ∧
        tabGet u.teams b.team = some { t with slots := tabPut t.slots j k } ∧ tabGet (getCore u core).bins bin = none ∧ u.mem = s.mem)) ∧
  ∀ g, tabGet s.groups k = some g →
    let slept := fun (q : Path) => match q.kind with | .waiting _ (.sleep n) => decide (q.since + n ≤ s.cycle) | _ => false
    ((∀ q ∈ g.paths ++ g.spilled, slept q = false) → Acts (.sleepExpiry k) s s) ∧
    ((∃ q ∈ g.paths, slept q = true) → Leaves (.sleepExpiry k) s fun t => ∃ h, t = setGroup s k h ∧
      h.state = (if g.state = .wait then .ready else g.state) ∧ h.em = g.em ∧ h.v = g.v ∧ h.s = g.s ∧ h.p = g.p ∧
      ∀ q ∈ g.paths, (if slept q then { q with kind := .runnable, pc := q.pc + 1, fall := fallsOff s g.ctx q.pc, bump := q.bump + 1 } else q) ∈ h.paths)

/-- CAPDATA_WRITE of R242: an accepted write sets the shared entry of its context and every instance of it. -/
def capWrites (s : State) (v : Nat) (w : W64) : Prop :=
  v < 384 →
    let i := fld (getVf s v).capidx 5 0
    let ck := v * 16 + fld (getVf s v).capidx 9 6
    let refused := updVf s v fun x => { x with cause := fcIllegalOpnd }
    (i < 16 → Acts (.capdataWrite v w) s s) ∧
    (16 ≤ i → tabGet s.ctxs ck = none ∨ entryBad s.pkg.id none w = true → Acts (.capdataWrite v w) s refused) ∧
    ∀ c, 16 ≤ i → tabGet s.ctxs ck = some c → entryBad s.pkg.id none w = false → Leaves (.capdataWrite v w) s fun t =>
      t.mem = s.mem ∧ t.teams = s.teams ∧ ∃ y, tabGet t.ctxs ck = some y ∧ y.shared = tabPut c.shared i w ∧ y.state = c.state ∧
        ∀ core x p, tabGet c.core core = some x → tabGet x.shared i = some p → ∃ z q, tabGet y.core core = some z ∧
          tabGet z.shared i = some q ∧ q.entry = w ∧ q.allow = fld w 31 16 ∧ q.waiting = p.waiting

/-- CQ_CREATE and CQ_DESTROY of R243 and R244, on a context that is LOADED or SAVED. -/
def contextQueues (s : State) (v : Nat) (w : W64) : Prop :=
  v < 384 → ∀ c, tabGet s.ctxs (v * 16 + cqSlot w) = some c →
    let put := fun y => setCtx (updVf s v fun x => { x with cause := 0 }) (v * 16 + cqSlot w) y
    let refused := updVf s v fun x => { x with cause := fcIllegalOpnd }
    let q : QSlot := ⟨v * 16 + cqSlot w, none, false, 0, cqSize w, cqDepth w, 0, 0, 0, [], [], []⟩
    (fld w 63 62 = 1 →
      (cqReady s c w = false → Acts (.cqCreate v w) s refused) ∧
      (cqReady s c w = true → fld w 41 37 ≤ 12 → cqQueue w < fld (getPart s (ctxPart c)).w0 8 3 → tabGet c.savedQ (cqKey c w) = none →
        (topRows s (v * 16 + cqSlot w) c (cqCore w) (queueRows q) = none → Acts (.cqCreate v w) s refused) ∧
        ∀ r, topRows s (v * 16 + cqSlot w) c (cqCore w) (queueRows q) = some r →
          Acts (.cqCreate v w) s (put { c with savedQ := tabPut c.savedQ (cqKey c w) { q with base := r } }))) ∧
    (fld w 63 62 = 2 →
      (tabGet c.savedQ (cqKey c w) = none → Acts (.cqDestroy v w) s refused) ∧
      ∀ x, cqReady s c w = true → tabGet c.savedQ (cqKey c w) = some x → x.team = none →
        Acts (.cqDestroy v w) s (put { c with savedQ := tabDel c.savedQ (cqKey c w)
                                              savedRows := memClear c.savedRows (rowAddr s.pkg.id (cqCore w) x.base 0) (128 * queueRows x) }))

/-- An entry has been appended to a queue: its bytes stand at the place of the tail, and nothing else of memory changed. -/
def Appended (s t : State) (core q : Nat) (x : QSlot) (id : W64) (bs : List Byte) (unit : Bool) : Prop :=
  let pa := rowAddr s.pkg.id core x.base (x.esz * x.tail)
  tabGet (getCore t core).qslots q =
    some { x with tail := (x.tail + 1) % x.depth, count := x.count + 1, senders := x.senders ++ [id], units := x.units ++ [unit] } ∧
  (MemInv s → (∀ a, a < pa ∨ pa + bs.length ≤ a → memByte t.mem a = memByte s.mem a) ∧ memNat t.mem pa bs.length = leNat bs)

/-- QUEUE_APPEND of R244, R248, R252 and R256: to a cistern queue, a work queue and a media engine. -/
def appends (s : State) (n : Nat) : Prop :=
  ∀ m, tabGet s.msgs n = some m →
    (msgBehind s n m = true → Acts (.queueAppend n) s s) ∧
    (msgBehind s n m = false →
      (∀ core q ck id bs k ser pc slot lst x c, m = .append core q ck id bs k ser pc slot lst → tabGet s.ctxs ck = some c →
        c.state = .running → tabGet (getCore s core).qslots q = some x →
        (x.ctx = ck → x.esz = bs.length → x.err = false → x.count < x.depth → Leaves (.queueAppend n) s fun t =>
          Appended s t core q x id bs (launchId id) ∧ tabGet t.msgs n = none ∧ ((slotOf s ser).isSome = true → t.ctxs = s.ctxs)) ∧
        (x.ctx = ck → x.esz = bs.length → x.err = false → x.depth ≤ x.count → Leaves (.queueAppend n) s fun t =>
          tabGet (getCore t core).qslots q = some { x with err := true } ∧ t.mem = s.mem ∧ tabGet t.msgs n = none ∧
          ∃ y, tabGet t.ctxs ck = some y ∧ y.state = .halting ∧ y.cause = fcQueueError)) ∧
      (∀ q ck id bs k ser pc slot lst, m = .record q ck id bs k ser pc slot lst →
        (getWq s q).state = .open → (getWq s q).vf = ck / 16 → Leaves (.queueAppend n) s fun t => tabGet t.msgs n = none ∧
          (getWq t q).tail = ((getWq s q).tail + 1) % 2 ^ 32 ∧ (getWq t q).head = (getWq s q).head ∧ (getWq t q).state = .open ∧
          tabGet (getWq t q).senders (getWq s q).tail = some (ck, id)) ∧
      ∀ e ck id bs k ser pc gid slot lst, m = .card e ck id bs k ser pc gid slot lst →
        (∀ j g i, slotOf s ser = some j → tabGet s.groups j = some g → slot = some i → Leaves (.queueAppend n) s fun t =>
          ∃ h, tabGet t.groups j = some h ∧ tabGetD h.sb i 0 = tabGetD g.sb i 0 - 1 ∧ ∀ l, l ≠ i → tabGetD h.sb l 0 = tabGetD g.sb l 0) ∧
        (slotOf s ser = none → ∀ c g i, tabGet s.ctxs ck = some c → tabGet c.saved ser = some g → slot = some i →
          Leaves (.queueAppend n) s fun t => ∃ y h, tabGet t.ctxs ck = some y ∧ tabGet y.saved ser = some h ∧
            tabGetD h.sb i 0 = tabGetD g.sb i 0 - 1) ∧
        (cardBad (jobWords bs) = false → Leaves (.queueAppend n) s fun t => tabGet t.msgs n = none ∧ t.mem = s.mem ∧
          getMedia t e = { getMedia s e with cards := (getMedia s e).cards ++ [⟨ck, id, gid, jobWords bs⟩] }) ∧
        (cardBad (jobWords bs) = true → Leaves (.queueAppend n) s fun t => t.medias = s.medias ∧ t.mem = s.mem ∧
          ∃ j, tabGet t.msgs j = some (.freeCount ck id)))

/-- FREE_COUNT_RETURN of R246 and R259: a unit of allowance returns, or is held; one for another package waits for a link. -/
def freeReturns (s : State) (n : Nat) : Prop :=
  ∀ ck id, tabGet s.msgs n = some (.freeCount ck id) →
    (idPkg id ≠ s.pkg.id → Acts (.freeCountReturn n) s s) ∧
    ∀ c, idPkg id = s.pkg.id → tabGet s.ctxs ck = some c →
      (c.state ≠ .running → Acts (.freeCountReturn n) s
        (setCtx { s with msgs := tabDel s.msgs n } ck { c with heldMsgs := c.heldMsgs ++ [id] })) ∧
      c.state = .running →
        (∀ x, id.getLsbD 44 = true → instGet s ck id = some x → Leaves (.freeCountReturn n) s fun t =>
          tabGet t.msgs n = none ∧ t.mem = s.mem ∧ t.teams = s.teams ∧ instGet t ck id = some { x with allow := min 0xFFFF (x.allow + 1) }) ∧
        ∀ tk tm, id.getLsbD 44 = false → idTeamOf s ck id = some (tk, tm) → Leaves (.freeCountReturn n) s fun t =>
          let x := tabGetD tm.caps (idChan id) Cap.zero
          tabGet t.msgs n = none ∧ t.mem = s.mem ∧ tabGet t.teams tk =
            some { tm with caps := tabPut tm.caps (idChan id) { x with allow := min 0xFFFF (x.allow + 1) } }

/-- WQDOOR and the commands of R249 and R251 on a host work queue. -/
def workQueues (s : State) (q v : Nat) (w : W64) : Prop :=
  q < 1024 →
    let x := getWq s q
    let becomes := fun i y => Leaves i s fun t => t = { s with wqs := tabPut s.wqs q y, parts := t.parts, vfs := t.vfs }
    let idle := x.head = x.tail ∧ x.signal = none ∧ (∀ g ∈ s.grids, g.2.wq ≠ some q) ∧ ∀ r ∈ s.reqs, r.2.wq ≠ some q
    (fld w 41 32 = q → x.state = .unbound ∨ x.vf ≠ v ∨ x.state = .draining → Acts (.wqdoor v w) s s) ∧
    (fld w 41 32 = q → x.state ≠ .unbound → x.vf = v → x.state ≠ .draining → becomes (.wqdoor v w) { x with tail := fld w 31 0 }) ∧
    let stored := { x with vf := fld w 51 43, slot := fld w 42 39 }
    (x.state = .unbound → 4 ≤ fld x.base 63 59 → fld x.base 63 59 ≤ 16 → fld w 51 43 < 384 →
      (tabGet s.ctxs (fld w 51 43 * 16 + fld w 42 39)).isSome = true →
      becomes (.wqBind q w) { stored with state := .open, head := 0, tail := 0, senders := [] }) ∧
    (x.state ≠ .unbound ∨ fld x.base 63 59 < 4 ∨ 16 < fld x.base 63 59 ∨ 384 ≤ fld w 51 43 ∨
      tabGet s.ctxs (fld w 51 43 * 16 + fld w 42 39) = none → becomes (.wqBind q w) stored) ∧
    (x.state = .open → becomes (.wqPause q) { x with state := .paused }) ∧ (x.state ≠ .open → Acts (.wqPause q) s s) ∧
    (x.state = .paused → becomes (.wqResume q) { x with state := .open }) ∧
    (x.state = .open ∨ x.state = .paused → idle → becomes (.wqDrain q) { x with state := .closed, drainTo := x.tail }) ∧
    (x.state = .open ∨ x.state = .paused → ¬ idle → becomes (.wqDrain q) { x with state := .draining, drainTo := x.tail }) ∧
    (x.state ≠ .unbound → x.state ≠ .closed → becomes (.wqClose q) { x with state := .closed }) ∧
    (x.state = .unbound ∨ x.state = .closed → Acts (.wqClose q) s s) ∧
    (x.state = .closed → becomes (.wqUnbind q) { x with state := .unbound }) ∧ (x.state ≠ .closed → Acts (.wqUnbind q) s s)

/-- The records of R250 and R251 at the head of a queue whose records are consumed: a launch, a signal, one that is malformed,
and the write of a signal once the queue's earlier grids have left. -/
def records (s : State) (q : Nat) : Prop :=
  let x := getWq s q
  let ck := x.vf * 16 + x.slot
  let taken := { x with head := (x.head + 1) % 2 ^ 32, senders := tabDel x.senders x.head }
  (∀ r, consumes s x = true → headRecord s q x = (s, some (.ok r)) →
    (∀ u l, recordType r = 1 → readLpb s ck (r.getD 1 0).toNat = (.ok u, l) → Leaves (.wqLaunchRecord q) s fun t =>
      getWq t q = taken ∧ t.mem = u.mem ∧ t.groups = s.groups ∧ ∃ n, tabGet t.reqs n = some ⟨ck, (r.getD 1 0).toNat, l, some q⟩) ∧
    (∀ u c a l, recordType r = 1 → readLpb s ck (r.getD 1 0).toNat = (.fault u c a, l) → c < 256 → Leaves (.wqLaunchRecord q) s fun t =>
      getWq t q = { x with state := .error, cause := c, index := x.head }) ∧
    (recordType r = 2 → Leaves (.wqSignalRecord q) s fun t => getWq t q =
      { taken with signal := some ((r.getD 1 0).toNat, r.getD 2 0), signalCtx := ck } ∧
      t.mem = s.mem ∧ t.groups = s.groups) ∧
    (recordType r = 0 → Leaves (.malformedRecord q) s fun t => t.mem = s.mem ∧ t.ctxs = s.ctxs ∧ t.groups = s.groups ∧
      getWq t q = { x with state := .error, cause := fcIllegalOpnd, index := x.head }) ∧
    (recordType r ≠ 0 → Acts (.malformedRecord q) s s)) ∧
  (∀ c, consumes s x = true → headRecord s q x = (s, some (.error c)) → c < 256 → Leaves (.malformedRecord q) s fun t =>
    t.mem = s.mem ∧ t.ctxs = s.ctxs ∧ t.groups = s.groups ∧ getWq t q = { x with state := .error, cause := c, index := x.head } ∧
    (c = fcIntegrity → t.raised = s.raised ++ [⟨c, .vf x.vf, ck, headAddr x⟩])) ∧
  (consumes s x = false → Acts (.wqLaunchRecord q) s s ∧ Acts (.wqSignalRecord q) s s ∧ Acts (.malformedRecord q) s s) ∧
  ∀ va y c, x.signal = some (va, y) → tabGet s.ctxs x.signalCtx = some c → c.state = .running →
    ((∃ g ∈ s.grids, g.2.wq = some q) → Acts (.signalWrite q) s s) ∧
    ((∀ g ∈ s.grids, g.2.wq ≠ some q) → (∀ r ∈ s.reqs, r.2.wq ≠ some q) →
      (∀ u, va % 8 = 0 → launchWrite s x.signalCtx va (leBytes y.toNat 8) = .ok u → Leaves (.signalWrite q) s fun t =>
        t.mem = u.mem ∧ (getWq t q).signal = none ∧ (getWq t q).head = x.head ∧ t.groups = s.groups) ∧
      (va % 8 ≠ 0 → Leaves (.signalWrite q) s fun t => t.mem = s.mem ∧ (getWq t q).signal = none ∧
        ∃ z, tabGet t.ctxs x.signalCtx = some z ∧ z.state = .halting ∧ z.cause = fcMisalign))

/-- A card has been taken: it is off the engine's list, and its unit of allowance is on its way (R256). -/
def CardTaken (t : State) (m : Nat) (c : Card) (rest : List Card) (sess : List Sess) : Prop :=
  getMedia t m = ⟨rest, sess⟩ ∧ ∃ n, tabGet t.msgs n = some (.freeCount c.ctx c.sender)

/-- The cards of R256 to R258: OPEN for decoding and encoding, FRAME, ROWBACK and CLOSE. -/
def mediaCards (s : State) (m : Nat) : Prop :=
  m < 16 →
    let x := getMedia s m
    let w := fun (c : Card) i => c.words.getD i 0
    let ofC := fun (c : Card) => x.sess.find? fun y => y.ctx == c.ctx && y.num == fld (w c 0) 55 52
    let becomes := fun (z y : Sess) => x.sess.map fun u => if u.ctx = z.ctx ∧ u.num = z.num then y else u
    (∀ op enc c rest, (op, enc) ∈ [(1, false), (2, true)] → pickCard s x op [] x.cards = some (c, rest) → ofC c = none → x.sess.length < 16 →
      Leaves (if enc then .mediaOpenEnc m else .mediaOpenDec m) s fun t => t.mem = s.mem ∧ CardTaken t m c rest (x.sess ++
        [⟨c.ctx, fld (w c 0) 55 52, enc, fld (w c 0) 59 56, fld (w c 0) 45 40, .idle, 0, 0, 0, 0, 0, false, false, false, idCore c.sender, c.gid, .no⟩])) ∧
    (∀ op i c rest z, (op, i) ∈ [(1, Instr.mediaOpenDec m), (2, .mediaOpenEnc m)] → pickCard s x op [] x.cards = some (c, rest) →
      ofC c = some z → Leaves i s fun t => CardTaken t m c rest x.sess ∧ (z.state ≠ .failed → t.mem = s.mem ∧ t.ctxs = s.ctxs)) ∧
    (∀ op i, (op, i) ∈ [(1, Instr.mediaOpenDec m), (2, .mediaOpenEnc m), (3, .mediaFrame m), (4, .mediaRowback m), (5, .mediaClose m)] →
      pickCard s x op [] x.cards = none → Acts i s s) ∧
    (∀ c rest z, pickCard s x 3 [] x.cards = some (c, rest) → ofC c = some z →
      (z.state = .idle → Leaves (.mediaFrame m) s fun t => t.mem = s.mem ∧ CardTaken t m c rest (becomes z { z with
        state := .busy, stream := fld (w c 1) 54 0, len := fld (w c 2) 31 0, picture := fld (w c 3) 54 0, row := 0, gid := c.gid })) ∧
      (z.state ≠ .idle → Leaves (.mediaFrame m) s fun t => CardTaken t m c rest x.sess)) ∧
    (∀ c rest z, pickCard s x 4 [] x.cards = some (c, rest) → ofC c = some z →
      let matched := z.state = .busy ∧ z.awaiting = true ∧ fld (w c 4) 31 16 = z.row % 2 ^ 16 ∧ fld (w c 4) 15 0 = z.frameno % 2 ^ 16
      (matched → Leaves (.mediaRowback m) s fun t => t.mem = s.mem ∧ CardTaken t m c rest (becomes z { z with awaiting := false })) ∧
      (¬ matched → Leaves (.mediaRowback m) s fun t => CardTaken t m c rest x.sess ∧
        (z.state ≠ .failed → t.mem = s.mem ∧ t.ctxs = s.ctxs))) ∧
    ∀ c rest z, pickCard s x 5 [] x.cards = some (c, rest) → ofC c = some z →
      (z.state = .busy → Leaves (.mediaClose m) s fun t =>
        t.mem = s.mem ∧ CardTaken t m c rest (becomes z { z with closing := true })) ∧
      (z.state ≠ .busy → Leaves (.mediaClose m) s fun t =>
        t.mem = s.mem ∧ CardTaken t m c rest (x.sess.filter fun u => !(u.ctx == z.ctx && u.num == z.num)))

/-- MEDIA_ROW_DONE of R169, R172, R257 and R258: the engine makes the accesses of a row, and then pushes its handle with the
session's allowance and goes on, or fails the session; a row whose access faults halts the context. -/
def mediaRows (s : State) (m ck num : Nat) : Prop :=
  m < 16 → num < 16 → ∀ z k, sessOf (getMedia s m) ck num = some z → z.state = .busy → z.awaiting = false → z.closing = false →
    awaitsPage z.held = false → tabGet s.ctxs ck = some k → k.state = .running →
    let sid := ck * 16 + num
    let made := fun (accs : List MediaAcc) => accs.foldl (fun r a => r.bind fun t _ => mediaAccess t m z a) (ER.ok s ())
    let z1 := { z with paused := false, held := .no }
    (∀ accs u code, made accs = .ok u () → sessOf (getMedia u m) ck num = some z → 1 ≤ code → code ≤ 3 →
      Leaves (.mediaRowDone m sid (.fail code accs)) s fun t =>
        sessOf (getMedia t m) ck num = some { z1 with state := .failed, awaiting := false } ∧ t.groups = u.groups) ∧
    (∀ accs u c va key pa x, made accs = .fail u c va key pa → c ≠ fcIntegrity → tabGet u.ctxs ck = some x → x.state = .running →
      Leaves (.mediaRowDone m sid (.fail 1 accs)) s fun t => ∃ y, tabGet t.ctxs ck = some y ∧ y.state = .halting ∧ y.cause = c) ∧
    (∀ c, 16 ≤ z.outch → instGet s ck (chanId s z.core 0 z.outch) = some c → c.entry.getLsbD 63 = true → c.entry.getLsbD 59 = true →
      capKind c = 0 → c.allow = 0 → ∀ out, rowFails out = false → Acts (.mediaRowDone m sid out) s s) ∧
    ∀ accs u c x, made accs = .ok u () → sessOf (getMedia u m) ck num = some z → tabGet u.ctxs ck = some k → rowWaits s z = false →
      let id := chanId u z.core 0 z.outch
      let q := capQueue (ctxPart k) z.core c
      16 ≤ z.outch → instGet u ck id = some c → c.entry.getLsbD 63 = true → c.entry.getLsbD 59 = true → capKind c = 0 →
      tabGet (getCore u q.1).qslots q.2 = some x → x.ctx = ck → x.esz = 16 → x.err = false → x.count < x.depth →
      ∀ out addr stage next,
        (out, addr, stage, next) ∈ [(MediaRow.final addr true accs, addr, 2, { z1 with state := .idle, row := 0, frameno := z.frameno + 1 }),
          (.final addr false accs, addr, 2, { z1 with row := z.row + 1 }), (.recon addr accs, addr, 0, z1),
          (.awaiting addr accs, addr, 1, { z1 with awaiting := true })] →
        Leaves (.mediaRowDone m sid out) s fun t => Appended u t q.1 q.2 x id (rowHandle m z addr stage) true ∧
          sessOf (getMedia t m) ck num = some next

/-- BARDROP_CLEAR of R270. -/
def bardrop (s : State) (core : Nat) : Prop := core < 512 → Acts (.bardropClear core) s (updCore s core fun c => { c with bardrop := 0 })

/-- A link is in a state, and every request its package has on its way, and memory, is as it was. -/
def LinkIs (s t : State) (l : Nat) (p : Link → Prop) : Prop :=
  p (getLink t l) ∧ t.mem = s.mem ∧ t.accs = s.accs ∧ t.msgs = s.msgs ∧ t.ctxs = s.ctxs

/-- The states of a link of R275 and R276: LINK_TRAIN, LINK_DRAIN, LINK_DISABLE, ERRCNT_CLEAR, LINK_TRAINED, TRAINING_TIMEOUT,
LANE_LOST, PEER_LOST and FLIT_CRC_FAIL. -/
def linkStates (s : State) (l n : Nat) (vfs : List Nat) : Prop :=
  l < 24 →
    let x := getLink s l
    let works := x.state = .active ∨ x.state = .degraded
    let turns := fun i st => Leaves i s fun t => LinkIs s t l fun y => y.state = st
    let replays := if x.windowAt = s.gts / 1000000 then x.window + 1 else 1
    (x.state = .down ∨ x.state = .fenced → Leaves (.linkTrain l) s fun t => LinkIs s t l fun y => y.state = .training ∧ y.since = s.gts) ∧
    (works ∨ x.state = .training ∨ x.state = .draining → Acts (.linkTrain l) s s) ∧
    (works → Leaves (.linkDrain l) s fun t => LinkIs s t l fun y =>
      y.state = if x.sent.filter (reqLives s) = [] then .down else .draining) ∧
    (works → turns (.linkDisable l) .down ∧ turns (.peerLost l) .down) ∧
    (¬ works → Acts (.linkDrain l) s s ∧ Acts (.linkDisable l) s s ∧ Acts (.peerLost l) s s ∧ Acts (.laneLost l n) s s) ∧
    Acts (.errcntClear l) s (updLink s l fun y => { y with errcnt := 0 }) ∧
    (x.state = .training →
      (∀ p, p ≠ s.pkg.id → Acts (.linkTrained l n p) s s) ∧
      (n < 4 → turns (.linkTrained l n s.pkg.id) .down) ∧
      (4 ≤ n → n ≤ 8 → Leaves (.linkTrained l n s.pkg.id) s fun t => t.mem = s.mem ∧ (getLink t l).lanes = n ∧
        (getLink t l).peer = s.pkg.id % 1024 ∧ (getLink t l).state = if n = 8 then .active else .degraded) ∧
      (x.since + 10000000 ≤ s.gts → turns (.trainingTimeout l) .down) ∧
      (s.gts < x.since + 10000000 → Acts (.trainingTimeout l) s s)) ∧
    (works → n < x.lanes → Leaves (.laneLost l n) s fun t => LinkIs s t l fun y =>
      y.lanes = n ∧ y.state = if n < 4 then .down else .degraded) ∧
    (works → Leaves (.flitCrcFail l vfs) s fun t => LinkIs s t l fun y => y.errcnt = min (x.errcnt + 1) 0xFFFFFFFF ∧ y.window = replays ∧
      y.state = if max 1 x.thresh ≤ replays then .fenced else x.state)

/-- FLIT_ACK, FLIT_RECEIVED and ROUTE_TIMEOUT of R274, R277 to R280: an acknowledged store is performed at its far home, an answer
is a far load's result, a push arrives at its queue, a write of another package is made here, and a request whose route has
been dead for 10 ms fails. -/
def linkTraffic (s : State) (l acc part : Nat) : Prop :=
  (∀ a p, l < 24 → firstSent (sendRemote s) l (acc, part) = true → tabGet s.accs acc = some a → tabGet a.parts part = some p →
    p.size ≤ 16 → 0 < p.size →
    (accStores a = true → Leaves (.flitAck l acc part) s fun t => PartDone t acc part none ∧ t.mem = s.mem) ∧
    ∀ x, (getLink s l).state = .active → isLoad a.kind = true → p.data2.toNat < 4 → Leaves (.flitReceived l (.answer acc part x)) s fun t =>
      PartDone t acc part (some (x.toNat / 2 ^ (8 * (p.pa % 128)) % 2 ^ (8 * p.size))) ∧ t.mem = s.mem) ∧
  (∀ core q ck id bs c y, l < 24 → (getLink s l).state = .active → s.inbox = [] → core < 512 → q < 32 → tabGet s.ctxs ck = some c →
    c.state = .running → tabGet (getCore s core).qslots (ctxPart c * 32 + q) = some y → y.ctx = ck → y.esz = bs.length → y.err = false →
    y.count < y.depth → Leaves (.flitReceived l (.push core q ck id bs)) s fun t =>
      Appended s t core (ctxPart c * 32 + q) y id bs false ∧ t.ctxs = s.ctxs ∧ t.inbox = []) ∧
  (∀ v win cmp pa bs u, l < 24 → (getLink s l).state = .active → s.inbox = [] → farOk s pa bs.length = true → verFrame s pa = false →
    pumpWrite (sendRemote s) (farKey v win) false cmp (hostPa pa) bs none none = .done u 0 →
    Leaves (.flitReceived l (.write v win cmp pa bs)) s fun t => t.mem = u.mem ∧ t.ctxs = u.ctxs) ∧
  (∀ v win cmp pa bs, l < 24 → (getLink s l).state = .active → s.inbox = [] → farOk s pa bs.length = false ∨ verFrame s pa = true →
    Leaves (.flitReceived l (.write v win cmp pa bs)) s fun t => t.mem = s.mem ∧ t.lines = s.lines ∧ t.ctxs = s.ctxs ∧ t.inbox = []) ∧
  (∀ f, (getLink s l).state = .down → Acts (.flitReceived l f) s s) ∧
  ∀ a c, tabGet s.accs acc = some a → tabGet s.ctxs a.ctx = some c →
    ((∀ x ∈ a.parts, ∀ d, partPending x.2 = true → destOf s x.2.home = some d → routeDead s d = false) → Acts (.routeTimeout acc) s s) ∧
    (c.state = .running → a.kind ≠ .pref → (∃ x ∈ a.parts, partPending x.2 = true ∧ ∃ d, destOf s x.2.home = some d ∧ routeDead s d = true) →
      Leaves (.routeTimeout acc) s fun t => tabGet t.accs acc = none ∧ t.mem = s.mem ∧
        ∃ y, tabGet t.ctxs a.ctx = some y ∧ y.state = .halting ∧ y.cause = fcUncorrectable)

/-- FUNCTION_LEVEL_RESET of R283: every context of the VF that the function is of this package is torn down. -/
def functionReset (s : State) (fn : Nat) : Prop :=
  let base := 1 + 384 * (s.pkg.id % 8)
  (functionsUp s = false ∨ fn < base ∨ base + 384 ≤ fn → Acts (.functionLevelReset fn) s s) ∧
  ∀ v, functionsUp s = true → v < 384 → fn = base + v → Leaves (.functionLevelReset fn) s fun t => ∀ n c, n < 16 → tabGet s.ctxs (v * 16 + n) = some c →
    (c.state = .running → ∃ y, tabGet t.ctxs (v * 16 + n) = some y ∧ y.state = .halting ∧ y.teardown = true ∧ y.cause = fcHaltReq) ∧
    ((c.state = .loaded ∨ c.state = .saved ∨ c.state = .halted) → (∀ g ∈ s.grids, g.2.ctx ≠ v * 16 + n) → tabGet t.ctxs (v * 16 + n) = none)

/-- An operation runs: it has started and has units left, its queue and the fences before it let it, no halt has stopped it and
no page holds it (R130, R131, R172, R186). -/
def OpRuns (s : State) (id : Nat) (o : EngOp) : Prop :=
  tabGet s.ops id = some o ∧ o.started = true ∧ o.prog < o.total ∧ opStopped s o = false ∧ awaitsPage o.held = false ∧ opFirst s id o = true

/-- An operation is at its next unit. -/
def OpAt (t : State) (id : Nat) (o : EngOp) : Prop := tabGet t.ops id = some { o with prog := o.prog + 1, held := .no }

/-- ENGINE_OP_START of R19, R390, R395 and R401. -/
def opStarts (s : State) (id : Nat) : Prop :=
  ∀ o c, tabGet s.ops id = some o → tabGet s.ctxs o.ctx = some c → o.started = false → o.cls < 4 → opStopped s o = false → opFirst s id o = true →
    let runs := { s with ops := tabPut s.ops id { o with started := true } }
    let v := fun i => (o.vals.getD i 0).toNat
    (∀ w, (o.i = .cpy w ∨ o.i = .cpyMeta w ∨ o.i = .gather w ∨ o.i = .macc w) → Acts (.engineOpStart id) s runs) ∧
    (∀ w, (o.i = .cpyT w ∨ o.i = .cpyCv w ∨ o.i = .xfmJ w) → Acts (.engineOpStart id) s runs) ∧
    (∀ w, (o.i = .mloop w ∨ o.i = .mloopSp w) → Acts (.engineOpStart id) s (if seqIdle s o.core && !o.granted then
      (if c.state = .halting then s else { s with ops := tabPut s.ops id { o with startReq := true } }) else runs)) ∧
    (∀ w, o.i = .mzero w → Leaves (.engineOpStart id) s fun t => OpAt t id { o with started := true } ∧ t.mem = s.mem ∧
      ∃ y, tabGet t.ctxs o.ctx = some y ∧ tabGetD (getCoreCtx y o.core).gcount (v 0) 0 = 0 ∧
        ∀ k, tabGet (getCoreCtx y o.core).tiles k =
          if k / 12288 = v 0 ∧ (o.vals.getD 1 0 = 1 ∨ k % 12288 < 4096) then none else tabGet (getCoreCtx c o.core).tiles k) ∧
    ∀ w u bs ls, o.i = .cbload w → engRead s o true false none (v 0) 1024 = .ok u (bs, ls) → Leaves (.engineOpStart id) s fun t =>
      OpAt t id { o with started := true } ∧ t.mem = u.mem ∧
      ∃ y, tabGet t.ctxs o.ctx = some y ∧ (getCoreCtx y o.core).codebook = codeTable bs

/-- An operation goes on as `next` after its accesses have left `u`, with `m` sectors landed on its barrier (R262, R268, R391): they
leave SEC_PEND, and an evaluation follows; a barrier that was invalidated meanwhile counts them in BARDROP; where SEC_PEND would
pass its range, the context halts with ENGINE_ERROR. Where another event of this cycle comes after them in the order of R264,
they land in a later one. -/
def Lands (i : Instr) (s u : State) (id : Nat) (o next : EngOp) (m : Nat) : Prop :=
  (o.bar = none → Leaves i s fun t => t.mem = u.mem ∧ tabGet t.ops id = some next) ∧
  ∀ b, o.bar = some b →
    let d := m - o.counted
    let y := barGet u o.core b
    let z := { y with sec := y.sec - d }
    let same := fun (t : State) => (getCore t o.core).bars = (getCore u o.core).bars ∧ (getCore t o.core).bardrop = (getCore u o.core).bardrop
    let done := fun (t : State) => t.mem = u.mem ∧ tabGet t.ops id = some { next with counted := m }
    (m ≤ o.counted → Leaves i s fun t => done t ∧ same t) ∧
    (o.counted < m → barTurn u o.core b o.cls = true →
      (y.valid = true → -(2 ^ 23) ≤ z.sec → Leaves i s fun t => done t ∧ (getCore t o.core).bardrop = (getCore u o.core).bardrop ∧
        (∀ j, j ≠ b → tabGet (getCore t o.core).bars j = tabGet (getCore u o.core).bars j) ∧
        tabGet (getCore t o.core).bars b = some (barWord (if z.arrPend = 0 ∧ z.sec = 0 then
          { z with phase := (z.phase + 1) % 16, arrPend := z.arrInit, cts := u.gts % 2 ^ 32 } else z))) ∧
      (y.valid = true → z.sec < -(2 ^ 23) → ∀ c, tabGet u.ctxs o.ctx = some c → c.state = .running → Leaves i s fun t =>
        ∃ y, tabGet t.ctxs o.ctx = some y ∧ y.state = .halting ∧ y.cause = fcEngineError) ∧
      (y.valid = false → Leaves i s fun t => done t ∧ (getCore t o.core).bars = (getCore u o.core).bars ∧
        (getCore t o.core).bardrop =
          if y.inval then min ((getCore u o.core).bardrop + d) 0xFFFFFFFF else (getCore u o.core).bardrop)) ∧
    (o.counted < m → barTurn u o.core b o.cls = false → o.held = .no → Leaves i s fun t => t.mem = s.mem ∧ tabGet t.ops id = some o)

/-- A unit of a copy or gather has been done, and `n` sectors are due by it: with the last unit all that the operation counts. -/
def UnitLands (i : Instr) (s u : State) (id : Nat) (o : EngOp) (n : Nat) : Prop :=
  Lands i s u id o { o with prog := o.prog + 1, held := .no } (if o.prog + 1 = o.total then o.sectors else max o.counted n)

/-- ENGINE_LINE_TRANSFER of R391, R394, R395 and R397, and SPARSITY_QUEUE_PUSH of R255 and R396: a thread's copy, a row, a
converted row, a latch row and an entry, where the engine's reads and writes go through. -/
def opMoves (s : State) (id : Nat) : Prop :=
  ∀ o c, OpRuns s id o → tabGet s.ctxs o.ctx = some c →
    let v := fun i => (o.vals.getD i 0).toNat
    (∀ w, o.i = .cpy w →
      let n := 4 * 2 ^ (w.m.toNat % 4)
      let a := v o.prog % 2 ^ 64
      let b := v o.prog / 2 ^ 64
      let sl := w.m.getLsbD 3
      let dl := w.m.getLsbD 2
      (sl = true ∨ a < 2 ^ 55) → (dl = true ∨ b < 2 ^ 55) → a % n = 0 → b % n = 0 →
      ∀ u bs x ls t0, engRead s o sl true o.snap a n = .ok u (bs, x :: ls) → (∀ y ∈ ls, y = x) → engWrite u o dl x b n bs = .ok t0 () →
        UnitLands (.engineLineTransfer id) s t0 id o (n * (o.prog + 1) / 32)) ∧
    (∀ w, o.i = .cpyT w → ∀ src dst rows n ds ss, descRows (o.vals.map (·.toNat)) = (src, dst, rows, n, ds, ss) →
      ∀ a b, rowVa (w.m.getLsbD 1) src o.prog ss = some a → rowVa (w.m.getLsbD 0) dst o.prog ds = some b → a % 4 = 0 → b % 4 = 0 →
      ∀ u bs x ls t0, engRead s o (w.m.getLsbD 1) true o.snap a n = .ok u (bs, x :: ls) → (∀ y ∈ ls, y = x) →
        engWrite u o (w.m.getLsbD 0) x b n bs = .ok t0 () →
        UnitLands (.engineLineTransfer id) s t0 id o (n * (o.prog + 1) / 32)) ∧
    (∀ w, o.i = .cpyCv w → ∀ src dst rows n ds ss, descRows (o.vals.map (·.toNat)) = (src, dst, rows, n, ds, ss) →
      ∀ a b dt st, cvTypes w.m = (dt, st) → rowVa (w.m.getLsbD 11) src o.prog ss = some a → rowVa (w.m.getLsbD 10) dst o.prog ds = some b →
      n * dt.bits % 8 = 0 → ∀ u bs ls ys t0, engRead s o (w.m.getLsbD 11) true o.snap a (packBytes st n) = .ok u (bs, 0 :: ls) →
        (∀ y ∈ ls, y = 0) → allCvt ((List.range n).map fun i => convert st dt (v 4) .ne (leNat bs / 2 ^ (st.bits * i) % 2 ^ st.bits)) = some ys →
        engWrite u o (w.m.getLsbD 10) 0 b (packBytes dt n) (leBytes (Machine.pack dt.bits ys) (n * dt.bits / 8)) = .ok t0 () →
        UnitLands (.engineLineTransfer id) s t0 id o (packBytes dt n * (o.prog + 1) / 32)) ∧
    (o.prog < 64 → ∀ w, o.i = .gather w → ∀ u bs ls tm row t0, engRead s o true false none (v 0 + 2 * o.prog) 2 = .ok u (bs, ls) →
      tabGet u.teams o.team = some tm → teamRowOk u o.team tm (leNat bs) = true →
      readRange u (engOwner o) o.ctx ⟨locAddr u tm (128 * leNat bs), 128, .vf (ctxVf o.ctx), false, false, 0, 128 * leNat bs⟩ none = .ok t0 row →
      UnitLands (.engineLineTransfer id) s t0 id o (4 * (o.prog + 1)) ∧
      (o.bar = none → Leaves (.engineLineTransfer id) s fun t => ∃ y, tabGet t.ctxs o.ctx = some y ∧
        ((getCoreCtx y o.core).latch.drop (128 * o.prog)).take row.length = row)) ∧
    ∀ w, o.i = .cpyMeta w →
      (64 ≤ (getCoreCtx c o.core).sparse.length → Acts (.sparsityQueuePush id) s s) ∧
      ((getCoreCtx c o.core).sparse.length < 64 → v 0 % 128 = 0 → ∀ u bs ls,
        engRead s o (w.m.getLsbD 0) false o.snap (v 0 + 128 * o.prog) 128 = .ok u (bs, ls) → Leaves (.sparsityQueuePush id) s fun t =>
          OpAt t id o ∧ t.mem = u.mem ∧ ∃ y, tabGet t.ctxs o.ctx = some y ∧
            (getCoreCtx y o.core).sparse = (getCoreCtx c o.core).sparse ++ [BitVec.ofNat 1024 (leNat bs)])

/-- MLOOP_K_STEP of R19, R85 and R400, for a dense operation: it asks for its start where the sequencer was idle; a step that ends
an accumulation group adds the group's sums to the tile. MACC_READOUT of R402 and XFM_JOB_BLOCK of R404, a block of a conversion. -/
def opComputes (s : State) (id : Nat) : Prop :=
  ∀ o c, OpRuns s id o → tabGet s.ctxs o.ctx = some c →
    let v := fun i => (o.vals.getD i 0).toNat
    (∀ w, o.i = .mloop w →
      let fmt := w.m.toNat % 16
      let i := o.prog + o.work.length / stepWords fmt false
      let s0 := { s with ops := tabPut s.ops id o }
      (seqIdle s o.core = true → o.granted = false → Acts (.mloopKStep id) s (if c.state = .halting then s else
        { s with ops := tabPut s.ops id { o with startReq := true } })) ∧
      ((seqIdle s o.core = false ∨ o.granted = true) → w.m.getLsbD 4 = false → ∀ u a l1 t0 b l2,
        engRows s0 o (blockRow (v 1) i) (aBytes fmt) = .ok u (a, l1) →
        engRows u o (blockRow (v 2) i) (bBytes fmt false) = .ok t0 (b, l2) →
        let work := o.work ++ toWords (aWords fmt) a ++ toWords (bBytes fmt false / 16) b
        ((i + 1) % groupSteps fmt false ≠ 0 → i + 1 ≠ o.total → Leaves (.mloopKStep id) s fun t => t.mem = t0.mem ∧
          tabGet t.ops id = some { o with work := work, granted := false, held := .no } ∧ (getCore t o.core).lastK = some t0.cycle) ∧
        ((i + 1) % groupSteps fmt false = 0 ∨ i + 1 = o.total → Leaves (.mloopKStep id) s fun t => t.mem = t0.mem ∧
          tabGet t.ops id = some { o with work := [], entries := [], granted := false, held := .no, prog := i + 1 } ∧
          ∃ y, tabGet t.ctxs o.ctx = some y ∧ tabGetD (getCoreCtx y o.core).gcount (v 0) 0 = tabGetD (getCoreCtx c o.core).gcount (v 0) 0 + 1))) ∧
    (∀ w g, o.i = .macc w → w.m.getLsbD 5 = false → tabGet s.groups o.grp = some g → g.serial = o.gser → o.cancel = [] →
      (∀ j, j < nThreads g → o.threads.getLsbD j = true → ∃ ws, maccThread g (getCoreCtx c o.core) o w j = some ws) →
      Leaves (.maccReadout id) s fun t => t.mem = s.mem ∧ tabGet t.ops id = some { o with prog := o.prog + 1, held := .no, slot := none } ∧
        ∃ h, tabGet t.groups o.grp = some h ∧ h.pc = g.pc ∧ h.em = g.em ∧ h.s = g.s ∧
          h.sb = (match o.slot with | some m => tabPut g.sb m (tabGetD g.sb m 0 - 1) | none => g.sb)) ∧
    (∀ w row t0, o.i = .macc w → w.m.getLsbD 5 = true →
      let bytes := maccRow (getCoreCtx c o.core) (v 0) (maccTy w.m) (v 2) (w.m.getLsbD 6) (v 3 != 1)
      (∀ r, r < 64 → ∃ x, bytes r = some x) → bytes o.prog = some row →
      engWrite s o true 0 (bits (v 1) 23 0 + o.prog * bits (v 1) 47 32) row.length row = .ok t0 () →
      Leaves (.maccReadout id) s fun t => t.mem = t0.mem ∧ OpAt t id o) ∧
    ∀ w, o.i = .xfmJ w →
      let k := cardOf (o.vals.map (·.toNat))
      let per := 1024 / (k.dty.getD .f32).bits
      (cardOk k = false → c.state = .running → Leaves (.xfmJobBlock id) s fun t => t.mem = s.mem ∧
        ∃ y, tabGet t.ctxs o.ctx = some y ∧ y.state = .halting ∧ y.cause = fcEngineError) ∧
      (cardOk k = true → k.op = 2 → o.prog * per + per < k.len → packBytes (k.dty.getD .f32) (o.prog * per + per) ≤ k.cap → ∀ u bs t0,
        jobValues s o k (k.dty.getD .f32) (o.prog * per) per = .ok u bs →
        engWrite u o k.dl 0 (k.dst + 128 * o.prog) bs.length bs = .ok t0 () →
        Leaves (.xfmJobBlock id) s fun t => t.mem = t0.mem ∧ OpAt t id o) ∧
      (cardOk k = true → k.op = 2 → o.prog * per + per = k.len → packBytes (k.dty.getD .f32) k.len ≤ k.cap → ∀ u bs t0 t1,
        jobValues s o k (k.dty.getD .f32) (o.prog * per) per = .ok u bs →
        engWrite u o k.dl 0 (k.dst + 128 * o.prog) bs.length bs = .ok t0 () →
        engWrite t0 o true 0 (v 4) 4 (leBytes (packBytes (k.dty.getD .f32) k.len) 4) = .ok t1 () →
        Lands (.xfmJobBlock id) s t1 id o { o with prog := o.prog + 1, total := o.prog + 1, held := .no } o.sectors)

/-- ENGINE_OP_COMPLETE of R254: an operation whose units are done leaves its queue and its group's batches. -/
def opEnds (s : State) (id : Nat) : Prop :=
  ∀ o, tabGet s.ops id = some o →
    (o.prog < o.total → Acts (.engineOpComplete id) s s) ∧
    (o.started = true → o.total ≤ o.prog → opStopped s o = false → Leaves (.engineOpComplete id) s fun t => tabGet t.ops id = none ∧
      ∀ g, tabGet s.groups o.grp = some g → g.serial = o.gser → ∃ h, tabGet t.groups o.grp = some h ∧ h.em = g.em ∧ h.v = g.v ∧ h.s = g.s ∧
        let b := batchesOf h o.cls
        id ∉ b.openOps ∧ (∀ x ∈ b.closed, id ∉ x.2) ∧ b.next = (batchesOf g o.cls).next ∧
        ∀ q ∈ g.paths, ∀ r n, q.kind = .waiting r (.batch o.cls n) → batchDone b n = true →
          { q with kind := .runnable, pc := q.pc + 1, fall := fallsOff s g.ctx q.pc, bump := q.bump + 1 } ∈ h.paths)

/-- A debug command ends with a status (R409). -/
def reports (s : State) (d st : Nat) : State := updDie s d fun x => { x with dbgstatus := st, dbgrun := false, dbgdrain := none }

/-- The debug commands of R409 to R411 and R421, on the group that DBGSEL selects. -/
def debugCommands (s : State) (d : Nat) (force : Bool) : Prop :=
  d < 8 →
    let all := [Instr.dbgStop d, .dbgResume d, .dbgStep d, .dbgWrite d force, .dbgBken d, .dbgBkdis d]
    let sel := (getDie s d).dbgsel
    let data := (getDie s d).dbgdata
    ((getDie s d).dbgrun = true → ∀ i ∈ Instr.dbgRead d :: all, exec i s = .next s) ∧
    ((getDie s d).dbgrun = false → s.pkg.frozen = true ∨ selGroup s d = none → ∀ i ∈ all, exec i s = .next (reports s d 3)) ∧
    ∀ k g h, (getDie s d).dbgrun = false → selGroup s d = some (k, g, h) → grpRuns s g = true →
      (s.pkg.frozen = true → ∀ c, selReg g h sel true = .cell c →
        exec (.dbgRead d) s = .next (reports (updDie s d fun x => { x with dbgdata := dbgValue s k g h sel (.cell c) }) d 0)) ∧
      (s.pkg.frozen = false →
        exec (.dbgBken d) s = .next (reports (setGroup s k { g with bken := true }) d 0) ∧
        exec (.dbgBkdis d) s = .next (reports (setGroup s k { g with bken := false }) d 0) ∧
        (g.state = .retired → exec (.dbgStop d) s = .next (reports s d 2)) ∧
        (g.state = .stopped → exec (.dbgStop d) s = .next (reports (setGroup s k { g with dbgStop := true }) d 0)) ∧
        (g.state ≠ .retired → g.state ≠ .stopped → exec (.dbgStop d) s =
          .next (updDie (setGroup s k { g with dbgReq := true }) d fun x => { x with dbgrun := true })) ∧
        (g.state ≠ .stopped ∨ g.dbgStop = false →
          (∀ i ∈ [Instr.dbgResume d, .dbgStep d, .dbgRead d, .dbgWrite d force], exec i s = .next (reports s d 2)) ∧
          ((getDie s d).dbgdrain = none → exec (.dbgDrain d) s = .next (reports s d 2))) ∧
        (g.state = .stopped → g.dbgStop = true →
          exec (.dbgResume d) s = .next (reports (setGroup s k { g with state := .ready, dbgStop := false, step := false, readyAt := s.cycle }) d 0) ∧
          (g.running = true → exec (.dbgStep d) s = .next (reports (setGroup s k { g with step := true }) d 0)) ∧
          ((getDie s d).dbgdrain = none → outCells s g = [] → exec (.dbgDrain d) s = .next (reports s d 0)) ∧
          (selReg g h sel false = .bad →
            exec (.dbgRead d) s = .next (reports s d 4) ∧ exec (.dbgWrite d force) s = .next (reports s d 4)) ∧
          (∀ x, (selReg g h sel false, x) ∈ [(DbgReg.pc, BitVec.ofNat 64 (shownPath g).1),
              (.em, BitVec.ofNat 64 ((shownPath g).2.toNat / 2 ^ (48 * h) % 2 ^ 48))] →
            exec (.dbgRead d) s = .next (reports (updDie s d fun y => { y with dbgdata := x }) d 0)) ∧
          (∀ i, selReg g h sel false = .cell (.s i) →
            exec (.dbgRead d) s = .next (reports (updDie s d fun y => { y with dbgdata := regS g i }) d 0) ∧
            ((outCells s g).any (sameReg (.s i)) = false → ∃ u, exec (.dbgWrite d force) s = .next (reports (setGroup s k u) d 0) ∧
              tabGet u.s i = some data ∧ u.v = g.v ∧ u.p = g.p ∧ u.pc = g.pc ∧ u.em = g.em)) ∧
          (∀ i l, selReg g h sel false = .cell (.v i l) →
            exec (.dbgRead d) s = .next (reports (updDie s d fun y => { y with dbgdata := BitVec.ofNat 64 (regV g i l).toNat }) d 0) ∧
            ((outCells s g).any (sameReg (.v i l)) = false → ∃ u, exec (.dbgWrite d force) s = .next (reports (setGroup s k u) d 0) ∧
              tabGet u.v (i * 96 + l) = some (data.truncate 32) ∧ u.s = g.s ∧ u.p = g.p ∧ u.pc = g.pc ∧ u.em = g.em)) ∧
          ((getDie s d).dbgdrain = none → outCells s g ≠ [] → heldCells s g = [] → exec (.dbgDrain d) s =
            .next (updDie s d fun x => { x with dbgrun := true, dbgdrain := some k })) ∧
          (∀ c, selReg g h sel false = .cell c → (∀ t, c ≠ .p 7 t) → (outCells s g).any (sameReg c) = true →
            (force = false → exec (.dbgWrite d force) s = .next (reports s d 1)) ∧
            (force = true → ∃ t u, exec (.dbgWrite d force) s = .next (reports t d 0) ∧ tabGet t.groups k = some u ∧ t.mem = s.mem ∧
              u.pc = g.pc ∧ u.em = g.em ∧ (∀ i, c = .s i → tabGet u.s i = some data ∧ u.v = g.v) ∧
              ∀ i l, c = .v i l → tabGet u.v (i * 96 + l) = some (data.truncate 32) ∧ u.s = g.s)) ∧
          (let m := emHalf g.em h data.toNat
           selReg g h sel false = .em → g.running = true → emWriteOk g m = true → siblingsAgree g m = true → m ≠ 0 →
            exec (.dbgWrite d force) s = .next (reports (setGroup s k { g with em := m }) d 0)) ∧
          (selReg g h sel false = .pc → g.running = true → inText s g.ctx (data.toNat % 2 ^ 40 : Nat) = true →
            exec (.dbgWrite d force) s = .next (reports (setGroup s k { g with pc := data.toNat % 2 ^ 40, fall := false }) d 0))))

/-- DEBUG_STOP_REACHED of R408 and R410. -/
def debugStops (s : State) (k : Nat) : Prop :=
  ∀ g, tabGet s.groups k = some g →
    (g.dbgReq = false → Acts (.debugStopReached k) s s) ∧
    (g.dbgReq = true → g.state ≠ .retired → Leaves (.debugStopReached k) s fun t =>
      tabGet t.groups k = some { g with state := .stopped, dbgStop := true, dbgReq := false, step := false } ∧ t.ctxs = s.ctxs ∧
      (∀ j, j ≠ k → tabGet t.groups j = tabGet s.groups j) ∧
      ((getDie s (dieOf k)).dbgrun = true → (getDie t (dieOf k)).dbgstatus = 0 ∧ (getDie t (dieOf k)).dbgrun = false))

/-- PRFCTL_WRITE, PROFILE_SAMPLE, PRFSEL_WRITE, LCRCTL_WRITE, PRFCNT_LOW_READ and IDLE_ISSUE_CYCLE of R412 to R417. -/
def profiling (s : State) (v sched i : Nat) (physical : Bool) (w : W64) : Prop :=
  v < 384 →
    let x := getVf s v
    let due := vfHalted s v = false ∧ tabGetD x.sampled sched x.prfStart + 2 ^ (fld x.prfctl 59 56 + 7) ≤ s.cycle - x.halted
    let cnt := w &&& 0x8000FFFF8000FFFF#64
    Leaves (.prfctlWrite v physical w) s (fun t => t.groups = s.groups ∧
      (getVf t v).prfctl.getLsbD 63 = w.getLsbD 63 ∧ fld (getVf t v).prfctl 59 56 = fld w 59 56 ∧
      fld (getVf t v).prfctl 39 32 = fld x.prfctl 39 32 ∧
      (getVf t v).prfctl.getLsbD 60 = (if physical then w.getLsbD 60 else x.prfctl.getLsbD 60) ∧
      (w.getLsbD 63 = true → (getVf t v).prfcnt = [] ∧ (getVf t v).lcr = [] ∧ fld (getVf t v).prfctl 31 0 = 0) ∧
      (w.getLsbD 63 = false → (getVf t v).prfcnt = x.prfcnt ∧ (getVf t v).lcr = x.lcr ∧ fld (getVf t v).prfctl 31 0 = fld x.prfctl 31 0)) ∧
    (x.prfctl.getLsbD 63 = false ∨ fld x.prfctl 59 56 = 0 ∨ ¬ due → Acts (.profileSample v sched) s s) ∧
    (x.prfctl.getLsbD 63 = true → fld x.prfctl 59 56 ≠ 0 → due → ∀ k g, sampleGroup s v sched = some (k, g) → tabGet s.groups k = some g →
      ctxVf g.ctx = v → g.paired = false → (x.prfhead + 2 ^ 32 - x.prftail) % 2 ^ 32 ≠ 2 ^ fld x.prfbase 63 56 →
      Leaves (.profileSample v sched) s fun t => tabGet (getVf t v).sampled sched = some (s.cycle - x.halted) ∧
        (getVf t v).prfhead = (x.prfhead + 1) % 2 ^ 32 ∧ t.groups = s.groups) ∧
    (i < 4 → Acts (.prfselWrite v i w) s (updVf s v fun y => { y with
      prfsel := tabPut y.prfsel i (if prfUnavail cnt then cnt ||| 0x4000000000000000#64 else cnt), prfcnt := tabPut y.prfcnt i 0 })) ∧
    Acts (.lcrctlWrite v w) s (updVf s v fun y => { y with lcrctl := w &&& 0xFC0000FFFFFFFFFF#64, lcr := [] }) ∧
    (i < 4 → prfUnavail (tabGetD x.prfsel i 0) = false → fld (tabGetD x.prfsel i 0) 47 40 ≠ 2 →
      let hi := (tabGetD x.prfcnt i 0).toNat / 2 ^ 32
      Acts (.prfcntLowRead v i physical) s (if physical then { s with pkg := { s.pkg with pfLatch := tabPut s.pkg.pfLatch i hi } }
        else updVf s v fun y => { y with latch := tabPut y.latch i hi })) ∧
    ((pickGroup s sched).isSome = true ∨ sched ∈ s.issued ∨ (∀ g ∈ s.groups, schedOf g.1 ≠ sched) → Acts (.idleIssueCycle sched) s s) ∧
    ∀ k g, pickGroup s sched = none → sched ∉ s.issued → (s.groups.filter fun y => schedOf y.1 == sched) = [(k, g)] → ctxVf g.ctx = v →
      let r := min (((shownPath g).1 - fld x.lcrctl 39 0) / 2 ^ min (fld x.lcrctl 63 58) 40) 15
      (vfHalted s v = true → Acts (.idleIssueCycle sched) s { s with issued := sched :: s.issued }) ∧
      (vfHalted s v = false → Leaves (.idleIssueCycle sched) s fun t => t = { s with vfs := t.vfs, issued := sched :: s.issued } ∧
        tabGetD (getVf t v).lcr (5 * r + 4) 0 = tabGetD x.lcr (5 * r + 4) 0 + 48)

/-- REGISTER_WRITE of R6, R7 and R282, on registers without behaviour of their own: the package, die and offset that a BAR0 offset
names. -/
def registers (s : State) (d v q p : Nat) (w : W64) : Prop :=
  let here := 8 * (s.pkg.id % 8) + d
  let sets := fun off u => exec (.registerWrite here off true w) s = .next u
  (d < 8 → sets 0x0710 (updDie s d fun x => { x with dbgdata := w }) ∧
    sets 0x0700 (updDie s d fun x => { x with dbgsel := w &&& 0xFFFF3FFE00FFFC00#64 })) ∧
  (d < 8 → functionsUp s = true → sets 0x0510 (updLink s (d * 3 + 1) fun x => { x with thresh := fld w 31 16 })) ∧
  (d = 0 → functionsUp s = true →
    sets 0x0300 { s with pkg := { s.pkg with tlbinvVa := w &&& 0x007FFFFFFFFF0000#64 } } ∧
    (q < 1024 → sets (0x8000 + 32 * q) (updWq s q fun x => { x with base := w &&& 0xF80FFFFFFFFFFFC0#64 })) ∧
    (p < 48 → sets (0x4010 + 32 * p) (updPart s p fun x => { x with w2 := w &&& 0xFFFF000000007F00#64 })) ∧
    (v < 384 → ∀ b, exec (.registerWrite here (0x100050 + 0x100 * v) b w) s = .next (updVf s v fun x => { x with capidx := w &&& 0x3FF#64 }) ∧
      exec (.registerWrite here (0x100090 + 0x100 * v) b w) s = .next (updVf s v fun x => { x with prftail := fld w 31 0 }))) ∧
  (functionsUp s = false → ∀ e off, exec (.registerWrite e off false w) s = .next s) ∧
  ∀ e off b, e / 8 ≠ s.pkg.id % 8 → off < 2 ^ 37 → exec (.registerWrite e off b w) s = .next s

/-- An M-form instruction (R122, R361, R362): held, or stopped by its addresses or by a check of R171, or with the targets of its
threads and the state that translated them; a write ends what a FENCE.rel left open for its threads. -/
def AtTargets (i : Instr) (w : MWord) (mk : MKind) (size : Nat) (scalar : Bool)
    (p : State → Nat → Grp → Env → State → List (Nat × Nat × Tgt) → Notes → Prop) : Prop :=
  AtHead i w.hdr (fun s k g e =>
    let s0 := setGroup s k g
    let held := memoryHeld s0 g || (writeRel w.m mk g e.act && releaseHeld s0 k g)
    (held = true → Holds i s k s0) ∧
    (held = false → (∀ sp, addrsOf e w scalar = (none, sp) → Traps i s k g fcNonuniform 0) ∧
      ∀ as sp, addrsOf e w scalar = (some as, sp) →
        (∀ u c va, targets s0 k g w.m.loc mk w.m.ty size as = (u, .error (c, va)) → exec i s = takeFault u k c va) ∧
        ∀ u ts, targets s0 k g w.m.loc mk w.m.ty size as = (u, .ok ts) →
          let late := ts.any fun x => heldWrite u g mk.writes x.1 x.2.1 size
          (late = true → Holds i s k u) ∧
          (late = false → p s k (relDone mk e.act g) e u ts (Notes.ofSplit sp))))

/-- Of the cores, no more than the L1 lines of group `k`'s may differ. -/
def OnlyL1 (u t : State) (k : Nat) : Prop :=
  (∀ c, c ≠ coreOf k → getCore t c = getCore u c) ∧
  getCore t (coreOf k) = { getCore u (coreOf k) with l1 := (getCore t (coreOf k)).l1 }

/-- The access goes under way, and its group goes on as `G`; L1 lines of its core may change. -/
def Sent (i : Instr) (h : Hdr) (s u : State) (k : Nat) (g G : Grp) (n : Notes) (a : Acc) : Prop :=
  ∃ t, exec i s = .next t ∧ OnlyL1 u t k ∧
    Done { u with accs := tabPut u.accs u.serial a, serial := u.serial + 1, cores := t.cores } t k g (goesOn s (slotUp G a.slot) h) n

/-- A target in the transaction's view, or a barrier's: not one of a plain access. -/
def plainTgt (g : Grp) (x : Nat × Nat × Tgt) : Bool :=
  match x.2.2 with
  | .mem y _ => !(y.ver && txOn g)
  | .held _ => true
  | _ => false

/-- LD of R364 and R366, LDX of R367: an access with a part for each thread's address, on a TRIPLE page for each sibling's slot,
whose registers are written when it completes. One that a line of the L1 would answer waits for an earlier load or atomic of its
thread to those bytes (R96, R118). -/
def loads (i : Instr) (w : MWord) (mk : MKind) (kind : AccKind) (scalar : Bool) : Prop :=
  let size := (w.m.ty.bits + 7) / 8
  let slot := hdrSlot w.hdr
  AtTargets i w mk size scalar (fun s k g _ u ts n =>
    let win := ts.any fun x => tgtWin x.2.2
    let a := newAcc kind .add k g w.m.ty w.d slot (allLoadParts u k g size ts) (loadSnap u g w.m.x) (ordAcq w.m)
      (if win then .sys else w.m.scope) win u.cycle
    (ts = [] → ∃ t, exec i s = .next t ∧ Done { u with serial := u.serial + 1 } t k g (goesOn s (awaits u g slot []) w.hdr) n) ∧
    (ts ≠ [] → hitWaits u k g size ts = true → Holds i s k u) ∧
    (ts ≠ [] → hitWaits u k g size ts = false → Sent i w.hdr s u k g g n a ∧
      ∀ t va x b, (t, va, Tgt.mem x b) ∈ ts →
        (x.numx ≠ 1 → ∃ y ∈ a.parts, y.2.lane = firstLane g t ∧ y.2.pa = x.pa ∧ y.2.size = size ∧ y.2.va = va) ∧
        (x.numx = 1 → ∀ q < (if g.triplex then 3 else 1), ∃ y ∈ a.parts,
          y.2.lane = firstLane g t + q ∧ y.2.pa = x.frame + 3 * x.off + q * size ∧ y.2.size = size ∧ y.2.va = va)))

/-- The part of a store's write at a page's address, or of the values that a held store keeps (R172, R365). -/
def storedParts (u : State) (k : Nat) (f : Nat → Nat → Xl → List Wr) (keep : Nat → List (Nat × Nat)) (size : Nat)
    (x : Nat × Nat × Tgt) : List Part :=
  match x.2.2 with
  | .mem y b => (f x.1 x.2.1 y).map fun r => { memPart u r.lane r.va r.size y r.pa r.val (4 + y.numx) with l1 := l1Ok u k y b }
  | .held h => (keep x.1).map fun lv => { heldPart lv.1 x.2.1 size h with data := BitVec.ofNat 128 lv.2 }
  | _ => []

/-- Stores of R365 to R367 outside a transaction's view: D is set, and an access takes each thread's bytes to its address. -/
def stores (i : Instr) (w : MWord) (mk : MKind) (kind : AccKind) (scalar : Bool) (f : Env → Nat → Nat → Xl → List Wr)
    (keep : Env → Nat → List (Nat × Nat)) : Prop :=
  let size := (w.m.ty.bits + 7) / 8
  AtTargets i w mk size scalar (fun s k g e u ts n =>
    let win := ts.any fun x => tgtWin x.2.2
    let G := if win then unmark g else g
    (ts = [] → ∃ t, exec i s = .next t ∧ Done u t k g (goesOn s (marksSlot s g w.hdr) w.hdr) n) ∧
    (ts ≠ [] → ts.all (plainTgt g) = true →
      Sent i w.hdr s (dirtyAll u k g ts) k g G n (newAcc kind .add k g w.m.ty w.d (hdrSlot w.hdr)
        ((ts.map (storedParts u k (f e) (keep e) size)).flatten) none false (if win then .sys else w.m.scope) win u.cycle)))

/-- A store to a VER page in an OPEN transaction (R149, R150): the bytes go to the buffered line, and nothing is sent. -/
def txStores (w : MWord) : Prop :=
  let size := (w.m.ty.bits + 7) / 8
  AtTargets (.st w) w .store size (w.d.kind == .s) (fun s k g e u ts n => ∀ j va x, ts = [(j, va, .mem x false)] → x.ver = true → x.win = false →
    g.tx.state = .open → (g.tx.lines.any fun l => l.line == x.pa / 128) = true →
    ∃ t, exec (.st w) s = .next t ∧ Done (dirtyAll u k g ts) t k g (goesOn s (marksSlot s { g with tx := { g.tx with
      lines := g.tx.lines.map fun l => if l.line == x.pa / 128 then txMerge l x.pa size (stDatum e w j) else l } } w.hdr) w.hdr) n)

/-- Atomics and reductions of R368 to R371: an access with each thread's operands at its address. -/
def atomics (i : Instr) (w : MWord) (kind : AccKind) (op : AOp) : Prop :=
  let size := max 4 ((w.m.ty.bits + 7) / 8)
  let slot := hdrSlot w.hdr
  AtTargets i w .atomic size false (fun s k g e u ts n =>
    let win := ts.any fun x => tgtWin x.2.2
    let part := fun (x : Nat × Nat × Tgt) =>
      let c := (svW e w.m.ty (8 * size) w.c x.1).1
      let d := casOld e w size x.1
      match x.2.2 with
      | .mem y _ => memPart u (firstLane g x.1) x.2.1 size y y.pa c d
      | .held h => { heldPart (firstLane g x.1) x.2.1 size h with data := BitVec.ofNat 128 c, data2 := BitVec.ofNat 128 d }
      | _ => donePart (firstLane g x.1) x.2.1 size 0
    (∀ va, hostBad u op ts = some va → exec i s = takeFault u k fcProtection va) ∧
    (ts = [] → ∃ t, exec i s = .next t ∧ if kind = .red then Done u t k g (goesOn s (marksSlot s g w.hdr) w.hdr) n
      else Done { u with serial := u.serial + 1 } t k g (goesOn s (awaits u g slot []) w.hdr) n) ∧
    (hostBad u op ts = none → ts ≠ [] → ts.all (plainTgt g) = true →
      Sent i w.hdr s (dirtyAll u k g ts) k g (unmark g) n (newAcc kind op k g w.m.ty w.d slot (ts.map part) none (ordAcq w.m)
        (if win then .sys else w.m.scope) win u.cycle)))

/-- The atomics and reductions, by operation. -/
def atomicOps (w : MWord) : List (Instr × AccKind × AOp) :=
  [(.aadd w, .atomic, .add), (.amin w, .atomic, .min), (.amax w, .atomic, .max), (.aand w, .atomic, .and), (.aor w, .atomic, .or),
   (.axor w, .atomic, .xor), (.axch w, .atomic, .xch), (.acas w, .atomic, .cas), (.afadd w, .atomic, .fadd),
   (.radd w, .red, .add), (.rmin w, .red, .min), (.rmax w, .red, .max), (.rand w, .red, .and), (.ror w, .red, .or),
   (.rxor w, .red, .xor), (.rfadd w, .red, .fadd)]

/-- WAITA of R372: a registration for each thread's word, and the path waits. -/
def waitas (w : MWord) : Prop :=
  let size := (w.m.ty.bits + 7) / 8
  let slot := hdrSlot w.hdr
  AtTargets (.waita w) w .waita size false (fun s k g _ u ts n =>
    let c := sNum w.c
    let ctl := regS g (c + 2)
    let win := ts.any fun x => tgtWin x.2.2
    let data := (regS g c).toNat + 2 ^ 64 * (regS g (c + 1)).toNat
    let part := fun (x : Nat × Nat × Tgt) => match x.2.2 with
      | .mem y _ => memPart u (firstLane g x.1) x.2.1 size y y.pa data ctl.toNat
      | .held h => { heldPart (firstLane g x.1) x.2.1 size h with data := BitVec.ofNat 128 data, data2 := BitVec.ofNat 128 ctl.toNat }
      | _ => donePart (firstLane g x.1) x.2.1 size 0
    let a := newAcc .waita .add k g w.m.ty w.d slot (ts.map part) none (ordAcq w.m) (if win then .sys else w.m.scope) win u.cycle
    let G := parkRunning (slotUp (unmark g) slot) (.waiting .address (.address u.serial)) s.cycle
    (ts = [] → OwnDone (.waita w) w.hdr s u k g (marksSlot s (advance s g) w.hdr) n) ∧
    (ts ≠ [] → fld ctl 31 3 ≠ 0 ∨ 5 < fld ctl 2 0 → exec (.waita w) s = takeFault u k fcIllegalOpnd 0) ∧
    (ts ≠ [] → fld ctl 31 3 = 0 → fld ctl 2 0 ≤ 5 →
      (∀ va, waitBad u ts = some va → exec (.waita w) s = takeFault u k fcProtection va) ∧
      (waitBad u ts = none → onChip (settledOwn s G w.hdr).1 = true → ∃ t, exec (.waita w) s = .next t ∧ OnlyL1 u t k ∧
        Done { u with accs := tabPut u.accs u.serial a, serial := u.serial + 1, cores := t.cores } t k g (settledOwn s G w.hdr).1
          { n with lost := n.lost ++ (settledOwn s G w.hdr).2 })))

/-- FENCE of R373, CINV, CTAG, PREF and CDRAIN of R374. -/
def cacheOps (w : MWord) (f : RWord MemM) : Prop :=
  let vf := fun (g : Grp) => ctxVf g.ctx
  let on := fun (i : Instr) (h : Hdr) s (u : State) k (g : Grp) n (q : State → Prop) =>
    ∃ t, exec i s = .next t ∧ OnlyL1 u t k ∧ Done { u with cores := t.cores } t k g (goesOn s (marksSlot s g h) h) n ∧ q t
  AtHead (.fence f) f.hdr (fun s k g e =>
    let s0 := setGroup s k g
    let held := memoryHeld s0 g || (ordRel f.m && releaseHeld s0 k g) || (grpAccs s0 g).any fun a => accOrders a.2
    (e.act = 0 → Turns (.fence f) f.hdr s k g g Notes.nil) ∧
    (e.act ≠ 0 → held = true → Holds (.fence f) s k s0) ∧
    let wide := ordAcq f.m && f.m.scope != .grp && f.m.scope != .team && f.m.scope != .core
    (e.act ≠ 0 → held = false →
      on (.fence f) f.hdr s { s with accs := if wide then noFills s (coreOf k) (vf g) else s.accs } k
        (if ordRel f.m then { g with relNext := g.relNext ||| e.act } else g) Notes.nil fun t =>
      (wide = false → t.cores = s.cores) ∧ (wide = true → ∀ l ∈ (getCore t (coreOf k)).l1, l.vf ≠ vf g))) ∧
  AtHead (.cinv w) w.hdr (fun s k g e =>
    let s0 := setGroup s k g
    (memoryHeld s0 g = true → Holds (.cinv w) s k s0) ∧
    (memoryHeld s0 g = false → w.m.x = true → e.act ≠ 0 → on (.cinv w) w.hdr s s k g Notes.nil fun t =>
      ∀ l ∈ (getCore t (coreOf k)).l1, l.vf ≠ vf g) ∧
    (memoryHeld s0 g = false → w.m.x = false → w.m.loc = true → ∀ as sp, addrsOf e w false = (some as, sp) →
      (∀ u c va, targets s0 k g true .tag w.m.ty 1 as = (u, .error (c, va)) → exec (.cinv w) s = takeFault s0 k c va) ∧
      ∀ u ts, targets s0 k g true .tag w.m.ty 1 as = (u, .ok ts) → Turns (.cinv w) w.hdr s k g g (Notes.ofSplit sp)) ∧
    (memoryHeld s0 g = false → w.m.x = false → w.m.loc = false → ∀ as sp, addrsOf e w false = (some as, sp) →
      (∀ u c va ls, cinvLines s0 k g as = (u, some (c, va), ls) → exec (.cinv w) s = takeFault u k c va) ∧
      ∀ u ls, cinvLines s0 k g as = (u, none, ls) → on (.cinv w) w.hdr s u k g (Notes.ofSplit sp) fun t =>
        ∀ l ∈ (getCore t (coreOf k)).l1, l.vf = vf g → l.line ∉ ls)) ∧
  AtTargets (.ctag w) w .tag 4 false (fun s k g _ u ts n => ∃ t, exec (.ctag w) s = .next t ∧
    Done { u with serial := u.serial + 1 } t k g (goesOn s (awaits u g (hdrSlot w.hdr) ((ts.map fun x =>
      let v := match x.2.2 with | .mem y b => ctagWord u y b | _ => 2 ^ 31
      match w.d with
      | .v i => ((lanesOf g x.1).map fun l => wrV i.toNat l 1 v).flatten
      | _ => []).flatten)) w.hdr) n) ∧
  AtHead (.pref w) w.hdr (fun s k g e =>
    let s0 := setGroup s k g
    (memoryHeld s0 g = true → Holds (.pref w) s k s0) ∧
    (memoryHeld s0 g = false → ∀ as sp, addrsOf e w false = (some as, sp) →
      let u := if w.m.loc then s0 else as.foldl (fun v a => prefOne v k g a.2) s0
      ∃ t, exec (.pref w) s = .next t ∧ Done u t k g (goesOn s (marksSlot s g w.hdr) w.hdr) (Notes.ofSplit sp))) ∧
  AtHead (.cdrain f) f.hdr (fun s k g e =>
    let s0 := setGroup s k g
    let ids := ((grpAccs s0 g).filter fun a => accStores a.2).map (·.1)
    (memoryHeld s0 g = true → Holds (.cdrain f) s k s0) ∧
    (memoryHeld s0 g = false → e.act = 0 ∨ ids = [] ∨ hdrSlot f.hdr = none → Turns (.cdrain f) f.hdr s k g g Notes.nil) ∧
    (memoryHeld s0 g = false → e.act ≠ 0 → ids ≠ [] → ∀ m, hdrSlot f.hdr = some m →
      Sent (.cdrain f) f.hdr s s k g g Notes.nil { newAcc .drain .add k g .b8 .none (some m) [] none false .grp false s.cycle with after := ids }))

/-- TXB, TXC and TXA of R149 and R375. -/
def transactions (w : RWord MemM) : Prop :=
  AtHead (.txb w) w.hdr (fun s k g e =>
    let s0 := setGroup s k g
    let x := g.tx
    let on := fun y => ∃ t, exec (.txb w) s = .next t ∧ OnlyL1 s t k ∧ (∀ l ∈ (getCore t (coreOf k)).l1, l.vf ≠ ctxVf g.ctx) ∧
      Done { s with cores := t.cores, accs := noFills s (coreOf k) (ctxVf g.ctx), serial := s.serial + 1 } t k g (goesOn s (marksSlot s (unmark { g with tx := y }) w.hdr) w.hdr) Notes.nil
    (e.act = 0 → Turns (.txb w) w.hdr s k g g Notes.nil) ∧
    (e.act ≠ 0 → memoryHeld s0 g = true → Holds (.txb w) s k s0) ∧
    (e.act ≠ 0 → memoryHeld s0 g = false →
      (x.state = .none → on { x with state := .open, id := s.serial, depth := 1, excess := 0, ts := s.gts, lines := [] }) ∧
      (x.state = .open ∨ x.state = .doomed → x.depth < 15 → on { x with depth := x.depth + 1 }) ∧
      (x.state = .open → 15 ≤ x.depth → on { x with state := .doomed, doom := 2, excess := x.excess + 1 }) ∧
      (x.state = .doomed → x.depth = 15 → x.excess < 0xFFFF → on { x with excess := x.excess + 1 }) ∧
      (x.state = .doomed → x.depth = 15 → x.excess = 0xFFFF → Traps (.txb w) s k g fcIllegalOpnd 0))) ∧
  AtHead (.txc w) w.hdr (fun s k g e =>
    let s0 := setGroup s k g
    let x := g.tx
    let slot := hdrSlot w.hdr
    let sets := fun (y : Tx) (i : BitVec 3) b => ∃ t, exec (.txc w) s = .next t ∧ Done { s with serial := s.serial + 1 } t k g
      (goesOn s (awaits s (unmark { g with tx := y }) slot ((activeThreads e).map fun j => ⟨.p i.toNat j, if b then 1 else 0⟩)) w.hdr) Notes.nil
    let ended := fun c => { x with
      state := .none, depth := 0, excess := 0, cause := c, lines := [], asked := [], sent := [], votes := [], stamp := none, towrite := [],
      acked := [], pdst := none, slot := none }
    (e.act ≠ 0 → memoryHeld s0 g || releaseHeld s0 k g → Holds (.txc w) s k s0) ∧
    (e.act ≠ 0 → (memoryHeld s0 g || releaseHeld s0 k g) = false → ∀ i, w.d = .p i →
      (x.state = .none → sets x i false) ∧
      (x.state = .doomed → 0 < x.excess → sets { x with excess := x.excess - 1 } i false) ∧
      ((x.state = .open ∨ x.state = .doomed ∧ x.excess = 0) → 1 < x.depth → sets { x with depth := x.depth - 1 } i (x.state == .open)) ∧
      (x.state = .doomed → x.excess = 0 → x.depth ≤ 1 → sets (ended x.doom) i false) ∧
      (x.state = .open → x.depth ≤ 1 → x.lines = [] → sets (ended 0) i true) ∧
      (x.state = .open → x.depth ≤ 1 → x.lines ≠ [] → ∃ t, exec (.txc w) s = .next t ∧ Done s t k g
        (goesOn s (slotUp (unmark { g with tx := { x with
          state := .preparing, since := s.cycle, asked := (x.lines.map fun l => pumpOf (128 * l.line)).eraseDups, sent := [], votes := [],
          stamp := none, towrite := [], acked := [], pdst := some i.toNat,
          threads := (activeThreads e).foldl (fun (m : Mask) j => m ||| BitVec.ofNat 96 (2 ^ j)) 0, slot := slot } }) slot) w.hdr) Notes.nil))) ∧
  AtHead (.txa w) w.hdr (fun s k g e =>
    let s0 := setGroup s k g
    let x := g.tx
    (e.act = 0 → Turns (.txa w) w.hdr s k g g Notes.nil) ∧
    (e.act ≠ 0 → memoryHeld s0 g = true → Holds (.txa w) s k s0) ∧
    (e.act ≠ 0 → memoryHeld s0 g = false → x.state = .none → Turns (.txa w) w.hdr s k g (unmark g) Notes.nil) ∧
    (e.act ≠ 0 → memoryHeld s0 g = false → x.state ≠ .none → Turns (.txa w) w.hdr s k g (unmark { g with tx := { x with
      state := .none, depth := 0, excess := 0, cause := 3, lines := [], asked := [], sent := [], votes := [], stamp := none, towrite := [],
      acked := [], pdst := none, slot := none } }) Notes.nil))

/-- SNAPPIN and SNAPREL of R146, R147 and R376. -/
def pins (w : RWord MemM) : Prop :=
  AtHead (.snappin w) w.hdr (fun s k g e =>
    let s0 := setGroup s k g
    let slot := hdrSlot w.hdr
    let sends := fun base (i : BitVec 6) a b => ∃ t, exec (.snappin w) s = .next t ∧ Done { base with serial := s.serial + 1 } t k g
      (goesOn s (awaits s g slot [⟨.s i.toNat, BitVec.ofNat 64 a⟩, ⟨.s (i.toNat + 1), BitVec.ofNat 64 b⟩]) w.hdr) Notes.nil
    (e.act ≠ 0 → memoryHeld s0 g = true → Holds (.snappin w) s k s0) ∧
    (e.act ≠ 0 → memoryHeld s0 g = false → ∀ i c, w.d = .s i → tabGet s.ctxs g.ctx = some c →
      (∀ id, freePin c = some id → sends (setCtx s g.ctx { c with pins := tabPut c.pins id ⟨.held, s.gts, 0⟩ }) i s.gts id) ∧
      (freePin c = none → sends s i 0 (2 ^ 63)))) ∧
  AtHead (.snaprel w) w.hdr (fun s k g e =>
    let s0 := setGroup s k g
    let id := rdW e .ui64 64 w.a 0
    (e.act ≠ 0 → 255 < id → Traps (.snaprel w) s k g fcIllegalOpnd 0) ∧
    (e.act ≠ 0 → id ≤ 255 → memoryHeld s0 g = true → Holds (.snaprel w) s k s0) ∧
    (e.act ≠ 0 → id ≤ 255 → memoryHeld s0 g = false → ∀ c, tabGet s.ctxs g.ctx = some c →
      (∀ p, tabGet c.pins id = some p → p.state = .held → ∃ t, exec (.snaprel w) s = .next t ∧
        Done (setCtx s g.ctx { c with pins := tabPut c.pins id { p with state := if p.refs = 0 then .free else .draining } }) t k g
          (goesOn s (marksSlot s g w.hdr) w.hdr) Notes.nil) ∧
      ((∀ p, tabGet c.pins id = some p → p.state ≠ .held) → Traps (.snaprel w) s k g fcIllegalOpnd 0)))

/-- What a wake changes of a group: paths become runnable, and a group in WAIT READY (R220). -/
def Woken (q r : Grp) : Prop := r = { q with paths := r.paths, spilled := r.spilled, state := r.state, readyAt := r.readyAt }

/-- Every group but one is as before but for wakes. -/
def OthersWoken (s u : State) (k : Nat) : Prop :=
  ∀ j, j ≠ k → ((tabGet u.groups j).isSome = (tabGet s.groups j).isSome) ∧
    ∀ q r, tabGet s.groups j = some q → tabGet u.groups j = some r → Woken q r

/-- The first waiting path of an order, where `n` covers its need, waits no more (R245, R246). -/
def FirstWakes (s u : State) (ws : List (Nat × Nat)) (n : Nat) (on : Nat → WaitOn) : Prop :=
  ∀ x ∈ ws.head?, x.2 ≤ n → ∀ j g r, tabGet s.groups j = some g → g.serial = (x.1 - 1) / 128 →
    (∀ y ∈ s.groups, y.2.serial = g.serial → y.1 = j) → tabGet u.groups j = some r →
    ∀ p ∈ allPaths r, ∀ c, p.kind ≠ .waiting c (on x.1)

/-- What a push that takes its allowance leaves: the instance's allowance is less by its entries, and a message for each
entry is under way in order, the last with the SET slot (R241, R246, R383). -/
structure Pushed (s u : State) (k : Nat) (g G : Grp) (w : RWord (BitVec 12)) (c : Cap) (es : List (List Byte)) (ws : Option (List RegW)) : Prop where
  cap : (capOf u k G (chanOf w.a)).2 = c
  msgs : ∀ i x, es[i]? = some x → tabGet u.msgs (s.serial + i) =
    some (pushMsg s k g (capOf s k g (chanOf w.a)).2 (capOf s k g (chanOf w.a)).1 x (if i + 1 = es.length then hdrSlot w.hdr else none) (i + 1 == es.length))
  old : ∀ n, n < s.serial → tabGet u.msgs n = tabGet s.msgs n
  group : let h := slotUp (unmark (advance s g)) (hdrSlot w.hdr)
    Woken { h with vres := h.vres ++ (ws.map fun x => ⟨s.serial + es.length, x, none, (hdrSlot w.hdr).map fun _ => g.pc⟩).toList } G
  here : tabGet u.groups k = some G
  others : OthersWoken s u k
  wakes : FirstWakes s u c.waiting c.allow (.push (capOf s k g (chanOf w.a)).1)
  ctxs : ∀ j, j ≠ g.ctx → tabGet u.ctxs j = tabGet s.ctxs j
  teams : ∀ j, j ≠ g.team → tabGet u.teams j = tabGet s.teams j
  rest : u = { s with groups := u.groups, ctxs := u.ctxs, teams := u.teams, msgs := u.msgs, serial := u.serial }

/-- PUSH of R246 and R383. -/
def pushRule (w : RWord (BitVec 12)) : Prop :=
  AtHead (.push w) w.hdr (fun s k g e =>
    let own := OwnDone (.push w) w.hdr s
    let held := memoryHeld (setGroup s k g) g || releaseHeld (setGroup s k g) k g
    let id := (capOf s k g (chanOf w.a)).1
    let c := (capOf s k g (chanOf w.a)).2
    let kind := capKind c
    let es := pushEntries e w.m w.b
    let nb := w.m.toNat / 4 % 2 = 1
    let t := ticketOf g
    let room := es.length ≤ c.allow ∧ isHead c.waiting t = true
    let parted := kind = 4 ∧ usableTo s (fld c.entry 55 46) = []
    let valid := c.entry.getLsbD 63 = true ∧ (kind = 0 ∨ kind = 1 ∨ kind = 2 ∨ kind = 4)
    let sized := (kind = 1 ∨ kind = 2) → entrySize w.m = 64
    (e.act = 0 → own { s with serial := s.serial + 1 } k g (awaits s (advance s g) (hdrSlot w.hdr) []) Notes.nil) ∧
    (e.act ≠ 0 → held = true → Holds (.push w) s k (setGroup s k g)) ∧
    (e.act ≠ 0 → held = false →
      (¬ valid → Traps (.push w) s k g fcCap 0) ∧
      (valid → c.entry.getLsbD 59 = false → Traps (.push w) s k g fcCapPerm 0) ∧
      (valid → c.entry.getLsbD 59 = true → ¬ sized → Traps (.push w) s k g fcIllegalOpnd 0) ∧
      (valid → c.entry.getLsbD 59 = true → sized →
        (room → ¬ parted → ∃ u G, own u k g G Notes.nil ∧
          Pushed s u k g G w { c with allow := c.allow - es.length, waiting := dropTicket c.waiting t } es
            (if nb then some (wrPred e (dstPred w.d) true) else none)) ∧
        (nb → ¬ room → own { s with serial := s.serial + 1 } k g
          (awaits s (unmark (advance s g)) (hdrSlot w.hdr) (wrPred e (dstPred w.d) false)) Notes.nil) ∧
        ((room ∧ parted) ∨ (¬ room ∧ ¬ nb) → Parks (.push w) s (capSet s g id { c with waiting := addTicket c.waiting t es.length }) k g
          (parkRunning g (.waiting .queue (.push id t)) s.cycle)))))

/-- What a POP leaves of its core's queue: its oldest entries are gone and their free-counts under way (R244, R246); a PEEK
leaves the queue as it was. Entries of another core's sender, or of a unit, are an acquire (R134). -/
structure Popped (s u : State) (k : Nat) (g G : Grp) (q n : Nat) (x : QSlot) (peek : Bool) (slot : Option Nat) (ws : List RegW) : Prop where
  queue : tabGet (getCore u (coreOf k)).qslots q = some (if peek then x else
    { x with head := (x.head + n) % x.depth, count := x.count - n, senders := x.senders.drop n, units := x.units.drop n,
             waiting := dropTicket x.waiting (ticketOf g) })
  cores : ∀ c, c ≠ coreOf k → getCore u c = getCore s c
  core : getCore u (coreOf k) = { getCore s (coreOf k) with qslots := (getCore u (coreOf k)).qslots, l1 := (getCore u (coreOf k)).l1 }
  acquire : let far := (∃ y ∈ x.senders.take n, idPkg y ≠ s.pkg.id ∨ idCore y ≠ coreOf k) ∨ true ∈ x.units.take n
    (far → (∀ l ∈ (getCore u (coreOf k)).l1, l.vf ≠ ctxVf g.ctx) ∧ u.accs = noFills s (coreOf k) (ctxVf g.ctx)) ∧
    (¬ far → (getCore u (coreOf k)).l1 = (getCore s (coreOf k)).l1 ∧ u.accs = s.accs)
  queues : ∀ j, j ≠ q → tabGet (getCore u (coreOf k)).qslots j = tabGet (getCore s (coreOf k)).qslots j
  msgs : ∀ i y, peek = false → (x.senders.take n)[i]? = some y → tabGet u.msgs (s.serial + i) = some (.freeCount x.ctx y)
  old : ∀ j, j < s.serial → tabGet u.msgs j = tabGet s.msgs j
  group : let sent := if peek then 0 else (x.senders.take n).length
    let h := slotUp (unmark (advance s g)) slot
    Woken { h with vres := h.vres ++ [⟨s.serial + sent, ws, slot, none⟩] } G
  here : tabGet u.groups k = some G
  others : OthersWoken s u k
  wakes : peek = false → FirstWakes s u (dropTicket x.waiting (ticketOf g)) (x.count - n) (.pop q)
  rest : u = { s with groups := u.groups, cores := u.cores, accs := u.accs, msgs := u.msgs, serial := u.serial }

/-- POP of R245 and R384: entries, oldest first, to the Active threads in order, or the oldest to D's s registers. -/
def popRule (w : RWord (BitVec 12)) : Prop :=
  AtHead (.pop w) w.hdr (fun s k g e =>
    let own := OwnDone (.pop w) w.hdr s
    let c := (capOf s k g (chanOf w.a)).2
    let nb := w.m.toNat / 4 % 2 = 1
    let peek := w.m.toNat / 8 % 2 == 1
    let sz := entrySize w.m
    let slot := hdrSlot w.hdr
    let core := coreOf k
    let n := match w.d with | .v _ => (activeThreads e).length | _ => 1
    let s0 := setGroup s k g
    let held := memoryHeld s0 g = true
    let valid := c.entry.getLsbD 63 = true ∧ capKind c = 0
    let q := (capQueue (partOf s g.ctx) core c).2
    let permitted := (if peek then c.entry.getLsbD 57 else c.entry.getLsbD 58) = true ∧ (capQueue (partOf s g.ctx) core c).1 = core
    (e.act = 0 → own { s with serial := s.serial + 1 } k g (awaits s (advance s g) slot []) Notes.nil) ∧
    (e.act ≠ 0 → held → Holds (.pop w) s k s0) ∧
    (e.act ≠ 0 → ¬ held →
      (¬ valid → Traps (.pop w) s k g fcCap 0) ∧ (valid → ¬ permitted → Traps (.pop w) s k g fcCapPerm 0) ∧
      (valid → permitted → tabGet (getCore s core).qslots q = none → Traps (.pop w) s k g fcQueueError 0) ∧
      ∀ x, valid → permitted → tabGet (getCore s core).qslots q = some x →
        let t := if peek then 0 else ticketOf g
        let good := x.ctx = g.ctx ∧ x.err = false ∧ x.esz = sz
        let there := n ≤ x.count ∧ (peek = true ∨ isHead x.waiting t = true)
        let es := (List.range n).map fun i => memNat s.mem (rowAddr s.pkg.id core x.base (x.esz * ((x.head + i) % x.depth))) x.esz
        (¬ good → Traps (.pop w) s k g fcQueueError 0) ∧
        (good → there → ∃ u G, own u k g G Notes.nil ∧
          Popped s u k g G q n x peek slot (popWrites e w.d sz es ++ if nb then wrPred e (opPred w.b) true else [])) ∧
        (good → ¬ there → nb → own { s with serial := s.serial + 1 } k g
          (awaits s (unmark (advance s g)) slot (wrPred e (opPred w.b) false)) Notes.nil) ∧
        (good → ¬ there → ¬ nb → Parks (.pop w) s
          (if peek then s else updCore s core fun y => { y with qslots := tabPut y.qslots q { x with waiting := addTicket x.waiting t n } }) k g
          (parkRunning g (.waiting .queue (.pop q t)) s.cycle))))

/-- CAPRD of R385: the entry with its allowance in bits 31:16. -/
def caprdRule (w : RWord (BitVec 12)) : Prop :=
  AtHead (.caprd w) w.hdr (fun s k g e =>
    let c := (capOf s k g (chanOf w.a)).2
    ∃ t, exec (.caprd w) s = .next t ∧ Done s t k g (goesOn s (sends g 4 (hdrSlot w.hdr)
      (wrGroup e w.d 2 (fld c.entry 63 32 * 2 ^ 32 + c.allow % 2 ^ 16 * 2 ^ 16))) w.hdr) Notes.nil)

/-- A barrier instruction (R260, R264, R290, R379): its operand's range, no Active lane, what holds it, the barrier that its index
names, and its turn in the order of one cycle's events. -/
def onBarrier (i : Instr) (w : RWord (BitVec 12)) (hi : Nat) (rel : Bool) (place : Option Nat) (idle : State → Nat → Grp → Prop)
    (p : State → Nat → Grp → Env → Nat → Nat → Prop) : Prop :=
  AtHead i w.hdr (fun s k g e =>
    let s0 := setGroup s k g
    let held := memoryHeld s0 g || (rel && releaseHeld s0 k g)
    let later := fun b r => ∃ x ∈ s.barEvents, x.1 = coreOf k ∧ x.2.1 = b ∧ r + schedOf k % 4 < x.2.2
    (cntOf e w.b 0 hi = none → Traps i s k g fcIllegalOpnd 0) ∧
    ∀ n, cntOf e w.b 0 hi = some n → (e.act = 0 → idle s k g) ∧ (e.act ≠ 0 → held = true → Holds i s k s0) ∧
      (e.act ≠ 0 → held = false → (teamBar s g (barIdx w.a) = none → Traps i s k g fcIllegalOpnd 0) ∧
        ∀ b, teamBar s g (barIdx w.a) = some b →
          (∀ r, place = some r → later b r → Holds i s k s0) ∧ ((∀ r, place = some r → ¬ later b r) → p s k g e b n)))

/-- An event of a place in the order of R264 has reached a barrier of the group's core. -/
def noted (s : State) (k b r : Nat) : State := { s with barEvents := s.barEvents ++ [(coreOf k, b, r + schedOf k % 4)] }

/-- Only a barrier's word has changed on the cores (R260). -/
def BarSet (s u : State) (core b : Nat) (y : Bar) : Prop :=
  tabGet (getCore u core).bars b = some (barWord y) ∧ getCore u core = { getCore s core with bars := (getCore u core).bars } ∧
  (∀ j, j ≠ b → tabGet (getCore u core).bars j = tabGet (getCore s core).bars j) ∧
  (∀ c, c ≠ core → getCore u c = getCore s c) ∧ u = { s with cores := u.cores, groups := u.groups }

/-- What the end of waits on a barrier leaves of a group: those for which `f` holds of the token run on past the instruction,
with their threads' predicate (R266, R268). -/
def WaitsEnd (s : State) (b : Nat) (f : Nat → Bool) (val : Bool) (q r : Grp) : Prop :=
  r = { q with paths := r.paths, spilled := r.spilled, state := r.state, readyAt := r.readyAt, p := r.p, pend := r.pend, sb := r.sb,
               poison := r.poison } ∧
  ∀ p ∈ allPaths q, ∀ c tok pr th slot, p.kind = .waiting c (.barrier b tok pr th slot) → f tok = true →
    { p with kind := .runnable, pc := p.pc + 1, fall := fallsOff s q.ctx p.pc, bump := p.bump + 1 } ∈ allPaths r ∧
    ∀ t, t < nThreads q → th.getLsbD t = true → pr < 7 → regP r pr t = val

/-- The instruction completes with its barrier's word, and with the end of those waits on it over the groups of its core. -/
def BarDone (i : Instr) (h : Hdr) (s : State) (k : Nat) (g : Grp) (b r : Nat) (y : Bar) (f : Nat → Bool) (val : Bool) : Prop :=
  ∃ u G t, BarSet (noted s k b r) u (coreOf k) b y ∧ exec i s = .next t ∧ Done u t k g (goesOn s (marksSlot s G h) h) Notes.nil ∧
    tabGet u.groups k = some G ∧ WaitsEnd s b f val (unmark g) G ∧
    ∀ j q, j ≠ k → tabGet s.groups j = some q → ∃ r, tabGet u.groups j = some r ∧
      if coreOf j = coreOf k then WaitsEnd s b f val q r else r = q

/-- The instruction completes with its barrier's word and nothing else; `due` says that the barrier's waits are to be tested
(R264). -/
def BarWritten (i : Instr) (h : Hdr) (s : State) (k : Nat) (g : Grp) (b r : Nat) (y : Bar) (due : Bool) : Prop :=
  let n := { noted s k b r with barDue := if due then s.barDue ++ [(coreOf k, b)] else s.barDue }
  ∃ t, exec i s = .next t ∧ Done { n with cores := t.cores } t k g (goesOn s (marksSlot s (unmark g) h) h) Notes.nil ∧
    BarSet n { n with cores := t.cores } (coreOf k) b y

/-- An evaluation follows (R262): a barrier whose counts are zero advances a phase, and its waits are due to be tested. -/
def Evaluated (i : Instr) (h : Hdr) (s : State) (k : Nat) (g : Grp) (b r : Nat) (y : Bar) : Prop :=
  if y.arrPend = 0 ∧ y.sec = 0 then
    BarWritten i h s k g b r { y with phase := (y.phase + 1) % 16, arrPend := y.arrInit, cts := s.gts % 2 ^ 32 } true
  else BarWritten i h s k g b r y false

/-- The waits that a barrier which advanced satisfies end after the last event of the cycle (R264 to R266). -/
def waitsTested (s : State) (core b : Nat) : Prop :=
  s.pkg.frozen = false → s.raised = [] → s.posted = [] → s.barDue = [(core, b)] →
    let ph := (barOf (tabGetD (getCore s core).bars b 0)).phase
    (tick s).barDue = [] ∧ (tick s).barEvents = [] ∧ (tick s).mem = s.mem ∧ (tick s).cycle = s.cycle + 1 ∧
    ∀ k q, tabGet s.groups k = some q → ∃ r, tabGet (tick s).groups k = some r ∧
      if coreOf k = core then WaitsEnd s b (fun tok => decide ((ph + 16 - tok % 16) % 16 ∈ [1, 2, 3, 4, 5, 6, 7, 8])) true q r else r = q

/-- BINIT, BARRIVE, BEXPECT, BWAITP, BTEST and BINVAL of R260 to R268, R386 and R387, and the test of waits after a cycle's
events. -/
def barrierRules (w : RWord (BitVec 12)) : Prop :=
  let slot := hdrSlot w.hdr
  let idle := fun i (s : State) k g => Turns i w.hdr s k g g Notes.nil
  let word := fun (s : State) k b => barOf (tabGetD (getCore s (coreOf k)).bars b 0)
  onBarrier (.binit w) w 65535 false (some rkInit) (idle (.binit w)) (fun s k g _ b n =>
    (barIdle (setGroup s k g) (coreOf k) b = false → Traps (.binit w) s k g fcBarrierStore 0) ∧
    (barIdle (setGroup s k g) (coreOf k) b = true → BarWritten (.binit w) w.hdr s k g b rkInit
      { phase := 0, valid := true, inval := false, arrPend := n, arrInit := n, sec := 0, cts := s.gts % 2 ^ 32 } false)) ∧
  onBarrier (.barrive w) w 65535 true (some rkArrive) (idle (.barrive w)) (fun s k g _ b n =>
    let x := word s k b
    (x.valid = false ∨ x.arrPend < n → Traps (.barrive w) s k g fcBarrierInvalid 0) ∧
    (x.valid = true → n ≤ x.arrPend → Evaluated (.barrive w) w.hdr s k g b rkArrive { x with arrPend := x.arrPend - n })) ∧
  onBarrier (.bexpect w) w (2 ^ 23 - 1) false (some rkExpect) (idle (.bexpect w)) (fun s k g _ b n =>
    let x := word s k b
    (x.valid = false → Traps (.bexpect w) s k g fcBarrierInvalid 0) ∧
    (x.valid = true → 2 ^ 23 - 1 < x.sec + n → Traps (.bexpect w) s k g fcIllegalOpnd 0) ∧
    (x.valid = true → x.sec + n ≤ 2 ^ 23 - 1 → Evaluated (.bexpect w) w.hdr s k g b rkExpect { x with sec := x.sec + n })) ∧
  onBarrier (.bwaitp w) w 15 false none
    (fun s k g => OwnDone (.bwaitp w) w.hdr s { s with serial := s.serial + 1 } k g (awaits s (advance s g) slot []) Notes.nil)
    (fun s k g e b tok =>
      let x := word s k b
      let ends := fun v => OwnDone (.bwaitp w) w.hdr s { s with serial := s.serial + 1 } k g
        (awaits s (advance s g) slot (wrPred e (dstPred w.d) v)) Notes.nil
      let th := (activeThreads e).foldl (fun (m : Mask) t => m ||| BitVec.ofNat 96 (2 ^ t)) 0
      (x.inval = true → ends false) ∧
      (x.inval = false → x.valid = false → Traps (.bwaitp w) s k g fcBarrierInvalid 0) ∧
      (x.inval = false → x.valid = true → ((x.phase + 16 - tok) % 16 ∈ [1, 2, 3, 4, 5, 6, 7, 8]) → ends true) ∧
      (x.inval = false → x.valid = true → ((x.phase + 16 - tok) % 16 ∉ [1, 2, 3, 4, 5, 6, 7, 8]) → OwnDone (.bwaitp w) w.hdr s s k g
        (parkRunning (slotUp g slot) (.waiting .barrier (.barrier b tok (dstPred w.d) th slot)) s.cycle) Notes.nil)) ∧
  onBarrier (.btest w) w 0 false none
    (fun s k g => ∃ t, exec (.btest w) s = .next t ∧ Done s t k g (goesOn s (sends g 4 slot []) w.hdr) Notes.nil)
    (fun s k g _ b _ => ∀ r, w.d = .s r → ∃ t, exec (.btest w) s = .next t ∧ Done s t k g (goesOn s (sends g 4 slot
      [⟨.s r.toNat, (tabGetD (getCore s (coreOf k)).bars b 0).truncate 64⟩]) w.hdr) Notes.nil) ∧
  onBarrier (.binval w) w 0 false (some rkInval) (idle (.binval w)) (fun s k g _ b _ =>
    let x := word s k b
    BarDone (.binval w) w.hdr s k g b rkInval { x with valid := false, inval := true, arrPend := x.arrInit, sec := 0 } (fun _ => true) false) ∧
  ∀ s core b, waitsTested s core b

/-- BCLOSE, BWAIT and BPOLL of R254 and R388. -/
def batchRules (w : RWord (BitVec 12)) : Prop :=
  let slot := hdrSlot w.hdr
  let cls := w.m.toNat % 4
  AtHead (.bclose w) w.hdr (fun s k g e =>
    let b := batchesOf g cls
    let b1 := pruneBatches { b with next := if b.next = 65535 then 1 else b.next + 1, openOps := [], closed := b.closed ++ [(b.next, b.openOps)] }
    let own := fun base G => OwnDone (.bclose w) w.hdr s base k g G Notes.nil
    (e.act = 0 → own s (sends (advance s g) 4 slot [])) ∧
    (e.act ≠ 0 → 64 ≤ b.closed.length → Parks (.bclose w) s s k g (parkRunning g (.waiting .batch (.batchFull cls)) s.cycle)) ∧
    (e.act ≠ 0 → b.closed.length < 64 → ∀ r, w.d = .s r →
      own { s with ops := tabMap s.ops fun n (o : EngOp) => if b.openOps.contains n then { o with batch := b.next } else o }
        (sends (unmark (advance s { g with batches := tabPut g.batches cls b1 })) 4 slot [⟨.s r.toNat, BitVec.ofNat 64 b.next⟩]))) ∧
  AtHead (.bwait w) w.hdr (fun s k g e =>
    let b := batchesOf g cls
    let on := fun G => PathDone (.bwait w) w.hdr s s k g G Notes.nil
    (cntOf e w.a 1 65535 = none → Traps (.bwait w) s k g fcIllegalOpnd 0) ∧
    ∀ n, cntOf e w.a 1 65535 = some n → (e.act = 0 → on (advance s g)) ∧
      (e.act ≠ 0 → batchClosed b n = false → Traps (.bwait w) s k g fcIllegalOpnd 0) ∧
      (e.act ≠ 0 → batchClosed b n = true → (∀ x ∈ b.closed, x.1 ≠ n) → on (advance s g)) ∧
      (e.act ≠ 0 → (∃ x ∈ b.closed, x.1 = n) → on (parkRunning g (.waiting .batch (.batch cls n)) s.cycle))) ∧
  AtHead (.bpoll w) w.hdr (fun s k g e =>
    let b := batchesOf g cls
    (cntOf e w.a 1 65535 = none → Traps (.bpoll w) s k g fcIllegalOpnd 0) ∧
    ∀ n, cntOf e w.a 1 65535 = some n →
      (e.act ≠ 0 → batchClosed b n = false → Traps (.bpoll w) s k g fcIllegalOpnd 0) ∧
      (e.act = 0 ∨ batchClosed b n = true → ∃ t, exec (.bpoll w) s = .next t ∧ Done s t k g (goesOn s (sends g 4 slot
        (wrPred e (dstPred w.d) (b.closed.all fun x => x.1 != n))) w.hdr) Notes.nil))

/-- QFENCE of R131 and R389: a marker stays while an operation before it in a queue of its mask is not complete. -/
def qfenceRule (w : RWord (BitVec 12)) : Prop :=
  AtHead (.qfence w) w.hdr (fun s k g e =>
    let earlier := s.ops.any fun x => x.2.core == coreOf k && opLive s x.2 && decide (x.1 < s.serial) && decide (x.2.cls < 4) && w.m.getLsbD x.2.cls
    (e.act = 0 → Turns (.qfence w) w.hdr s k g g Notes.nil) ∧
    (e.act ≠ 0 → memoryHeld (setGroup s k g) g = true → Holds (.qfence w) s k (setGroup s k g)) ∧
    (e.act ≠ 0 → memoryHeld (setGroup s k g) g = false → ∃ t, exec (.qfence w) s = .next t ∧
      Done { s with serial := s.serial + 1, ops := if earlier then tabPut s.ops s.serial (markerOp (.qfence w) k g) else s.ops } t k g
        (goesOn s (marksSlot s (unmark g) w.hdr) w.hdr) Notes.nil))

/-- The operation that an engine instruction issues, at the end of its queue and in the group's open batch (R253, R254, R390). -/
def issuedOp (s : State) (k : Nat) (g : Grp) (i : Instr) (cls : Nat) (bar : Option Nat) (p : EngPlan) : EngOp :=
  { markerOp i k g with
    cls := cls, vals := p.vals, snap := gridSnap s g, bar := bar, sectors := p.sectors, total := p.total, slot := p.slot, threads := p.threads }

/-- An engine instruction (R379, R390): its checks in order, then its operation enters the queue. `leaves` gives the group
its own slot. -/
def engineRule (i : Instr) (h : Hdr) (cls : Nat) (c : Opnd) (pre : State → Grp → Env → Option Nat)
    (plan : State → Nat → Grp → Env → Except Nat EngPlan) (leaves : State → Grp → Grp) : Prop :=
  AtHead i h (fun s k g e =>
    let s0 := setGroup s k g
    let held := memoryHeld s0 g || releaseHeld s0 k g
    let b0 := batchesOf g cls
    (∀ x, pre s0 g e = some x → Traps i s k g x 0) ∧
    (pre s0 g e = none → e.act = 0 → Turns i h s k g g Notes.nil) ∧
    (pre s0 g e = none → e.act ≠ 0 → held = true → Holds i s k s0) ∧
    (pre s0 g e = none → e.act ≠ 0 → held = false →
      (∀ x, plan s0 k g e = .error x → Traps i s k g x 0) ∧
      ∀ p, plan s0 k g e = .ok p →
        let aligned := ∀ a ∈ p.aligns, a.1 % a.2 = 0 ∧ inAperture a.1 = false
        let full := queueRoom cls ≤ (s.ops.filter fun o => o.2.core == coreOf k && opLive s o.2 && o.2.cls == cls).length
        (engBar s0 g c = none → Traps i s k g fcIllegalOpnd 0) ∧
        ∀ b, engBar s0 g c = some b →
          let usable := ∀ j, b = some j → (barOf (tabGetD (getCore s (coreOf k)).bars j 0)).valid = true
          (∀ a, p.aligns.find? (fun x => x.1 % x.2 != 0 || inAperture x.1) = some a →
            Traps i s k g (if inAperture a.1 then fcProtection else fcMisalign) a.1) ∧
          (aligned → p.rangeOk = false → Traps i s k g fcProtection p.addr) ∧
          (aligned → p.rangeOk = true → ¬ usable → Traps i s k g fcBarrierInvalid 0) ∧
          (aligned → p.rangeOk = true → usable → full → Holds i s k s0) ∧
          (aligned → p.rangeOk = true → usable → ¬ full → ∃ t, exec i s = .next t ∧
            Done { s with ops := tabPut s.ops s.serial (issuedOp s k g i cls b p), serial := s.serial + 1 } t k g
              (goesOn s (leaves s (slotUp (unmark (advanceDraws
                { g with batches := tabPut g.batches cls { b0 with openOps := b0.openOps ++ [s.serial] } } p.draws)) p.slot)) h)
              (Notes.ofSplit p.split))))

/-- What a plan asks for, where it is made: sectors to count (R391), progress at completion (R392), and alignments. -/
def planned (plan : State → Nat → Grp → Env → Except Nat EngPlan) (f : State → Grp → Env → Nat × Nat) (al : Nat → Prop) : Prop :=
  ∀ s k g e p, plan s k g e = .ok p → (p.sectors, p.total) = f s g e ∧ ∀ x ∈ p.aligns, al x.2

/-- Bytes rounded up to sectors of 32 bytes (R391). -/
def inSectors (n : Nat) : Nat := (n + 31) / 32

/-- A word of a copy descriptor (R395). -/
def dword (e : Env) (o : Opnd) (j : Nat) : Nat := match o with | .s i _ _ => (regS e.g (i.toNat + j)).toNat | _ => 0

/-- Plan of CPY.T, CPY.CV, CPY.META, GATHER, MZERO, CBLOAD and XFM.J, as the meanings have them. -/
def cpyTPlan (w : RWord (BitVec 12)) (s : State) (_ : Nat) (g : Grp) (e : Env) : Except Nat EngPlan :=
  rowsPlan e w (w.m.getLsbD 0) (w.m.getLsbD 1) 4 [] id id (fun n d x => decide (4 ≤ n) && n % 4 == 0 && d % 4 == 0 && x % 4 == 0) s g
def cpyCvPlan (w : RWord (BitVec 12)) (s : State) (_ : Nat) (g : Grp) (e : Env) : Except Nat EngPlan :=
  rowsPlan e w (w.m.getLsbD 10) (w.m.getLsbD 11) 1 [cntVal0 e w.b 0 255] (packBytes (cvTypes w.m).2) (packBytes (cvTypes w.m).1)
    (fun n _ _ => decide (1 ≤ n)) s g

/-- Plan of CPY.META (R255, R379, R396): lines of 128 bytes for the metadata queue, through a META entry with PUSH; the channel is
checked before the count. -/
def metaPlan (w : RWord (BitVec 12)) (s : State) (k : Nat) (g : Grp) (e : Env) : Except Nat EngPlan :=
  let c := (capOf s k g (chanOf w.a)).2
  let n := (cntOf e w.c 1 64).getD 1
  let a := dword e w.b 0
  if c.entry.getLsbD 63 = false ∨ capKind c ≠ 3 then .error fcCap
  else if c.entry.getLsbD 59 = false then .error fcCapPerm
  else if cntOf e w.c 1 64 = none then .error fcIllegalOpnd
  else .ok ⟨[BitVec.ofNat 128 a, BitVec.ofNat 128 n], 0, n, if w.m.getLsbD 0 then [(a, 128)] else [],
    !w.m.getLsbD 0 || extOk s g a (128 * n), a, 0, none, 0, []⟩

/-- Plan of an operation of the matrix or gather engine, which only the partition that holds it may issue (R393). -/
def matrixPlan (s : State) (k : Nat) (g : Grp) (vals : List Nat) (sectors total : Nat) (al : List (Nat × Nat)) (ok : Bool) (a : Nat) : Except Nat EngPlan :=
  if matrixTaken s k g then .error fcIllegalOpnd else .ok ⟨vals.map (BitVec.ofNat 128), sectors, total, al, ok, a, 0, none, 0, []⟩

/-- Plan of XFM.J (R390, R391, R404): the four words of its card in the scratchpad, its bytes in sectors. -/
def jobPlan (w : RWord (BitVec 12)) (s : State) (k : Nat) (g : Grp) (e : Env) : Except Nat EngPlan :=
  let a := dword e w.a 0
  let ws := if a % 32 = 0 ∧ extOk s g a 32 = true then cardWords s g a else []
  if bits (ws.getD 0 0) 63 60 = 3 ∧ (matrixRole s g = false ∨ matrixTaken s k g = true) then .error fcIllegalOpnd
  else .ok ⟨(ws ++ [a]).map (BitVec.ofNat 128), inSectors (bits (ws.getD 3 0) 63 32), jobOpen, [(a, 32)], extOk s g a 32, a, 0, none, 0, []⟩

/-- CPY, CPY.T, CPY.CV and CPY.META of R394 to R396. -/
def copyRules (w : RWord (BitVec 12)) : Prop :=
  let marks := fun s g => marksSlot s g w.hdr
  let dst := packBytes (cvTypes w.m).1
  engineRule (.cpy w) w.hdr 0 w.c (fun _ _ _ => none) (cpyPlan w) marks ∧
  planned (cpyPlan w) (fun _ _ e => (inSectors (4 * 2 ^ (w.m.toNat % 4) * (activeThreads e).length), (activeThreads e).length))
    (· = 4 * 2 ^ (w.m.toNat % 4)) ∧
  engineRule (.cpyT w) w.hdr 0 w.c (fun _ _ _ => none) (cpyTPlan w) marks ∧
  planned (cpyTPlan w) (fun _ _ e => let d := dword e w.a 2; (inSectors (bits d 31 16 * bits d 15 0), bits d 31 16)) (· = 4) ∧
  engineRule (.cpyCv w) w.hdr 0 w.c (preCnt w.b 0 255) (cpyCvPlan w) marks ∧
  planned (cpyCvPlan w) (fun _ _ e => let d := dword e w.a 2; (inSectors (bits d 31 16 * dst (bits d 15 0)), bits d 31 16)) (· = 1) ∧
  engineRule (.cpyMeta w) w.hdr 0 .none (fun s g e => if e.act = 0 then preCnt w.c 1 64 s g e else none) (metaPlan w) marks

/-- GATHER, MZERO, MLOOP, MLOOP.SP, MACC and CBLOAD of R393 and R397 to R402, and XFM.J of R404. -/
def matrixRules (w : RWord (BitVec 12)) : Prop :=
  let marks := fun s g => marksSlot s g w.hdr
  engineRule (.gather w) w.hdr 2 w.c (preMat (preCnt w.b 1 64)) (fun s k g e =>
    let n := (cntOf e w.b 1 64).getD 1
    let a := dword e w.a 0
    matrixPlan s k g [a, n] (4 * n) n [(a, 2)] (extOk s g a (2 * n)) a) marks ∧
  engineRule (.mzero w) w.hdr 1 .none (preMat preNone) (fun s k g _ => matrixPlan s k g [dstAcc w.d, if g.triplex then 1 else 0] 0 1 [] true 0) marks ∧
  engineRule (.mloop w) w.hdr 1 .none (preMat (mloopPre w)) (mloopPlan w false) marks ∧
  engineRule (.mloopSp w) w.hdr 1 .none (preMat (mloopPre w)) (mloopPlan w true) marks ∧
  (∀ sp, planned (mloopPlan w sp) (fun _ _ e => (0, (cntOf e w.c 1 (2 ^ 24 - 1)).getD 1)) (fun _ => False)) ∧
  engineRule (.macc w) w.hdr 1 .none (preMat (maccPre w)) (maccPlan w) (fun s g => if w.m.getLsbD 5 then marks s g else g) ∧
  planned (maccPlan w) (fun _ _ _ => (0, if w.m.getLsbD 5 then 64 else 1)) (· = 4) ∧
  engineRule (.cbload w) w.hdr 1 .none (preMat preNone) (fun s k g e =>
    let a := dword e w.a 0
    matrixPlan s k g [a] 0 1 [(a, 128)] (extOk s g a 1024) a) marks ∧
  engineRule (.xfmJ w) w.hdr 3 w.c (fun _ _ _ => none) (jobPlan w) marks

/-- A synchronous instruction of the siphon completes with its results of variable latency, its progress index zero. -/
def siphonEnds (i : Instr) (h : Hdr) (s : State) (k : Nat) (g G : Grp) (ws : List RegW) (n : Notes) : Prop :=
  ∃ t, exec i s = .next t ∧ Done { s with serial := s.serial + 1 } t k g
    (goesOn s (awaits s { G with px := 0, partial_ := [] } (hdrSlot h) ws) h) n

/-- The instruction has done a unit, and executes again (R235). -/
def siphonUnit (i : Instr) (s : State) (k : Nat) (g G : Grp) (done : Nat) (kept : List Nat) (ws : List RegW) : Prop :=
  UnitDone i s k g { landCells G ws with px := done, partial_ := kept }

/-- The group as block `i` of an XFM.R finds it, where the blocks before it fail in nothing: each has written its span. -/
def xfmAt (e : Env) (tab : Tab W128) (w : RWord (BitVec 12)) (x : Nat) : Nat → Option Grp
  | 0 => some e.g
  | i + 1 => (xfmAt e tab w x i).bind fun g => (xfmLanes { e with g := g } tab w x i).map (landCells g)

/-- XFM.R of R403: its uniform scale, its parameter, its spans, the matrix role of FN 1; then, before the first block is written,
the scale and CONV of every block as it will find its registers (R10, R378); then a block an issue. -/
def xfmRule (w : RWord (BitVec 12)) : Prop :=
  AtHead (.xfmR w) w.hdr (fun s k g e =>
    let x := xfmParam e w.b
    let fn := xfmFn w.m
    let n := xfmBlks w.m
    let s0 := setGroup s k g
    let checked := e.act ≠ 0 ∨ ∃ y, w.b = .imm y
    let bad := xfmParamOk fn (xfmTy w.m) x = false
    let wide := xfmRange g w x = false
    let tab := (tabGet s.ctxs g.ctx).elim [] fun c => (getCoreCtx c (coreOf k)).codebook
    let block := xfmLanes e tab w x
    let one := fun G => fn = 1 → (unW { e with g := G } .ui32 32 w.c).1 ≠ none
    let uniform := one g
    let first := fun i G => i < n ∧ xfmAt e tab w x i = some G ∧ ∀ j < i, ∀ H, xfmAt e tab w x j = some H → one H
    (¬ uniform → Traps (.xfmR w) s k g fcNonuniform 0) ∧
    (uniform → checked → bad → Traps (.xfmR w) s k g fcIllegalOpnd 0) ∧
    (uniform → checked → ¬ bad → wide → Traps (.xfmR w) s k g fcRegRange 0) ∧
    (uniform → (checked → ¬ bad ∧ ¬ wide) →
      (fn = 1 → matrixRole s g = false → Traps (.xfmR w) s k g fcIllegalOpnd 0) ∧
      ((fn = 1 → matrixRole s g = true) →
        (e.act = 0 → siphonEnds (.xfmR w) w.hdr s k g g [] Notes.nil) ∧
        (e.act ≠ 0 → memoryHeld s0 g = true → Holds (.xfmR w) s k s0) ∧
        (e.act ≠ 0 → memoryHeld s0 g = false → fn = 1 → matrixTaken s k g = true → Traps (.xfmR w) s k g fcIllegalOpnd 0) ∧
        (e.act ≠ 0 → memoryHeld s0 g = false → (fn = 1 → matrixTaken s k g = false) →
          (g.px = 0 → ∀ i G, first i G → ¬ one G → Traps (.xfmR w) s k g fcNonuniform 0) ∧
          (g.px = 0 → ∀ i G, first i G → one G → xfmLanes { e with g := G } tab w x i = none → Traps (.xfmR w) s k g fcConv 0) ∧
          ∀ ws, (g.px = 0 → ∀ i, i < n → ∃ G, xfmAt e tab w x i = some G ∧ one G ∧ xfmLanes { e with g := G } tab w x i ≠ none) →
            block g.px = some ws →
            let G := advanceDraws g (xfmDraws e w x)
            (g.px + 1 < n → siphonUnit (.xfmR w) s k g G (g.px + 1) g.partial_ ws) ∧
            (n ≤ g.px + 1 → siphonEnds (.xfmR w) w.hdr s k g G ws
              (Notes.ofSplit (if fn = 1 then (unW e .ui32 32 w.c).2 else 0))))))) ∧
  ∀ e tab x i,
    (xfmFn w.m = 2 → xfmLanes e tab w x i = some ((activeLanes e).map fun l =>
      let n := bits x 5 0
      let v := regsV e.g (vIdx w.a) ((xfmBlks w.m * n + 31) / 32) l / 2 ^ (i * n) % 2 ^ n
      wrV (vDst w.d + i) l 1 (if x / 64 % 2 = 1 then sext n 32 v else v)).flatten)

/-- DECODE of R405 and R406: a symbol of the stream for each Active thread, an issue each, then s(n+1). Bytes that hold an
uncorrectable error are a fault where a symbol is read from them (R30). -/
def decodeRule (w : RWord (BitVec 12)) : Prop :=
  AtHead (.decode w) w.hdr (fun s k g e =>
    let mode := w.m.toNat % 8
    let span := if mode = 4 then 4 else 1
    let d := dword e w.a 0
    let len := bits d 55 32
    let base := bits d 23 0
    let cur := if g.px = 0 then dword e w.a 1 % 2 ^ 32 else g.partial_.getD 0 0
    let rest := (activeThreads e).drop g.px
    let s0 := setGroup s k g
    let held := memoryHeld s0 g || streamPending s0 g base len
    let fit := d = base + len * 2 ^ 32 ∧ cur ≤ 8 * len ∧ (3 ≤ mode → cur % 8 = 0)
    let ends := fun c count last err ws (more : List Nat) => siphonEnds (.decode w) w.hdr s k g g
      (ws ++ (more.map fun t => symWrites g (vDst w.d) t (List.replicate span 0)).flatten ++
        match w.a with | .s i _ _ => wrS (i.toNat + 1) 1 (decodeWord c count (last || (!err && c == 8 * len)) err) | _ => []) Notes.nil
    (cntOf e w.b (decodeRange mode).1 (decodeRange mode).2 = none → Traps (.decode w) s k g fcIllegalOpnd 0) ∧
    ∀ p, cntOf e w.b (decodeRange mode).1 (decodeRange mode).2 = some p →
      (e.act = 0 → siphonEnds (.decode w) w.hdr s k g g [] Notes.nil) ∧
      (e.act ≠ 0 → held = true → Holds (.decode w) s k s0) ∧
      (e.act ≠ 0 → held = false → ¬ fit → Traps (.decode w) s k g fcIllegalOpnd 0) ∧
      (e.act ≠ 0 → held = false → fit → extOk s g base len = false → Traps (.decode w) s k g fcProtection base) ∧
      ∀ tm, e.act ≠ 0 → held = false → fit → extOk s g base len = true → teamOf s g = some tm →
        let str : Strm := ⟨fun i => (memByte s.mem (locAddr s tm base + i)).toNat, len, w.m.getLsbD 3⟩
        let lost := ∃ r ∈ symReads len base mode cur (symbol str mode p base cur), 0 < r.2 ∧ poisoned s (locAddr s tm base + r.1) r.2 = true
        (rest = [] → ends cur g.px false false [] []) ∧
        (rest ≠ [] → lost → Traps (.decode w) s k g fcUncorrectable (base + cur / 8)) ∧
        (rest ≠ [] → ¬ lost → symbol str mode p base cur = .malformed → ends cur g.px false true [] rest) ∧
        (rest ≠ [] → ¬ lost → symbol str mode p base cur = .short → ends cur g.px false false [] rest) ∧
        ∀ t more vs c last, rest = t :: more → ¬ lost → symbol str mode p base cur = .sym vs c last →
          (last = true ∨ more = [] → ends c (g.px + 1) last false (symWrites g (vDst w.d) t vs) more) ∧
          (last = false → more ≠ [] → siphonUnit (.decode w) s k g g (g.px + 1) [c, g.px + 1] (symWrites g (vDst w.d) t vs))) ∧
  ∀ str k base cur,
    (str.msb = false → symbol str 0 k base cur = if 8 * str.len < cur + k then .short else .sym
      [((List.range k).map fun i => (str.bytes ((cur + i) / 8) / 2 ^ ((cur + i) % 8) % 2) * 2 ^ i).sum] (cur + k) false) ∧
    (∀ b, str.bytes (cur / 8) = b → cur / 8 < str.len → b < 128 → symbol str 3 k base cur = .sym [b] (8 * (cur / 8 + 1)) false)

/-- The hint fields of an unguarded word without hints (R284, R290). -/
def plainHdr : Hdr := ⟨0, none, false, 0, true, 7⟩

/-- Words that the spec writes out, each with the instruction it gives for them (chapters 14 to 19 and 21 to 24). -/
def specWords : List (BitVec 96 × Instr) :=
  [(0x02130FFE0000040200403180#96, .ld ⟨{ plainHdr with set := some 1, stall := 1 }, ⟨.f32, false, .die, .acq, false⟩, .v 12, .s 4 false false, 0x40, .none⟩),
   (0x0E0000F000000058009FFC04#96, .brd ⟨plainHdr, 0, .none, .pred 1 true, 5⟩),
   (0x0E0000F00000003E000FFC12#96, .mark ⟨plainHdr, 0, .none, .none, 3⟩),
   (0x0E0147780094064000780893#96, .isetp ⟨{ plainHdr with inv := false }, ⟨.si32, 0xA⟩, .p 2, .v 7 false false, .imm 100, .pred 1 true⟩),
   (0x0E4030F00000F82000201D13#96, .fcvt ⟨{ plainHdr with stall := 4 }, ⟨.e4m3, .rn, 0⟩, .v 7, .v 2 false false, 0x0F82⟩),
   (0x040743F2008001020060298B#96, .acas ⟨{ plainHdr with set := some 2 }, ⟨.b64, false, .pkg, .ar, false⟩, .v 10, .s 6 false false, 0x10, .s 8 false false⟩),
   (0x0F0002F4040200C200AC0A87#96, .mloopSp ⟨{ plainHdr with yld := true }, 2, .acc 2, .s 10 false false, .s 12 false false, .imm 64⟩),
   (0x0E0000F0000000CA200FFC05#96, .jarm ⟨plainHdr, 0, .none, .join 0, 0xC⟩),
   (0x0E0000FE000E000A200FFC06#96, .jarr ⟨plainHdr, 0, .none, .join 0, .none, .none⟩),
   (0x0E402FF100A0005000402D03#96, .ffma ⟨{ plainHdr with stall := 4 }, ⟨.f32, .rn, 0⟩, .v 11, .v 4 false false, .v 5 false false, .v 10 false true⟩),
   (0x8E400FFE000000B000A03901#96, .fsub ⟨{ plainHdr with stall := 4, wait := 8 }, ⟨.f32, .none, 0⟩, .v 14, .v 10 false false, .v 11 false false, .none⟩),
   (0x8000021E0000000000606D9B#96, .ctag ⟨⟨8, some 0, false, 0, false, 1⟩, ⟨.b32, false, .grp, .none, false⟩, .v 27, .v 6 false false, 0, .none⟩),
   (0x000004FE000400020140368C#96, .decode ⟨{ plainHdr with set := some 0 }, 4, .v 13, .s 20 false false, .imm 0, .none⟩),
   (0x020000FE000E000E0008059E#96, .txc ⟨{ plainHdr with set := some 1 }, ⟨.b8, false, .grp, .none, false⟩, .p 1, .none, .none, .none⟩),
   (0x0E0019F4004200AE000C0687#96, .mloopSp ⟨plainHdr, 0x19, .acc 1, .none, .s 10 false false, .imm 4⟩)]

/-- The opcode is assigned to an instruction (R295). -/
def assigned (o : Nat) : Bool :=
  [(0x000, 0x01B), (0x080, 0x09D), (0x0A0, 0x0A8), (0x100, 0x120), (0x180, 0x18D), (0x190, 0x197), (0x198, 0x1A3), (0x200, 0x20D), (0x280, 0x28D)].any fun r => decide (r.1 ≤ o) && decide (o < r.2)

/-- Words that are no instruction (R295, R296, R314): opcode 0, the all-ones word, an unassigned opcode, a reserved SET. -/
def notInstructions (w : BitVec 96) : Prop :=
  let o := (w.extractLsb' 0 10).toNat
  (o = 0 → Sys2Proof.decode w = .ok .ztrap) ∧
  (w = BitVec.allOnes 96 → Sys2Proof.decode w = .ok .falloff) ∧
  (w ≠ BitVec.allOnes 96 → assigned o = false → Sys2Proof.decode w = .ok (.illegalOp w)) ∧
  (o ≠ 0 → assigned o = true → (w.extractLsb' 89 3 = 4 ∨ w.extractLsb' 89 3 = 5 ∨ w.extractLsb' 89 3 = 6) → Sys2Proof.decode w = .error .illegalMod)

/-- A word that decodes to an encoded instruction is the word the encoder gives it: no bit of it is without meaning. -/
def readWhole (w : BitVec 96) : Prop :=
  ∀ i, Sys2Proof.decode w = .ok i → (sig i).isSome = true → i.wf = true ∧ encode i = some w

/-- What the bytes at a group's PC give (R4, R164, R204, R281, R296): with its text page present, in a well or host window (elsewhere PROTECTION) and
unharmed, the instruction they decode to, or the cause they are rejected with. A frame that another package holds is asked for
there, and the bytes that come back decode in the same way (R278, the model's reading: assumption log, row 89). -/
def fetches (s : State) (k : Nat) (g : Grp) : Prop :=
  g.pc < 2 ^ 40 → ∀ u e, lookup s g.ctx (coreOf k) true false (textVa g.pc) = .leaf u e →
    let pa := hostPa (ptePa e.pte + textVa g.pc % 2 ^ e.bits)
    let vf := ctxVf g.ctx
    let asked := agentRead u (fetchOwner g) g.ctx (.vf vf) false none pa 12 true
    let there := anyWell u pa = true ∨ placeOf u.pkg.id pa = .host
    (¬ there → g.fall = false → fetch s k g = (u, .cause fcProtection)) ∧
    (destOf u (homeOf u.pkg.id pa) ≠ none → there →
      pa % 128 ≤ 116 → g.fall = false →
      (∀ t h, asked = .stall t h → fetch s k g = (t, .wait)) ∧ (∀ c, asked = .fault c → fetch s k g = (u, .cause c)) ∧
      ∀ t d i rest, asked = .done t d → decodeBytes (leBytes d 12) = some (.ok i, rest) →
        fetch s k g = (dropFars t (fetchOwner g) g.ctx, .word i)) ∧
    (destOf u (homeOf u.pkg.id pa) = none → there →
    fetchLine u vf (pa / 128) = none → fetchLine u vf ((pa + 11) / 128) = none → ∀ rest,
      let reads := fun x => decodeBytes (textBytes u vf pa) = some (x, rest)
      (reads (.ok .ztrap) → fetch s k g = (u, .word .ztrap)) ∧
      (∀ x, x ≠ .ok .ztrap → reads x → g.fall = true → fetch s k g = (s, .word .falloff)) ∧
      (g.fall = false →
        (∀ i, reads (.ok i) → fetch s k g = (u, .word i)) ∧
        (reads (.error .illegalMod) → fetch s k g = (u, .cause fcIllegalMod)) ∧
        (reads (.error .illegalOpnd) → fetch s k g = (u, .cause fcIllegalOpnd)) ∧
        (reads (.error .regRange) → fetch s k g = (u, .cause fcRegRange))))

/-- A step of an issue (R229): the oldest group of the scheduler that may issue runs the instruction that its fetch gives, as
the current group, a cycle later, once in a cycle; and a step of an event runs it, a cycle later, with the barrier events of the
same cycle (R264), or at its own time within the cycle (R17): a command of the host behind the writes that the host made before it
(R134). -/
def stepRuns (s : State) : Prop :=
  (∀ sched rest, s.agenda = .issue sched :: rest →
    let u := tick { s with agenda := rest }
    (u.issued.contains sched = true ∨ pickGroup u sched = none → step s = .next u) ∧
    ∀ k g, u.issued.contains sched = false → pickGroup u sched = some (k, g) →
      let v := { unyield u sched k with issued := sched :: u.issued }
      ((k, g) ∈ u.groups ∧ schedOf k = sched ∧ canIssue u k g = true ∧
        ∀ x ∈ u.groups, schedOf x.1 = sched → canIssue u x.1 x.2 = true → olderIssue x (k, g) = false) ∧
      (∀ t i, fetch v k (releaseSlots u.cycle g) = (t, .word i) → step s = exec i { t with cur := some k }) ∧
      (∀ t c, fetch v k (releaseSlots u.cycle g) = (t, .cause c) → step s = takeFault t k c 0) ∧
      (∀ t, fetch v k (releaseSlots u.cycle g) = (t, .wait) → step s = .next (noIssue t k))) ∧
  let runs := fun (c : Choice) i u => isWordRow i = false →
    (hostRow i = false ∨ hostPosted u = false → step s = exec i u) ∧
    (hostRow i = true → hostPosted u = true → step s = .next { u with later := u.later ++ [c] })
  (∀ i rest, s.agenda = .event i :: rest → runs (.event i) i (tick { s with agenda := rest })) ∧
  (∀ i rest, s.agenda = .same (.event i) :: rest →
    runs (.same (.event i)) i (if s.barEvents = [] then tick { s with agenda := rest } else { s with agenda := rest })) ∧
  ∀ d i rest, s.agenda = .within d i :: rest → runs (.within d i) i
    (if s.sub < d ∧ d < 5 ∧ s.pkg.frozen = false then { s with agenda := rest, gts3 := s.gts3 + (d - s.sub), sub := d }
      else tick { s with agenda := rest })

/-- The part right after reset, where the register maps give values (R6, R20, R26, R31, R111, R158, R176, R178, R182, R192,
R249, R260, R270, R275, R409, R412). -/
def resetValues (s : State) : Prop :=
  s.pkg.boot = .reset ∧ s.pkg.frozen = false ∧ s.pkg.tlbinvVa = 0 ∧ s.pkg.tlbinvBusy = false ∧
  s.pkg.pcie = false ∧ s.fars = [] ∧ s.inbox = [] ∧ s.posted = [] ∧ s.later = [] ∧
  s.ctxs = [] ∧ s.groups = [] ∧ s.teams = [] ∧ s.grids = [] ∧ s.accs = [] ∧ s.ops = [] ∧ s.msgs = [] ∧ s.waits = [] ∧ s.tlb = [] ∧
  (∀ d, (getDie s d).softcnt = 0 ∧ (getDie s d).trip = false ∧ (getDie s d).lastGrant = 47 ∧ (getDie s d).grants = [] ∧ (getDie s d).reserved = [] ∧
    (getDie s d).lwm = 0 ∧ (getDie s d).poolWaits = 0 ∧ (getDie s d).dbgsel = 0 ∧ (getDie s d).dbgstatus = 0 ∧ (getDie s d).dbgrun = false) ∧
  (∀ c, (getCore s c).bars = [] ∧ (getCore s c).bardrop = 0 ∧ (getCore s c).qslots = [] ∧ (getCore s c).bins = []) ∧
  (∀ p, (getPart s p).w0 = 0 ∧ (getPart s p).w1 = 0 ∧ (getPart s p).w2 = 0 ∧ (getPart s p).running = none ∧ (getPart s p).halt = none) ∧
  (∀ v, (getVf s v).key = none ∧ (getVf s v).cur = 0 ∧ (getVf s v).cause = 0 ∧ (getVf s v).capidx = 0 ∧ (getVf s v).prfctl.getLsbD 63 = false) ∧
  (∀ w, (getWin s w).state = .empty ∧ (getWin s w).todo = []) ∧
  (∀ q, (getWq s q).state = .unbound ∧ (getWq s q).head = 0 ∧ (getWq s q).tail = 0 ∧ (getWq s q).base = 0) ∧
  ∀ l, (getLink s l).state = .down ∧ (getLink s l).thresh = 0x0100 ∧ (getLink s l).errcnt = 0

/-- What the registers of the part read as in the debug port right after reset (R31, R111, R158, R176, R178, R249, R270, R275, R409):
zero, but for the replay threshold of the links, and TEMP, which has no Reset value. No function answers before PCIe is open (R26). -/
def resetReads (s : State) : Prop :=
  let reads := fun d off x => registerRead s .port d off = some x
  (∀ d off v, registerRead s .physical d off = none ∧ registerRead s (.vf v) d off = none) ∧
  (∀ d, d < 8 → (∃ x, reads d 0x0100 x ∧ x &&& 0xFFFFFFFF00FFFFFF#64 = 0) ∧ reads d 0x0200 0#64 ∧ reads d 0x0700 0#64 ∧ reads d 0x0708 0#64 ∧ reads d 0x0710 0#64 ∧
    (∀ p, p < 3 → reads d (0x0500 + 16 * p) 0x01000000#64 ∧ reads d (0x0508 + 16 * p) 0#64) ∧ ∀ c, c < 64 → reads d (0x0800 + 8 * c) 0#64) ∧
  reads 0 0x0300 0#64 ∧ reads 0 0x0308 0#64 ∧ reads 0 0x0310 0#64 ∧ (∀ w, w < 256 → reads 0 (0x2000 + 8 * w) 0#64) ∧
  (∀ p, p < 48 → reads 0 (0x4000 + 32 * p) 0#64 ∧ reads 0 (0x4008 + 32 * p) 0#64 ∧ reads 0 (0x4010 + 32 * p) 0#64) ∧
  ∀ q, q < 1024 → ∀ i, i < 4 → reads 0 (0x8000 + 32 * q + 8 * i) 0#64

/-- The keys of a table rise strictly. -/
def keysRise {α : Type} (t : Tab α) : Prop := (t.map (·.1)).Pairwise (· < ·)

/-- The tables of groups, teams and contexts are in their one form: each key once, in ascending order. -/
def TabInv (s : State) : Prop := keysRise s.groups ∧ keysRise s.teams ∧ keysRise s.ctxs

end Sys2Proof.Claims

open Sys2Proof Sys2Proof.Machine Sys2Proof.Claims

/-! Instructions. -/

/-- IADD, ISUB, IMUL, IMAD, IMULW, IMADW, IMIN, IMAX, IABS and INEG complete with the results of R328 (R328). -/
def Obligations.IntegerArithmeticResults : Prop := ∀ w, ∀ r ∈ r328 w, r.holds
/-- SHL, SHR, ROT and SHFW complete with the results of R329 (R329). -/
def Obligations.ShiftResults : Prop := ∀ w, ∀ r ∈ r329 w, r.holds
/-- BOP, PLOP, ISETP and SEL complete with their results (R330, R332, R67). -/
def Obligations.LogicAndCompareResults : Prop := ∀ w p, (bopRule w).holds ∧ (plopRule p).holds ∧ ∀ r ∈ r332 w, r.holds
/-- BFE, BFI, POPC, CLZ and BREV complete with the results of R331 (R331). -/
def Obligations.BitFieldResults : Prop := ∀ w, ∀ r ∈ r331 w, r.holds
/-- MOV, MOVI, MOVIH, LEA, ISAD, IDOT and BSEL complete with their results (R333, R334, R32). -/
def Obligations.MoveAndAddressResults : Prop := ∀ w v b, (∀ r ∈ r333 w v, r.holds) ∧ (∀ r ∈ r334 w, r.holds) ∧ (bselRule b).holds
/-- XLANE, PCOL, MATCH, RDLANE and WRLANE complete with their results (R335, R336, R337, R338). -/
def Obligations.LaneCrossingResults : Prop := ∀ w p, (∀ r ∈ laneCross w, r.holds) ∧ (pcolRule p).holds
/-- REDI and SCAN complete with their totals, in two issues where the group is paired (R339, R340, R235). -/
def Obligations.GroupReductionResults : Prop := ∀ w, groupOps w
/-- FADD, FSUB, FMUL, FFMA and FDOT complete with the rounded exact results (R344, R346, R347, R353). -/
def Obligations.FloatArithmeticResults : Prop := ∀ w, (∀ r ∈ r347 w, r.holds) ∧ (fdotRule w).holds
/-- FMIN, FMAX, FSETP, FSEL, FCLASS, FSGN, FDIV, the roots, reciprocals and elementary functions complete (R348, R349, R350, R351, R352). The readings of log entries 19 and 36 are the model's. -/
def Obligations.FloatSelectAndFunctionResults : Prop := ∀ w, (∀ r ∈ r349 w, r.holds) ∧ ∀ r ∈ r351 w, r.holds
/-- FCVT, F2I, I2F, FRND and FSCALE complete with the converted values (R353, R354, R355). -/
def Obligations.ConversionResults : Prop := ∀ w v, (∀ r ∈ r354 w, r.holds) ∧ (fcvtRule v).holds
/-- DIGITS, the sibling instructions and FRED complete with their results (R356, R357, R358, R359, R360). Where partials stand is log entry 37. -/
def Obligations.SiblingResults : Prop := ∀ w, (∀ r ∈ r357 w, r.holds) ∧ fredHolds w
/-- BRA, BRD and BRX move the Active lanes to their targets (R306, R307, R224). -/
def Obligations.BranchesMovePaths : Prop := ∀ w v, branchRules w ∧ brxRule v
/-- JARM arms a join, JARR arrives at it or completes it, JRD reads it (R226, R308). -/
def Obligations.JoinsArmAndReconverge : Prop := ∀ w v, jarmRule w ∧ jarrRule v ∧ (jrdRule v).holds
/-- CALL and CALLX push a return entry and move paths, RET arrives at it, END leaves (R214, R310, R311, R314). -/
def Obligations.CallsReturnAndEnd : Prop := ∀ w v,
  callRule (.call w) w.hdr (fun g e => (activeThreads e).map fun t => (t, (g.pc : Int) + w.imm.toInt)) (fun _ => Notes.nil) ∧
  callRule (.callx v) v.hdr (fun _ e => (svAll e .ui64 64 v.a).1.map fun x => (x.1, (x.2 : Int))) (fun e => Notes.ofSplit (svAll e .ui64 64 v.a).2) ∧
  retRule v ∧ endRule v
/-- NOP, YIELD, MARK, WRSR, WREM and EMP act on their group as their rules say (R223, R314, R318, R319, R320, R188). -/
def Obligations.GroupControlEffects : Prop := ∀ w v, groupRules w v ∧ emRules w
/-- RDEM, RDSR, RDTS and RDCNT complete with the value read (R289, R319, R320, R321). -/
def Obligations.SpecialRegisterReads : Prop := ∀ w, (∀ r ∈ readRules w, r.holds) ∧ counterRules w
/-- SLEEP, BIND, SPAWN and LAUNCH complete, wait or raise their fault (R213, R215, R236, R315, R316, R317, R318). -/
def Obligations.WaitsSpawnsAndLaunches : Prop := ∀ w v, sleepRule v ∧ bindRule w ∧ spawnRule w ∧ launchRule w
/-- LD, LDX, ST and STX send an access with a part for each thread's address (R171, R361, R362, R364, R365, R366, R367, R149). -/
def Obligations.LoadsAndStoresSendAccesses : Prop := ∀ w,
  loads (.ld w) w .load .load (w.d.kind == .s) ∧ loads (.ldx w) w .ldx .ldx false ∧
  stores (.st w) w .store .store (w.d.kind == .s)
    (fun e t va x => [⟨firstLane e.g t, va, x.pa, (w.m.ty.bits + 7) / 8, stDatum e w t⟩]) (fun e t => [(firstLane e.g t, stDatum e w t)]) ∧
  stores (.stx w) w .stx .stx false (fun e => stxWr e w ((w.m.ty.bits + 7) / 8)) (fun e => stxKeep e w) ∧ txStores w
/-- Atomics and reductions send an access with each thread's operands at its address (R171, R361, R368, R369, R370, R371). -/
def Obligations.AtomicsSendAccesses : Prop := ∀ w, ∀ x ∈ atomicOps w, atomics x.1 w x.2.1 x.2.2
/-- WAITA, FENCE, CINV, CTAG, PREF and CDRAIN complete, wait or raise their fault (R271, R372, R373, R374). The moments of log entry 35 are the model's reading. -/
def Obligations.CacheAndOrderEffects : Prop := ∀ w f, waitas w ∧ cacheOps w f
/-- TXB, TXC, TXA, SNAPPIN and SNAPREL act on the transaction and the pins (R146, R147, R149, R375, R376). -/
def Obligations.TransactionEffects : Prop := ∀ w, transactions w ∧ pins w
/-- PUSH, POP and CAPRD complete, wait in order, or raise their fault (R241, R244, R245, R246, R383, R384, R385). That the instruction executes again after its wait is log entry 27. -/
def Obligations.QueueInstructionEffects : Prop := ∀ w, pushRule w ∧ popRule w ∧ caprdRule w
/-- BINIT, BARRIVE, BEXPECT, BWAITP, BTEST and BINVAL act on the barrier word (R260, R262, R263, R265, R266, R267, R268, R386, R387). -/
def Obligations.BarrierInstructionEffects : Prop := ∀ w, barrierRules w
/-- BCLOSE, BWAIT, BPOLL and QFENCE act on the group's batches and the core's queues (R131, R254, R388, R389). The reading of log entry 49 is the model's. -/
def Obligations.BatchInstructionEffects : Prop := ∀ w, batchRules w ∧ qfenceRule w
/-- CPY, CPY.T, CPY.CV, CPY.META, GATHER, MZERO, MLOOP, MLOOP.SP, MACC, CBLOAD and XFM.J issue one operation (R253, R379, R390, R391, R393, R394, R395, R399, R402, R404). -/
def Obligations.EngineInstructionsIssueOperations : Prop := ∀ w, copyRules w ∧ matrixRules w
/-- XFM.R and DECODE do one block or symbol an issue and complete with the last (R235, R403, R405, R406). Readings of log entries 40 and 41 are the model's. -/
def Obligations.SiphonInstructionEffects : Prop := ∀ w, xfmRule w ∧ decodeRule w
/-! Faults. -/

/-- A fault halts the context of its group and leaves its program's state as it was (R10, R74, R77, R78, R79, R183, R185, R296, R314). -/
def Obligations.FaultsTakeTheHaltLine : Prop := (wordFault .ztrap fcFetchZero ∧ (∀ x, wordFault (.illegalOp x) fcIllegalOp) ∧ wordFault .falloff fcFalloff ∧ wordFault .textFault fcTextFault) ∧
  (∀ v, trapRules v) ∧ (∀ s k c a, ∃ t, takeFault s k c a = .next t ∧ FaultTaken s t k c a) ∧
  (∀ w, ∀ r ∈ r328 w ++ r329 w, r.numeric) ∧ ∀ w, ∀ r ∈ r347 w ++ r349 w ++ r351 w ++ r354 w ++ r357 w, r.numeric
/-! Steps of the rest of the part. -/

/-- The boot steps, PACKAGE_RESET, THERMAL_TRIP and TRIP_CLEAR (R22, R24, R26, R27, R31). What a reset keeps is log entry 18. -/
def Obligations.BringUpAndThermalTrip : Prop := ∀ s d v image u, bringUp s image u ∧ thermal s d v
/-- FREEZE stops the clocks, THAW starts them, and nothing but the debug path, the sensor and reset acts between (R23, R24, R25). The bucket's treatment of the gap is log entry 52. -/
def Obligations.FreezeAndThawEffects : Prop := (∀ s gts, freezing s gts) ∧
  ∀ i s, isWordRow i = false → awake i = false → s.pkg.frozen = true → exec i s = .next s
/-- CORE_FAILURE, SOFT_ERROR, PATROL_SCRUB, UNCORRECTABLE_ERROR and START_GRANT (R19, R20, R28, R29, R30). -/
def Obligations.ErrorsAndStartGrants : Prop := ∀ s d, errorSteps s ∧ startGrant s d
/-- VARIABLE_LATENCY_RESULT, MEMORY_RESPONSE and STORE_ACK end what an instruction sent (R232, R293). -/
def Obligations.ResultsLand : Prop := ∀ s k n acc, resultLands s k n ∧ responds s acc ∧ acknowledges s acc
/-- Banks and pumps perform loads, stores and atomics at their addresses, and seal lines (R98, R102, R107, R108, R109, R119, R368). -/
def Obligations.HomesPerformAccesses : Prop := bankSteps ∧ pumpSteps ∧ ∀ s n, reencrypts s n
/-- Window and VF key commands (R111, R112, R192). -/
def Obligations.KeyCommands : Prop := ∀ s w v, windowKeys s w ∧ vfKeys s v
/-- Wait table entries and accesses held on a stamp or a record (R143, R157, R271, R272, R372). -/
def Obligations.WaitTableAndHeldAccesses : Prop := ∀ s acc part, waitSteps s acc part ∧ holdSteps s acc part
/-- TX_PREPARE and TX_VOTE (R149, R151, R152, R153). When a commit is decided is log entry 32. -/
def Obligations.CommitVoteSteps : Prop := ∀ s k p, prepares s k p ∧ votes s k p
/-- TX_COMMIT_WRITE, TX_COMMIT_ACK, LOCK_RELEASE and LWM_RECOMPUTE (R149, R153, R154, R155, R156). -/
def Obligations.CommitWriteSteps : Prop := ∀ s k n d, commits s k n ∧ recomputes s d
/-- PAGE_WALK, SET_DIRTY and the TLB invalidations (R165, R167, R168, R176, R177). -/
def Obligations.TranslationSteps : Prop := ∀ s ck d va ctl, walks s ck d va ∧ invalidates s ctl
/-- Fault records, FLTREPLAY REPLAY and CANCEL (R172, R173, R174, R175). -/
def Obligations.FaultRecordSteps : Prop := ∀ s ck acc vf seq, faultRecords s ck acc vf seq
/-- PARTQ enable and disable, RECLAIM and its completion (R178, R179, R197). -/
def Obligations.QuotaAndReclaimSteps : Prop := ∀ s p w core, quotas s p w ∧ reclaims s p core
/-- CTXCMD CREATE, HALT, RESUME, TEARDOWN and SWITCH (R180, R181, R182, R183, R195). CREATE's further refusals are log entry 22. -/
def Obligations.ContextCommandSteps : Prop := ∀ s v n w, ctxCommands s v n w
/-- HALT_LINE_RISE and UNIT_STOP (R185, R186, R187). -/
def Obligations.HaltSteps : Prop := ∀ s p v, haltSteps s p v
/-- Slices, switches, saves and restores, and the bucket (R193, R194, R195). -/
def Obligations.TimeSliceSteps : Prop := ∀ s p v, slices s p v ∧ accrues s v
/-- Object load and unload and the resolution of a binding (R200, R202, R203, R204, R215). -/
def Obligations.KernelObjectSteps : Prop := ∀ s ck file id base frames pa, objects s ck file id base frames ∧ bindResolves s ck pa
/-- Grid acceptance and completion, and team placement (R207, R209, R210, R211, R212). -/
def Obligations.GridAndTeamSteps : Prop := ∀ s q gk core k row bar, gridStarts s q ∧ gridEnds s q ∧ teamStarts s gk core k row bar
/-- Active set entry, fairness eviction, group free, spawn bins and sleep (R219, R220, R229, R236, R237). -/
def Obligations.GroupScheduleSteps : Prop := ∀ s sched core bin k, schedules s sched k ∧ groupFrees s k ∧ binSteps s core bin k
/-- Capability writes, context queues, appends and free-counts (R242, R243, R244, R246, R252, R259). -/
def Obligations.ChannelSteps : Prop := ∀ s v n w, capWrites s v w ∧ contextQueues s v w ∧ appends s n ∧ freeReturns s n
/-- Host work queues: the doorbell, their commands and their records (R249, R250, R251). -/
def Obligations.WorkQueueSteps : Prop := ∀ s q v w, workQueues s q v w ∧ records s q
/-- Media cards and rows, and BARDROP (R169, R172, R256, R257, R258, R270). The orders of log entry 56 are the model's. -/
def Obligations.MediaSteps : Prop := ∀ s m ck num core, mediaCards s m ∧ mediaRows s m ck num ∧ bardrop s core
/-- Link states, flits and a function-level reset (R275, R276, R277, R278, R279, R280, R283). Readings of log entry 59 are the model's. -/
def Obligations.LinkSteps : Prop := (∀ s l n vfs fn, linkStates s l n vfs ∧ functionReset s fn) ∧ ∀ s l acc part, linkTraffic s l acc part
/-- Engine operations start, move lines, compute and complete (R129, R254, R262, R268, R391, R392, R394, R397, R399, R400, R402, R404). -/
def Obligations.EngineOperationSteps : Prop := ∀ s id, opStarts s id ∧ opMoves s id ∧ opComputes s id ∧ opEnds s id
/-- The debug commands on the group that DBGSEL selects (R408, R409, R410, R411). Readings of log entry 60 are the model's. -/
def Obligations.DebugSteps : Prop := ∀ s d k force, debugCommands s d force ∧ debugStops s k
/-- Profiling registers, samples and idle counts, and plain register writes (R6, R7, R412, R413, R414, R415, R416, R417). -/
def Obligations.ProfilingAndRegisterSteps : Prop := ∀ s v sched i physical w d q p, profiling s v sched i physical w ∧ registers s d v q p w
/-! The machine. -/

/-- The fifteen words that the spec writes out decode to the instructions it gives for them (R284, R286, R287, R295). -/
def Obligations.DecodesSpecWords : Prop := ∀ x ∈ specWords, Sys2Proof.decode x.1 = .ok x.2
/-- Every well-formed encoded instruction has a word, and the word decodes to it (R284, R285, R295). -/
def Obligations.DecodeOfEncodeIsTheInstruction : Prop := ∀ i, i.wf = true → (sig i).isSome = true → ∃ w, encode i = some w ∧ Sys2Proof.decode w = .ok i
/-- A word that decodes to an instruction is that instruction's word; the other words are rejected (R11, R284, R292, R295, R296, R314). That opcode 0 is ZTRAP whatever its other bits is log entry 49. -/
def Obligations.EncodeOfDecodeIsTheWord : Prop := ∀ w, readWhole w ∧ notInstructions w
/-- A step of an issue runs the instruction that the bytes at the oldest issuable group's PC decode to (R164, R204, R229, R296). The agenda is log entry 3. -/
def Obligations.StepRunsDecodedInstruction : Prop := ∀ s, stepRuns s ∧ ∀ k g, fetches s k g
/-- The state after reset has the values the register maps give, and the invariants hold in it (R6, R20, R26, R31, R111, R158, R176, R178, R192, R249, R260, R275). Memory's contents are log entry 4. -/
def Obligations.ResetLeavesSpecValues : Prop := resetValues State.reset ∧ resetReads State.reset ∧ MemInv State.reset ∧ TabInv State.reset
/-- Every step keeps memory in its one canonical form (R92). The form of memory is the model's own (log entry 4). -/
def Obligations.StepKeepsMemoryForm : Prop := ∀ s t, MemInv s → step s = .next t → MemInv t
/-- Every step keeps the tables of groups, teams and contexts with one entry a key (R183, R217, R209). The tables are the model's own form (log entry 1). -/
def Obligations.StepKeepsTables : Prop := ∀ s t, TabInv s → step s = .next t → TabInv t
/-- No step and no instruction or event of the part stops: each gives a next state (R10, R12). -/
def Obligations.StepGoesOn : Prop := (∀ s, Goes (step s)) ∧ (∀ i s, isWordRow i = false → Goes (exec i s)) ∧
  ∀ i s k g, s.cur = some k → tabGet s.groups k = some g → isWordRow i = true → Goes (exec i s)
end

