-- ==== Sys2Proof/Laws/Decode.lean ====
section
/-! SUPPORT. The encoder against the decoder: fields, operands, modifiers and words. -/

namespace Sys2Proof

/-- A field that lies in the upper part of a joined value. -/
theorem extract_append_hi {n m : Nat} (x : BitVec n) (y : BitVec m) (k l : Nat) (h : m ≤ k) :
    (x ++ y).extractLsb' k l = x.extractLsb' (k - m) l := by
  apply BitVec.eq_of_getLsbD_eq
  intro i hi
  have h2 : k + i - m = k - m + i := by omega
  simp only [BitVec.getLsbD_extractLsb', BitVec.getLsbD_append]
  rw [if_neg (by omega), h2]

/-- A field that lies in the lower part of a joined value. -/
theorem extract_append_lo {n m : Nat} (x : BitVec n) (y : BitVec m) (k l : Nat) (h : k + l ≤ m) :
    (x ++ y).extractLsb' k l = y.extractLsb' k l := by
  apply BitVec.eq_of_getLsbD_eq
  intro i hi
  simp only [BitVec.getLsbD_extractLsb', BitVec.getLsbD_append]
  rw [if_pos (by omega)]

/-- The whole of a value. -/
theorem extract_all {n : Nat} (x : BitVec n) : x.extractLsb' 0 n = x := by simp

/-- Splitting a joined word gives its fields back. -/
theorem unpack_pack (r : Raw) : unpack (pack r) = r := by
  obtain ⟨o, d, a, b, c, g, m, st, y, se, w⟩ := r
  simp only [unpack, pack, Raw.mk.injEq]
  refine ⟨?_, ?_, ?_, ?_, ?_, ?_, ?_, ?_, ?_, ?_, ?_⟩ <;>
    (repeat rw [extract_append_hi _ _ _ _ (by decide)]) <;>
    (try rw [extract_append_lo _ _ _ _ (by decide)]) <;>
    exact extract_all _

theorem ofBool_getLsbD (b : Bool) : (BitVec.ofBool b).getLsbD 0 = b := by cases b <;> rfl

theorem sreg_get (r : SReg) : (sregs[r.num]?).getD .laneid = r := by cases r <;> rfl

theorem sreg_lt (r : SReg) : r.num < 13 := by cases r <;> decide

theorem v_fields (i : BitVec 8) (a n : Bool) :
    (encOpnd (.v i a n)).extractLsb' 13 3 = 0#3 ∧ (encOpnd (.v i a n)).extractLsb' 8 3 = 0#3 ∧
      (encOpnd (.v i a n)).extractLsb' 0 8 = i ∧ (encOpnd (.v i a n)).getLsbD 11 = a ∧
      (encOpnd (.v i a n)).getLsbD 12 = n := by
  refine ⟨?_, ?_, ?_, ?_, ?_⟩ <;> simp only [encOpnd]
  · (repeat rw [extract_append_hi _ _ _ _ (by decide)]); exact extract_all _
  · (repeat rw [extract_append_hi _ _ _ _ (by decide)]); rw [extract_append_lo _ _ _ _ (by decide)]; exact extract_all _
  · rw [extract_append_lo _ _ _ _ (by decide)]; exact extract_all _
  · simp only [BitVec.getLsbD_append]; cases a <;> rfl
  · simp only [BitVec.getLsbD_append]; cases n <;> rfl

theorem s_fields (i : BitVec 6) (a n : Bool) :
    (encOpnd (.s i a n)).extractLsb' 13 3 = 1#3 ∧ (encOpnd (.s i a n)).extractLsb' 6 5 = 0#5 ∧
      (encOpnd (.s i a n)).extractLsb' 0 6 = i ∧ (encOpnd (.s i a n)).getLsbD 11 = a ∧
      (encOpnd (.s i a n)).getLsbD 12 = n := by
  refine ⟨?_, ?_, ?_, ?_, ?_⟩ <;> simp only [encOpnd]
  · (repeat rw [extract_append_hi _ _ _ _ (by decide)]); exact extract_all _
  · (repeat rw [extract_append_hi _ _ _ _ (by decide)]); rw [extract_append_lo _ _ _ _ (by decide)]; exact extract_all _
  · rw [extract_append_lo _ _ _ _ (by decide)]; exact extract_all _
  · simp only [BitVec.getLsbD_append]; cases a <;> rfl
  · simp only [BitVec.getLsbD_append]; cases n <;> rfl

theorem imm_fields (x : BitVec 13) :
    (encOpnd (.imm x)).extractLsb' 13 3 = 2#3 ∧ (encOpnd (.imm x)).extractLsb' 0 13 = x := by
  constructor <;> simp only [encOpnd]
  · rw [extract_append_hi _ _ _ _ (by decide)]; exact extract_all _
  · rw [extract_append_lo _ _ _ _ (by decide)]; exact extract_all _

theorem cbank_fields (k : BitVec 3) (w : BitVec 10) :
    (encOpnd (.cbank k w)).extractLsb' 13 3 = 3#3 ∧ (encOpnd (.cbank k w)).extractLsb' 10 3 = k ∧
      (encOpnd (.cbank k w)).extractLsb' 0 10 = w := by
  refine ⟨?_, ?_, ?_⟩ <;> simp only [encOpnd]
  · rw [extract_append_hi _ _ _ _ (by decide), extract_append_hi _ _ _ _ (by decide)]; exact extract_all _
  · rw [extract_append_hi _ _ _ _ (by decide), extract_append_lo _ _ _ _ (by decide)]; exact extract_all _
  · rw [extract_append_lo _ _ _ _ (by decide)]; exact extract_all _

theorem pred_opnd (p : BitVec 3) (n : Bool) :
    opndOf (encOpnd (.pred p n)) = .pred p n ∧ opndOk (encOpnd (.pred p n)) = true := by
  revert p n; decide

theorem bar_opnd (x : BitVec 6) : opndOf (encOpnd (.bar x)) = .bar x ∧ opndOk (encOpnd (.bar x)) = true := by
  revert x; decide

theorem chan_opnd (x : BitVec 6) : opndOf (encOpnd (.chan x)) = .chan x ∧ opndOk (encOpnd (.chan x)) = true := by
  revert x; decide

theorem join_opnd (x : BitVec 3) : opndOf (encOpnd (.join x)) = .join x ∧ opndOk (encOpnd (.join x)) = true := by
  revert x; decide

theorem acc_opnd (x : BitVec 2) : opndOf (encOpnd (.acc x)) = .acc x ∧ opndOk (encOpnd (.acc x)) = true := by
  revert x; decide

theorem sreg_opnd (x : SReg) : opndOf (encOpnd (.sreg x)) = .sreg x ∧ opndOk (encOpnd (.sreg x)) = true := by
  cases x <;> decide

/-- An operand's field reads as the operand. -/
theorem opndOf_enc (o : Opnd) : opndOf (encOpnd o) = o := by
  cases o with
  | none => decide
  | v i a n =>
    obtain ⟨h1, h2, h3, h4, h5⟩ := v_fields i a n
    simp only [opndOf, h1, h3, h4, h5]; rfl
  | s i a n =>
    obtain ⟨h1, h2, h3, h4, h5⟩ := s_fields i a n
    simp only [opndOf, h1, h3, h4, h5]; rfl
  | imm x => simp only [opndOf, (imm_fields x).1, (imm_fields x).2]; rfl
  | cbank k w => simp only [opndOf, (cbank_fields k w).1, (cbank_fields k w).2.1, (cbank_fields k w).2.2]; rfl
  | pred p n => exact (pred_opnd p n).1
  | bar x => exact (bar_opnd x).1
  | chan x => exact (chan_opnd x).1
  | join x => exact (join_opnd x).1
  | acc x => exact (acc_opnd x).1
  | sreg r => exact (sreg_opnd r).1

/-- An operand's field holds an operand. -/
theorem opndOk_enc (o : Opnd) : opndOk (encOpnd o) = true := by
  cases o with
  | none => decide
  | v i a n =>
    obtain ⟨h1, h2, h3, h4, h5⟩ := v_fields i a n
    simp only [opndOk, h1, h2]; rfl
  | s i a n =>
    obtain ⟨h1, h2, h3, h4, h5⟩ := s_fields i a n
    simp only [opndOk, h1, h2]; rfl
  | imm x => simp only [opndOk, (imm_fields x).1]; rfl
  | cbank k w => simp only [opndOk, (cbank_fields k w).1]; rfl
  | pred p n => exact (pred_opnd p n).2
  | bar x => exact (bar_opnd x).2
  | chan x => exact (chan_opnd x).2
  | join x => exact (join_opnd x).2
  | acc x => exact (acc_opnd x).2
  | sreg r => exact (sreg_opnd r).2

theorem dv_fields (i : BitVec 8) : (encDst (.v i)).extractLsb' 8 2 = 0#2 ∧ (encDst (.v i)).extractLsb' 0 8 = i := by
  constructor <;> simp only [encDst]
  · rw [extract_append_hi _ _ _ _ (by decide)]; exact extract_all _
  · rw [extract_append_lo _ _ _ _ (by decide)]; exact extract_all _

theorem dsreg_fields (r : SReg) :
    ((encDst (.sreg r)).extractLsb' 8 2).toNat = 3 ∧ ((encDst (.sreg r)).extractLsb' 0 8).toNat = 128 + r.num := by
  cases r <;> decide

/-- A destination's field reads as the destination, and raises nothing. -/
theorem dstOf_enc (d : Dst) : dstOf (encDst d) = d := by
  cases d with
  | sreg r =>
    simp only [dstOf, (dsreg_fields r).1, (dsreg_fields r).2]
    cases r <;> rfl
  | none => decide
  | v x => simp only [dstOf, (dv_fields x).1, (dv_fields x).2]; rfl
  | s x => revert x; decide
  | p x => revert x; decide
  | bar x => revert x; decide
  | join x => revert x; decide
  | acc x => revert x; decide

theorem dstOk_enc (d : Dst) : dstOk (encDst d) = true := by
  cases d with
  | sreg r => cases r <;> decide
  | none => decide
  | v x => simp only [dstOk, (dv_fields x).1, (dv_fields x).2]; rfl
  | s x => revert x; decide
  | p x => revert x; decide
  | bar x => revert x; decide
  | join x => revert x; decide
  | acc x => revert x; decide

theorem dstRange_enc (d : Dst) : dstRange (encDst d) = true := by
  cases d with
  | sreg r => cases r <;> decide
  | none => decide
  | v x => simp only [dstRange, (dv_fields x).1, (dv_fields x).2]; rfl
  | s x => revert x; decide
  | p x => revert x; decide
  | bar x => revert x; decide
  | join x => revert x; decide
  | acc x => revert x; decide

/-- Guard and hints read back. -/
theorem hdrOf_enc (h : Hdr) (o d : BitVec 10) (a b c : BitVec 16) (m : BitVec 12) : hdrOf (rawHdr h o d a b c m) = h := by
  obtain ⟨w, s, y, st, inv, p⟩ := h
  have hp : (BitVec.ofBool inv ++ p : BitVec 4).extractLsb' 0 3 = p := by
    rw [extract_append_lo _ _ _ _ (by decide)]; exact extract_all _
  have hi : (BitVec.ofBool inv ++ p : BitVec 4).getLsbD 3 = inv := by cases inv <;> revert p <;> decide
  have hy : (BitVec.ofBool y).getLsbD 0 = y := by cases y <;> rfl
  cases s with
  | none =>
    have h7 : (7#3 : BitVec 3).getLsbD 2 = true := by decide
    simp only [hdrOf, rawHdr, hp, hi, hy, h7, if_true]
  | some n =>
    have h1 : (0#1 ++ n : BitVec 3).getLsbD 2 = false := by revert n; decide
    have h2 : (0#1 ++ n : BitVec 3).extractLsb' 0 2 = n := by revert n; decide
    simp only [hdrOf, rawHdr, hp, hi, hy, h1, h2]; rfl

theorem tyOfCode_code (t : Ty) : tyOfCode t.code = some t := by cases t <;> rfl
theorem ty_code_lt (t : Ty) : t.code < 23 := by cases t <;> decide
theorem rnd_code (r : Rnd) : rndOfCode r.code = r := by cases r <;> rfl
theorem rnd_code_lt (r : Rnd) : r.code < 5 := by cases r <;> decide
theorem scope_code (x : Scope) : scopeOfCode x.code = x := by cases x <;> rfl
theorem ord_code (x : Ord4) : ordOfCode x.code = x := by cases x <;> rfl

theorem ty_field (t : Ty) : (BitVec.ofNat 5 t.code).toNat = t.code := by cases t <;> rfl
theorem rnd_field (t : Rnd) : (BitVec.ofNat 3 t.code).toNat = t.code := by cases t <;> rfl

/-- MOD of the integer class reads back. -/
theorem intMOf_enc (m : IntM) : intMOf (encIntM m) = m := by
  obtain ⟨t, x⟩ := m
  have h1 : (x ++ BitVec.ofNat 5 t.code : BitVec 12).extractLsb' 0 5 = BitVec.ofNat 5 t.code := by
    rw [extract_append_lo _ _ _ _ (by decide)]; exact extract_all _
  have h2 : (x ++ BitVec.ofNat 5 t.code : BitVec 12).extractLsb' 5 7 = x := by
    rw [extract_append_hi _ _ _ _ (by decide)]; exact extract_all _
  simp only [intMOf, encIntM, h1, h2, ty_field, tyOfCode_code, Option.getD_some]

theorem int_fields (m : IntM) : ((encIntM m).extractLsb' 0 5).toNat < 23 := by
  obtain ⟨t, x⟩ := m
  rw [encIntM, extract_append_lo _ _ _ _ (by decide), extract_all, ty_field]; exact ty_code_lt t

/-- MOD of the floating class reads back. -/
theorem fltMOf_enc (m : FltM) : fltMOf (encFltM m) = m := by
  obtain ⟨t, r, x⟩ := m
  have h1 : (x ++ BitVec.ofNat 3 r.code ++ BitVec.ofNat 5 t.code : BitVec 12).extractLsb' 0 5 = BitVec.ofNat 5 t.code := by
    rw [extract_append_lo _ _ _ _ (by decide)]; exact extract_all _
  have h2 : (x ++ BitVec.ofNat 3 r.code ++ BitVec.ofNat 5 t.code : BitVec 12).extractLsb' 5 3 = BitVec.ofNat 3 r.code := by
    rw [extract_append_hi _ _ _ _ (by decide), extract_append_lo _ _ _ _ (by decide)]; exact extract_all _
  have h3 : (x ++ BitVec.ofNat 3 r.code ++ BitVec.ofNat 5 t.code : BitVec 12).extractLsb' 8 4 = x := by
    rw [extract_append_hi _ _ _ _ (by decide), extract_append_hi _ _ _ _ (by decide)]; exact extract_all _
  simp only [fltMOf, encFltM, h1, h2, h3, ty_field, rnd_field, tyOfCode_code, rnd_code, Option.getD_some]

theorem flt_fields (m : FltM) :
    ((encFltM m).extractLsb' 0 5).toNat < 23 ∧ ((encFltM m).extractLsb' 5 3).toNat < 5 := by
  obtain ⟨t, r, x⟩ := m
  constructor
  · rw [encFltM, extract_append_lo _ _ _ _ (by decide), extract_all, ty_field]; exact ty_code_lt t
  · rw [encFltM, extract_append_hi _ _ _ _ (by decide), extract_append_lo _ _ _ _ (by decide), extract_all, rnd_field]
    exact rnd_code_lt r

/-- MOD of the memory class reads back. -/
theorem memMOf_enc (m : MemM) : memMOf (encMemM m) = m := by
  obtain ⟨t, l, s, o, x⟩ := m
  cases t <;> cases l <;> cases s <;> cases o <;> cases x <;> rfl

theorem mem_fields (m : MemM) : ((encMemM m).extractLsb' 0 5).toNat < 23 := by
  obtain ⟨t, l, s, o, x⟩ := m
  rw [encMemM, extract_append_lo _ _ _ _ (by decide), extract_all, ty_field]; exact ty_code_lt t

/-- An R-form word reads back, its MOD aside. -/
theorem rOf_enc {μ ν : Type} (o : BitVec 10) (w : RWord μ) (m : BitVec 12) (x : ν) :
    rOf (encR o w m) x = ⟨w.hdr, x, w.d, w.a, w.b, w.c⟩ := by
  simp only [rOf, encR, hdrOf_enc]
  simp only [rawHdr, dstOf_enc, opndOf_enc]

theorem iOf_enc {μ ν : Type} (o : BitVec 10) (w : IWord μ) (m : BitVec 12) (x : ν) :
    iOf (encI o w m) x = ⟨w.hdr, x, w.d, w.a, w.imm⟩ := by
  have h : (w.imm.extractLsb' 16 16 ++ w.imm.extractLsb' 0 16 : BitVec 32) = w.imm := by
    apply BitVec.eq_of_getLsbD_eq
    intro i hi
    simp only [BitVec.getLsbD_append, BitVec.getLsbD_extractLsb']
    split
    · next h => simp [h]
    · next h =>
      have e : 16 + (i - 16) = i := by omega
      rw [e]
      have : i - 16 < 16 := by omega
      simp [this]
  simp only [iOf, encI, hdrOf_enc]
  simp only [rawHdr, dstOf_enc, opndOf_enc, h]

theorem mOf_enc (o : BitVec 10) (w : MWord) : mOf (encM o w) = w := by
  obtain ⟨hdr, m, d, a, off, c⟩ := w
  simp only [mOf, encM, hdrOf_enc]
  simp only [rawHdr, dstOf_enc, opndOf_enc, memMOf_enc]

/-- A SET field of a header is one of the legal codes. -/
theorem set_ok (h : Hdr) (o d : BitVec 10) (a b c : BitVec 16) (m : BitVec 12) :
    ((rawHdr h o d a b c m).set.toNat < 4 || (rawHdr h o d a b c m).set == 7) = true := by
  obtain ⟨w, s, y, st, inv, p⟩ := h
  cases s with
  | none => rfl
  | some n =>
    show ((0#1 ++ n : BitVec 3).toNat < 4 || (0#1 ++ n : BitVec 3) == 7) = true
    revert n; decide

/-- The decoder reads an encoded instruction back from the fields of its word. -/
theorem decode_pack (r : Raw) (i : Instr) (h0 : r.opc ≠ 0) (h1 : r.opc ≠ 0x3FF#10) (hb : build r = some i) (hs : (sig i).isSome = true)
    (hf : (fields i).isSome = true) (hset : (r.set.toNat < 4 || r.set == 7) = true) (hm : modFieldsOk r i = true)
    (ho : opndFieldsOk r i = true) (hd : dstRange r.d = true) (hw : i.wf = true) : decode (pack r) = .ok i := by
  have e1 : (r.opc == 0) = false := by simpa using h0
  have e2 : (pack r == BitVec.allOnes 96) = false := by
    rw [beq_eq_false_iff_ne]
    intro h
    apply h1
    have := congrArg (fun w => (unpack w).opc) h
    simp only [unpack_pack] at this
    rw [this]; rfl
  obtain ⟨σ, hσ⟩ := Option.isSome_iff_exists.mp hs
  obtain ⟨f, hφ⟩ := Option.isSome_iff_exists.mp hf
  simp only [Instr.wf, hσ, hφ, Bool.and_eq_true] at hw
  obtain ⟨⟨⟨⟨⟨w1, w2⟩, w3⟩, w4⟩, w5⟩, w6⟩ := hw
  simp only [decode, unpack_pack, e1, e2, hb, hσ, hφ, hset, hm, ho, hd, w1, w2, w3, w4, w5, w6]
  simp

end Sys2Proof
end

