-- ==== Sys2Proof/Laws/Tab.lean ====
section
/-! SUPPORT. Laws of tables: what a read gives after a write, a removal or a change. -/

namespace Sys2Proof.Machine

variable {α : Type}

@[simp] theorem tabGet_nil (i : Nat) : tabGet ([] : Tab α) i = none := rfl

theorem tabGet_cons (k : Nat) (v : α) (t : Tab α) (i : Nat) :
    tabGet ((k, v) :: t) i = if k = i then some v else tabGet t i := rfl

/-- A read after a write to the same key gives what was written. -/
@[simp] theorem tabGet_put_same (t : Tab α) (i : Nat) (x : α) : tabGet (tabPut t i x) i = some x := by
  induction t with
  | nil => simp [tabPut, tabGet]
  | cons h t ih =>
    obtain ⟨k, v⟩ := h
    simp only [tabPut]
    split
    · simp [tabGet]
    · split
      · simp [tabGet]
      · rename_i h1 h2
        simp [tabGet, ih, Ne.symm h2]

/-- A write leaves every other key alone. -/
theorem tabGet_put_other (t : Tab α) {i j : Nat} (x : α) (h : i ≠ j) : tabGet (tabPut t i x) j = tabGet t j := by
  induction t with
  | nil => simp [tabPut, tabGet, h]
  | cons a t ih =>
    obtain ⟨k, v⟩ := a
    simp only [tabPut]
    split
    · simp [tabGet, h]
    · split
      · rename_i h1 h2
        subst h2
        simp [tabGet, h]
      · simp [tabGet, ih]

theorem tabGet_put (t : Tab α) (i j : Nat) (x : α) :
    tabGet (tabPut t i x) j = if i = j then some x else tabGet t j := by
  split
  · next h => subst h; simp
  · next h => exact tabGet_put_other t x h

theorem tabGetD_put (t : Tab α) (i j : Nat) (x d : α) :
    tabGetD (tabPut t i x) j d = if i = j then x else tabGetD t j d := by
  simp only [tabGetD, tabGet_put]
  split <;> simp

/-- A removed key is absent, and the others stay. -/
theorem tabGet_del (t : Tab α) (i j : Nat) : tabGet (tabDel t i) j = if i = j then none else tabGet t j := by
  induction t with
  | nil => simp [tabDel]
  | cons a t ih =>
    obtain ⟨k, v⟩ := a
    simp only [tabDel]
    split
    · next h =>
      subst h
      rw [ih]
      split
      · rfl
      · next h2 => simp [tabGet, h2]
    · next h =>
      simp only [tabGet, ih]
      split
      · next h2 => subst h2; simp [Ne.symm h]
      · rfl

/-- A change applies to the entry that is there, and to no other. -/
theorem tabGet_upd (t : Tab α) (i j : Nat) (f : α → α) :
    tabGet (tabUpd t i f) j = if i = j then (tabGet t j).map f else tabGet t j := by
  unfold tabUpd
  split
  · next x h =>
    rw [tabGet_put]
    split
    · next e => subst e; simp [h]
    · rfl
  · next h =>
    split
    · next e => subst e; simp [h]
    · rfl

/-- A map over a table maps each entry. -/
theorem tabGet_map (t : Tab α) (f : Nat → α → α) (j : Nat) : tabGet (tabMap t f) j = (tabGet t j).map (f j) := by
  induction t with
  | nil => simp [tabMap]
  | cons a t ih =>
    obtain ⟨k, v⟩ := a
    simp only [tabMap, List.map_cons, tabGet] at ih ⊢
    split
    · next e => subst e; simp
    · exact ih

/-- Of two writes to one key the second stays. -/
@[simp] theorem tabPut_put (t : Tab α) (i : Nat) (x y : α) : tabPut (tabPut t i x) i y = tabPut t i y := by
  induction t with
  | nil => simp [tabPut]
  | cons h t ih =>
    obtain ⟨k, v⟩ := h
    simp only [tabPut]
    split
    · simp [tabPut]
    · split
      · simp [tabPut]
      · next h1 h2 => simp [tabPut, h1, h2, ih]

/-- Changing what was just written is a write. -/
@[simp] theorem tabUpd_put (t : Tab α) (i : Nat) (x : α) (f : α → α) : tabUpd (tabPut t i x) i f = tabPut t i (f x) := by
  simp [tabUpd]

/-- Changing an entry that is there is a write. -/
theorem tabUpd_some {t : Tab α} {i : Nat} {x : α} (h : tabGet t i = some x) (f : α → α) : tabUpd t i f = tabPut t i (f x) := by
  simp [tabUpd, h]

end Sys2Proof.Machine
end

