-- ==== Sys2Proof/Laws/State.lean ====
section
/-! SUPPORT. What each update of the state leaves in each field. -/

namespace Sys2Proof.Machine

open Sys2Proof

@[simp] theorem setGroup_pkg (s : State) (k : Nat) (g : Grp) : (setGroup s k g).pkg = s.pkg := rfl
@[simp] theorem setGroup_cycle (s : State) (k : Nat) (g : Grp) : (setGroup s k g).cycle = s.cycle := rfl
@[simp] theorem setGroup_gts3 (s : State) (k : Nat) (g : Grp) : (setGroup s k g).gts3 = s.gts3 := rfl
@[simp] theorem setGroup_dies (s : State) (k : Nat) (g : Grp) : (setGroup s k g).dies = s.dies := rfl
@[simp] theorem setGroup_cores (s : State) (k : Nat) (g : Grp) : (setGroup s k g).cores = s.cores := rfl
@[simp] theorem setGroup_groups (s : State) (k : Nat) (g : Grp) : (setGroup s k g).groups = tabPut s.groups k g := rfl
@[simp] theorem setGroup_teams (s : State) (k : Nat) (g : Grp) : (setGroup s k g).teams = s.teams := rfl
@[simp] theorem setGroup_grids (s : State) (k : Nat) (g : Grp) : (setGroup s k g).grids = s.grids := rfl
@[simp] theorem setGroup_reqs (s : State) (k : Nat) (g : Grp) : (setGroup s k g).reqs = s.reqs := rfl
@[simp] theorem setGroup_ctxs (s : State) (k : Nat) (g : Grp) : (setGroup s k g).ctxs = s.ctxs := rfl
@[simp] theorem setGroup_parts (s : State) (k : Nat) (g : Grp) : (setGroup s k g).parts = s.parts := rfl
@[simp] theorem setGroup_vfs (s : State) (k : Nat) (g : Grp) : (setGroup s k g).vfs = s.vfs := rfl
@[simp] theorem setGroup_mem (s : State) (k : Nat) (g : Grp) : (setGroup s k g).mem = s.mem := rfl
@[simp] theorem setGroup_lines (s : State) (k : Nat) (g : Grp) : (setGroup s k g).lines = s.lines := rfl
@[simp] theorem setGroup_wins (s : State) (k : Nat) (g : Grp) : (setGroup s k g).wins = s.wins := rfl
@[simp] theorem setGroup_tlb (s : State) (k : Nat) (g : Grp) : (setGroup s k g).tlb = s.tlb := rfl
@[simp] theorem setGroup_accs (s : State) (k : Nat) (g : Grp) : (setGroup s k g).accs = s.accs := rfl
@[simp] theorem setGroup_ops (s : State) (k : Nat) (g : Grp) : (setGroup s k g).ops = s.ops := rfl
@[simp] theorem setGroup_msgs (s : State) (k : Nat) (g : Grp) : (setGroup s k g).msgs = s.msgs := rfl
@[simp] theorem setGroup_waits (s : State) (k : Nat) (g : Grp) : (setGroup s k g).waits = s.waits := rfl
@[simp] theorem setGroup_wqs (s : State) (k : Nat) (g : Grp) : (setGroup s k g).wqs = s.wqs := rfl
@[simp] theorem setGroup_medias (s : State) (k : Nat) (g : Grp) : (setGroup s k g).medias = s.medias := rfl
@[simp] theorem setGroup_links (s : State) (k : Nat) (g : Grp) : (setGroup s k g).links = s.links := rfl
@[simp] theorem setGroup_agenda (s : State) (k : Nat) (g : Grp) : (setGroup s k g).agenda = s.agenda := rfl
@[simp] theorem setGroup_cur (s : State) (k : Nat) (g : Grp) : (setGroup s k g).cur = s.cur := rfl
@[simp] theorem setGroup_serial (s : State) (k : Nat) (g : Grp) : (setGroup s k g).serial = s.serial := rfl
@[simp] theorem setGroup_free (s : State) (k : Nat) (g : Grp) : (setGroup s k g).free = s.free := rfl
@[simp] theorem setGroup_walks (s : State) (k : Nat) (g : Grp) : (setGroup s k g).walks = s.walks := rfl
@[simp] theorem setGroup_raised (s : State) (k : Nat) (g : Grp) : (setGroup s k g).raised = s.raised := rfl
@[simp] theorem setGroup_peers (s : State) (k : Nat) (g : Grp) : (setGroup s k g).peers = s.peers := rfl
@[simp] theorem setGroup_fars (s : State) (k : Nat) (g : Grp) : (setGroup s k g).fars = s.fars := rfl
@[simp] theorem setGroup_inbox (s : State) (k : Nat) (g : Grp) : (setGroup s k g).inbox = s.inbox := rfl
@[simp] theorem setGroup_issued (s : State) (k : Nat) (g : Grp) : (setGroup s k g).issued = s.issued := rfl
@[simp] theorem setGroup_barEvents (s : State) (k : Nat) (g : Grp) : (setGroup s k g).barEvents = s.barEvents := rfl
@[simp] theorem setGroup_barDue (s : State) (k : Nat) (g : Grp) : (setGroup s k g).barDue = s.barDue := rfl
@[simp] theorem setGroup_sub (s : State) (k : Nat) (g : Grp) : (setGroup s k g).sub = s.sub := rfl
@[simp] theorem setGroup_posted (s : State) (k : Nat) (g : Grp) : (setGroup s k g).posted = s.posted := rfl
@[simp] theorem setGroup_later (s : State) (k : Nat) (g : Grp) : (setGroup s k g).later = s.later := rfl

@[simp] theorem updGroup_pkg (s : State) (k : Nat) (f : Grp → Grp) : (updGroup s k f).pkg = s.pkg := rfl
@[simp] theorem updGroup_cycle (s : State) (k : Nat) (f : Grp → Grp) : (updGroup s k f).cycle = s.cycle := rfl
@[simp] theorem updGroup_gts3 (s : State) (k : Nat) (f : Grp → Grp) : (updGroup s k f).gts3 = s.gts3 := rfl
@[simp] theorem updGroup_dies (s : State) (k : Nat) (f : Grp → Grp) : (updGroup s k f).dies = s.dies := rfl
@[simp] theorem updGroup_cores (s : State) (k : Nat) (f : Grp → Grp) : (updGroup s k f).cores = s.cores := rfl
@[simp] theorem updGroup_groups (s : State) (k : Nat) (f : Grp → Grp) : (updGroup s k f).groups = tabUpd s.groups k f := rfl
@[simp] theorem updGroup_teams (s : State) (k : Nat) (f : Grp → Grp) : (updGroup s k f).teams = s.teams := rfl
@[simp] theorem updGroup_grids (s : State) (k : Nat) (f : Grp → Grp) : (updGroup s k f).grids = s.grids := rfl
@[simp] theorem updGroup_reqs (s : State) (k : Nat) (f : Grp → Grp) : (updGroup s k f).reqs = s.reqs := rfl
@[simp] theorem updGroup_ctxs (s : State) (k : Nat) (f : Grp → Grp) : (updGroup s k f).ctxs = s.ctxs := rfl
@[simp] theorem updGroup_parts (s : State) (k : Nat) (f : Grp → Grp) : (updGroup s k f).parts = s.parts := rfl
@[simp] theorem updGroup_vfs (s : State) (k : Nat) (f : Grp → Grp) : (updGroup s k f).vfs = s.vfs := rfl
@[simp] theorem updGroup_mem (s : State) (k : Nat) (f : Grp → Grp) : (updGroup s k f).mem = s.mem := rfl
@[simp] theorem updGroup_lines (s : State) (k : Nat) (f : Grp → Grp) : (updGroup s k f).lines = s.lines := rfl
@[simp] theorem updGroup_wins (s : State) (k : Nat) (f : Grp → Grp) : (updGroup s k f).wins = s.wins := rfl
@[simp] theorem updGroup_tlb (s : State) (k : Nat) (f : Grp → Grp) : (updGroup s k f).tlb = s.tlb := rfl
@[simp] theorem updGroup_accs (s : State) (k : Nat) (f : Grp → Grp) : (updGroup s k f).accs = s.accs := rfl
@[simp] theorem updGroup_ops (s : State) (k : Nat) (f : Grp → Grp) : (updGroup s k f).ops = s.ops := rfl
@[simp] theorem updGroup_msgs (s : State) (k : Nat) (f : Grp → Grp) : (updGroup s k f).msgs = s.msgs := rfl
@[simp] theorem updGroup_waits (s : State) (k : Nat) (f : Grp → Grp) : (updGroup s k f).waits = s.waits := rfl
@[simp] theorem updGroup_wqs (s : State) (k : Nat) (f : Grp → Grp) : (updGroup s k f).wqs = s.wqs := rfl
@[simp] theorem updGroup_medias (s : State) (k : Nat) (f : Grp → Grp) : (updGroup s k f).medias = s.medias := rfl
@[simp] theorem updGroup_links (s : State) (k : Nat) (f : Grp → Grp) : (updGroup s k f).links = s.links := rfl
@[simp] theorem updGroup_agenda (s : State) (k : Nat) (f : Grp → Grp) : (updGroup s k f).agenda = s.agenda := rfl
@[simp] theorem updGroup_cur (s : State) (k : Nat) (f : Grp → Grp) : (updGroup s k f).cur = s.cur := rfl
@[simp] theorem updGroup_serial (s : State) (k : Nat) (f : Grp → Grp) : (updGroup s k f).serial = s.serial := rfl
@[simp] theorem updGroup_free (s : State) (k : Nat) (f : Grp → Grp) : (updGroup s k f).free = s.free := rfl
@[simp] theorem updGroup_walks (s : State) (k : Nat) (f : Grp → Grp) : (updGroup s k f).walks = s.walks := rfl
@[simp] theorem updGroup_raised (s : State) (k : Nat) (f : Grp → Grp) : (updGroup s k f).raised = s.raised := rfl
@[simp] theorem updGroup_peers (s : State) (k : Nat) (f : Grp → Grp) : (updGroup s k f).peers = s.peers := rfl
@[simp] theorem updGroup_fars (s : State) (k : Nat) (f : Grp → Grp) : (updGroup s k f).fars = s.fars := rfl
@[simp] theorem updGroup_inbox (s : State) (k : Nat) (f : Grp → Grp) : (updGroup s k f).inbox = s.inbox := rfl
@[simp] theorem updGroup_issued (s : State) (k : Nat) (f : Grp → Grp) : (updGroup s k f).issued = s.issued := rfl
@[simp] theorem updGroup_barEvents (s : State) (k : Nat) (f : Grp → Grp) : (updGroup s k f).barEvents = s.barEvents := rfl
@[simp] theorem updGroup_barDue (s : State) (k : Nat) (f : Grp → Grp) : (updGroup s k f).barDue = s.barDue := rfl
@[simp] theorem updGroup_sub (s : State) (k : Nat) (f : Grp → Grp) : (updGroup s k f).sub = s.sub := rfl
@[simp] theorem updGroup_posted (s : State) (k : Nat) (f : Grp → Grp) : (updGroup s k f).posted = s.posted := rfl
@[simp] theorem updGroup_later (s : State) (k : Nat) (f : Grp → Grp) : (updGroup s k f).later = s.later := rfl

@[simp] theorem setCtx_pkg (s : State) (k : Nat) (c : Ctx) : (setCtx s k c).pkg = s.pkg := rfl
@[simp] theorem setCtx_cycle (s : State) (k : Nat) (c : Ctx) : (setCtx s k c).cycle = s.cycle := rfl
@[simp] theorem setCtx_gts3 (s : State) (k : Nat) (c : Ctx) : (setCtx s k c).gts3 = s.gts3 := rfl
@[simp] theorem setCtx_dies (s : State) (k : Nat) (c : Ctx) : (setCtx s k c).dies = s.dies := rfl
@[simp] theorem setCtx_cores (s : State) (k : Nat) (c : Ctx) : (setCtx s k c).cores = s.cores := rfl
@[simp] theorem setCtx_groups (s : State) (k : Nat) (c : Ctx) : (setCtx s k c).groups = s.groups := rfl
@[simp] theorem setCtx_teams (s : State) (k : Nat) (c : Ctx) : (setCtx s k c).teams = s.teams := rfl
@[simp] theorem setCtx_grids (s : State) (k : Nat) (c : Ctx) : (setCtx s k c).grids = s.grids := rfl
@[simp] theorem setCtx_reqs (s : State) (k : Nat) (c : Ctx) : (setCtx s k c).reqs = s.reqs := rfl
@[simp] theorem setCtx_ctxs (s : State) (k : Nat) (c : Ctx) : (setCtx s k c).ctxs = tabPut s.ctxs k c := rfl
@[simp] theorem setCtx_parts (s : State) (k : Nat) (c : Ctx) : (setCtx s k c).parts = s.parts := rfl
@[simp] theorem setCtx_vfs (s : State) (k : Nat) (c : Ctx) : (setCtx s k c).vfs = s.vfs := rfl
@[simp] theorem setCtx_mem (s : State) (k : Nat) (c : Ctx) : (setCtx s k c).mem = s.mem := rfl
@[simp] theorem setCtx_lines (s : State) (k : Nat) (c : Ctx) : (setCtx s k c).lines = s.lines := rfl
@[simp] theorem setCtx_wins (s : State) (k : Nat) (c : Ctx) : (setCtx s k c).wins = s.wins := rfl
@[simp] theorem setCtx_tlb (s : State) (k : Nat) (c : Ctx) : (setCtx s k c).tlb = s.tlb := rfl
@[simp] theorem setCtx_accs (s : State) (k : Nat) (c : Ctx) : (setCtx s k c).accs = s.accs := rfl
@[simp] theorem setCtx_ops (s : State) (k : Nat) (c : Ctx) : (setCtx s k c).ops = s.ops := rfl
@[simp] theorem setCtx_msgs (s : State) (k : Nat) (c : Ctx) : (setCtx s k c).msgs = s.msgs := rfl
@[simp] theorem setCtx_waits (s : State) (k : Nat) (c : Ctx) : (setCtx s k c).waits = s.waits := rfl
@[simp] theorem setCtx_wqs (s : State) (k : Nat) (c : Ctx) : (setCtx s k c).wqs = s.wqs := rfl
@[simp] theorem setCtx_medias (s : State) (k : Nat) (c : Ctx) : (setCtx s k c).medias = s.medias := rfl
@[simp] theorem setCtx_links (s : State) (k : Nat) (c : Ctx) : (setCtx s k c).links = s.links := rfl
@[simp] theorem setCtx_agenda (s : State) (k : Nat) (c : Ctx) : (setCtx s k c).agenda = s.agenda := rfl
@[simp] theorem setCtx_cur (s : State) (k : Nat) (c : Ctx) : (setCtx s k c).cur = s.cur := rfl
@[simp] theorem setCtx_serial (s : State) (k : Nat) (c : Ctx) : (setCtx s k c).serial = s.serial := rfl
@[simp] theorem setCtx_free (s : State) (k : Nat) (c : Ctx) : (setCtx s k c).free = s.free := rfl
@[simp] theorem setCtx_walks (s : State) (k : Nat) (c : Ctx) : (setCtx s k c).walks = s.walks := rfl
@[simp] theorem setCtx_raised (s : State) (k : Nat) (c : Ctx) : (setCtx s k c).raised = s.raised := rfl
@[simp] theorem setCtx_peers (s : State) (k : Nat) (c : Ctx) : (setCtx s k c).peers = s.peers := rfl
@[simp] theorem setCtx_fars (s : State) (k : Nat) (c : Ctx) : (setCtx s k c).fars = s.fars := rfl
@[simp] theorem setCtx_inbox (s : State) (k : Nat) (c : Ctx) : (setCtx s k c).inbox = s.inbox := rfl
@[simp] theorem setCtx_issued (s : State) (k : Nat) (c : Ctx) : (setCtx s k c).issued = s.issued := rfl
@[simp] theorem setCtx_barEvents (s : State) (k : Nat) (c : Ctx) : (setCtx s k c).barEvents = s.barEvents := rfl
@[simp] theorem setCtx_barDue (s : State) (k : Nat) (c : Ctx) : (setCtx s k c).barDue = s.barDue := rfl
@[simp] theorem setCtx_sub (s : State) (k : Nat) (c : Ctx) : (setCtx s k c).sub = s.sub := rfl
@[simp] theorem setCtx_posted (s : State) (k : Nat) (c : Ctx) : (setCtx s k c).posted = s.posted := rfl
@[simp] theorem setCtx_later (s : State) (k : Nat) (c : Ctx) : (setCtx s k c).later = s.later := rfl

@[simp] theorem updCtx_pkg (s : State) (k : Nat) (f : Ctx → Ctx) : (updCtx s k f).pkg = s.pkg := rfl
@[simp] theorem updCtx_cycle (s : State) (k : Nat) (f : Ctx → Ctx) : (updCtx s k f).cycle = s.cycle := rfl
@[simp] theorem updCtx_gts3 (s : State) (k : Nat) (f : Ctx → Ctx) : (updCtx s k f).gts3 = s.gts3 := rfl
@[simp] theorem updCtx_dies (s : State) (k : Nat) (f : Ctx → Ctx) : (updCtx s k f).dies = s.dies := rfl
@[simp] theorem updCtx_cores (s : State) (k : Nat) (f : Ctx → Ctx) : (updCtx s k f).cores = s.cores := rfl
@[simp] theorem updCtx_groups (s : State) (k : Nat) (f : Ctx → Ctx) : (updCtx s k f).groups = s.groups := rfl
@[simp] theorem updCtx_teams (s : State) (k : Nat) (f : Ctx → Ctx) : (updCtx s k f).teams = s.teams := rfl
@[simp] theorem updCtx_grids (s : State) (k : Nat) (f : Ctx → Ctx) : (updCtx s k f).grids = s.grids := rfl
@[simp] theorem updCtx_reqs (s : State) (k : Nat) (f : Ctx → Ctx) : (updCtx s k f).reqs = s.reqs := rfl
@[simp] theorem updCtx_ctxs (s : State) (k : Nat) (f : Ctx → Ctx) : (updCtx s k f).ctxs = tabUpd s.ctxs k f := rfl
@[simp] theorem updCtx_parts (s : State) (k : Nat) (f : Ctx → Ctx) : (updCtx s k f).parts = s.parts := rfl
@[simp] theorem updCtx_vfs (s : State) (k : Nat) (f : Ctx → Ctx) : (updCtx s k f).vfs = s.vfs := rfl
@[simp] theorem updCtx_mem (s : State) (k : Nat) (f : Ctx → Ctx) : (updCtx s k f).mem = s.mem := rfl
@[simp] theorem updCtx_lines (s : State) (k : Nat) (f : Ctx → Ctx) : (updCtx s k f).lines = s.lines := rfl
@[simp] theorem updCtx_wins (s : State) (k : Nat) (f : Ctx → Ctx) : (updCtx s k f).wins = s.wins := rfl
@[simp] theorem updCtx_tlb (s : State) (k : Nat) (f : Ctx → Ctx) : (updCtx s k f).tlb = s.tlb := rfl
@[simp] theorem updCtx_accs (s : State) (k : Nat) (f : Ctx → Ctx) : (updCtx s k f).accs = s.accs := rfl
@[simp] theorem updCtx_ops (s : State) (k : Nat) (f : Ctx → Ctx) : (updCtx s k f).ops = s.ops := rfl
@[simp] theorem updCtx_msgs (s : State) (k : Nat) (f : Ctx → Ctx) : (updCtx s k f).msgs = s.msgs := rfl
@[simp] theorem updCtx_waits (s : State) (k : Nat) (f : Ctx → Ctx) : (updCtx s k f).waits = s.waits := rfl
@[simp] theorem updCtx_wqs (s : State) (k : Nat) (f : Ctx → Ctx) : (updCtx s k f).wqs = s.wqs := rfl
@[simp] theorem updCtx_medias (s : State) (k : Nat) (f : Ctx → Ctx) : (updCtx s k f).medias = s.medias := rfl
@[simp] theorem updCtx_links (s : State) (k : Nat) (f : Ctx → Ctx) : (updCtx s k f).links = s.links := rfl
@[simp] theorem updCtx_agenda (s : State) (k : Nat) (f : Ctx → Ctx) : (updCtx s k f).agenda = s.agenda := rfl
@[simp] theorem updCtx_cur (s : State) (k : Nat) (f : Ctx → Ctx) : (updCtx s k f).cur = s.cur := rfl
@[simp] theorem updCtx_serial (s : State) (k : Nat) (f : Ctx → Ctx) : (updCtx s k f).serial = s.serial := rfl
@[simp] theorem updCtx_free (s : State) (k : Nat) (f : Ctx → Ctx) : (updCtx s k f).free = s.free := rfl
@[simp] theorem updCtx_walks (s : State) (k : Nat) (f : Ctx → Ctx) : (updCtx s k f).walks = s.walks := rfl
@[simp] theorem updCtx_raised (s : State) (k : Nat) (f : Ctx → Ctx) : (updCtx s k f).raised = s.raised := rfl
@[simp] theorem updCtx_peers (s : State) (k : Nat) (f : Ctx → Ctx) : (updCtx s k f).peers = s.peers := rfl
@[simp] theorem updCtx_fars (s : State) (k : Nat) (f : Ctx → Ctx) : (updCtx s k f).fars = s.fars := rfl
@[simp] theorem updCtx_inbox (s : State) (k : Nat) (f : Ctx → Ctx) : (updCtx s k f).inbox = s.inbox := rfl
@[simp] theorem updCtx_issued (s : State) (k : Nat) (f : Ctx → Ctx) : (updCtx s k f).issued = s.issued := rfl
@[simp] theorem updCtx_barEvents (s : State) (k : Nat) (f : Ctx → Ctx) : (updCtx s k f).barEvents = s.barEvents := rfl
@[simp] theorem updCtx_barDue (s : State) (k : Nat) (f : Ctx → Ctx) : (updCtx s k f).barDue = s.barDue := rfl
@[simp] theorem updCtx_sub (s : State) (k : Nat) (f : Ctx → Ctx) : (updCtx s k f).sub = s.sub := rfl
@[simp] theorem updCtx_posted (s : State) (k : Nat) (f : Ctx → Ctx) : (updCtx s k f).posted = s.posted := rfl
@[simp] theorem updCtx_later (s : State) (k : Nat) (f : Ctx → Ctx) : (updCtx s k f).later = s.later := rfl

@[simp] theorem updCoreCtx_pkg (s : State) (k c : Nat) (f : CoreCtx → CoreCtx) : (updCoreCtx s k c f).pkg = s.pkg := rfl
@[simp] theorem updCoreCtx_cycle (s : State) (k c : Nat) (f : CoreCtx → CoreCtx) : (updCoreCtx s k c f).cycle = s.cycle := rfl
@[simp] theorem updCoreCtx_gts3 (s : State) (k c : Nat) (f : CoreCtx → CoreCtx) : (updCoreCtx s k c f).gts3 = s.gts3 := rfl
@[simp] theorem updCoreCtx_dies (s : State) (k c : Nat) (f : CoreCtx → CoreCtx) : (updCoreCtx s k c f).dies = s.dies := rfl
@[simp] theorem updCoreCtx_cores (s : State) (k c : Nat) (f : CoreCtx → CoreCtx) : (updCoreCtx s k c f).cores = s.cores := rfl
@[simp] theorem updCoreCtx_groups (s : State) (k c : Nat) (f : CoreCtx → CoreCtx) : (updCoreCtx s k c f).groups = s.groups := rfl
@[simp] theorem updCoreCtx_teams (s : State) (k c : Nat) (f : CoreCtx → CoreCtx) : (updCoreCtx s k c f).teams = s.teams := rfl
@[simp] theorem updCoreCtx_grids (s : State) (k c : Nat) (f : CoreCtx → CoreCtx) : (updCoreCtx s k c f).grids = s.grids := rfl
@[simp] theorem updCoreCtx_reqs (s : State) (k c : Nat) (f : CoreCtx → CoreCtx) : (updCoreCtx s k c f).reqs = s.reqs := rfl
@[simp] theorem updCoreCtx_ctxs (s : State) (k c : Nat) (f : CoreCtx → CoreCtx) : (updCoreCtx s k c f).ctxs = tabUpd s.ctxs k (fun x => { x with core := tabPut x.core c (f (getCoreCtx x c)) }) := rfl
@[simp] theorem updCoreCtx_parts (s : State) (k c : Nat) (f : CoreCtx → CoreCtx) : (updCoreCtx s k c f).parts = s.parts := rfl
@[simp] theorem updCoreCtx_vfs (s : State) (k c : Nat) (f : CoreCtx → CoreCtx) : (updCoreCtx s k c f).vfs = s.vfs := rfl
@[simp] theorem updCoreCtx_mem (s : State) (k c : Nat) (f : CoreCtx → CoreCtx) : (updCoreCtx s k c f).mem = s.mem := rfl
@[simp] theorem updCoreCtx_lines (s : State) (k c : Nat) (f : CoreCtx → CoreCtx) : (updCoreCtx s k c f).lines = s.lines := rfl
@[simp] theorem updCoreCtx_wins (s : State) (k c : Nat) (f : CoreCtx → CoreCtx) : (updCoreCtx s k c f).wins = s.wins := rfl
@[simp] theorem updCoreCtx_tlb (s : State) (k c : Nat) (f : CoreCtx → CoreCtx) : (updCoreCtx s k c f).tlb = s.tlb := rfl
@[simp] theorem updCoreCtx_accs (s : State) (k c : Nat) (f : CoreCtx → CoreCtx) : (updCoreCtx s k c f).accs = s.accs := rfl
@[simp] theorem updCoreCtx_ops (s : State) (k c : Nat) (f : CoreCtx → CoreCtx) : (updCoreCtx s k c f).ops = s.ops := rfl
@[simp] theorem updCoreCtx_msgs (s : State) (k c : Nat) (f : CoreCtx → CoreCtx) : (updCoreCtx s k c f).msgs = s.msgs := rfl
@[simp] theorem updCoreCtx_waits (s : State) (k c : Nat) (f : CoreCtx → CoreCtx) : (updCoreCtx s k c f).waits = s.waits := rfl
@[simp] theorem updCoreCtx_wqs (s : State) (k c : Nat) (f : CoreCtx → CoreCtx) : (updCoreCtx s k c f).wqs = s.wqs := rfl
@[simp] theorem updCoreCtx_medias (s : State) (k c : Nat) (f : CoreCtx → CoreCtx) : (updCoreCtx s k c f).medias = s.medias := rfl
@[simp] theorem updCoreCtx_links (s : State) (k c : Nat) (f : CoreCtx → CoreCtx) : (updCoreCtx s k c f).links = s.links := rfl
@[simp] theorem updCoreCtx_agenda (s : State) (k c : Nat) (f : CoreCtx → CoreCtx) : (updCoreCtx s k c f).agenda = s.agenda := rfl
@[simp] theorem updCoreCtx_cur (s : State) (k c : Nat) (f : CoreCtx → CoreCtx) : (updCoreCtx s k c f).cur = s.cur := rfl
@[simp] theorem updCoreCtx_serial (s : State) (k c : Nat) (f : CoreCtx → CoreCtx) : (updCoreCtx s k c f).serial = s.serial := rfl
@[simp] theorem updCoreCtx_free (s : State) (k c : Nat) (f : CoreCtx → CoreCtx) : (updCoreCtx s k c f).free = s.free := rfl
@[simp] theorem updCoreCtx_walks (s : State) (k c : Nat) (f : CoreCtx → CoreCtx) : (updCoreCtx s k c f).walks = s.walks := rfl
@[simp] theorem updCoreCtx_raised (s : State) (k c : Nat) (f : CoreCtx → CoreCtx) : (updCoreCtx s k c f).raised = s.raised := rfl
@[simp] theorem updCoreCtx_peers (s : State) (k c : Nat) (f : CoreCtx → CoreCtx) : (updCoreCtx s k c f).peers = s.peers := rfl
@[simp] theorem updCoreCtx_fars (s : State) (k c : Nat) (f : CoreCtx → CoreCtx) : (updCoreCtx s k c f).fars = s.fars := rfl
@[simp] theorem updCoreCtx_inbox (s : State) (k c : Nat) (f : CoreCtx → CoreCtx) : (updCoreCtx s k c f).inbox = s.inbox := rfl
@[simp] theorem updCoreCtx_issued (s : State) (k c : Nat) (f : CoreCtx → CoreCtx) : (updCoreCtx s k c f).issued = s.issued := rfl
@[simp] theorem updCoreCtx_barEvents (s : State) (k c : Nat) (f : CoreCtx → CoreCtx) : (updCoreCtx s k c f).barEvents = s.barEvents := rfl
@[simp] theorem updCoreCtx_barDue (s : State) (k c : Nat) (f : CoreCtx → CoreCtx) : (updCoreCtx s k c f).barDue = s.barDue := rfl
@[simp] theorem updCoreCtx_sub (s : State) (k c : Nat) (f : CoreCtx → CoreCtx) : (updCoreCtx s k c f).sub = s.sub := rfl
@[simp] theorem updCoreCtx_posted (s : State) (k c : Nat) (f : CoreCtx → CoreCtx) : (updCoreCtx s k c f).posted = s.posted := rfl
@[simp] theorem updCoreCtx_later (s : State) (k c : Nat) (f : CoreCtx → CoreCtx) : (updCoreCtx s k c f).later = s.later := rfl

@[simp] theorem updDie_pkg (s : State) (k : Nat) (f : Die → Die) : (updDie s k f).pkg = s.pkg := rfl
@[simp] theorem updDie_cycle (s : State) (k : Nat) (f : Die → Die) : (updDie s k f).cycle = s.cycle := rfl
@[simp] theorem updDie_gts3 (s : State) (k : Nat) (f : Die → Die) : (updDie s k f).gts3 = s.gts3 := rfl
@[simp] theorem updDie_dies (s : State) (k : Nat) (f : Die → Die) : (updDie s k f).dies = tabPut s.dies k (f (getDie s k)) := rfl
@[simp] theorem updDie_cores (s : State) (k : Nat) (f : Die → Die) : (updDie s k f).cores = s.cores := rfl
@[simp] theorem updDie_groups (s : State) (k : Nat) (f : Die → Die) : (updDie s k f).groups = s.groups := rfl
@[simp] theorem updDie_teams (s : State) (k : Nat) (f : Die → Die) : (updDie s k f).teams = s.teams := rfl
@[simp] theorem updDie_grids (s : State) (k : Nat) (f : Die → Die) : (updDie s k f).grids = s.grids := rfl
@[simp] theorem updDie_reqs (s : State) (k : Nat) (f : Die → Die) : (updDie s k f).reqs = s.reqs := rfl
@[simp] theorem updDie_ctxs (s : State) (k : Nat) (f : Die → Die) : (updDie s k f).ctxs = s.ctxs := rfl
@[simp] theorem updDie_parts (s : State) (k : Nat) (f : Die → Die) : (updDie s k f).parts = s.parts := rfl
@[simp] theorem updDie_vfs (s : State) (k : Nat) (f : Die → Die) : (updDie s k f).vfs = s.vfs := rfl
@[simp] theorem updDie_mem (s : State) (k : Nat) (f : Die → Die) : (updDie s k f).mem = s.mem := rfl
@[simp] theorem updDie_lines (s : State) (k : Nat) (f : Die → Die) : (updDie s k f).lines = s.lines := rfl
@[simp] theorem updDie_wins (s : State) (k : Nat) (f : Die → Die) : (updDie s k f).wins = s.wins := rfl
@[simp] theorem updDie_tlb (s : State) (k : Nat) (f : Die → Die) : (updDie s k f).tlb = s.tlb := rfl
@[simp] theorem updDie_accs (s : State) (k : Nat) (f : Die → Die) : (updDie s k f).accs = s.accs := rfl
@[simp] theorem updDie_ops (s : State) (k : Nat) (f : Die → Die) : (updDie s k f).ops = s.ops := rfl
@[simp] theorem updDie_msgs (s : State) (k : Nat) (f : Die → Die) : (updDie s k f).msgs = s.msgs := rfl
@[simp] theorem updDie_waits (s : State) (k : Nat) (f : Die → Die) : (updDie s k f).waits = s.waits := rfl
@[simp] theorem updDie_wqs (s : State) (k : Nat) (f : Die → Die) : (updDie s k f).wqs = s.wqs := rfl
@[simp] theorem updDie_medias (s : State) (k : Nat) (f : Die → Die) : (updDie s k f).medias = s.medias := rfl
@[simp] theorem updDie_links (s : State) (k : Nat) (f : Die → Die) : (updDie s k f).links = s.links := rfl
@[simp] theorem updDie_agenda (s : State) (k : Nat) (f : Die → Die) : (updDie s k f).agenda = s.agenda := rfl
@[simp] theorem updDie_cur (s : State) (k : Nat) (f : Die → Die) : (updDie s k f).cur = s.cur := rfl
@[simp] theorem updDie_serial (s : State) (k : Nat) (f : Die → Die) : (updDie s k f).serial = s.serial := rfl
@[simp] theorem updDie_free (s : State) (k : Nat) (f : Die → Die) : (updDie s k f).free = s.free := rfl
@[simp] theorem updDie_walks (s : State) (k : Nat) (f : Die → Die) : (updDie s k f).walks = s.walks := rfl
@[simp] theorem updDie_raised (s : State) (k : Nat) (f : Die → Die) : (updDie s k f).raised = s.raised := rfl
@[simp] theorem updDie_peers (s : State) (k : Nat) (f : Die → Die) : (updDie s k f).peers = s.peers := rfl
@[simp] theorem updDie_fars (s : State) (k : Nat) (f : Die → Die) : (updDie s k f).fars = s.fars := rfl
@[simp] theorem updDie_inbox (s : State) (k : Nat) (f : Die → Die) : (updDie s k f).inbox = s.inbox := rfl
@[simp] theorem updDie_issued (s : State) (k : Nat) (f : Die → Die) : (updDie s k f).issued = s.issued := rfl
@[simp] theorem updDie_barEvents (s : State) (k : Nat) (f : Die → Die) : (updDie s k f).barEvents = s.barEvents := rfl
@[simp] theorem updDie_barDue (s : State) (k : Nat) (f : Die → Die) : (updDie s k f).barDue = s.barDue := rfl
@[simp] theorem updDie_sub (s : State) (k : Nat) (f : Die → Die) : (updDie s k f).sub = s.sub := rfl
@[simp] theorem updDie_posted (s : State) (k : Nat) (f : Die → Die) : (updDie s k f).posted = s.posted := rfl
@[simp] theorem updDie_later (s : State) (k : Nat) (f : Die → Die) : (updDie s k f).later = s.later := rfl

@[simp] theorem updCore_pkg (s : State) (k : Nat) (f : Core → Core) : (updCore s k f).pkg = s.pkg := rfl
@[simp] theorem updCore_cycle (s : State) (k : Nat) (f : Core → Core) : (updCore s k f).cycle = s.cycle := rfl
@[simp] theorem updCore_gts3 (s : State) (k : Nat) (f : Core → Core) : (updCore s k f).gts3 = s.gts3 := rfl
@[simp] theorem updCore_dies (s : State) (k : Nat) (f : Core → Core) : (updCore s k f).dies = s.dies := rfl
@[simp] theorem updCore_cores (s : State) (k : Nat) (f : Core → Core) : (updCore s k f).cores = tabPut s.cores k (f (getCore s k)) := rfl
@[simp] theorem updCore_groups (s : State) (k : Nat) (f : Core → Core) : (updCore s k f).groups = s.groups := rfl
@[simp] theorem updCore_teams (s : State) (k : Nat) (f : Core → Core) : (updCore s k f).teams = s.teams := rfl
@[simp] theorem updCore_grids (s : State) (k : Nat) (f : Core → Core) : (updCore s k f).grids = s.grids := rfl
@[simp] theorem updCore_reqs (s : State) (k : Nat) (f : Core → Core) : (updCore s k f).reqs = s.reqs := rfl
@[simp] theorem updCore_ctxs (s : State) (k : Nat) (f : Core → Core) : (updCore s k f).ctxs = s.ctxs := rfl
@[simp] theorem updCore_parts (s : State) (k : Nat) (f : Core → Core) : (updCore s k f).parts = s.parts := rfl
@[simp] theorem updCore_vfs (s : State) (k : Nat) (f : Core → Core) : (updCore s k f).vfs = s.vfs := rfl
@[simp] theorem updCore_mem (s : State) (k : Nat) (f : Core → Core) : (updCore s k f).mem = s.mem := rfl
@[simp] theorem updCore_lines (s : State) (k : Nat) (f : Core → Core) : (updCore s k f).lines = s.lines := rfl
@[simp] theorem updCore_wins (s : State) (k : Nat) (f : Core → Core) : (updCore s k f).wins = s.wins := rfl
@[simp] theorem updCore_tlb (s : State) (k : Nat) (f : Core → Core) : (updCore s k f).tlb = s.tlb := rfl
@[simp] theorem updCore_accs (s : State) (k : Nat) (f : Core → Core) : (updCore s k f).accs = s.accs := rfl
@[simp] theorem updCore_ops (s : State) (k : Nat) (f : Core → Core) : (updCore s k f).ops = s.ops := rfl
@[simp] theorem updCore_msgs (s : State) (k : Nat) (f : Core → Core) : (updCore s k f).msgs = s.msgs := rfl
@[simp] theorem updCore_waits (s : State) (k : Nat) (f : Core → Core) : (updCore s k f).waits = s.waits := rfl
@[simp] theorem updCore_wqs (s : State) (k : Nat) (f : Core → Core) : (updCore s k f).wqs = s.wqs := rfl
@[simp] theorem updCore_medias (s : State) (k : Nat) (f : Core → Core) : (updCore s k f).medias = s.medias := rfl
@[simp] theorem updCore_links (s : State) (k : Nat) (f : Core → Core) : (updCore s k f).links = s.links := rfl
@[simp] theorem updCore_agenda (s : State) (k : Nat) (f : Core → Core) : (updCore s k f).agenda = s.agenda := rfl
@[simp] theorem updCore_cur (s : State) (k : Nat) (f : Core → Core) : (updCore s k f).cur = s.cur := rfl
@[simp] theorem updCore_serial (s : State) (k : Nat) (f : Core → Core) : (updCore s k f).serial = s.serial := rfl
@[simp] theorem updCore_free (s : State) (k : Nat) (f : Core → Core) : (updCore s k f).free = s.free := rfl
@[simp] theorem updCore_walks (s : State) (k : Nat) (f : Core → Core) : (updCore s k f).walks = s.walks := rfl
@[simp] theorem updCore_raised (s : State) (k : Nat) (f : Core → Core) : (updCore s k f).raised = s.raised := rfl
@[simp] theorem updCore_peers (s : State) (k : Nat) (f : Core → Core) : (updCore s k f).peers = s.peers := rfl
@[simp] theorem updCore_fars (s : State) (k : Nat) (f : Core → Core) : (updCore s k f).fars = s.fars := rfl
@[simp] theorem updCore_inbox (s : State) (k : Nat) (f : Core → Core) : (updCore s k f).inbox = s.inbox := rfl
@[simp] theorem updCore_issued (s : State) (k : Nat) (f : Core → Core) : (updCore s k f).issued = s.issued := rfl
@[simp] theorem updCore_barEvents (s : State) (k : Nat) (f : Core → Core) : (updCore s k f).barEvents = s.barEvents := rfl
@[simp] theorem updCore_barDue (s : State) (k : Nat) (f : Core → Core) : (updCore s k f).barDue = s.barDue := rfl
@[simp] theorem updCore_sub (s : State) (k : Nat) (f : Core → Core) : (updCore s k f).sub = s.sub := rfl
@[simp] theorem updCore_posted (s : State) (k : Nat) (f : Core → Core) : (updCore s k f).posted = s.posted := rfl
@[simp] theorem updCore_later (s : State) (k : Nat) (f : Core → Core) : (updCore s k f).later = s.later := rfl

@[simp] theorem updPart_pkg (s : State) (k : Nat) (f : Part48 → Part48) : (updPart s k f).pkg = s.pkg := rfl
@[simp] theorem updPart_cycle (s : State) (k : Nat) (f : Part48 → Part48) : (updPart s k f).cycle = s.cycle := rfl
@[simp] theorem updPart_gts3 (s : State) (k : Nat) (f : Part48 → Part48) : (updPart s k f).gts3 = s.gts3 := rfl
@[simp] theorem updPart_dies (s : State) (k : Nat) (f : Part48 → Part48) : (updPart s k f).dies = s.dies := rfl
@[simp] theorem updPart_cores (s : State) (k : Nat) (f : Part48 → Part48) : (updPart s k f).cores = s.cores := rfl
@[simp] theorem updPart_groups (s : State) (k : Nat) (f : Part48 → Part48) : (updPart s k f).groups = s.groups := rfl
@[simp] theorem updPart_teams (s : State) (k : Nat) (f : Part48 → Part48) : (updPart s k f).teams = s.teams := rfl
@[simp] theorem updPart_grids (s : State) (k : Nat) (f : Part48 → Part48) : (updPart s k f).grids = s.grids := rfl
@[simp] theorem updPart_reqs (s : State) (k : Nat) (f : Part48 → Part48) : (updPart s k f).reqs = s.reqs := rfl
@[simp] theorem updPart_ctxs (s : State) (k : Nat) (f : Part48 → Part48) : (updPart s k f).ctxs = s.ctxs := rfl
@[simp] theorem updPart_parts (s : State) (k : Nat) (f : Part48 → Part48) : (updPart s k f).parts = tabPut s.parts k (f (getPart s k)) := rfl
@[simp] theorem updPart_vfs (s : State) (k : Nat) (f : Part48 → Part48) : (updPart s k f).vfs = s.vfs := rfl
@[simp] theorem updPart_mem (s : State) (k : Nat) (f : Part48 → Part48) : (updPart s k f).mem = s.mem := rfl
@[simp] theorem updPart_lines (s : State) (k : Nat) (f : Part48 → Part48) : (updPart s k f).lines = s.lines := rfl
@[simp] theorem updPart_wins (s : State) (k : Nat) (f : Part48 → Part48) : (updPart s k f).wins = s.wins := rfl
@[simp] theorem updPart_tlb (s : State) (k : Nat) (f : Part48 → Part48) : (updPart s k f).tlb = s.tlb := rfl
@[simp] theorem updPart_accs (s : State) (k : Nat) (f : Part48 → Part48) : (updPart s k f).accs = s.accs := rfl
@[simp] theorem updPart_ops (s : State) (k : Nat) (f : Part48 → Part48) : (updPart s k f).ops = s.ops := rfl
@[simp] theorem updPart_msgs (s : State) (k : Nat) (f : Part48 → Part48) : (updPart s k f).msgs = s.msgs := rfl
@[simp] theorem updPart_waits (s : State) (k : Nat) (f : Part48 → Part48) : (updPart s k f).waits = s.waits := rfl
@[simp] theorem updPart_wqs (s : State) (k : Nat) (f : Part48 → Part48) : (updPart s k f).wqs = s.wqs := rfl
@[simp] theorem updPart_medias (s : State) (k : Nat) (f : Part48 → Part48) : (updPart s k f).medias = s.medias := rfl
@[simp] theorem updPart_links (s : State) (k : Nat) (f : Part48 → Part48) : (updPart s k f).links = s.links := rfl
@[simp] theorem updPart_agenda (s : State) (k : Nat) (f : Part48 → Part48) : (updPart s k f).agenda = s.agenda := rfl
@[simp] theorem updPart_cur (s : State) (k : Nat) (f : Part48 → Part48) : (updPart s k f).cur = s.cur := rfl
@[simp] theorem updPart_serial (s : State) (k : Nat) (f : Part48 → Part48) : (updPart s k f).serial = s.serial := rfl
@[simp] theorem updPart_free (s : State) (k : Nat) (f : Part48 → Part48) : (updPart s k f).free = s.free := rfl
@[simp] theorem updPart_walks (s : State) (k : Nat) (f : Part48 → Part48) : (updPart s k f).walks = s.walks := rfl
@[simp] theorem updPart_raised (s : State) (k : Nat) (f : Part48 → Part48) : (updPart s k f).raised = s.raised := rfl
@[simp] theorem updPart_peers (s : State) (k : Nat) (f : Part48 → Part48) : (updPart s k f).peers = s.peers := rfl
@[simp] theorem updPart_fars (s : State) (k : Nat) (f : Part48 → Part48) : (updPart s k f).fars = s.fars := rfl
@[simp] theorem updPart_inbox (s : State) (k : Nat) (f : Part48 → Part48) : (updPart s k f).inbox = s.inbox := rfl
@[simp] theorem updPart_issued (s : State) (k : Nat) (f : Part48 → Part48) : (updPart s k f).issued = s.issued := rfl
@[simp] theorem updPart_barEvents (s : State) (k : Nat) (f : Part48 → Part48) : (updPart s k f).barEvents = s.barEvents := rfl
@[simp] theorem updPart_barDue (s : State) (k : Nat) (f : Part48 → Part48) : (updPart s k f).barDue = s.barDue := rfl
@[simp] theorem updPart_sub (s : State) (k : Nat) (f : Part48 → Part48) : (updPart s k f).sub = s.sub := rfl
@[simp] theorem updPart_posted (s : State) (k : Nat) (f : Part48 → Part48) : (updPart s k f).posted = s.posted := rfl
@[simp] theorem updPart_later (s : State) (k : Nat) (f : Part48 → Part48) : (updPart s k f).later = s.later := rfl

@[simp] theorem updVf_pkg (s : State) (k : Nat) (f : Vf → Vf) : (updVf s k f).pkg = s.pkg := rfl
@[simp] theorem updVf_cycle (s : State) (k : Nat) (f : Vf → Vf) : (updVf s k f).cycle = s.cycle := rfl
@[simp] theorem updVf_gts3 (s : State) (k : Nat) (f : Vf → Vf) : (updVf s k f).gts3 = s.gts3 := rfl
@[simp] theorem updVf_dies (s : State) (k : Nat) (f : Vf → Vf) : (updVf s k f).dies = s.dies := rfl
@[simp] theorem updVf_cores (s : State) (k : Nat) (f : Vf → Vf) : (updVf s k f).cores = s.cores := rfl
@[simp] theorem updVf_groups (s : State) (k : Nat) (f : Vf → Vf) : (updVf s k f).groups = s.groups := rfl
@[simp] theorem updVf_teams (s : State) (k : Nat) (f : Vf → Vf) : (updVf s k f).teams = s.teams := rfl
@[simp] theorem updVf_grids (s : State) (k : Nat) (f : Vf → Vf) : (updVf s k f).grids = s.grids := rfl
@[simp] theorem updVf_reqs (s : State) (k : Nat) (f : Vf → Vf) : (updVf s k f).reqs = s.reqs := rfl
@[simp] theorem updVf_ctxs (s : State) (k : Nat) (f : Vf → Vf) : (updVf s k f).ctxs = s.ctxs := rfl
@[simp] theorem updVf_parts (s : State) (k : Nat) (f : Vf → Vf) : (updVf s k f).parts = s.parts := rfl
@[simp] theorem updVf_vfs (s : State) (k : Nat) (f : Vf → Vf) : (updVf s k f).vfs = tabPut s.vfs k (f (getVf s k)) := rfl
@[simp] theorem updVf_mem (s : State) (k : Nat) (f : Vf → Vf) : (updVf s k f).mem = s.mem := rfl
@[simp] theorem updVf_lines (s : State) (k : Nat) (f : Vf → Vf) : (updVf s k f).lines = s.lines := rfl
@[simp] theorem updVf_wins (s : State) (k : Nat) (f : Vf → Vf) : (updVf s k f).wins = s.wins := rfl
@[simp] theorem updVf_tlb (s : State) (k : Nat) (f : Vf → Vf) : (updVf s k f).tlb = s.tlb := rfl
@[simp] theorem updVf_accs (s : State) (k : Nat) (f : Vf → Vf) : (updVf s k f).accs = s.accs := rfl
@[simp] theorem updVf_ops (s : State) (k : Nat) (f : Vf → Vf) : (updVf s k f).ops = s.ops := rfl
@[simp] theorem updVf_msgs (s : State) (k : Nat) (f : Vf → Vf) : (updVf s k f).msgs = s.msgs := rfl
@[simp] theorem updVf_waits (s : State) (k : Nat) (f : Vf → Vf) : (updVf s k f).waits = s.waits := rfl
@[simp] theorem updVf_wqs (s : State) (k : Nat) (f : Vf → Vf) : (updVf s k f).wqs = s.wqs := rfl
@[simp] theorem updVf_medias (s : State) (k : Nat) (f : Vf → Vf) : (updVf s k f).medias = s.medias := rfl
@[simp] theorem updVf_links (s : State) (k : Nat) (f : Vf → Vf) : (updVf s k f).links = s.links := rfl
@[simp] theorem updVf_agenda (s : State) (k : Nat) (f : Vf → Vf) : (updVf s k f).agenda = s.agenda := rfl
@[simp] theorem updVf_cur (s : State) (k : Nat) (f : Vf → Vf) : (updVf s k f).cur = s.cur := rfl
@[simp] theorem updVf_serial (s : State) (k : Nat) (f : Vf → Vf) : (updVf s k f).serial = s.serial := rfl
@[simp] theorem updVf_free (s : State) (k : Nat) (f : Vf → Vf) : (updVf s k f).free = s.free := rfl
@[simp] theorem updVf_walks (s : State) (k : Nat) (f : Vf → Vf) : (updVf s k f).walks = s.walks := rfl
@[simp] theorem updVf_raised (s : State) (k : Nat) (f : Vf → Vf) : (updVf s k f).raised = s.raised := rfl
@[simp] theorem updVf_peers (s : State) (k : Nat) (f : Vf → Vf) : (updVf s k f).peers = s.peers := rfl
@[simp] theorem updVf_fars (s : State) (k : Nat) (f : Vf → Vf) : (updVf s k f).fars = s.fars := rfl
@[simp] theorem updVf_inbox (s : State) (k : Nat) (f : Vf → Vf) : (updVf s k f).inbox = s.inbox := rfl
@[simp] theorem updVf_issued (s : State) (k : Nat) (f : Vf → Vf) : (updVf s k f).issued = s.issued := rfl
@[simp] theorem updVf_barEvents (s : State) (k : Nat) (f : Vf → Vf) : (updVf s k f).barEvents = s.barEvents := rfl
@[simp] theorem updVf_barDue (s : State) (k : Nat) (f : Vf → Vf) : (updVf s k f).barDue = s.barDue := rfl
@[simp] theorem updVf_sub (s : State) (k : Nat) (f : Vf → Vf) : (updVf s k f).sub = s.sub := rfl
@[simp] theorem updVf_posted (s : State) (k : Nat) (f : Vf → Vf) : (updVf s k f).posted = s.posted := rfl
@[simp] theorem updVf_later (s : State) (k : Nat) (f : Vf → Vf) : (updVf s k f).later = s.later := rfl

@[simp] theorem updLink_pkg (s : State) (k : Nat) (f : Link → Link) : (updLink s k f).pkg = s.pkg := rfl
@[simp] theorem updLink_cycle (s : State) (k : Nat) (f : Link → Link) : (updLink s k f).cycle = s.cycle := rfl
@[simp] theorem updLink_gts3 (s : State) (k : Nat) (f : Link → Link) : (updLink s k f).gts3 = s.gts3 := rfl
@[simp] theorem updLink_dies (s : State) (k : Nat) (f : Link → Link) : (updLink s k f).dies = s.dies := rfl
@[simp] theorem updLink_cores (s : State) (k : Nat) (f : Link → Link) : (updLink s k f).cores = s.cores := rfl
@[simp] theorem updLink_groups (s : State) (k : Nat) (f : Link → Link) : (updLink s k f).groups = s.groups := rfl
@[simp] theorem updLink_teams (s : State) (k : Nat) (f : Link → Link) : (updLink s k f).teams = s.teams := rfl
@[simp] theorem updLink_grids (s : State) (k : Nat) (f : Link → Link) : (updLink s k f).grids = s.grids := rfl
@[simp] theorem updLink_reqs (s : State) (k : Nat) (f : Link → Link) : (updLink s k f).reqs = s.reqs := rfl
@[simp] theorem updLink_ctxs (s : State) (k : Nat) (f : Link → Link) : (updLink s k f).ctxs = s.ctxs := rfl
@[simp] theorem updLink_parts (s : State) (k : Nat) (f : Link → Link) : (updLink s k f).parts = s.parts := rfl
@[simp] theorem updLink_vfs (s : State) (k : Nat) (f : Link → Link) : (updLink s k f).vfs = s.vfs := rfl
@[simp] theorem updLink_mem (s : State) (k : Nat) (f : Link → Link) : (updLink s k f).mem = s.mem := rfl
@[simp] theorem updLink_lines (s : State) (k : Nat) (f : Link → Link) : (updLink s k f).lines = s.lines := rfl
@[simp] theorem updLink_wins (s : State) (k : Nat) (f : Link → Link) : (updLink s k f).wins = s.wins := rfl
@[simp] theorem updLink_tlb (s : State) (k : Nat) (f : Link → Link) : (updLink s k f).tlb = s.tlb := rfl
@[simp] theorem updLink_accs (s : State) (k : Nat) (f : Link → Link) : (updLink s k f).accs = s.accs := rfl
@[simp] theorem updLink_ops (s : State) (k : Nat) (f : Link → Link) : (updLink s k f).ops = s.ops := rfl
@[simp] theorem updLink_msgs (s : State) (k : Nat) (f : Link → Link) : (updLink s k f).msgs = s.msgs := rfl
@[simp] theorem updLink_waits (s : State) (k : Nat) (f : Link → Link) : (updLink s k f).waits = s.waits := rfl
@[simp] theorem updLink_wqs (s : State) (k : Nat) (f : Link → Link) : (updLink s k f).wqs = s.wqs := rfl
@[simp] theorem updLink_medias (s : State) (k : Nat) (f : Link → Link) : (updLink s k f).medias = s.medias := rfl
@[simp] theorem updLink_links (s : State) (k : Nat) (f : Link → Link) : (updLink s k f).links = tabPut s.links k (f (getLink s k)) := rfl
@[simp] theorem updLink_agenda (s : State) (k : Nat) (f : Link → Link) : (updLink s k f).agenda = s.agenda := rfl
@[simp] theorem updLink_cur (s : State) (k : Nat) (f : Link → Link) : (updLink s k f).cur = s.cur := rfl
@[simp] theorem updLink_serial (s : State) (k : Nat) (f : Link → Link) : (updLink s k f).serial = s.serial := rfl
@[simp] theorem updLink_free (s : State) (k : Nat) (f : Link → Link) : (updLink s k f).free = s.free := rfl
@[simp] theorem updLink_walks (s : State) (k : Nat) (f : Link → Link) : (updLink s k f).walks = s.walks := rfl
@[simp] theorem updLink_raised (s : State) (k : Nat) (f : Link → Link) : (updLink s k f).raised = s.raised := rfl
@[simp] theorem updLink_peers (s : State) (k : Nat) (f : Link → Link) : (updLink s k f).peers = s.peers := rfl
@[simp] theorem updLink_fars (s : State) (k : Nat) (f : Link → Link) : (updLink s k f).fars = s.fars := rfl
@[simp] theorem updLink_inbox (s : State) (k : Nat) (f : Link → Link) : (updLink s k f).inbox = s.inbox := rfl
@[simp] theorem updLink_issued (s : State) (k : Nat) (f : Link → Link) : (updLink s k f).issued = s.issued := rfl
@[simp] theorem updLink_barEvents (s : State) (k : Nat) (f : Link → Link) : (updLink s k f).barEvents = s.barEvents := rfl
@[simp] theorem updLink_barDue (s : State) (k : Nat) (f : Link → Link) : (updLink s k f).barDue = s.barDue := rfl
@[simp] theorem updLink_sub (s : State) (k : Nat) (f : Link → Link) : (updLink s k f).sub = s.sub := rfl
@[simp] theorem updLink_posted (s : State) (k : Nat) (f : Link → Link) : (updLink s k f).posted = s.posted := rfl
@[simp] theorem updLink_later (s : State) (k : Nat) (f : Link → Link) : (updLink s k f).later = s.later := rfl

@[simp] theorem updWq_pkg (s : State) (k : Nat) (f : Wq → Wq) : (updWq s k f).pkg = s.pkg := rfl
@[simp] theorem updWq_cycle (s : State) (k : Nat) (f : Wq → Wq) : (updWq s k f).cycle = s.cycle := rfl
@[simp] theorem updWq_gts3 (s : State) (k : Nat) (f : Wq → Wq) : (updWq s k f).gts3 = s.gts3 := rfl
@[simp] theorem updWq_dies (s : State) (k : Nat) (f : Wq → Wq) : (updWq s k f).dies = s.dies := rfl
@[simp] theorem updWq_cores (s : State) (k : Nat) (f : Wq → Wq) : (updWq s k f).cores = s.cores := rfl
@[simp] theorem updWq_groups (s : State) (k : Nat) (f : Wq → Wq) : (updWq s k f).groups = s.groups := rfl
@[simp] theorem updWq_teams (s : State) (k : Nat) (f : Wq → Wq) : (updWq s k f).teams = s.teams := rfl
@[simp] theorem updWq_grids (s : State) (k : Nat) (f : Wq → Wq) : (updWq s k f).grids = s.grids := rfl
@[simp] theorem updWq_reqs (s : State) (k : Nat) (f : Wq → Wq) : (updWq s k f).reqs = s.reqs := rfl
@[simp] theorem updWq_ctxs (s : State) (k : Nat) (f : Wq → Wq) : (updWq s k f).ctxs = s.ctxs := rfl
@[simp] theorem updWq_parts (s : State) (k : Nat) (f : Wq → Wq) : (updWq s k f).parts = s.parts := rfl
@[simp] theorem updWq_vfs (s : State) (k : Nat) (f : Wq → Wq) : (updWq s k f).vfs = s.vfs := rfl
@[simp] theorem updWq_mem (s : State) (k : Nat) (f : Wq → Wq) : (updWq s k f).mem = s.mem := rfl
@[simp] theorem updWq_lines (s : State) (k : Nat) (f : Wq → Wq) : (updWq s k f).lines = s.lines := rfl
@[simp] theorem updWq_wins (s : State) (k : Nat) (f : Wq → Wq) : (updWq s k f).wins = s.wins := rfl
@[simp] theorem updWq_tlb (s : State) (k : Nat) (f : Wq → Wq) : (updWq s k f).tlb = s.tlb := rfl
@[simp] theorem updWq_accs (s : State) (k : Nat) (f : Wq → Wq) : (updWq s k f).accs = s.accs := rfl
@[simp] theorem updWq_ops (s : State) (k : Nat) (f : Wq → Wq) : (updWq s k f).ops = s.ops := rfl
@[simp] theorem updWq_msgs (s : State) (k : Nat) (f : Wq → Wq) : (updWq s k f).msgs = s.msgs := rfl
@[simp] theorem updWq_waits (s : State) (k : Nat) (f : Wq → Wq) : (updWq s k f).waits = s.waits := rfl
@[simp] theorem updWq_wqs (s : State) (k : Nat) (f : Wq → Wq) : (updWq s k f).wqs = tabPut s.wqs k (f (getWq s k)) := rfl
@[simp] theorem updWq_medias (s : State) (k : Nat) (f : Wq → Wq) : (updWq s k f).medias = s.medias := rfl
@[simp] theorem updWq_links (s : State) (k : Nat) (f : Wq → Wq) : (updWq s k f).links = s.links := rfl
@[simp] theorem updWq_agenda (s : State) (k : Nat) (f : Wq → Wq) : (updWq s k f).agenda = s.agenda := rfl
@[simp] theorem updWq_cur (s : State) (k : Nat) (f : Wq → Wq) : (updWq s k f).cur = s.cur := rfl
@[simp] theorem updWq_serial (s : State) (k : Nat) (f : Wq → Wq) : (updWq s k f).serial = s.serial := rfl
@[simp] theorem updWq_free (s : State) (k : Nat) (f : Wq → Wq) : (updWq s k f).free = s.free := rfl
@[simp] theorem updWq_walks (s : State) (k : Nat) (f : Wq → Wq) : (updWq s k f).walks = s.walks := rfl
@[simp] theorem updWq_raised (s : State) (k : Nat) (f : Wq → Wq) : (updWq s k f).raised = s.raised := rfl
@[simp] theorem updWq_peers (s : State) (k : Nat) (f : Wq → Wq) : (updWq s k f).peers = s.peers := rfl
@[simp] theorem updWq_fars (s : State) (k : Nat) (f : Wq → Wq) : (updWq s k f).fars = s.fars := rfl
@[simp] theorem updWq_inbox (s : State) (k : Nat) (f : Wq → Wq) : (updWq s k f).inbox = s.inbox := rfl
@[simp] theorem updWq_issued (s : State) (k : Nat) (f : Wq → Wq) : (updWq s k f).issued = s.issued := rfl
@[simp] theorem updWq_barEvents (s : State) (k : Nat) (f : Wq → Wq) : (updWq s k f).barEvents = s.barEvents := rfl
@[simp] theorem updWq_barDue (s : State) (k : Nat) (f : Wq → Wq) : (updWq s k f).barDue = s.barDue := rfl
@[simp] theorem updWq_sub (s : State) (k : Nat) (f : Wq → Wq) : (updWq s k f).sub = s.sub := rfl
@[simp] theorem updWq_posted (s : State) (k : Nat) (f : Wq → Wq) : (updWq s k f).posted = s.posted := rfl
@[simp] theorem updWq_later (s : State) (k : Nat) (f : Wq → Wq) : (updWq s k f).later = s.later := rfl

@[simp] theorem putBytes_pkg (s : State) (a : Nat) (bs : List Byte) : (putBytes s a bs).pkg = s.pkg := rfl
@[simp] theorem putBytes_cycle (s : State) (a : Nat) (bs : List Byte) : (putBytes s a bs).cycle = s.cycle := rfl
@[simp] theorem putBytes_gts3 (s : State) (a : Nat) (bs : List Byte) : (putBytes s a bs).gts3 = s.gts3 := rfl
@[simp] theorem putBytes_dies (s : State) (a : Nat) (bs : List Byte) : (putBytes s a bs).dies = s.dies := rfl
@[simp] theorem putBytes_cores (s : State) (a : Nat) (bs : List Byte) : (putBytes s a bs).cores = s.cores := rfl
@[simp] theorem putBytes_groups (s : State) (a : Nat) (bs : List Byte) : (putBytes s a bs).groups = s.groups := rfl
@[simp] theorem putBytes_teams (s : State) (a : Nat) (bs : List Byte) : (putBytes s a bs).teams = s.teams := rfl
@[simp] theorem putBytes_grids (s : State) (a : Nat) (bs : List Byte) : (putBytes s a bs).grids = s.grids := rfl
@[simp] theorem putBytes_reqs (s : State) (a : Nat) (bs : List Byte) : (putBytes s a bs).reqs = s.reqs := rfl
@[simp] theorem putBytes_ctxs (s : State) (a : Nat) (bs : List Byte) : (putBytes s a bs).ctxs = s.ctxs := rfl
@[simp] theorem putBytes_parts (s : State) (a : Nat) (bs : List Byte) : (putBytes s a bs).parts = s.parts := rfl
@[simp] theorem putBytes_vfs (s : State) (a : Nat) (bs : List Byte) : (putBytes s a bs).vfs = s.vfs := rfl
@[simp] theorem putBytes_mem (s : State) (a : Nat) (bs : List Byte) : (putBytes s a bs).mem = memWrite s.mem a bs := rfl
@[simp] theorem putBytes_lines (s : State) (a : Nat) (bs : List Byte) : (putBytes s a bs).lines = s.lines := rfl
@[simp] theorem putBytes_wins (s : State) (a : Nat) (bs : List Byte) : (putBytes s a bs).wins = s.wins := rfl
@[simp] theorem putBytes_tlb (s : State) (a : Nat) (bs : List Byte) : (putBytes s a bs).tlb = s.tlb := rfl
@[simp] theorem putBytes_accs (s : State) (a : Nat) (bs : List Byte) : (putBytes s a bs).accs = s.accs := rfl
@[simp] theorem putBytes_ops (s : State) (a : Nat) (bs : List Byte) : (putBytes s a bs).ops = s.ops := rfl
@[simp] theorem putBytes_msgs (s : State) (a : Nat) (bs : List Byte) : (putBytes s a bs).msgs = s.msgs := rfl
@[simp] theorem putBytes_waits (s : State) (a : Nat) (bs : List Byte) : (putBytes s a bs).waits = s.waits := rfl
@[simp] theorem putBytes_wqs (s : State) (a : Nat) (bs : List Byte) : (putBytes s a bs).wqs = s.wqs := rfl
@[simp] theorem putBytes_medias (s : State) (a : Nat) (bs : List Byte) : (putBytes s a bs).medias = s.medias := rfl
@[simp] theorem putBytes_links (s : State) (a : Nat) (bs : List Byte) : (putBytes s a bs).links = s.links := rfl
@[simp] theorem putBytes_agenda (s : State) (a : Nat) (bs : List Byte) : (putBytes s a bs).agenda = s.agenda := rfl
@[simp] theorem putBytes_cur (s : State) (a : Nat) (bs : List Byte) : (putBytes s a bs).cur = s.cur := rfl
@[simp] theorem putBytes_serial (s : State) (a : Nat) (bs : List Byte) : (putBytes s a bs).serial = s.serial := rfl
@[simp] theorem putBytes_free (s : State) (a : Nat) (bs : List Byte) : (putBytes s a bs).free = s.free := rfl
@[simp] theorem putBytes_walks (s : State) (a : Nat) (bs : List Byte) : (putBytes s a bs).walks = s.walks := rfl
@[simp] theorem putBytes_raised (s : State) (a : Nat) (bs : List Byte) : (putBytes s a bs).raised = s.raised := rfl
@[simp] theorem putBytes_peers (s : State) (a : Nat) (bs : List Byte) : (putBytes s a bs).peers = s.peers := rfl
@[simp] theorem putBytes_fars (s : State) (a : Nat) (bs : List Byte) : (putBytes s a bs).fars = s.fars := rfl
@[simp] theorem putBytes_inbox (s : State) (a : Nat) (bs : List Byte) : (putBytes s a bs).inbox = s.inbox := rfl
@[simp] theorem putBytes_issued (s : State) (a : Nat) (bs : List Byte) : (putBytes s a bs).issued = s.issued := rfl
@[simp] theorem putBytes_barEvents (s : State) (a : Nat) (bs : List Byte) : (putBytes s a bs).barEvents = s.barEvents := rfl
@[simp] theorem putBytes_barDue (s : State) (a : Nat) (bs : List Byte) : (putBytes s a bs).barDue = s.barDue := rfl
@[simp] theorem putBytes_sub (s : State) (a : Nat) (bs : List Byte) : (putBytes s a bs).sub = s.sub := rfl
@[simp] theorem putBytes_posted (s : State) (a : Nat) (bs : List Byte) : (putBytes s a bs).posted = s.posted := rfl
@[simp] theorem putBytes_later (s : State) (a : Nat) (bs : List Byte) : (putBytes s a bs).later = s.later := rfl

@[simp] theorem fresh_fst (s : State) : (fresh s).1 = s.serial := rfl
@[simp] theorem fresh_snd (s : State) : (fresh s).2 = { s with serial := s.serial + 1 } := rfl

/-- The entry that an update of a table of the state leaves at its own key. -/
theorem getVf_updVf (s : State) (v w : Nat) (f : Vf → Vf) :
    getVf (updVf s v f) w = if v = w then f (getVf s v) else getVf s w := by simp only [getVf, updVf_vfs, tabGetD_put]
theorem getDie_updDie (s : State) (v w : Nat) (f : Die → Die) :
    getDie (updDie s v f) w = if v = w then f (getDie s v) else getDie s w := by simp only [getDie, updDie_dies, tabGetD_put]
theorem getCore_updCore (s : State) (v w : Nat) (f : Core → Core) :
    getCore (updCore s v f) w = if v = w then f (getCore s v) else getCore s w := by simp only [getCore, updCore_cores, tabGetD_put]
theorem getPart_updPart (s : State) (v w : Nat) (f : Part48 → Part48) :
    getPart (updPart s v f) w = if v = w then f (getPart s v) else getPart s w := by simp only [getPart, updPart_parts, tabGetD_put]
theorem getLink_updLink (s : State) (v w : Nat) (f : Link → Link) :
    getLink (updLink s v f) w = if v = w then f (getLink s v) else getLink s w := by simp only [getLink, updLink_links, tabGetD_put]
theorem getWq_updWq (s : State) (v w : Nat) (f : Wq → Wq) :
    getWq (updWq s v f) w = if v = w then f (getWq s v) else getWq s w := by simp only [getWq, updWq_wqs, tabGetD_put]

end Sys2Proof.Machine
end

