-- ==== Sys2Proof/Laws/Issue.lean ====
section
/-! SUPPORT. What an issue leaves: the head of a group, the numerical causes, and the completed issue of a lane
instruction. -/

namespace Sys2Proof

open Sys2Proof.Machine

theorem DeviceWrote.refl (s : State) : DeviceWrote s s := ⟨rfl⟩

theorem DeviceWrote.trans {s t u : State} (h1 : DeviceWrote s t) (h2 : DeviceWrote t u) : DeviceWrote s u := by
  refine ⟨h2.same.trans ?_⟩
  rw [h1.same]

end Sys2Proof

namespace Sys2Proof.Machine

open Sys2Proof

/-- What it takes for an instruction to be at the head of a group. -/
theorem headOf_some {i : Instr} {s : State} {k : Nat} {g : Grp} (h : headOf i s = some (k, g)) :
    ∃ g0 σ f, s.cur = some k ∧ tabGet s.groups k = some g0 ∧ sig i = some σ ∧ fields i = some f ∧ g = atIssue s g0 ∧
      issueReady i (setGroup s k g) k g σ f = true := by
  unfold headOf at h
  split at h
  · cases h
  · next k' hc =>
    split at h
    · next g0 σ f h1 h2 h3 =>
      split at h
      · next hr =>
        simp only [Option.some.injEq, Prod.mk.injEq] at h
        obtain ⟨rfl, rfl⟩ := h
        exact ⟨g0, σ, f, hc, h1, h2, h3, rfl, hr⟩
      · cases h
    · cases h

/-- An instruction at the head of its group runs its own effect. -/
theorem issue_head {i : Instr} {s : State} {k : Nat} {g : Grp} {f : Fields} (h : headOf i s = some (k, g)) (hf : fields i = some f)
    (how : How) (body : State → Nat → Grp → Env → Res) :
    issue i how body s = conclude (setGroup s k g) k g how f.hdr (body (setGroup s k g) k g (envOf s g f.hdr)) := by
  obtain ⟨g0, σ, f', hc, hg, hs, hf', rfl, hr⟩ := headOf_some h
  rw [hf] at hf'
  obtain rfl := Option.some.inj hf'
  have e : ({ releaseSlots s.cycle g0 with yld := false } : Grp) = atIssue s g0 := rfl
  simp only [issue, hc, hg, hs, hf, e, hr, if_true]
  rfl

/-- No cause halts, so the causes set flags and append records. -/
theorem numEval_noHalt (g : Grp) (n : Notes) (h : noHalt g = true) :
    numEval g n = .go (flagsAfter g n) ((numEvents g n).filter (fun e => numEnabled g e.code)) := by
  have hn : numOrder.find? (fun c => numHalts g c && (numEvents g n).any (fun e => e.code == c)) = none := by
    simp only [noHalt, List.all_eq_true, List.mem_range, Bool.not_eq_true'] at h
    rw [List.find?_eq_none]
    intro c hc
    have : c < 5 := by simp [numOrder] at hc; omega
    simp [h c this]
  simp only [numEval, hn, flagsAfter]

/-- A profiling count changes the VF alone, and nothing when profiling is off. -/
theorem prfAdd_rest (s : State) (vf kind die inst event n : Nat) :
    ∃ v, prfAdd s vf kind die inst event n = { s with vfs := v } ∧ ((getVf s vf).prfctl.getLsbD 63 = false → v = s.vfs) := by
  simp only [prfAdd]
  split
  · exact ⟨s.vfs, rfl, fun _ => rfl⟩
  · next h =>
    split
    · exact ⟨s.vfs, rfl, fun _ => rfl⟩
    · exact ⟨_, rfl, fun hp => absurd (show _ = true by rw [hp, Bool.not_false, Bool.or_true]) h⟩

theorem wakeWaits_wrote (s : State) (pa n : Nat) : DeviceWrote s (wakeWaits s pa n) := by
  have key : ∀ (l : List WaitEnt) (t : State), DeviceWrote t (l.foldl
      (fun t w => partDone t w.acc w.pa (BitVec.ofNat 128 (waitVal s w)) waWoken) t) := by
    intro l
    induction l with
    | nil => exact DeviceWrote.refl
    | cons w l ih => exact fun t => DeviceWrote.trans ⟨rfl⟩ (ih _)
  exact (key _ s).trans ⟨rfl⟩

theorem wakePieces_wrote (ps : Pieces) : ∀ s : State, DeviceWrote s (wakePieces s ps) := by
  induction ps with
  | nil => exact DeviceWrote.refl
  | cons p ps ih => exact fun s => (wakeWaits_wrote s p.1 p.2.length).trans (ih _)

theorem putPieces_wrote (ps : Pieces) : ∀ s : State, DeviceWrote s (putPieces s ps) := by
  induction ps with
  | nil => exact DeviceWrote.refl
  | cons p ps ih => exact fun s => DeviceWrote.trans (t := putBytes s p.1 p.2) ⟨rfl⟩ (ih _)

theorem sealLine_wrote (s : State) (line : Nat) (k : KeyId) (cmp bad : Bool) : DeviceWrote s (sealLine s line k cmp bad) := ⟨rfl⟩
theorem clearPoison_wrote (s : State) (pa n : Nat) : DeviceWrote s (clearPoison s pa n) := ⟨rfl⟩

/-- What a write at its home gives: a state that is left, or a fault. -/
def PumpRes.Leaves (p : State → Prop) : PumpRes → Prop
  | .done t _ | .stall t _ => p t
  | .fault _ => True

/-- A write at its home on a page that is not versioned changes memory and what follows its lines alone. -/
theorem pumpWrites_wrote (s : State) (key : KeyId) (cmp : Bool) (pa : Nat) (ps : Pieces) (own st : Option Nat) :
    (pumpWrites s key false cmp pa ps own st).Leaves (DeviceWrote s) := by
  have plain : DeviceWrote s (wakePieces (if piecesMask (pa / 128) ps = BitVec.allOnes 128 then
      clearPoison (putPieces s ps) (128 * (pa / 128)) 128 else putPieces s ps) ps) := by
    refine DeviceWrote.trans ?_ (wakePieces_wrote ps _)
    split
    · exact (putPieces_wrote ps s).trans ⟨rfl⟩
    · exact putPieces_wrote ps s
  unfold pumpWrites
  split <;> try exact plain
  · simp only [Bool.or_false, Bool.false_and, Bool.false_eq_true, if_false]
    split
    · exact ⟨rfl⟩
    · split
      · trivial
      · split
        · trivial
        · split
          · trivial
          · split
            · exact ⟨rfl⟩
            · refine DeviceWrote.trans (DeviceWrote.trans ?_ (sealLine_wrote _ _ _ _ _)) (wakePieces_wrote ps _)
              split
              · refine DeviceWrote.trans ?_ (putPieces_wrote ps _)
                split
                · exact ⟨rfl⟩
                · exact ⟨rfl⟩
              · refine DeviceWrote.trans (DeviceWrote.trans ?_ (putPieces_wrote ps _)) (clearPoison_wrote _ _ _)
                split
                · exact ⟨rfl⟩
                · exact ⟨rfl⟩
  · trivial

/-- The end of a re-encryption changes line metadata alone. -/
theorem endReenc_wrote (s : State) (grp : Nat) : DeviceWrote s (endReenc s grp) := by
  unfold endReenc
  split <;> exact ⟨rfl⟩

/-- A device's own write changes memory and what follows its lines alone. -/
theorem devWrite_wrote (s : State) (ck pa : Nat) (bs : List Byte) : DeviceWrote s (devWrite s ck pa bs) := by
  simp only [devWrite, pumpWrite]
  split
  · exact ⟨rfl⟩
  · have h := pumpWrites_wrote s (.vf (ctxVf ck)) (decide (8 ≤ (lineOf s (pa / 128)).tag.toNat)) pa [(pa, bs)] none none
    split
    · next h1 => rw [h1] at h; exact h
    · exact ⟨rfl⟩
    · next s1 _ h1 =>
      rw [h1] at h
      have h2 := pumpWrites_wrote (endReenc s1 (groupOf (pa / 128))) (.vf (ctxVf ck)) (decide (8 ≤ (lineOf s (pa / 128)).tag.toNat)) pa [(pa, bs)] none none
      have h3 := DeviceWrote.trans h (endReenc_wrote s1 (groupOf (pa / 128)))
      split
      · next h4 => rw [h4] at h2; exact h3.trans h2
      · next h4 => rw [h4] at h2; exact h3.trans h2
      · exact DeviceWrote.trans h ⟨rfl⟩

/-- An appended record changes its ring's context, and what the write changes. -/
theorem ringPush_wrote {s t : State} {ck : Nat} {r : RingId} {rec4 : List W64} (h : ringPush s ck r rec4 = some t) :
    DeviceWrote { s with ctxs := t.ctxs } t := by
  simp only [ringPush] at h
  split at h
  · cases h
  · split at h
    · cases h
    · next c _ _ =>
      have hd := (devWrite_wrote s ck (fld (ringWord c r) 51 5 * 32 + 32 * ((ringOf c r).head % 2 ^ fld (ringWord c r) 63 56)) (wordsBytes rec4)).same
      cases h
      rw [hd]
      exact ⟨rfl⟩

/-- What may change when records of a group are appended: its RINGOVF flag, the context, memory and counts. -/
structure Recorded (s t : State) (k : Nat) (g : Grp) : Prop where
  group : ∃ fl, tabGet t.groups k = some { g with numflag := fl } ∧ (fl = g.numflag ∨ fl = g.numflag ||| 0x20#64)
  others : ∀ j, j ≠ k → tabGet t.groups j = tabGet s.groups j
  rest : DeviceWrote { s with groups := t.groups, ctxs := t.ctxs, vfs := t.vfs } t
  vfs : (getVf s (ctxVf g.ctx)).prfctl.getLsbD 63 = false → t.vfs = s.vfs

theorem Recorded.refl {s : State} {k : Nat} {g : Grp} (h : tabGet s.groups k = some g) : Recorded s s k g :=
  ⟨⟨g.numflag, h, .inl rfl⟩, fun _ _ => rfl, .refl _, fun _ => rfl⟩

/-- One numeric event record. -/
theorem numPush_recorded {s : State} {k : Nat} {g : Grp} (h : tabGet s.groups k = some g) (pc : Nat) (halted : Bool) (e : NumEv) :
    Recorded s (numPush s k pc halted e) k g := by
  simp only [numPush, h]
  split
  · next t ht =>
    obtain ⟨v, hv, hp⟩ := prfAdd_rest t (ctxVf g.ctx) 0 (dieOf k) (coreOf k % 64) 7 1
    have hr := ringPush_wrote ht
    have e1 := hr.same
    rw [hv]
    refine ⟨⟨g.numflag, ?_, .inl rfl⟩, fun _ _ => ?_, ⟨?_⟩, fun q => ?_⟩
    · show tabGet t.groups k = _
      rw [e1]; exact h
    · show tabGet t.groups _ = _
      rw [e1]
    · rw [e1]
    · show v = _
      rw [hp (by rw [e1]; exact q), e1]
  · split
    · exact Recorded.refl h
    · refine ⟨⟨g.numflag ||| 0x20#64, ?_, .inr rfl⟩, ?_, ⟨rfl⟩, fun _ => rfl⟩
      · simp [tabGet_upd, h]
      · intro j hj
        simp [tabGet_upd, Ne.symm hj]

theorem Recorded.trans {s t u : State} {k : Nat} {g g' : Grp} (h1 : Recorded s t k g) (hg : tabGet t.groups k = some g')
    (h2 : Recorded t u k g') : Recorded s u k g := by
  obtain ⟨f1, e1, o1⟩ := h1.group
  rw [hg] at e1
  obtain rfl := Option.some.inj e1
  obtain ⟨f2, e2, o2⟩ := h2.group
  refine ⟨⟨f2, e2, ?_⟩, fun j hj => (h2.others j hj).trans (h1.others j hj), ?_, fun hp => ?_⟩
  · simp only at o2
    rcases o1 with rfl | rfl <;> rcases o2 with rfl | rfl <;> first | exact .inl rfl | exact .inr rfl | skip
    rw [BitVec.or_assoc, BitVec.or_self]; exact .inr rfl
  · have e1 := h1.rest.same
    exact ⟨h2.rest.same.trans (by rw [e1])⟩
  · have e := h1.vfs hp
    rw [h2.vfs (by rw [show getVf t (ctxVf g.ctx) = getVf s (ctxVf g.ctx) by simp only [getVf, e]]; exact hp), e]

/-- A list of numeric event records. -/
theorem numPushes_recorded (pc : Nat) (halted : Bool) (es : List NumEv) :
    ∀ {s : State} {k : Nat} {g : Grp}, tabGet s.groups k = some g →
      Recorded s (es.foldl (fun t e => numPush t k pc halted e) s) k g := by
  induction es with
  | nil => exact fun h => Recorded.refl h
  | cons e es ih =>
    intro s k g h
    have h1 := numPush_recorded h pc halted e
    obtain ⟨f, hf, -⟩ := h1.group
    exact h1.trans hf (ih hf)

/-- Counts of one issue change the VF alone. -/
theorem prfAdds_rest (vf die c : Nat) (l : List (Nat × Nat)) :
    ∀ s : State, ∃ v, l.foldl (fun t (cn : Nat × Nat) => prfAdd t vf 0 die c cn.1 cn.2) s = { s with vfs := v } ∧
      ((getVf s vf).prfctl.getLsbD 63 = false → v = s.vfs) := by
  induction l with
  | nil => exact fun s => ⟨s.vfs, rfl, fun _ => rfl⟩
  | cons x l ih =>
    intro s
    obtain ⟨v, e, p⟩ := prfAdd_rest s vf 0 die c x.1 x.2
    obtain ⟨w, e', p'⟩ := ih (prfAdd s vf 0 die c x.1 x.2)
    refine ⟨w, ?_, fun hp => ?_⟩
    · rw [List.foldl_cons, e', e]
    · have hv := p hp
      have hs : prfAdd s vf 0 die c x.1 x.2 = s := by rw [e, hv]
      rw [p' (by rw [hs]; exact hp), hs]

/-- Lane counts change the VF alone: its lane-cycle counts alone while no session runs. -/
theorem countLanes_rest (s : State) (k : Nat) (g : Grp) (act : Mask) :
    ∃ v, countLanes s k g act = { s with vfs := v } ∧ ((getVf s (ctxVf g.ctx)).prfctl.getLsbD 63 = false →
      ∃ l, v = tabPut s.vfs (ctxVf g.ctx) { getVf s (ctxVf g.ctx) with lcr := l }) := by
  obtain ⟨v, e, p⟩ := prfAdds_rest (ctxVf g.ctx) (dieOf k) (coreOf k % 64) ((5, 1) :: laneClasses g act)
    (updVf s (ctxVf g.ctx) (fun v => { v with lcr := (laneClasses g act).foldl (binLanes v g.pc) v.lcr }))
  refine ⟨v, by rw [countLanes, e]; rfl, fun hp => ⟨_, p ?_⟩⟩
  simp only [getVf, updVf, tabGetD_put, if_true]
  exact hp

theorem noHalt_ctl {g g1 : Grp} (h : g1.numctl = g.numctl) : noHalt g1 = noHalt g := by
  simp only [noHalt, numHalts, h]

theorem numEvents_shape {g g1 : Grp} (h1 : g1.paired = g.paired) (h2 : g1.triplex = g.triplex) (n : Notes) :
    numEvents g1 n = numEvents g n := by
  have e1 : halves g1 = halves g := by funext m; simp only [halves, h1]
  have e0 : nThreads g1 = nThreads g := by simp only [nThreads, nLanes, h1, h2]
  have e2 : halfOf g1 = halfOf g := by funext m; unfold halfOf; rw [h1, e0]
  have e3 : ∀ ts p, maskOf g1 ts p = maskOf g ts p := fun ts p => by simp only [maskOf, threadMask, h2]
  simp only [numEvents, e1, e2, e3]

theorem numEval_like {g g1 : Grp} (hp : g1.paired = g.paired) (ht : g1.triplex = g.triplex)
    (hc : g1.numctl = g.numctl) (hn : noHalt g = true) (n : Notes) :
    numEval g1 n = .go (flagsAfter g1 n) ((numEvents g n).filter (fun e => numEnabled g e.code)) := by
  rw [numEval_noHalt g1 n ((noHalt_ctl hc).trans hn)]
  simp only [flagsAfter, numEvents_shape hp ht n, numEnabled, hc]

/-- The end of an issue that halts for no numerical cause. -/
theorem concludeIssue_done {s0 s1 : State} {k : Nat} {g g1 : Grp} (h0 : tabGet s0.groups k = some g)
    (h1 : tabGet s1.groups k = some g1) (hp : g1.paired = g.paired) (ht : g1.triplex = g.triplex) (hc : g1.ctx = g.ctx) (hn : noHalt g = true) (act : Mask) (n : Notes) :
    ∃ t, concludeIssue s0 s1 k g act n = .next t ∧ Done s1 t k g g1 n := by
  have hev : numEval { g1 with numctl := g.numctl } n = .go (flagsAfter g1 n) _ :=
    numEval_like (g := g) (g1 := { g1 with numctl := g.numctl }) hp ht rfl hn n
  simp only [concludeIssue, numApply, h0, h1, hev]
  have hg : tabGet (setGroup s1 k { g1 with numflag := flagsAfter g1 n }).groups k = some { g1 with numflag := flagsAfter g1 n } := by simp
  obtain ⟨⟨fl, e1, o1⟩, oth, rest, vf⟩ :=
    numPushes_recorded g.pc false ((numEvents g n).filter (fun e => numEnabled g e.code)) hg
  obtain ⟨v, ev, pv⟩ := countLanes_rest
    (((numEvents g n).filter (fun e => numEnabled g e.code)).foldl (fun t e => numPush t k g.pc false e)
      (setGroup s1 k { g1 with numflag := flagsAfter g1 n })) k g act
  rw [ev]
  generalize hu : ((numEvents g n).filter (fun e => numEnabled g e.code)).foldl (fun t e => numPush t k g.pc false e)
      (setGroup s1 k { g1 with numflag := flagsAfter g1 n }) = u at *
  have hq : quiet g n = true → u = setGroup s1 k { g1 with numflag := flagsAfter g1 n } := by
    intro hq
    have : (numEvents g n).filter (fun e => numEnabled g e.code) = [] := by
      rw [List.filter_eq_nil_iff]
      simp only [quiet, List.all_eq_true, Bool.not_eq_true'] at hq
      intro e he; simp [hq e he]
    rw [← hu, this]; rfl
  refine ⟨_, rfl, ⟨fl, e1, o1, fun q => ?_⟩, fun j hj => ?_, ⟨?_⟩, fun q => ?_, fun hv => ?_⟩
  · have := e1
    rw [hq q] at this
    simp at this
    exact this.symm
  · have := oth j hj
    simpa [tabGet_put_other _ _ (Ne.symm hj)] using this
  · rw [rest.same]; rfl
  · rw [hq q]; rfl
  · have e : u.vfs = s1.vfs := vf (by rw [show ({ g1 with numflag := flagsAfter g1 n } : Grp).ctx = g.ctx from hc]; exact hv)
    have e' : getVf u (ctxVf g.ctx) = getVf s1 (ctxVf g.ctx) := by simp only [getVf, e]
    obtain ⟨l, hl⟩ := pv (by rw [e']; exact hv)
    exact ⟨l, by rw [← e, ← e']; exact hl⟩

/-- Register writes change registers alone. -/
theorem putCell_rest (g : Grp) (w : RegW) : ∃ v x p o, putCell g w = { g with v := v, s := x, p := p, poison := o } := by
  simp only [putCell]
  split
  · exact ⟨_, _, _, _, rfl⟩
  · exact ⟨_, _, _, _, rfl⟩
  · exact ⟨_, _, _, _, rfl⟩
  · split
    · exact ⟨g.v, g.s, g.p, _, rfl⟩
    · exact ⟨_, _, _, _, rfl⟩

theorem putCells_rest (ws : List RegW) (g : Grp) : ∃ v x p o, putCells g ws = { g with v := v, s := x, p := p, poison := o } := by
  induction ws generalizing g with
  | nil => exact ⟨g.v, g.s, g.p, g.poison, rfl⟩
  | cons w ws ih =>
    obtain ⟨v, x, p, o, h⟩ := putCell_rest g w
    obtain ⟨v', x', p', o', h'⟩ := ih (putCell g w)
    refine ⟨v', x', p', o', ?_⟩
    show putCells (putCell g w) ws = _
    rw [h', h]

/-- Landing changes registers, their poison and outstanding writes alone. -/
theorem landCells_rest (g : Grp) (ws : List RegW) :
    ∃ v x p o q, landCells g ws = { g with v := v, s := x, p := p, poison := o, pend := q } := by
  obtain ⟨v, x, p, o, h⟩ := putCells_rest ws { g with pend := g.pend.map (fun p => { p with writes := p.writes.filterMap (overtaken ws) }) }
  exact ⟨v, x, p, o, _, h⟩

/-- A slot that goes down changes the slots alone. -/
theorem slotFree_rest (g : Grp) (n : Option Nat) : ∃ b, slotFree g n = { g with sb := b } := by
  cases n <;> exact ⟨_, rfl⟩

/-- The counted distance changes registers, outstanding writes and their slots alone. -/
theorem countdown_rest (g : Grp) (d : Nat) :
    ∃ v x p o b q, countdown g d = { g with v := v, s := x, p := p, poison := o, sb := b, pend := q } := by
  have key : ∀ (l : List Pend) (g0 : Grp), ∃ v x p o b q,
      l.foldl (fun g p =>
        if p.freeAt.isSome then { g with pend := g.pend ++ [p] }
        else if p.left ≤ d then
          let g1 := slotFree (putCells g p.writes) p.slot
          { g1 with pend := g1.pend.map (fun q => { q with writes := q.writes.filterMap (overtaken p.writes) }) }
        else { g with pend := g.pend ++ [{ p with left := p.left - d }] }) g0 =
      { g0 with v := v, s := x, p := p, poison := o, sb := b, pend := q } := by
    intro l
    induction l with
    | nil => intro g0; exact ⟨g0.v, g0.s, g0.p, g0.poison, g0.sb, g0.pend, rfl⟩
    | cons a l ih =>
      intro g0
      simp only [List.foldl_cons]
      have h1 : ∃ v x p o b q, (if a.freeAt.isSome then { g0 with pend := g0.pend ++ [a] }
        else if a.left ≤ d then
          let g1 := slotFree (putCells g0 a.writes) a.slot
          { g1 with pend := g1.pend.map (fun q => { q with writes := q.writes.filterMap (overtaken a.writes) }) }
        else { g0 with pend := g0.pend ++ [{ a with left := a.left - d }] }) = { g0 with v := v, s := x, p := p, poison := o, sb := b, pend := q } := by
        split
        · exact ⟨g0.v, g0.s, g0.p, g0.poison, g0.sb, _, rfl⟩
        · split
          · obtain ⟨v, x, p, o, h⟩ := putCells_rest a.writes g0
            rw [h]
            obtain ⟨b, hb⟩ := slotFree_rest { g0 with v := v, s := x, p := p, poison := o } a.slot
            rw [hb]
            exact ⟨v, x, p, o, b, _, rfl⟩
          · exact ⟨g0.v, g0.s, g0.p, g0.poison, g0.sb, _, rfl⟩
      obtain ⟨v, x, p, o, b, q, h⟩ := h1
      rw [h]
      obtain ⟨v', x', p', o', b', q', h'⟩ := ih { g0 with v := v, s := x, p := p, poison := o, sb := b, pend := q }
      exact ⟨v', x', p', o', b', q', h'⟩
  obtain ⟨v, x, p, o, b, q, h⟩ := key g.pend { g with pend := [] }
  exact ⟨v, x, p, o, b, q, h⟩

/-- A word that goes on leaves a group as it was but for its registers, outstanding writes, place and hints. -/
theorem goesOn_rest (s : State) (g : Grp) (h : Hdr) :
    ∃ v x p o b q, goesOn s g h = { g with
      v := v, s := x, p := p, poison := o, sb := b, pend := q, pc := g.pc + 1, fall := fallsOff s g.ctx g.pc,
      nextAt := s.cycle + h.stall.toNat + 1, yld := g.yld || h.yld, step := false } := by
  obtain ⟨v, x, p, o, b, q, e⟩ := countdown_rest (advance s g) (h.stall.toNat + 1)
  refine ⟨v, x, p, o, b, q, ?_⟩
  simp only [goesOn, hints, e]
  rfl

/-- Releasing slots changes the slots and the outstanding entries alone. -/
theorem releaseSlots_rest (c : Nat) (g : Grp) : ∃ b q, releaseSlots c g = { g with sb := b, pend := q } := by
  have key : ∀ (l : List Pend) (g0 : Grp), ∃ b q,
      l.foldl (fun g p => if p.freeAt.any (fun n => decide (n ≤ c)) then slotFree g p.slot else { g with pend := g.pend ++ [p] }) g0 =
        { g0 with sb := b, pend := q } := by
    intro l
    induction l with
    | nil => intro g0; exact ⟨g0.sb, g0.pend, rfl⟩
    | cons a l ih =>
      intro g0
      simp only [List.foldl_cons]
      have h1 : ∃ b q, (if a.freeAt.any (fun n => decide (n ≤ c)) then slotFree g0 a.slot else { g0 with pend := g0.pend ++ [a] }) =
          { g0 with sb := b, pend := q } := by
        split
        · obtain ⟨b, hb⟩ := slotFree_rest g0 a.slot
          exact ⟨b, g0.pend, hb⟩
        · exact ⟨g0.sb, _, rfl⟩
      obtain ⟨b, q, h⟩ := h1
      rw [h]
      obtain ⟨b', q', h'⟩ := ih { g0 with sb := b, pend := q }
      exact ⟨b', q', h'⟩
  obtain ⟨b, q, h⟩ := key g.pend { g with pend := [] }
  exact ⟨b, q, h⟩

/-- What an issue leaves is said from a state that differs in its group and counts alone. -/
theorem done_of {s s2 t : State} {k : Nat} {g g1 : Grp} {n : Notes} (h : Done s2 t k g g1 n)
    (h2 : s2 = { s with groups := s2.groups, vfs := s2.vfs }) (ho : ∀ j, j ≠ k → tabGet s2.groups j = tabGet s.groups j)
    (hv : (getVf s (ctxVf g.ctx)).prfctl.getLsbD 63 = false → s2.vfs = s.vfs) : Done s t k g g1 n := by
  refine ⟨h.group, fun j hj => (h.others j hj).trans (ho j hj), ⟨h.rest.same.trans ?_⟩, fun q => (h.still q).trans ?_, fun hp => ?_⟩
  · rw [h2]
  · rw [h2]
  · have e := hv hp
    have e' : getVf s2 (ctxVf g.ctx) = getVf s (ctxVf g.ctx) := by simp only [getVf, e]
    obtain ⟨l, hl⟩ := h.vfs (by rw [e']; exact hp)
    exact ⟨l, by rw [hl, e, e']⟩

/-- A lane instruction at the head of its group: its result is on its way, and the group goes on. -/
theorem laneInsS_done {i : Instr} {s : State} {k : Nat} {g : Grp} {f : Fields} {F : State → Env → Except Nat LaneRes} {r : LaneRes}
    (h : headOf i s = some (k, g)) (hf : fields i = some f) (hn : noHalt g = true)
    (hr : F (setGroup s k g) (envOf s g f.hdr) = .ok r) (m : Nat) :
    ∃ t, laneInsS i f.hdr (.fix m) F s = .next t ∧
      Done s t k g (goesOn s (sends (advanceDraws g r.draws) m (hdrSlot f.hdr) r.writes) f.hdr) r.notes := by
  simp only [laneInsS, issue_head h hf, hr, conclude, sendResult, Bool.false_eq_true, if_false]
  obtain ⟨v, hv, pv⟩ := prfAdd_rest
    (setGroup (setGroup s k g) k (sends (advanceDraws g r.draws) m (hdrSlot f.hdr) r.writes))
    (ctxVf g.ctx) 0 (dieOf k) (coreOf k % 64) 6 (r.draws.foldl (fun n d => n + d.2) 0)
  have e0 : ({ slotUp (advanceDraws g r.draws) (hdrSlot f.hdr) with
      pend := (advanceDraws g r.draws).pend ++ [⟨m, r.writes, hdrSlot f.hdr, none⟩] } : Grp) =
      sends (advanceDraws g r.draws) m (hdrSlot f.hdr) r.writes := rfl
  rw [e0, hv]
  set G := sends (advanceDraws g r.draws) m (hdrSlot f.hdr) r.writes with hG
  have e1 : updGroup { setGroup (setGroup s k g) k G with vfs := v } k (afterIssue (setGroup s k g) ⟨false, true, false⟩ f.hdr) =
      { setGroup s k (goesOn s G f.hdr) with vfs := v } := by
    simp only [updGroup, setGroup, tabPut_put, tabUpd_put]
    rfl
  rw [e1]
  obtain ⟨vv, xx, pp, oo, bb, qq, eg⟩ := goesOn_rest s G f.hdr
  have sl : ∃ b, slotUp (advanceDraws g r.draws) (hdrSlot f.hdr) = { advanceDraws g r.draws with sb := b } := by
    cases hdrSlot f.hdr
    · exact ⟨_, rfl⟩
    · exact ⟨_, rfl⟩
  obtain ⟨b, hb⟩ := sl
  have hGr : G = { advanceDraws g r.draws with sb := b, pend := G.pend } := by rw [hG, sends, hb]
  have h1 : tabGet ({ setGroup s k (goesOn s G f.hdr) with vfs := v } : State).groups k = some (goesOn s G f.hdr) := by simp
  obtain ⟨t, ht, hd⟩ := concludeIssue_done (s0 := setGroup s k g) (g := g) (by simp) h1
    (by rw [eg, hGr]; rfl) (by rw [eg, hGr]; rfl) (by rw [eg, hGr]; rfl) hn
    (activeMask g f.hdr) r.notes
  exact ⟨t, ht, done_of hd rfl (fun j hj => by simp [tabGet_put_other _ _ (Ne.symm hj)]) (fun hp => pv hp)⟩

/-- The same for an instruction that computes on registers alone. -/
theorem laneIns_done {i : Instr} {s : State} {k : Nat} {g : Grp} {f : Fields} {F : Env → Except Nat LaneRes} {r : LaneRes}
    (h : headOf i s = some (k, g)) (hf : fields i = some f) (hn : noHalt g = true)
    (hr : F (envOf s g f.hdr) = .ok r) (m : Nat) :
    ∃ t, laneIns i f.hdr (.fix m) F s = .next t ∧
      Done s t k g (goesOn s (sends (advanceDraws g r.draws) m (hdrSlot f.hdr) r.writes) f.hdr) r.notes :=
  laneInsS_done (F := fun _ => F) h hf hn hr m

/-- An instruction at the head of its group whose effect faults. -/
theorem issue_fault {i : Instr} {s s1 : State} {k c a : Nat} {g : Grp} {f : Fields} {how : How}
    {body : State → Nat → Grp → Env → Res} (h : headOf i s = some (k, g)) (hf : fields i = some f)
    (hb : body (setGroup s k g) k g (envOf s g f.hdr) = .fault s1 c a) : issue i how body s = takeFault s1 k c a := by
  rw [issue_head h hf, hb]; rfl

/-- A lane instruction whose computation raises a cause. -/
theorem laneInsS_fault {i : Instr} {s : State} {k c : Nat} {g : Grp} {f : Fields} {F : State → Env → Except Nat LaneRes}
    (h : headOf i s = some (k, g)) (hf : fields i = some f) (hr : F (setGroup s k g) (envOf s g f.hdr) = .error c) (lat : Lat) :
    laneInsS i f.hdr lat F s = takeFault (setGroup s k g) k c 0 :=
  issue_fault h hf (by simp only [hr])

theorem laneIns_fault {i : Instr} {s : State} {k c : Nat} {g : Grp} {f : Fields} {F : Env → Except Nat LaneRes}
    (h : headOf i s = some (k, g)) (hf : fields i = some f) (hr : F (envOf s g f.hdr) = .error c) (lat : Lat) :
    laneIns i f.hdr lat F s = takeFault (setGroup s k g) k c 0 :=
  laneInsS_fault (F := fun _ => F) h hf hr lat

theorem hints_rest (c : Nat) (g : Grp) (h : Hdr) : ∃ v x p o b q nx y st, hints c g h = { g with
    v := v, s := x, p := p, poison := o, sb := b, pend := q, nextAt := nx, yld := y, step := st } := by
  obtain ⟨v, x, p, o, b, q, e⟩ := countdown_rest g (h.stall.toNat + 1)
  simp only [hints, e]
  exact ⟨_, _, _, _, _, _, _, _, _, rfl⟩

/-- What every completed issue can change of its group. -/
theorem afterIssue_rest (s : State) (how : How) (h : Hdr) (G : Grp) :
    ∃ v x p o q b pc fa nx y st, afterIssue s how h G = { G with
      v := v, s := x, p := p, poison := o, pend := q, sb := b, pc := pc, fall := fa, nextAt := nx, yld := y, step := st } := by
  obtain ⟨pc, fa, e1⟩ : ∃ pc fa, (if how.ownPc then G else advance s G) = { G with pc := pc, fall := fa } := by
    cases how.ownPc <;> exact ⟨_, _, rfl⟩
  obtain ⟨b, q, e2⟩ : ∃ b q, (if how.ownSlot then ({ G with pc := pc, fall := fa } : Grp) else
      marksSlot s { G with pc := pc, fall := fa } h) = { G with pc := pc, fall := fa, sb := b, pend := q } := by
    unfold marksSlot
    cases how.ownSlot <;> cases hdrSlot h <;> exact ⟨_, _, rfl⟩
  obtain ⟨v, x, p, o, b', q', nx, y, st, e3⟩ := hints_rest s.cycle { G with pc := pc, fall := fa, sb := b, pend := q } h
  refine ⟨v, x, p, o, q', b', pc, fa, nx, y, st, ?_⟩
  simp only [afterIssue, e1, e2, e3]

/-- An instruction that moves no paths and whose effect completes: what it leaves is said from its own effect's state,
in which the group has gone on. -/
theorem issue_done {i : Instr} {s s1 : State} {k : Nat} {g G : Grp} {f : Fields} {how : How} {n : Notes}
    {body : State → Nat → Grp → Env → Res} (h : headOf i s = some (k, g)) (hf : fields i = some f) (hn : noHalt g = true)
    (hp : how.paths = false) (hb : body (setGroup s k g) k g (envOf s g f.hdr) = .ok s1 n)
    (hG : tabGet s1.groups k = some G) (h1 : G.paired = g.paired) (h2 : G.triplex = g.triplex) (h4 : G.ctx = g.ctx) :
    ∃ t, issue i how body s = .next t ∧
      Done (setGroup s1 k (afterIssue s how f.hdr G)) t k g (afterIssue s how f.hdr G) n := by
  rw [issue_head h hf, hb]
  simp only [conclude, hp, Bool.false_eq_true, if_false]
  have e : updGroup s1 k (afterIssue (setGroup s k g) how f.hdr) = setGroup s1 k (afterIssue s how f.hdr G) := by
    simp only [updGroup, setGroup, tabUpd_some hG]
    rfl
  rw [e]
  have hr := afterIssue_rest s how f.hdr G
  obtain ⟨v, x, p, o, q, b, pc, fa, nx, y, st, er⟩ := hr
  exact concludeIssue_done (s0 := setGroup s k g) (g := g) (by simp) (by simp)
    (by rw [er]; exact h1) (by rw [er]; exact h2) (by rw [er]; exact h4) hn (activeMask g f.hdr) n

/-- A lane instruction of variable latency. -/
theorem laneInsS_var {i : Instr} {s : State} {k : Nat} {g : Grp} {f : Fields} {F : State → Env → Except Nat LaneRes} {r : LaneRes}
    (h : headOf i s = some (k, g)) (hf : fields i = some f) (hn : noHalt g = true)
    (hr : F (setGroup s k g) (envOf s g f.hdr) = .ok r) :
    ∃ t, laneInsS i f.hdr .var F s = .next t ∧
      Done { s with serial := s.serial + 1 } t k g
        (goesOn s (awaits s (advanceDraws g r.draws) (hdrSlot f.hdr) r.writes) f.hdr) r.notes := by
  obtain ⟨v, hv, pv⟩ := prfAdd_rest
    (setGroup { setGroup s k g with serial := s.serial + 1 } k (awaits s (advanceDraws g r.draws) (hdrSlot f.hdr) r.writes))
    (ctxVf g.ctx) 0 (dieOf k) (coreOf k % 64) 6 (r.draws.foldl (fun n d => n + d.2) 0)
  have sl : ∃ b, slotUp (advanceDraws g r.draws) (hdrSlot f.hdr) = { advanceDraws g r.draws with sb := b } := by
    cases hdrSlot f.hdr <;> exact ⟨_, rfl⟩
  obtain ⟨b, hb⟩ := sl
  set G := awaits s (advanceDraws g r.draws) (hdrSlot f.hdr) r.writes with hG
  have hGr : G = { advanceDraws g r.draws with sb := b, vres := G.vres } := by rw [hG, awaits, hb]
  obtain ⟨t, ht, hd⟩ := issue_done (i := i) (s := s) (how := ⟨false, true, false⟩) (n := r.notes) (G := G)
    (s1 := { setGroup { setGroup s k g with serial := s.serial + 1 } k G with vfs := v })
    (body := fun s k g e =>
      match F s e with
      | .error c => .fault s c 0
      | .ok r =>
        let nd := r.draws.foldl (fun n d => n + d.2) 0
        .ok (prfAdd (sendResult s k (advanceDraws g r.draws) .var (hdrSlot f.hdr) r.writes) (ctxVf g.ctx) 0 (dieOf k) (coreOf k % 64) 6 nd) r.notes)
    h hf hn rfl (by simp only [hr]; rw [← hv]; rfl) (by simp)
    (by rw [hGr]; rfl) (by rw [hGr]; rfl) (by rw [hGr]; rfl)
  refine ⟨t, ht, ?_⟩
  have e : afterIssue s ⟨false, true, false⟩ f.hdr G = goesOn s G f.hdr := rfl
  rw [e] at hd
  refine done_of hd ?_ (fun j hj => ?_) (fun hp => pv hp)
  · simp only [setGroup, tabPut_put]
  · simp [tabGet_put_other _ _ (Ne.symm hj)]

theorem laneIns_var {i : Instr} {s : State} {k : Nat} {g : Grp} {f : Fields} {F : Env → Except Nat LaneRes} {r : LaneRes}
    (h : headOf i s = some (k, g)) (hf : fields i = some f) (hn : noHalt g = true) (hr : F (envOf s g f.hdr) = .ok r) :
    ∃ t, laneIns i f.hdr .var F s = .next t ∧
      Done { s with serial := s.serial + 1 } t k g
        (goesOn s (awaits s (advanceDraws g r.draws) (hdrSlot f.hdr) r.writes) f.hdr) r.notes :=
  laneInsS_var (F := fun _ => F) h hf hn hr

end Sys2Proof.Machine
end

