-- ==== Sys2Proof/Laws/Memory.lean ====
section
/-! SUPPORT. Laws of memory: every operation keeps the canonical form; a read after a write gives what was written
there and leaves every other byte alone. -/

namespace Sys2Proof.Machine

/-- Every listed address lies above a bound. -/
def memAbove (l : Nat) (m : Mem) : Prop := ∀ x ∈ m, l < x.1

theorem memWfFrom_some {l : Nat} {m : Mem} (h : memWfFrom (some l) m = true) : memWfFrom none m = true := by
  cases m with
  | nil => rfl
  | cons a t =>
    obtain ⟨k, v⟩ := a
    simp only [memWfFrom, Bool.and_eq_true] at h ⊢
    exact ⟨⟨trivial, h.1.2⟩, h.2⟩

theorem memWfFrom_lower {l l' : Nat} {m : Mem} (h : l' ≤ l) : memWfFrom (some l) m = true → memWfFrom (some l') m = true := by
  cases m with
  | nil => simp [memWfFrom]
  | cons a t =>
    obtain ⟨k, v⟩ := a
    simp only [memWfFrom, Bool.and_eq_true, decide_eq_true_eq]
    rintro ⟨⟨h1, h2⟩, h3⟩
    exact ⟨⟨by omega, h2⟩, h3⟩

/-- Addresses below the first listed one read as the default. -/
theorem memByte_below {l a : Nat} {m : Mem} (h : memWfFrom (some l) m = true) (ha : a ≤ l) : memByte m a = memDefault := by
  cases m with
  | nil => rfl
  | cons x t =>
    obtain ⟨k, v⟩ := x
    simp only [memWfFrom, Bool.and_eq_true, decide_eq_true_eq] at h
    simp only [memByte]
    rw [if_neg (by omega), if_pos (by omega)]

theorem memErase_wf (o : Option Nat) (m : Mem) (a : Nat) (h : memWfFrom o m = true) : memWfFrom o (memErase m a) = true := by
  induction m generalizing o with
  | nil => simpa [memErase] using h
  | cons x t ih =>
    obtain ⟨k, v⟩ := x
    simp only [memErase]
    split
    · cases o with
      | none => simp only [memWfFrom, Bool.and_eq_true] at h; exact memWfFrom_some h.2
      | some l =>
        simp only [memWfFrom, Bool.and_eq_true, decide_eq_true_eq] at h
        exact memWfFrom_lower (by omega) h.2
    · split
      · exact h
      · cases o <;> simp only [memWfFrom, Bool.and_eq_true] at h ⊢ <;> exact ⟨h.1, ih _ h.2⟩

theorem memInsert_wf (o : Option Nat) (m : Mem) (a : Nat) (b : Byte) (hb : b ≠ memDefault)
    (ho : ∀ l, o = some l → l < a) (h : memWfFrom o m = true) : memWfFrom o (memInsert m a b) = true := by
  have hb' : (b != memDefault) = true := by simpa using hb
  induction m generalizing o with
  | nil =>
    cases o with
    | none => simp [memInsert, memWfFrom, hb']
    | some l => simp [memInsert, memWfFrom, hb', ho l rfl]
  | cons x t ih =>
    obtain ⟨k, v⟩ := x
    simp only [memInsert]
    split
    · next e =>
      subst e
      cases o <;> simp only [memWfFrom, Bool.and_eq_true] at h ⊢
      · exact ⟨⟨trivial, hb'⟩, h.2⟩
      · exact ⟨⟨h.1.1, hb'⟩, h.2⟩
    · split
      · next e1 e2 =>
        cases o with
        | none =>
          simp only [memWfFrom, Bool.and_eq_true, decide_eq_true_eq] at h ⊢
          exact ⟨⟨trivial, hb'⟩, ⟨e2, h.1.2⟩, h.2⟩
        | some l =>
          simp only [memWfFrom, Bool.and_eq_true, decide_eq_true_eq] at h ⊢
          exact ⟨⟨ho l rfl, hb'⟩, ⟨e2, h.1.2⟩, h.2⟩
      · next e1 e2 =>
        cases o <;> simp only [memWfFrom, Bool.and_eq_true] at h ⊢ <;>
          exact ⟨h.1, ih _ (fun l hl => by cases hl; omega) h.2⟩

/-- Writing a byte keeps the canonical form. -/
theorem memPut_wf (m : Mem) (a : Nat) (b : Byte) (h : Memory.wf m = true) : Memory.wf (memPut m a b) = true := by
  unfold Memory.wf memPut at *
  split
  · exact memErase_wf none m a h
  · next hb => exact memInsert_wf none m a b hb (by simp) h

/-- Writing bytes keeps the canonical form. -/
theorem memWrite_wf (bs : List Byte) (m : Mem) (a : Nat) (h : Memory.wf m = true) : Memory.wf (memWrite m a bs) = true := by
  induction bs generalizing m a with
  | nil => exact h
  | cons b bs ih => exact ih _ _ (memPut_wf m a b h)

/-- Leaving bytes out keeps the canonical form. -/
theorem memFilter_wf (q : Nat × Byte → Bool) (o : Option Nat) (m : Mem) (h : memWfFrom o m = true) : memWfFrom o (m.filter q) = true := by
  induction m generalizing o with
  | nil => rfl
  | cons x t ih =>
    obtain ⟨k, v⟩ := x
    simp only [memWfFrom, Bool.and_eq_true] at h
    rw [List.filter_cons]
    split
    · simp only [memWfFrom, Bool.and_eq_true]
      exact ⟨h.1, ih _ h.2⟩
    · cases o with
      | none => exact memWfFrom_some (ih _ h.2)
      | some l => exact memWfFrom_lower (Nat.le_of_lt (by simpa using h.1.1)) (ih _ h.2)

/-- Clearing a range keeps the canonical form. -/
theorem memClear_wf (m : Mem) (a n : Nat) (h : Memory.wf m = true) : Memory.wf (memClear m a n) = true :=
  memFilter_wf _ none m h

/-- Bringing back kept bytes keeps the canonical form. -/
theorem memMerge_wf (xs m : Mem) (h : Memory.wf m = true) : Memory.wf (memMerge m xs) = true := by
  induction xs generalizing m with
  | nil => exact h
  | cons x xs ih => exact ih _ (memPut_wf m x.1 x.2 h)

theorem memErase_read (o : Option Nat) (m : Mem) (a c : Nat) (h : memWfFrom o m = true) :
    memByte (memErase m a) c = if c = a then memDefault else memByte m c := by
  induction m generalizing o with
  | nil => simp [memErase, memByte]
  | cons x t ih =>
    obtain ⟨k, v⟩ := x
    have ht : memWfFrom (some k) t = true := by
      cases o <;> simp only [memWfFrom, Bool.and_eq_true] at h <;> exact h.2
    have hb := fun (ha : c ≤ k) => memByte_below ht ha
    have hi := ih _ ht
    simp only [memErase]
    split_ifs <;> (try simp only [memByte]) <;> (try rw [hi])
    all_goals (try split_ifs) <;> first | rfl | omega | (apply hb; omega)

theorem memInsert_read (m : Mem) (a c : Nat) (b : Byte) : memByte (memInsert m a b) c = if c = a then b else memByte m c := by
  induction m with
  | nil =>
    simp only [memInsert, memByte]
    split_ifs <;> first | rfl | omega
  | cons x t ih =>
    obtain ⟨k, v⟩ := x
    simp only [memInsert]
    split_ifs <;> (try simp only [memByte]) <;> (try rw [ih]) <;> split_ifs <;> first | rfl | omega

/-- A byte read after a byte was written: what was written there, and every other byte as before. -/
theorem memPut_read (m : Mem) (a c : Nat) (b : Byte) (h : Memory.wf m = true) :
    memByte (memPut m a b) c = if c = a then b else memByte m c := by
  unfold memPut
  split
  · next e => rw [memErase_read none m a c h]; simp [e]
  · exact memInsert_read m a c b

/-- A byte read after bytes were written. -/
theorem memWrite_read (bs : List Byte) (m : Mem) (a c : Nat) (h : Memory.wf m = true) :
    memByte (memWrite m a bs) c = if a ≤ c ∧ c < a + bs.length then bs.getD (c - a) memDefault else memByte m c := by
  induction bs generalizing m a with
  | nil => simp only [memWrite, List.length_nil]; rw [if_neg (by omega)]
  | cons b bs ih =>
    simp only [memWrite, List.length_cons]
    rw [ih _ _ (memPut_wf m a b h), memPut_read m a c b h]
    by_cases h1 : a + 1 ≤ c ∧ c < a + 1 + bs.length
    · rw [if_pos h1, if_pos (by omega)]
      obtain ⟨d, hd⟩ : ∃ d, c - a = d + 1 := ⟨c - a - 1, by omega⟩
      have : c - (a + 1) = d := by omega
      rw [hd, this, List.getD_cons_succ]
    · rw [if_neg h1]
      by_cases h2 : c = a
      · subst h2; simp
      · rw [if_neg h2, if_neg (by omega)]

end Sys2Proof.Machine
end

