-- ==== Sys2Proof/Laws/Paths.lean ====
section
/-! SUPPORT. What completions and selection of paths leave, and the completed issue of an instruction that moves paths. -/

namespace Sys2Proof.Machine

open Sys2Proof

/-- What moving paths can change of a group. -/
def PathRest (g h : Grp) : Prop :=
  ∃ st ru em pc fa pa sp jo ra rsp fs, h = { g with
    state := st, running := ru, em := em, pc := pc, fall := fa, paths := pa, spilled := sp, joins := jo, ras := ra, rasSpilled := rsp,
    fromSpill := fs }

theorem PathRest.refl (g : Grp) : PathRest g g := ⟨_, _, _, _, _, _, _, _, _, _, _, rfl⟩

theorem PathRest.trans {a b c : Grp} (h1 : PathRest a b) (h2 : PathRest b c) : PathRest a c := by
  obtain ⟨_, _, _, _, _, _, _, _, _, _, _, rfl⟩ := h1
  obtain ⟨_, _, _, _, _, _, _, _, _, _, _, rfl⟩ := h2
  exact ⟨_, _, _, _, _, _, _, _, _, _, _, rfl⟩

theorem pathRest_foldl {α : Type} (f : Grp → α → Grp) (hf : ∀ g x, PathRest g (f g x)) (l : List α) (g : Grp) :
    PathRest g (l.foldl f g) := by
  induction l generalizing g with
  | nil => exact .refl g
  | cons x l ih => exact (hf g x).trans (ih (f g x))

theorem park_rest (g : Grp) (kind : PathKind) (pc : Nat) (em : Mask) (fall : Bool) (rank since : Nat) :
    PathRest g (park g kind pc em fall rank since) := ⟨_, _, _, _, _, _, _, _, _, _, _, rfl⟩

theorem parkRunning_rest (g : Grp) (kind : PathKind) (since : Nat) : PathRest g (parkRunning g kind since) := by
  unfold parkRunning
  split <;> exact ⟨_, _, _, _, _, _, _, _, _, _, _, rfl⟩

theorem formPaths_rest (g : Grp) (fs : List (Nat × Mask)) (since : Nat) : PathRest g (formPaths g fs since) := by
  unfold formPaths
  simp only
  split
  · exact .refl g
  · refine (parkRunning_rest g .runnable since).trans (pathRest_foldl _ (fun g x => ?_) _ _)
    exact park_rest _ _ _ _ _ _ _

theorem closeJoin_rest (g : Grp) (j : Nat) (lost : Bool) : PathRest g (closeJoin g j lost) := ⟨_, _, _, _, _, _, _, _, _, _, _, rfl⟩

theorem runPath_rest (g : Grp) (p : Path) : PathRest g (runPath g p) := ⟨_, _, _, _, _, _, _, _, _, _, _, rfl⟩

theorem loseTested_rest {g g' : Grp} {since : Nat} {ev : List (Nat × Mask)} (h : loseTested g since = some (g', ev)) : PathRest g g' := by
  unfold loseTested at h
  simp only at h
  split at h
  · cases h
  · have h1 := pathRest_foldl (fun g j => closeJoin g j true) (fun g j => closeJoin_rest g j true) ((List.range 8).filter (joinLost g)) g
    split at h
    · obtain ⟨rfl, -⟩ := Prod.mk.inj (Option.some.inj h)
      exact (h1.trans ⟨_, _, _, _, _, _, _, _, _, _, _, rfl⟩).trans (formPaths_rest _ _ _)
    · obtain ⟨rfl, -⟩ := Prod.mk.inj (Option.some.inj h)
      exact h1.trans (formPaths_rest _ _ _)

theorem settleRounds_rest (n : Nat) (g : Grp) (since : Nat) : PathRest g (settleRounds g since n).1 := by
  induction n generalizing g with
  | zero => exact .refl g
  | succ n ih =>
    unfold settleRounds
    simp only
    have h0 : PathRest g (if g.running && g.em == 0 then { g with running := false } else g) := by
      split
      · exact ⟨_, _, _, _, _, _, _, _, _, _, _, rfl⟩
      · exact .refl g
    generalize (if g.running && g.em == 0 then { g with running := false } else g) = g0 at h0 ⊢
    refine h0.trans ?_
    split
    · exact ⟨_, _, _, _, _, _, _, _, _, _, _, rfl⟩
    · split
      · next h => exact (loseTested_rest h).trans (ih _)
      · split
        · exact .refl _
        · split
          · exact runPath_rest _ _
          · split
            · exact ⟨_, _, _, _, _, _, _, _, _, _, _, rfl⟩
            · split
              · exact ((closeJoin_rest _ _ _).trans (formPaths_rest _ _ _)).trans (ih _)
              · exact .refl _

theorem settle_rest (n : Nat) (g : Grp) (since : Nat) : PathRest g (settle g since n).1 := settleRounds_rest _ g since

/-- Nothing is spilled or refilled where every parked path is on chip. -/
theorem balance_onChip {s : State} {k : Nat} {g : Grp} (h : tabGet s.groups k = some g) (hc : onChip g = true) (n : Nat) :
    balance s k n = .ok s := by
  simp only [onChip, Bool.and_eq_true, List.isEmpty_iff, decide_eq_true_eq, Option.isNone_iff_eq_none] at hc
  have hr : refillPaths s k n = .ok s := by
    cases n with
    | zero => rfl
    | succ n => simp only [refillPaths, h, hc.1.1.2, List.getLast?_nil]
  have h8 : g.paths.length - 8 = 0 := by omega
  have h16 : ¬ 16 < g.ras.length - g.rasSpilled := by omega
  have hs : spillAll s k = .ok s := by
    simp only [spillAll, h, h8, List.take_zero, placeSpills, rasSpill, h16, if_false, List.isEmpty_nil, Bool.and_self, if_true]
  simp only [balance, h, readRunning, hc.1.1.1, Out.andThen, hr, hs]

/-- An instruction that sets its own PC and moves paths, whose effect completes with its paths on chip. -/
theorem issue_paths {i : Instr} {s s1 : State} {k : Nat} {g G : Grp} {f : Fields} {n : Notes}
    {body : State → Nat → Grp → Env → Res} (h : headOf i s = some (k, g)) (hf : fields i = some f) (hn : noHalt g = true)
    (hb : body (setGroup s k g) k g (envOf s g f.hdr) = .ok s1 n)
    (hcy : s1.cycle = s.cycle) (hG : tabGet s1.groups k = some G) (h1 : G.paired = g.paired) (h2 : G.triplex = g.triplex)
    (h4 : G.ctx = g.ctx) (hc : onChip (settled s G f.hdr).1 = true) :
    ∃ t, issue i howPath body s = .next t ∧
      Done (setGroup s1 k (settled s G f.hdr).1) t k g (settled s G f.hdr).1 { n with lost := n.lost ++ (settled s G f.hdr).2 } := by
  rw [issue_head h hf, hb]
  have hp : howPath.paths = true := rfl
  simp only [conclude, hp, if_true]
  have e : updGroup s1 k (afterIssue (setGroup s k g) howPath f.hdr) = setGroup s1 k (hints s.cycle (marksSlot s G f.hdr) f.hdr) := by
    simp only [updGroup, setGroup, tabUpd_some hG]
    rfl
  rw [e]
  have es : settlePaths (setGroup s1 k (hints s.cycle (marksSlot s G f.hdr) f.hdr)) k =
      (.ok (setGroup s1 k (settled s G f.hdr).1), (settled s G f.hdr).2) := by
    simp only [settlePaths, setGroup_groups, tabGet_put_same]
    have e0 : settle (hints s.cycle (marksSlot s G f.hdr) f.hdr) s1.cycle settleFuel = settled s G f.hdr := by rw [hcy]; rfl
    have e1 : (setGroup s1 k (hints s.cycle (marksSlot s G f.hdr) f.hdr)).cycle = s1.cycle := rfl
    rw [e1, e0]
    have e2 : setGroup (setGroup s1 k (hints s.cycle (marksSlot s G f.hdr) f.hdr)) k (settled s G f.hdr).1 =
        setGroup s1 k (settled s G f.hdr).1 := by simp only [setGroup, tabPut_put]
    rw [e2, balance_onChip (g := (settled s G f.hdr).1) (by simp) hc]
  simp only [concludePaths, es]
  obtain ⟨st, ru, em, pc, fa, pa, sp, jo, ra, rsp, fs, e3⟩ := settle_rest settleFuel (hints s.cycle (marksSlot s G f.hdr) f.hdr) s.cycle
  obtain ⟨v, x, p, po, b0, q, nx, y, stp, e4⟩ := hints_rest s.cycle (marksSlot s G f.hdr) f.hdr
  have e5 : ∃ b q, marksSlot s G f.hdr = { G with sb := b, pend := q } := by
    unfold marksSlot
    cases hdrSlot f.hdr <;> exact ⟨_, _, rfl⟩
  obtain ⟨b, q', e5⟩ := e5
  have e6 : (settled s G f.hdr).1 = { G with
      state := st, running := ru, em := em, pc := pc, fall := fa, paths := pa, spilled := sp, joins := jo, ras := ra, rasSpilled := rsp,
      fromSpill := fs, v := v, s := x, p := p, poison := po, pend := q, nextAt := nx, yld := y, step := stp, sb := b0 } := by
    unfold settled
    rw [e3, e4, e5]
  exact concludeIssue_done (s0 := setGroup s k g) (g := g) (by simp) (by simp)
    (by rw [e6]; exact h1) (by rw [e6]; exact h2) (by rw [e6]; exact h4) hn (activeMask g f.hdr) _

theorem pathDone {i : Instr} {h : Hdr} {s s1 : State} {k : Nat} {g G : Grp} {n : Notes} {body} {f : Fields}
    (hd : headOf i s = some (k, g)) (hf : fields i = some f) (hh : f.hdr = h) (hn : noHalt g = true)
    (he : exec i s = issue i howPath body s) (hb : body (setGroup s k g) k g (envOf s g h) = .ok s1 n)
    (hs1 : s1 = setGroup (setGroup s k g) k G) (h1 : G.paired = g.paired) (h2 : G.triplex = g.triplex) (h4 : G.ctx = g.ctx) :
    PathDone i h s s k g G n := by
  subst hh
  intro hc
  obtain ⟨t, ht, hdn⟩ := issue_paths hd hf hn hb (by rw [hs1]; rfl) (by rw [hs1]; simp) h1 h2 h4 hc
  refine ⟨t, he.trans ht, done_of hdn ?_ (fun j hj => ?_) (fun hp => ?_)⟩
  · rw [hs1]; rfl
  · rw [hs1]; simp [tabGet_put_other _ _ (Ne.symm hj)]
  · rw [hs1]; rfl

theorem pathDone' {i : Instr} {h : Hdr} {s s1 : State} {k : Nat} {g G : Grp} {n : Notes} {body} {f : Fields}
    (hd : headOf i s = some (k, g)) (hf : fields i = some f) (hh : f.hdr = h) (hn : noHalt g = true)
    (he : exec i s = issue i howPath body s) (hb : body (setGroup s k g) k g (envOf s g h) = .ok s1 n)
    (hcy : s1.cycle = s.cycle) (hg : tabGet s1.groups k = some G) (h1 : G.paired = g.paired) (h2 : G.triplex = g.triplex) (h4 : G.ctx = g.ctx) :
    PathDone i h s s1 k g G n := by
  subst hh
  intro hc
  obtain ⟨t, ht, hdn⟩ := issue_paths hd hf hn hb hcy hg h1 h2 h4 hc
  refine ⟨t, he.trans ht, done_of hdn rfl (fun j hj => ?_) (fun hp => rfl)⟩
  simp [tabGet_put_other _ _ (Ne.symm hj)]

theorem turns {i : Instr} {h : Hdr} {s s1 : State} {k : Nat} {g G : Grp} {n : Notes} {body} {f : Fields}
    (hd : headOf i s = some (k, g)) (hf : fields i = some f) (hh : f.hdr = h) (hn : noHalt g = true)
    (he : exec i s = issue i howPlain body s) (hb : body (setGroup s k g) k g (envOf s g h) = .ok s1 n)
    (hs1 : s1 = setGroup (setGroup s k g) k G) (h1 : G.paired = g.paired) (h2 : G.triplex = g.triplex) (h4 : G.ctx = g.ctx) :
    Turns i h s k g G n := by
  subst hh
  obtain ⟨t, ht, hdn⟩ := issue_done (how := howPlain) hd hf hn rfl hb (by rw [hs1]; simp) h1 h2 h4
  have e : afterIssue s howPlain f.hdr G = goesOn s (marksSlot s G f.hdr) f.hdr := by
    unfold afterIssue goesOn marksSlot
    simp only [howPlain, Bool.false_eq_true, if_false]
    cases hdrSlot f.hdr <;> rfl
  rw [e] at hdn
  refine ⟨t, he.trans ht, done_of hdn ?_ (fun j hj => ?_) (fun hp => ?_)⟩
  · rw [hs1]; rfl
  · rw [hs1]; simp [tabGet_put_other _ _ (Ne.symm hj)]
  · rw [hs1]; rfl

theorem traps {i : Instr} {h : Hdr} {s : State} {k c a : Nat} {g : Grp} {how : How} {body} {f : Fields}
    (hd : headOf i s = some (k, g)) (hf : fields i = some f) (hh : f.hdr = h)
    (he : exec i s = issue i how body s) (hb : body (setGroup s k g) k g (envOf s g h) = .fault (setGroup s k g) c a) :
    Traps i s k g c a := by
  subst hh
  exact he.trans (issue_fault hd hf hb)

theorem splitPath_rest (g : Grp) (ps : List (Nat × Mask × Bool)) (since : Nat) : PathRest g (splitPath g ps since) := by
  unfold splitPath
  split
  · exact ⟨_, _, _, _, _, _, _, _, _, _, _, rfl⟩
  · refine PathRest.trans ?_ (pathRest_foldl _ (fun g x => park_rest _ _ _ _ _ _ _) _ _)
    exact ⟨_, _, _, _, _, _, _, _, _, _, _, rfl⟩

theorem pr_shape {g h : Grp} (p : PathRest g h) : h.paired = g.paired ∧ h.triplex = g.triplex ∧ h.ctx = g.ctx := by
  obtain ⟨_, _, _, _, _, _, _, _, _, _, _, rfl⟩ := p
  exact ⟨rfl, rfl, rfl⟩

theorem goOn_eq (s : State) (k : Nat) (g : Grp) (n : Notes) : goOn (setGroup s k g) k n = .ok (setGroup (setGroup s k g) k (advance s g)) n := by
  simp only [goOn, updGroup, setGroup, tabUpd_put, tabPut_put]; rfl

theorem adv_shape (s : State) (g : Grp) : (advance s g).paired = g.paired ∧ (advance s g).triplex = g.triplex ∧ (advance s g).ctx = g.ctx := ⟨rfl, rfl, rfl⟩



end Sys2Proof.Machine
end

