-- ==== Sys2Proof/Laws/PerInstr.lean ====
section
/-! SUPPORT. One lemma per instruction: the word the encoder gives it decodes to it. -/

namespace Sys2Proof.Laws.RoundTrip

/-- A well-formed encoded instruction has a word, and every word the encoder gives it decodes to it. -/
def Statement (i : Instr) : Prop :=
  i.wf = true → ((sig i).isSome = true → ∃ w, encode i = some w) ∧ ∀ w, encode i = some w → decode w = .ok i

/-- The statement of an instruction whose word is a pack of fields. -/
theorem of_raw (i : Instr) (r : Raw) (he : encode i = some (pack r)) (h0 : (r.opc != 0) = true) (h1 : (r.opc != 0x3FF#10) = true)
    (hb : build r = some i) (hs : (sig i).isSome = true) (hf : (fields i).isSome = true)
    (hset : (r.set.toNat < 4 || r.set == 7) = true) (hm : modFieldsOk r i = true) (ho : opndFieldsOk r i = true)
    (hd : dstRange r.d = true) : Statement i := by
  intro hw
  refine ⟨fun _ => ⟨_, he⟩, fun w h => ?_⟩
  rw [he] at h
  obtain rfl := Option.some.inj h
  exact decode_pack r i (bne_iff_ne.mp h0) (bne_iff_ne.mp h1) hb hs hf hset hm ho hd hw

/-- The statement of a step that no word encodes. -/
theorem of_none (i : Instr) (he : encode i = none) (hs : (sig i).isSome = false) : Statement i :=
  fun _ => ⟨fun h => absurd (hs.symm.trans h) (by decide), fun w h => absurd (he.symm.trans h) (by simp)⟩

/-- The bounds of the TYPE field of an integer or memory class. -/
theorem ty_ok {m : BitVec 12} (h : (m.extractLsb' 0 5).toNat < 23) : decide ((m.extractLsb' 0 5).toNat < 23) = true :=
  decide_eq_true h

/-- The bounds of the TYPE and RND fields of the floating class. -/
theorem fl_ok {m : BitVec 12} (h : (m.extractLsb' 0 5).toNat < 23 ∧ (m.extractLsb' 5 3).toNat < 5) :
    (decide ((m.extractLsb' 0 5).toNat < 23) && decide ((m.extractLsb' 5 3).toNat < 5)) = true := by
  rw [decide_eq_true h.1, decide_eq_true h.2]; rfl

/-- The operand fields of an R-form word. -/
theorem opnds_r {μ : Type} (o : BitVec 10) (w : RWord μ) (m : BitVec 12) :
    (opndOk (encR o w m).a && dstOk (encR o w m).d && (opndOk (encR o w m).b && opndOk (encR o w m).c)) = true := by
  simp only [encR, rawHdr, opndOk_enc, dstOk_enc, Bool.and_self]

/-- The operand fields of an I-form word. -/
theorem opnds_i {μ : Type} (o : BitVec 10) (w : IWord μ) (m : BitVec 12) :
    (opndOk (encI o w m).a && dstOk (encI o w m).d && true) = true := by
  simp only [encI, rawHdr, opndOk_enc, dstOk_enc, Bool.and_self]

/-- The operand fields of an M-form word. -/
theorem opnds_m (o : BitVec 10) (w : MWord) :
    (opndOk (encM o w).a && dstOk (encM o w).d && opndOk (encM o w).c) = true := by
  simp only [encM, rawHdr, opndOk_enc, dstOk_enc, Bool.and_self]

theorem ztrap : Statement .ztrap :=
  fun _ => ⟨fun _ => ⟨_, rfl⟩, fun w h => by obtain rfl := Option.some.inj h; decide⟩

theorem nop (w : RWord (BitVec 12)) : Statement (.nop w) :=
  of_raw _ (encR 0x001 w w.m) rfl rfl rfl (congrArg (fun x => some (Instr.nop x)) (rOf_enc _ w _ w.m)) rfl rfl
    (set_ok w.hdr _ _ _ _ _ _) (rfl) (opnds_r _ w _) (dstRange_enc w.d)

theorem bra (w : IWord (BitVec 12)) : Statement (.bra w) :=
  of_raw _ (encI 0x002 w w.m) rfl rfl rfl (congrArg (fun x => some (Instr.bra x)) (iOf_enc _ w _ w.m)) rfl rfl
    (set_ok w.hdr _ _ _ _ _ _) (rfl) (opnds_i _ w _) (dstRange_enc w.d)

theorem brx (w : RWord (BitVec 12)) : Statement (.brx w) :=
  of_raw _ (encR 0x003 w w.m) rfl rfl rfl (congrArg (fun x => some (Instr.brx x)) (rOf_enc _ w _ w.m)) rfl rfl
    (set_ok w.hdr _ _ _ _ _ _) (rfl) (opnds_r _ w _) (dstRange_enc w.d)

theorem brd (w : IWord (BitVec 12)) : Statement (.brd w) :=
  of_raw _ (encI 0x004 w w.m) rfl rfl rfl (congrArg (fun x => some (Instr.brd x)) (iOf_enc _ w _ w.m)) rfl rfl
    (set_ok w.hdr _ _ _ _ _ _) (rfl) (opnds_i _ w _) (dstRange_enc w.d)

theorem jarm (w : IWord (BitVec 12)) : Statement (.jarm w) :=
  of_raw _ (encI 0x005 w w.m) rfl rfl rfl (congrArg (fun x => some (Instr.jarm x)) (iOf_enc _ w _ w.m)) rfl rfl
    (set_ok w.hdr _ _ _ _ _ _) (rfl) (opnds_i _ w _) (dstRange_enc w.d)

theorem jarr (w : RWord (BitVec 12)) : Statement (.jarr w) :=
  of_raw _ (encR 0x006 w w.m) rfl rfl rfl (congrArg (fun x => some (Instr.jarr x)) (rOf_enc _ w _ w.m)) rfl rfl
    (set_ok w.hdr _ _ _ _ _ _) (rfl) (opnds_r _ w _) (dstRange_enc w.d)

theorem call (w : IWord (BitVec 12)) : Statement (.call w) :=
  of_raw _ (encI 0x007 w w.m) rfl rfl rfl (congrArg (fun x => some (Instr.call x)) (iOf_enc _ w _ w.m)) rfl rfl
    (set_ok w.hdr _ _ _ _ _ _) (rfl) (opnds_i _ w _) (dstRange_enc w.d)

theorem callx (w : RWord (BitVec 12)) : Statement (.callx w) :=
  of_raw _ (encR 0x008 w w.m) rfl rfl rfl (congrArg (fun x => some (Instr.callx x)) (rOf_enc _ w _ w.m)) rfl rfl
    (set_ok w.hdr _ _ _ _ _ _) (rfl) (opnds_r _ w _) (dstRange_enc w.d)

theorem ret (w : RWord (BitVec 12)) : Statement (.ret w) :=
  of_raw _ (encR 0x009 w w.m) rfl rfl rfl (congrArg (fun x => some (Instr.ret x)) (rOf_enc _ w _ w.m)) rfl rfl
    (set_ok w.hdr _ _ _ _ _ _) (rfl) (opnds_r _ w _) (dstRange_enc w.d)

theorem endI (w : RWord (BitVec 12)) : Statement (.endI w) :=
  of_raw _ (encR 0x00A w w.m) rfl rfl rfl (congrArg (fun x => some (Instr.endI x)) (rOf_enc _ w _ w.m)) rfl rfl
    (set_ok w.hdr _ _ _ _ _ _) (rfl) (opnds_r _ w _) (dstRange_enc w.d)

theorem trap (w : IWord (BitVec 12)) : Statement (.trap w) :=
  of_raw _ (encI 0x00B w w.m) rfl rfl rfl (congrArg (fun x => some (Instr.trap x)) (iOf_enc _ w _ w.m)) rfl rfl
    (set_ok w.hdr _ _ _ _ _ _) (rfl) (opnds_i _ w _) (dstRange_enc w.d)

theorem bkpt (w : IWord (BitVec 12)) : Statement (.bkpt w) :=
  of_raw _ (encI 0x00C w w.m) rfl rfl rfl (congrArg (fun x => some (Instr.bkpt x)) (iOf_enc _ w _ w.m)) rfl rfl
    (set_ok w.hdr _ _ _ _ _ _) (rfl) (opnds_i _ w _) (dstRange_enc w.d)

theorem bind (w : RWord (BitVec 12)) : Statement (.bind w) :=
  of_raw _ (encR 0x00D w w.m) rfl rfl rfl (congrArg (fun x => some (Instr.bind x)) (rOf_enc _ w _ w.m)) rfl rfl
    (set_ok w.hdr _ _ _ _ _ _) (rfl) (opnds_r _ w _) (dstRange_enc w.d)

theorem spawn (w : RWord (BitVec 12)) : Statement (.spawn w) :=
  of_raw _ (encR 0x00E w w.m) rfl rfl rfl (congrArg (fun x => some (Instr.spawn x)) (rOf_enc _ w _ w.m)) rfl rfl
    (set_ok w.hdr _ _ _ _ _ _) (rfl) (opnds_r _ w _) (dstRange_enc w.d)

theorem launch (w : RWord (BitVec 12)) : Statement (.launch w) :=
  of_raw _ (encR 0x00F w w.m) rfl rfl rfl (congrArg (fun x => some (Instr.launch x)) (rOf_enc _ w _ w.m)) rfl rfl
    (set_ok w.hdr _ _ _ _ _ _) (rfl) (opnds_r _ w _) (dstRange_enc w.d)

theorem yield (w : RWord (BitVec 12)) : Statement (.yield w) :=
  of_raw _ (encR 0x010 w w.m) rfl rfl rfl (congrArg (fun x => some (Instr.yield x)) (rOf_enc _ w _ w.m)) rfl rfl
    (set_ok w.hdr _ _ _ _ _ _) (rfl) (opnds_r _ w _) (dstRange_enc w.d)

theorem sleep (w : IWord (BitVec 12)) : Statement (.sleep w) :=
  of_raw _ (encI 0x011 w w.m) rfl rfl rfl (congrArg (fun x => some (Instr.sleep x)) (iOf_enc _ w _ w.m)) rfl rfl
    (set_ok w.hdr _ _ _ _ _ _) (rfl) (opnds_i _ w _) (dstRange_enc w.d)

theorem mark (w : IWord (BitVec 12)) : Statement (.mark w) :=
  of_raw _ (encI 0x012 w w.m) rfl rfl rfl (congrArg (fun x => some (Instr.mark x)) (iOf_enc _ w _ w.m)) rfl rfl
    (set_ok w.hdr _ _ _ _ _ _) (rfl) (opnds_i _ w _) (dstRange_enc w.d)

theorem rdem (w : RWord (BitVec 12)) : Statement (.rdem w) :=
  of_raw _ (encR 0x013 w w.m) rfl rfl rfl (congrArg (fun x => some (Instr.rdem x)) (rOf_enc _ w _ w.m)) rfl rfl
    (set_ok w.hdr _ _ _ _ _ _) (rfl) (opnds_r _ w _) (dstRange_enc w.d)

theorem wrem (w : RWord (BitVec 12)) : Statement (.wrem w) :=
  of_raw _ (encR 0x014 w w.m) rfl rfl rfl (congrArg (fun x => some (Instr.wrem x)) (rOf_enc _ w _ w.m)) rfl rfl
    (set_ok w.hdr _ _ _ _ _ _) (rfl) (opnds_r _ w _) (dstRange_enc w.d)

theorem rdsr (w : RWord (BitVec 12)) : Statement (.rdsr w) :=
  of_raw _ (encR 0x015 w w.m) rfl rfl rfl (congrArg (fun x => some (Instr.rdsr x)) (rOf_enc _ w _ w.m)) rfl rfl
    (set_ok w.hdr _ _ _ _ _ _) (rfl) (opnds_r _ w _) (dstRange_enc w.d)

theorem wrsr (w : RWord (BitVec 12)) : Statement (.wrsr w) :=
  of_raw _ (encR 0x016 w w.m) rfl rfl rfl (congrArg (fun x => some (Instr.wrsr x)) (rOf_enc _ w _ w.m)) rfl rfl
    (set_ok w.hdr _ _ _ _ _ _) (rfl) (opnds_r _ w _) (dstRange_enc w.d)

theorem rdts (w : RWord (BitVec 12)) : Statement (.rdts w) :=
  of_raw _ (encR 0x017 w w.m) rfl rfl rfl (congrArg (fun x => some (Instr.rdts x)) (rOf_enc _ w _ w.m)) rfl rfl
    (set_ok w.hdr _ _ _ _ _ _) (rfl) (opnds_r _ w _) (dstRange_enc w.d)

theorem rdcnt (w : RWord (BitVec 12)) : Statement (.rdcnt w) :=
  of_raw _ (encR 0x018 w w.m) rfl rfl rfl (congrArg (fun x => some (Instr.rdcnt x)) (rOf_enc _ w _ w.m)) rfl rfl
    (set_ok w.hdr _ _ _ _ _ _) (rfl) (opnds_r _ w _) (dstRange_enc w.d)

theorem emp (w : RWord (BitVec 12)) : Statement (.emp w) :=
  of_raw _ (encR 0x019 w w.m) rfl rfl rfl (congrArg (fun x => some (Instr.emp x)) (rOf_enc _ w _ w.m)) rfl rfl
    (set_ok w.hdr _ _ _ _ _ _) (rfl) (opnds_r _ w _) (dstRange_enc w.d)

theorem jrd (w : RWord (BitVec 12)) : Statement (.jrd w) :=
  of_raw _ (encR 0x01A w w.m) rfl rfl rfl (congrArg (fun x => some (Instr.jrd x)) (rOf_enc _ w _ w.m)) rfl rfl
    (set_ok w.hdr _ _ _ _ _ _) (rfl) (opnds_r _ w _) (dstRange_enc w.d)

theorem iadd (w : RWord IntM) : Statement (.iadd w) :=
  of_raw _ (encR 0x080 w (encIntM w.m)) rfl rfl rfl (congrArg (fun x => some (Instr.iadd x)) ((rOf_enc _ w _ (intMOf (encIntM w.m))).trans (congrArg (fun m => (⟨w.hdr, m, w.d, w.a, w.b, w.c⟩ : RWord IntM)) (intMOf_enc w.m)))) rfl rfl
    (set_ok w.hdr _ _ _ _ _ _) (ty_ok (int_fields w.m)) (opnds_r _ w _) (dstRange_enc w.d)

theorem isub (w : RWord IntM) : Statement (.isub w) :=
  of_raw _ (encR 0x081 w (encIntM w.m)) rfl rfl rfl (congrArg (fun x => some (Instr.isub x)) ((rOf_enc _ w _ (intMOf (encIntM w.m))).trans (congrArg (fun m => (⟨w.hdr, m, w.d, w.a, w.b, w.c⟩ : RWord IntM)) (intMOf_enc w.m)))) rfl rfl
    (set_ok w.hdr _ _ _ _ _ _) (ty_ok (int_fields w.m)) (opnds_r _ w _) (dstRange_enc w.d)

theorem imul (w : RWord IntM) : Statement (.imul w) :=
  of_raw _ (encR 0x082 w (encIntM w.m)) rfl rfl rfl (congrArg (fun x => some (Instr.imul x)) ((rOf_enc _ w _ (intMOf (encIntM w.m))).trans (congrArg (fun m => (⟨w.hdr, m, w.d, w.a, w.b, w.c⟩ : RWord IntM)) (intMOf_enc w.m)))) rfl rfl
    (set_ok w.hdr _ _ _ _ _ _) (ty_ok (int_fields w.m)) (opnds_r _ w _) (dstRange_enc w.d)

theorem imad (w : RWord IntM) : Statement (.imad w) :=
  of_raw _ (encR 0x083 w (encIntM w.m)) rfl rfl rfl (congrArg (fun x => some (Instr.imad x)) ((rOf_enc _ w _ (intMOf (encIntM w.m))).trans (congrArg (fun m => (⟨w.hdr, m, w.d, w.a, w.b, w.c⟩ : RWord IntM)) (intMOf_enc w.m)))) rfl rfl
    (set_ok w.hdr _ _ _ _ _ _) (ty_ok (int_fields w.m)) (opnds_r _ w _) (dstRange_enc w.d)

theorem imulw (w : RWord IntM) : Statement (.imulw w) :=
  of_raw _ (encR 0x084 w (encIntM w.m)) rfl rfl rfl (congrArg (fun x => some (Instr.imulw x)) ((rOf_enc _ w _ (intMOf (encIntM w.m))).trans (congrArg (fun m => (⟨w.hdr, m, w.d, w.a, w.b, w.c⟩ : RWord IntM)) (intMOf_enc w.m)))) rfl rfl
    (set_ok w.hdr _ _ _ _ _ _) (ty_ok (int_fields w.m)) (opnds_r _ w _) (dstRange_enc w.d)

theorem imadw (w : RWord IntM) : Statement (.imadw w) :=
  of_raw _ (encR 0x085 w (encIntM w.m)) rfl rfl rfl (congrArg (fun x => some (Instr.imadw x)) ((rOf_enc _ w _ (intMOf (encIntM w.m))).trans (congrArg (fun m => (⟨w.hdr, m, w.d, w.a, w.b, w.c⟩ : RWord IntM)) (intMOf_enc w.m)))) rfl rfl
    (set_ok w.hdr _ _ _ _ _ _) (ty_ok (int_fields w.m)) (opnds_r _ w _) (dstRange_enc w.d)

theorem imin (w : RWord IntM) : Statement (.imin w) :=
  of_raw _ (encR 0x086 w (encIntM w.m)) rfl rfl rfl (congrArg (fun x => some (Instr.imin x)) ((rOf_enc _ w _ (intMOf (encIntM w.m))).trans (congrArg (fun m => (⟨w.hdr, m, w.d, w.a, w.b, w.c⟩ : RWord IntM)) (intMOf_enc w.m)))) rfl rfl
    (set_ok w.hdr _ _ _ _ _ _) (ty_ok (int_fields w.m)) (opnds_r _ w _) (dstRange_enc w.d)

theorem imax (w : RWord IntM) : Statement (.imax w) :=
  of_raw _ (encR 0x087 w (encIntM w.m)) rfl rfl rfl (congrArg (fun x => some (Instr.imax x)) ((rOf_enc _ w _ (intMOf (encIntM w.m))).trans (congrArg (fun m => (⟨w.hdr, m, w.d, w.a, w.b, w.c⟩ : RWord IntM)) (intMOf_enc w.m)))) rfl rfl
    (set_ok w.hdr _ _ _ _ _ _) (ty_ok (int_fields w.m)) (opnds_r _ w _) (dstRange_enc w.d)

theorem iabs (w : RWord IntM) : Statement (.iabs w) :=
  of_raw _ (encR 0x088 w (encIntM w.m)) rfl rfl rfl (congrArg (fun x => some (Instr.iabs x)) ((rOf_enc _ w _ (intMOf (encIntM w.m))).trans (congrArg (fun m => (⟨w.hdr, m, w.d, w.a, w.b, w.c⟩ : RWord IntM)) (intMOf_enc w.m)))) rfl rfl
    (set_ok w.hdr _ _ _ _ _ _) (ty_ok (int_fields w.m)) (opnds_r _ w _) (dstRange_enc w.d)

theorem ineg (w : RWord IntM) : Statement (.ineg w) :=
  of_raw _ (encR 0x089 w (encIntM w.m)) rfl rfl rfl (congrArg (fun x => some (Instr.ineg x)) ((rOf_enc _ w _ (intMOf (encIntM w.m))).trans (congrArg (fun m => (⟨w.hdr, m, w.d, w.a, w.b, w.c⟩ : RWord IntM)) (intMOf_enc w.m)))) rfl rfl
    (set_ok w.hdr _ _ _ _ _ _) (ty_ok (int_fields w.m)) (opnds_r _ w _) (dstRange_enc w.d)

theorem shl (w : RWord IntM) : Statement (.shl w) :=
  of_raw _ (encR 0x08A w (encIntM w.m)) rfl rfl rfl (congrArg (fun x => some (Instr.shl x)) ((rOf_enc _ w _ (intMOf (encIntM w.m))).trans (congrArg (fun m => (⟨w.hdr, m, w.d, w.a, w.b, w.c⟩ : RWord IntM)) (intMOf_enc w.m)))) rfl rfl
    (set_ok w.hdr _ _ _ _ _ _) (ty_ok (int_fields w.m)) (opnds_r _ w _) (dstRange_enc w.d)

theorem shr (w : RWord IntM) : Statement (.shr w) :=
  of_raw _ (encR 0x08B w (encIntM w.m)) rfl rfl rfl (congrArg (fun x => some (Instr.shr x)) ((rOf_enc _ w _ (intMOf (encIntM w.m))).trans (congrArg (fun m => (⟨w.hdr, m, w.d, w.a, w.b, w.c⟩ : RWord IntM)) (intMOf_enc w.m)))) rfl rfl
    (set_ok w.hdr _ _ _ _ _ _) (ty_ok (int_fields w.m)) (opnds_r _ w _) (dstRange_enc w.d)

theorem rot (w : RWord IntM) : Statement (.rot w) :=
  of_raw _ (encR 0x08C w (encIntM w.m)) rfl rfl rfl (congrArg (fun x => some (Instr.rot x)) ((rOf_enc _ w _ (intMOf (encIntM w.m))).trans (congrArg (fun m => (⟨w.hdr, m, w.d, w.a, w.b, w.c⟩ : RWord IntM)) (intMOf_enc w.m)))) rfl rfl
    (set_ok w.hdr _ _ _ _ _ _) (ty_ok (int_fields w.m)) (opnds_r _ w _) (dstRange_enc w.d)

theorem bop (w : RWord IntM) : Statement (.bop w) :=
  of_raw _ (encR 0x08D w (encIntM w.m)) rfl rfl rfl (congrArg (fun x => some (Instr.bop x)) ((rOf_enc _ w _ (intMOf (encIntM w.m))).trans (congrArg (fun m => (⟨w.hdr, m, w.d, w.a, w.b, w.c⟩ : RWord IntM)) (intMOf_enc w.m)))) rfl rfl
    (set_ok w.hdr _ _ _ _ _ _) (ty_ok (int_fields w.m)) (opnds_r _ w _) (dstRange_enc w.d)

theorem bfe (w : RWord IntM) : Statement (.bfe w) :=
  of_raw _ (encR 0x08E w (encIntM w.m)) rfl rfl rfl (congrArg (fun x => some (Instr.bfe x)) ((rOf_enc _ w _ (intMOf (encIntM w.m))).trans (congrArg (fun m => (⟨w.hdr, m, w.d, w.a, w.b, w.c⟩ : RWord IntM)) (intMOf_enc w.m)))) rfl rfl
    (set_ok w.hdr _ _ _ _ _ _) (ty_ok (int_fields w.m)) (opnds_r _ w _) (dstRange_enc w.d)

theorem bfi (w : RWord IntM) : Statement (.bfi w) :=
  of_raw _ (encR 0x08F w (encIntM w.m)) rfl rfl rfl (congrArg (fun x => some (Instr.bfi x)) ((rOf_enc _ w _ (intMOf (encIntM w.m))).trans (congrArg (fun m => (⟨w.hdr, m, w.d, w.a, w.b, w.c⟩ : RWord IntM)) (intMOf_enc w.m)))) rfl rfl
    (set_ok w.hdr _ _ _ _ _ _) (ty_ok (int_fields w.m)) (opnds_r _ w _) (dstRange_enc w.d)

theorem popc (w : RWord IntM) : Statement (.popc w) :=
  of_raw _ (encR 0x090 w (encIntM w.m)) rfl rfl rfl (congrArg (fun x => some (Instr.popc x)) ((rOf_enc _ w _ (intMOf (encIntM w.m))).trans (congrArg (fun m => (⟨w.hdr, m, w.d, w.a, w.b, w.c⟩ : RWord IntM)) (intMOf_enc w.m)))) rfl rfl
    (set_ok w.hdr _ _ _ _ _ _) (ty_ok (int_fields w.m)) (opnds_r _ w _) (dstRange_enc w.d)

theorem clz (w : RWord IntM) : Statement (.clz w) :=
  of_raw _ (encR 0x091 w (encIntM w.m)) rfl rfl rfl (congrArg (fun x => some (Instr.clz x)) ((rOf_enc _ w _ (intMOf (encIntM w.m))).trans (congrArg (fun m => (⟨w.hdr, m, w.d, w.a, w.b, w.c⟩ : RWord IntM)) (intMOf_enc w.m)))) rfl rfl
    (set_ok w.hdr _ _ _ _ _ _) (ty_ok (int_fields w.m)) (opnds_r _ w _) (dstRange_enc w.d)

theorem brev (w : RWord IntM) : Statement (.brev w) :=
  of_raw _ (encR 0x092 w (encIntM w.m)) rfl rfl rfl (congrArg (fun x => some (Instr.brev x)) ((rOf_enc _ w _ (intMOf (encIntM w.m))).trans (congrArg (fun m => (⟨w.hdr, m, w.d, w.a, w.b, w.c⟩ : RWord IntM)) (intMOf_enc w.m)))) rfl rfl
    (set_ok w.hdr _ _ _ _ _ _) (ty_ok (int_fields w.m)) (opnds_r _ w _) (dstRange_enc w.d)

theorem isetp (w : RWord IntM) : Statement (.isetp w) :=
  of_raw _ (encR 0x093 w (encIntM w.m)) rfl rfl rfl (congrArg (fun x => some (Instr.isetp x)) ((rOf_enc _ w _ (intMOf (encIntM w.m))).trans (congrArg (fun m => (⟨w.hdr, m, w.d, w.a, w.b, w.c⟩ : RWord IntM)) (intMOf_enc w.m)))) rfl rfl
    (set_ok w.hdr _ _ _ _ _ _) (ty_ok (int_fields w.m)) (opnds_r _ w _) (dstRange_enc w.d)

theorem sel (w : RWord IntM) : Statement (.sel w) :=
  of_raw _ (encR 0x094 w (encIntM w.m)) rfl rfl rfl (congrArg (fun x => some (Instr.sel x)) ((rOf_enc _ w _ (intMOf (encIntM w.m))).trans (congrArg (fun m => (⟨w.hdr, m, w.d, w.a, w.b, w.c⟩ : RWord IntM)) (intMOf_enc w.m)))) rfl rfl
    (set_ok w.hdr _ _ _ _ _ _) (ty_ok (int_fields w.m)) (opnds_r _ w _) (dstRange_enc w.d)

theorem mov (w : RWord IntM) : Statement (.mov w) :=
  of_raw _ (encR 0x095 w (encIntM w.m)) rfl rfl rfl (congrArg (fun x => some (Instr.mov x)) ((rOf_enc _ w _ (intMOf (encIntM w.m))).trans (congrArg (fun m => (⟨w.hdr, m, w.d, w.a, w.b, w.c⟩ : RWord IntM)) (intMOf_enc w.m)))) rfl rfl
    (set_ok w.hdr _ _ _ _ _ _) (ty_ok (int_fields w.m)) (opnds_r _ w _) (dstRange_enc w.d)

theorem movi (w : IWord IntM) : Statement (.movi w) :=
  of_raw _ (encI 0x096 w (encIntM w.m)) rfl rfl rfl (congrArg (fun x => some (Instr.movi x)) ((iOf_enc _ w _ (intMOf (encIntM w.m))).trans (congrArg (fun m => (⟨w.hdr, m, w.d, w.a, w.imm⟩ : IWord IntM)) (intMOf_enc w.m)))) rfl rfl
    (set_ok w.hdr _ _ _ _ _ _) (ty_ok (int_fields w.m)) (opnds_i _ w _) (dstRange_enc w.d)

theorem movih (w : IWord IntM) : Statement (.movih w) :=
  of_raw _ (encI 0x097 w (encIntM w.m)) rfl rfl rfl (congrArg (fun x => some (Instr.movih x)) ((iOf_enc _ w _ (intMOf (encIntM w.m))).trans (congrArg (fun m => (⟨w.hdr, m, w.d, w.a, w.imm⟩ : IWord IntM)) (intMOf_enc w.m)))) rfl rfl
    (set_ok w.hdr _ _ _ _ _ _) (ty_ok (int_fields w.m)) (opnds_i _ w _) (dstRange_enc w.d)

theorem lea (w : RWord IntM) : Statement (.lea w) :=
  of_raw _ (encR 0x098 w (encIntM w.m)) rfl rfl rfl (congrArg (fun x => some (Instr.lea x)) ((rOf_enc _ w _ (intMOf (encIntM w.m))).trans (congrArg (fun m => (⟨w.hdr, m, w.d, w.a, w.b, w.c⟩ : RWord IntM)) (intMOf_enc w.m)))) rfl rfl
    (set_ok w.hdr _ _ _ _ _ _) (ty_ok (int_fields w.m)) (opnds_r _ w _) (dstRange_enc w.d)

theorem plop (w : RWord (BitVec 12)) : Statement (.plop w) :=
  of_raw _ (encR 0x099 w w.m) rfl rfl rfl (congrArg (fun x => some (Instr.plop x)) (rOf_enc _ w _ w.m)) rfl rfl
    (set_ok w.hdr _ _ _ _ _ _) (rfl) (opnds_r _ w _) (dstRange_enc w.d)

theorem isad (w : RWord IntM) : Statement (.isad w) :=
  of_raw _ (encR 0x09A w (encIntM w.m)) rfl rfl rfl (congrArg (fun x => some (Instr.isad x)) ((rOf_enc _ w _ (intMOf (encIntM w.m))).trans (congrArg (fun m => (⟨w.hdr, m, w.d, w.a, w.b, w.c⟩ : RWord IntM)) (intMOf_enc w.m)))) rfl rfl
    (set_ok w.hdr _ _ _ _ _ _) (ty_ok (int_fields w.m)) (opnds_r _ w _) (dstRange_enc w.d)

theorem idot (w : RWord IntM) : Statement (.idot w) :=
  of_raw _ (encR 0x09B w (encIntM w.m)) rfl rfl rfl (congrArg (fun x => some (Instr.idot x)) ((rOf_enc _ w _ (intMOf (encIntM w.m))).trans (congrArg (fun m => (⟨w.hdr, m, w.d, w.a, w.b, w.c⟩ : RWord IntM)) (intMOf_enc w.m)))) rfl rfl
    (set_ok w.hdr _ _ _ _ _ _) (ty_ok (int_fields w.m)) (opnds_r _ w _) (dstRange_enc w.d)

theorem shfw (w : RWord IntM) : Statement (.shfw w) :=
  of_raw _ (encR 0x09C w (encIntM w.m)) rfl rfl rfl (congrArg (fun x => some (Instr.shfw x)) ((rOf_enc _ w _ (intMOf (encIntM w.m))).trans (congrArg (fun m => (⟨w.hdr, m, w.d, w.a, w.b, w.c⟩ : RWord IntM)) (intMOf_enc w.m)))) rfl rfl
    (set_ok w.hdr _ _ _ _ _ _) (ty_ok (int_fields w.m)) (opnds_r _ w _) (dstRange_enc w.d)

theorem xlane (w : RWord IntM) : Statement (.xlane w) :=
  of_raw _ (encR 0x0A0 w (encIntM w.m)) rfl rfl rfl (congrArg (fun x => some (Instr.xlane x)) ((rOf_enc _ w _ (intMOf (encIntM w.m))).trans (congrArg (fun m => (⟨w.hdr, m, w.d, w.a, w.b, w.c⟩ : RWord IntM)) (intMOf_enc w.m)))) rfl rfl
    (set_ok w.hdr _ _ _ _ _ _) (ty_ok (int_fields w.m)) (opnds_r _ w _) (dstRange_enc w.d)

theorem pcol (w : RWord (BitVec 12)) : Statement (.pcol w) :=
  of_raw _ (encR 0x0A1 w w.m) rfl rfl rfl (congrArg (fun x => some (Instr.pcol x)) (rOf_enc _ w _ w.m)) rfl rfl
    (set_ok w.hdr _ _ _ _ _ _) (rfl) (opnds_r _ w _) (dstRange_enc w.d)

theorem redi (w : RWord IntM) : Statement (.redi w) :=
  of_raw _ (encR 0x0A2 w (encIntM w.m)) rfl rfl rfl (congrArg (fun x => some (Instr.redi x)) ((rOf_enc _ w _ (intMOf (encIntM w.m))).trans (congrArg (fun m => (⟨w.hdr, m, w.d, w.a, w.b, w.c⟩ : RWord IntM)) (intMOf_enc w.m)))) rfl rfl
    (set_ok w.hdr _ _ _ _ _ _) (ty_ok (int_fields w.m)) (opnds_r _ w _) (dstRange_enc w.d)

theorem bsel (w : RWord (BitVec 12)) : Statement (.bsel w) :=
  of_raw _ (encR 0x0A3 w w.m) rfl rfl rfl (congrArg (fun x => some (Instr.bsel x)) (rOf_enc _ w _ w.m)) rfl rfl
    (set_ok w.hdr _ _ _ _ _ _) (rfl) (opnds_r _ w _) (dstRange_enc w.d)

theorem scan (w : RWord IntM) : Statement (.scan w) :=
  of_raw _ (encR 0x0A4 w (encIntM w.m)) rfl rfl rfl (congrArg (fun x => some (Instr.scan x)) ((rOf_enc _ w _ (intMOf (encIntM w.m))).trans (congrArg (fun m => (⟨w.hdr, m, w.d, w.a, w.b, w.c⟩ : RWord IntM)) (intMOf_enc w.m)))) rfl rfl
    (set_ok w.hdr _ _ _ _ _ _) (ty_ok (int_fields w.m)) (opnds_r _ w _) (dstRange_enc w.d)

theorem matchI (w : RWord IntM) : Statement (.matchI w) :=
  of_raw _ (encR 0x0A5 w (encIntM w.m)) rfl rfl rfl (congrArg (fun x => some (Instr.matchI x)) ((rOf_enc _ w _ (intMOf (encIntM w.m))).trans (congrArg (fun m => (⟨w.hdr, m, w.d, w.a, w.b, w.c⟩ : RWord IntM)) (intMOf_enc w.m)))) rfl rfl
    (set_ok w.hdr _ _ _ _ _ _) (ty_ok (int_fields w.m)) (opnds_r _ w _) (dstRange_enc w.d)

theorem rdlane (w : RWord IntM) : Statement (.rdlane w) :=
  of_raw _ (encR 0x0A6 w (encIntM w.m)) rfl rfl rfl (congrArg (fun x => some (Instr.rdlane x)) ((rOf_enc _ w _ (intMOf (encIntM w.m))).trans (congrArg (fun m => (⟨w.hdr, m, w.d, w.a, w.b, w.c⟩ : RWord IntM)) (intMOf_enc w.m)))) rfl rfl
    (set_ok w.hdr _ _ _ _ _ _) (ty_ok (int_fields w.m)) (opnds_r _ w _) (dstRange_enc w.d)

theorem wrlane (w : RWord IntM) : Statement (.wrlane w) :=
  of_raw _ (encR 0x0A7 w (encIntM w.m)) rfl rfl rfl (congrArg (fun x => some (Instr.wrlane x)) ((rOf_enc _ w _ (intMOf (encIntM w.m))).trans (congrArg (fun m => (⟨w.hdr, m, w.d, w.a, w.b, w.c⟩ : RWord IntM)) (intMOf_enc w.m)))) rfl rfl
    (set_ok w.hdr _ _ _ _ _ _) (ty_ok (int_fields w.m)) (opnds_r _ w _) (dstRange_enc w.d)

theorem fadd (w : RWord FltM) : Statement (.fadd w) :=
  of_raw _ (encR 0x100 w (encFltM w.m)) rfl rfl rfl (congrArg (fun x => some (Instr.fadd x)) ((rOf_enc _ w _ (fltMOf (encFltM w.m))).trans (congrArg (fun m => (⟨w.hdr, m, w.d, w.a, w.b, w.c⟩ : RWord FltM)) (fltMOf_enc w.m)))) rfl rfl
    (set_ok w.hdr _ _ _ _ _ _) (fl_ok (flt_fields w.m)) (opnds_r _ w _) (dstRange_enc w.d)

theorem fsub (w : RWord FltM) : Statement (.fsub w) :=
  of_raw _ (encR 0x101 w (encFltM w.m)) rfl rfl rfl (congrArg (fun x => some (Instr.fsub x)) ((rOf_enc _ w _ (fltMOf (encFltM w.m))).trans (congrArg (fun m => (⟨w.hdr, m, w.d, w.a, w.b, w.c⟩ : RWord FltM)) (fltMOf_enc w.m)))) rfl rfl
    (set_ok w.hdr _ _ _ _ _ _) (fl_ok (flt_fields w.m)) (opnds_r _ w _) (dstRange_enc w.d)

theorem fmul (w : RWord FltM) : Statement (.fmul w) :=
  of_raw _ (encR 0x102 w (encFltM w.m)) rfl rfl rfl (congrArg (fun x => some (Instr.fmul x)) ((rOf_enc _ w _ (fltMOf (encFltM w.m))).trans (congrArg (fun m => (⟨w.hdr, m, w.d, w.a, w.b, w.c⟩ : RWord FltM)) (fltMOf_enc w.m)))) rfl rfl
    (set_ok w.hdr _ _ _ _ _ _) (fl_ok (flt_fields w.m)) (opnds_r _ w _) (dstRange_enc w.d)

theorem ffma (w : RWord FltM) : Statement (.ffma w) :=
  of_raw _ (encR 0x103 w (encFltM w.m)) rfl rfl rfl (congrArg (fun x => some (Instr.ffma x)) ((rOf_enc _ w _ (fltMOf (encFltM w.m))).trans (congrArg (fun m => (⟨w.hdr, m, w.d, w.a, w.b, w.c⟩ : RWord FltM)) (fltMOf_enc w.m)))) rfl rfl
    (set_ok w.hdr _ _ _ _ _ _) (fl_ok (flt_fields w.m)) (opnds_r _ w _) (dstRange_enc w.d)

theorem fdot (w : RWord FltM) : Statement (.fdot w) :=
  of_raw _ (encR 0x104 w (encFltM w.m)) rfl rfl rfl (congrArg (fun x => some (Instr.fdot x)) ((rOf_enc _ w _ (fltMOf (encFltM w.m))).trans (congrArg (fun m => (⟨w.hdr, m, w.d, w.a, w.b, w.c⟩ : RWord FltM)) (fltMOf_enc w.m)))) rfl rfl
    (set_ok w.hdr _ _ _ _ _ _) (fl_ok (flt_fields w.m)) (opnds_r _ w _) (dstRange_enc w.d)

theorem fmin (w : RWord FltM) : Statement (.fmin w) :=
  of_raw _ (encR 0x105 w (encFltM w.m)) rfl rfl rfl (congrArg (fun x => some (Instr.fmin x)) ((rOf_enc _ w _ (fltMOf (encFltM w.m))).trans (congrArg (fun m => (⟨w.hdr, m, w.d, w.a, w.b, w.c⟩ : RWord FltM)) (fltMOf_enc w.m)))) rfl rfl
    (set_ok w.hdr _ _ _ _ _ _) (fl_ok (flt_fields w.m)) (opnds_r _ w _) (dstRange_enc w.d)

theorem fmax (w : RWord FltM) : Statement (.fmax w) :=
  of_raw _ (encR 0x106 w (encFltM w.m)) rfl rfl rfl (congrArg (fun x => some (Instr.fmax x)) ((rOf_enc _ w _ (fltMOf (encFltM w.m))).trans (congrArg (fun m => (⟨w.hdr, m, w.d, w.a, w.b, w.c⟩ : RWord FltM)) (fltMOf_enc w.m)))) rfl rfl
    (set_ok w.hdr _ _ _ _ _ _) (fl_ok (flt_fields w.m)) (opnds_r _ w _) (dstRange_enc w.d)

theorem fsetp (w : RWord FltM) : Statement (.fsetp w) :=
  of_raw _ (encR 0x107 w (encFltM w.m)) rfl rfl rfl (congrArg (fun x => some (Instr.fsetp x)) ((rOf_enc _ w _ (fltMOf (encFltM w.m))).trans (congrArg (fun m => (⟨w.hdr, m, w.d, w.a, w.b, w.c⟩ : RWord FltM)) (fltMOf_enc w.m)))) rfl rfl
    (set_ok w.hdr _ _ _ _ _ _) (fl_ok (flt_fields w.m)) (opnds_r _ w _) (dstRange_enc w.d)

theorem fsel (w : RWord FltM) : Statement (.fsel w) :=
  of_raw _ (encR 0x108 w (encFltM w.m)) rfl rfl rfl (congrArg (fun x => some (Instr.fsel x)) ((rOf_enc _ w _ (fltMOf (encFltM w.m))).trans (congrArg (fun m => (⟨w.hdr, m, w.d, w.a, w.b, w.c⟩ : RWord FltM)) (fltMOf_enc w.m)))) rfl rfl
    (set_ok w.hdr _ _ _ _ _ _) (fl_ok (flt_fields w.m)) (opnds_r _ w _) (dstRange_enc w.d)

theorem fclass (w : RWord FltM) : Statement (.fclass w) :=
  of_raw _ (encR 0x109 w (encFltM w.m)) rfl rfl rfl (congrArg (fun x => some (Instr.fclass x)) ((rOf_enc _ w _ (fltMOf (encFltM w.m))).trans (congrArg (fun m => (⟨w.hdr, m, w.d, w.a, w.b, w.c⟩ : RWord FltM)) (fltMOf_enc w.m)))) rfl rfl
    (set_ok w.hdr _ _ _ _ _ _) (fl_ok (flt_fields w.m)) (opnds_r _ w _) (dstRange_enc w.d)

theorem fdiv (w : RWord FltM) : Statement (.fdiv w) :=
  of_raw _ (encR 0x10A w (encFltM w.m)) rfl rfl rfl (congrArg (fun x => some (Instr.fdiv x)) ((rOf_enc _ w _ (fltMOf (encFltM w.m))).trans (congrArg (fun m => (⟨w.hdr, m, w.d, w.a, w.b, w.c⟩ : RWord FltM)) (fltMOf_enc w.m)))) rfl rfl
    (set_ok w.hdr _ _ _ _ _ _) (fl_ok (flt_fields w.m)) (opnds_r _ w _) (dstRange_enc w.d)

theorem fsqrt (w : RWord FltM) : Statement (.fsqrt w) :=
  of_raw _ (encR 0x10B w (encFltM w.m)) rfl rfl rfl (congrArg (fun x => some (Instr.fsqrt x)) ((rOf_enc _ w _ (fltMOf (encFltM w.m))).trans (congrArg (fun m => (⟨w.hdr, m, w.d, w.a, w.b, w.c⟩ : RWord FltM)) (fltMOf_enc w.m)))) rfl rfl
    (set_ok w.hdr _ _ _ _ _ _) (fl_ok (flt_fields w.m)) (opnds_r _ w _) (dstRange_enc w.d)

theorem frcp (w : RWord FltM) : Statement (.frcp w) :=
  of_raw _ (encR 0x10C w (encFltM w.m)) rfl rfl rfl (congrArg (fun x => some (Instr.frcp x)) ((rOf_enc _ w _ (fltMOf (encFltM w.m))).trans (congrArg (fun m => (⟨w.hdr, m, w.d, w.a, w.b, w.c⟩ : RWord FltM)) (fltMOf_enc w.m)))) rfl rfl
    (set_ok w.hdr _ _ _ _ _ _) (fl_ok (flt_fields w.m)) (opnds_r _ w _) (dstRange_enc w.d)

theorem frsq (w : RWord FltM) : Statement (.frsq w) :=
  of_raw _ (encR 0x10D w (encFltM w.m)) rfl rfl rfl (congrArg (fun x => some (Instr.frsq x)) ((rOf_enc _ w _ (fltMOf (encFltM w.m))).trans (congrArg (fun m => (⟨w.hdr, m, w.d, w.a, w.b, w.c⟩ : RWord FltM)) (fltMOf_enc w.m)))) rfl rfl
    (set_ok w.hdr _ _ _ _ _ _) (fl_ok (flt_fields w.m)) (opnds_r _ w _) (dstRange_enc w.d)

theorem fexp2 (w : RWord FltM) : Statement (.fexp2 w) :=
  of_raw _ (encR 0x10E w (encFltM w.m)) rfl rfl rfl (congrArg (fun x => some (Instr.fexp2 x)) ((rOf_enc _ w _ (fltMOf (encFltM w.m))).trans (congrArg (fun m => (⟨w.hdr, m, w.d, w.a, w.b, w.c⟩ : RWord FltM)) (fltMOf_enc w.m)))) rfl rfl
    (set_ok w.hdr _ _ _ _ _ _) (fl_ok (flt_fields w.m)) (opnds_r _ w _) (dstRange_enc w.d)

theorem flog2 (w : RWord FltM) : Statement (.flog2 w) :=
  of_raw _ (encR 0x10F w (encFltM w.m)) rfl rfl rfl (congrArg (fun x => some (Instr.flog2 x)) ((rOf_enc _ w _ (fltMOf (encFltM w.m))).trans (congrArg (fun m => (⟨w.hdr, m, w.d, w.a, w.b, w.c⟩ : RWord FltM)) (fltMOf_enc w.m)))) rfl rfl
    (set_ok w.hdr _ _ _ _ _ _) (fl_ok (flt_fields w.m)) (opnds_r _ w _) (dstRange_enc w.d)

theorem fsin (w : RWord FltM) : Statement (.fsin w) :=
  of_raw _ (encR 0x110 w (encFltM w.m)) rfl rfl rfl (congrArg (fun x => some (Instr.fsin x)) ((rOf_enc _ w _ (fltMOf (encFltM w.m))).trans (congrArg (fun m => (⟨w.hdr, m, w.d, w.a, w.b, w.c⟩ : RWord FltM)) (fltMOf_enc w.m)))) rfl rfl
    (set_ok w.hdr _ _ _ _ _ _) (fl_ok (flt_fields w.m)) (opnds_r _ w _) (dstRange_enc w.d)

theorem fcos (w : RWord FltM) : Statement (.fcos w) :=
  of_raw _ (encR 0x111 w (encFltM w.m)) rfl rfl rfl (congrArg (fun x => some (Instr.fcos x)) ((rOf_enc _ w _ (fltMOf (encFltM w.m))).trans (congrArg (fun m => (⟨w.hdr, m, w.d, w.a, w.b, w.c⟩ : RWord FltM)) (fltMOf_enc w.m)))) rfl rfl
    (set_ok w.hdr _ _ _ _ _ _) (fl_ok (flt_fields w.m)) (opnds_r _ w _) (dstRange_enc w.d)

theorem ftanh (w : RWord FltM) : Statement (.ftanh w) :=
  of_raw _ (encR 0x112 w (encFltM w.m)) rfl rfl rfl (congrArg (fun x => some (Instr.ftanh x)) ((rOf_enc _ w _ (fltMOf (encFltM w.m))).trans (congrArg (fun m => (⟨w.hdr, m, w.d, w.a, w.b, w.c⟩ : RWord FltM)) (fltMOf_enc w.m)))) rfl rfl
    (set_ok w.hdr _ _ _ _ _ _) (fl_ok (flt_fields w.m)) (opnds_r _ w _) (dstRange_enc w.d)

theorem fcvt (w : IWord FltM) : Statement (.fcvt w) :=
  of_raw _ (encI 0x113 w (encFltM w.m)) rfl rfl rfl (congrArg (fun x => some (Instr.fcvt x)) ((iOf_enc _ w _ (fltMOf (encFltM w.m))).trans (congrArg (fun m => (⟨w.hdr, m, w.d, w.a, w.imm⟩ : IWord FltM)) (fltMOf_enc w.m)))) rfl rfl
    (set_ok w.hdr _ _ _ _ _ _) (fl_ok (flt_fields w.m)) (opnds_i _ w _) (dstRange_enc w.d)

theorem f2i (w : RWord FltM) : Statement (.f2i w) :=
  of_raw _ (encR 0x114 w (encFltM w.m)) rfl rfl rfl (congrArg (fun x => some (Instr.f2i x)) ((rOf_enc _ w _ (fltMOf (encFltM w.m))).trans (congrArg (fun m => (⟨w.hdr, m, w.d, w.a, w.b, w.c⟩ : RWord FltM)) (fltMOf_enc w.m)))) rfl rfl
    (set_ok w.hdr _ _ _ _ _ _) (fl_ok (flt_fields w.m)) (opnds_r _ w _) (dstRange_enc w.d)

theorem i2f (w : RWord FltM) : Statement (.i2f w) :=
  of_raw _ (encR 0x115 w (encFltM w.m)) rfl rfl rfl (congrArg (fun x => some (Instr.i2f x)) ((rOf_enc _ w _ (fltMOf (encFltM w.m))).trans (congrArg (fun m => (⟨w.hdr, m, w.d, w.a, w.b, w.c⟩ : RWord FltM)) (fltMOf_enc w.m)))) rfl rfl
    (set_ok w.hdr _ _ _ _ _ _) (fl_ok (flt_fields w.m)) (opnds_r _ w _) (dstRange_enc w.d)

theorem frnd (w : RWord FltM) : Statement (.frnd w) :=
  of_raw _ (encR 0x116 w (encFltM w.m)) rfl rfl rfl (congrArg (fun x => some (Instr.frnd x)) ((rOf_enc _ w _ (fltMOf (encFltM w.m))).trans (congrArg (fun m => (⟨w.hdr, m, w.d, w.a, w.b, w.c⟩ : RWord FltM)) (fltMOf_enc w.m)))) rfl rfl
    (set_ok w.hdr _ _ _ _ _ _) (fl_ok (flt_fields w.m)) (opnds_r _ w _) (dstRange_enc w.d)

theorem fscale (w : RWord FltM) : Statement (.fscale w) :=
  of_raw _ (encR 0x117 w (encFltM w.m)) rfl rfl rfl (congrArg (fun x => some (Instr.fscale x)) ((rOf_enc _ w _ (fltMOf (encFltM w.m))).trans (congrArg (fun m => (⟨w.hdr, m, w.d, w.a, w.b, w.c⟩ : RWord FltM)) (fltMOf_enc w.m)))) rfl rfl
    (set_ok w.hdr _ _ _ _ _ _) (fl_ok (flt_fields w.m)) (opnds_r _ w _) (dstRange_enc w.d)

theorem digits (w : RWord FltM) : Statement (.digits w) :=
  of_raw _ (encR 0x118 w (encFltM w.m)) rfl rfl rfl (congrArg (fun x => some (Instr.digits x)) ((rOf_enc _ w _ (fltMOf (encFltM w.m))).trans (congrArg (fun m => (⟨w.hdr, m, w.d, w.a, w.b, w.c⟩ : RWord FltM)) (fltMOf_enc w.m)))) rfl rfl
    (set_ok w.hdr _ _ _ _ _ _) (fl_ok (flt_fields w.m)) (opnds_r _ w _) (dstRange_enc w.d)

theorem sibrd (w : RWord FltM) : Statement (.sibrd w) :=
  of_raw _ (encR 0x119 w (encFltM w.m)) rfl rfl rfl (congrArg (fun x => some (Instr.sibrd x)) ((rOf_enc _ w _ (fltMOf (encFltM w.m))).trans (congrArg (fun m => (⟨w.hdr, m, w.d, w.a, w.b, w.c⟩ : RWord FltM)) (fltMOf_enc w.m)))) rfl rfl
    (set_ok w.hdr _ _ _ _ _ _) (fl_ok (flt_fields w.m)) (opnds_r _ w _) (dstRange_enc w.d)

theorem sibwr (w : RWord FltM) : Statement (.sibwr w) :=
  of_raw _ (encR 0x11A w (encFltM w.m)) rfl rfl rfl (congrArg (fun x => some (Instr.sibwr x)) ((rOf_enc _ w _ (fltMOf (encFltM w.m))).trans (congrArg (fun m => (⟨w.hdr, m, w.d, w.a, w.b, w.c⟩ : RWord FltM)) (fltMOf_enc w.m)))) rfl rfl
    (set_ok w.hdr _ _ _ _ _ _) (fl_ok (flt_fields w.m)) (opnds_r _ w _) (dstRange_enc w.d)

theorem sibmed (w : RWord FltM) : Statement (.sibmed w) :=
  of_raw _ (encR 0x11B w (encFltM w.m)) rfl rfl rfl (congrArg (fun x => some (Instr.sibmed x)) ((rOf_enc _ w _ (fltMOf (encFltM w.m))).trans (congrArg (fun m => (⟨w.hdr, m, w.d, w.a, w.b, w.c⟩ : RWord FltM)) (fltMOf_enc w.m)))) rfl rfl
    (set_ok w.hdr _ _ _ _ _ _) (fl_ok (flt_fields w.m)) (opnds_r _ w _) (dstRange_enc w.d)

theorem sibmean (w : RWord FltM) : Statement (.sibmean w) :=
  of_raw _ (encR 0x11C w (encFltM w.m)) rfl rfl rfl (congrArg (fun x => some (Instr.sibmean x)) ((rOf_enc _ w _ (fltMOf (encFltM w.m))).trans (congrArg (fun m => (⟨w.hdr, m, w.d, w.a, w.b, w.c⟩ : RWord FltM)) (fltMOf_enc w.m)))) rfl rfl
    (set_ok w.hdr _ _ _ _ _ _) (fl_ok (flt_fields w.m)) (opnds_r _ w _) (dstRange_enc w.d)

theorem sibdiff (w : RWord FltM) : Statement (.sibdiff w) :=
  of_raw _ (encR 0x11D w (encFltM w.m)) rfl rfl rfl (congrArg (fun x => some (Instr.sibdiff x)) ((rOf_enc _ w _ (fltMOf (encFltM w.m))).trans (congrArg (fun m => (⟨w.hdr, m, w.d, w.a, w.b, w.c⟩ : RWord FltM)) (fltMOf_enc w.m)))) rfl rfl
    (set_ok w.hdr _ _ _ _ _ _) (fl_ok (flt_fields w.m)) (opnds_r _ w _) (dstRange_enc w.d)

theorem fsgn (w : RWord FltM) : Statement (.fsgn w) :=
  of_raw _ (encR 0x11E w (encFltM w.m)) rfl rfl rfl (congrArg (fun x => some (Instr.fsgn x)) ((rOf_enc _ w _ (fltMOf (encFltM w.m))).trans (congrArg (fun m => (⟨w.hdr, m, w.d, w.a, w.b, w.c⟩ : RWord FltM)) (fltMOf_enc w.m)))) rfl rfl
    (set_ok w.hdr _ _ _ _ _ _) (fl_ok (flt_fields w.m)) (opnds_r _ w _) (dstRange_enc w.d)

theorem fred (w : RWord FltM) : Statement (.fred w) :=
  of_raw _ (encR 0x11F w (encFltM w.m)) rfl rfl rfl (congrArg (fun x => some (Instr.fred x)) ((rOf_enc _ w _ (fltMOf (encFltM w.m))).trans (congrArg (fun m => (⟨w.hdr, m, w.d, w.a, w.b, w.c⟩ : RWord FltM)) (fltMOf_enc w.m)))) rfl rfl
    (set_ok w.hdr _ _ _ _ _ _) (fl_ok (flt_fields w.m)) (opnds_r _ w _) (dstRange_enc w.d)

theorem ld (w : MWord) : Statement (.ld w) :=
  of_raw _ (encM 0x180 w) rfl rfl rfl (congrArg (fun x => some (Instr.ld x)) (mOf_enc _ w)) rfl rfl
    (set_ok w.hdr _ _ _ _ _ _) (ty_ok (mem_fields w.m)) (opnds_m _ w) (dstRange_enc w.d)

theorem st (w : MWord) : Statement (.st w) :=
  of_raw _ (encM 0x181 w) rfl rfl rfl (congrArg (fun x => some (Instr.st x)) (mOf_enc _ w)) rfl rfl
    (set_ok w.hdr _ _ _ _ _ _) (ty_ok (mem_fields w.m)) (opnds_m _ w) (dstRange_enc w.d)

theorem ldx (w : MWord) : Statement (.ldx w) :=
  of_raw _ (encM 0x182 w) rfl rfl rfl (congrArg (fun x => some (Instr.ldx x)) (mOf_enc _ w)) rfl rfl
    (set_ok w.hdr _ _ _ _ _ _) (ty_ok (mem_fields w.m)) (opnds_m _ w) (dstRange_enc w.d)

theorem stx (w : MWord) : Statement (.stx w) :=
  of_raw _ (encM 0x183 w) rfl rfl rfl (congrArg (fun x => some (Instr.stx x)) (mOf_enc _ w)) rfl rfl
    (set_ok w.hdr _ _ _ _ _ _) (ty_ok (mem_fields w.m)) (opnds_m _ w) (dstRange_enc w.d)

theorem aadd (w : MWord) : Statement (.aadd w) :=
  of_raw _ (encM 0x184 w) rfl rfl rfl (congrArg (fun x => some (Instr.aadd x)) (mOf_enc _ w)) rfl rfl
    (set_ok w.hdr _ _ _ _ _ _) (ty_ok (mem_fields w.m)) (opnds_m _ w) (dstRange_enc w.d)

theorem amin (w : MWord) : Statement (.amin w) :=
  of_raw _ (encM 0x185 w) rfl rfl rfl (congrArg (fun x => some (Instr.amin x)) (mOf_enc _ w)) rfl rfl
    (set_ok w.hdr _ _ _ _ _ _) (ty_ok (mem_fields w.m)) (opnds_m _ w) (dstRange_enc w.d)

theorem amax (w : MWord) : Statement (.amax w) :=
  of_raw _ (encM 0x186 w) rfl rfl rfl (congrArg (fun x => some (Instr.amax x)) (mOf_enc _ w)) rfl rfl
    (set_ok w.hdr _ _ _ _ _ _) (ty_ok (mem_fields w.m)) (opnds_m _ w) (dstRange_enc w.d)

theorem aand (w : MWord) : Statement (.aand w) :=
  of_raw _ (encM 0x187 w) rfl rfl rfl (congrArg (fun x => some (Instr.aand x)) (mOf_enc _ w)) rfl rfl
    (set_ok w.hdr _ _ _ _ _ _) (ty_ok (mem_fields w.m)) (opnds_m _ w) (dstRange_enc w.d)

theorem aor (w : MWord) : Statement (.aor w) :=
  of_raw _ (encM 0x188 w) rfl rfl rfl (congrArg (fun x => some (Instr.aor x)) (mOf_enc _ w)) rfl rfl
    (set_ok w.hdr _ _ _ _ _ _) (ty_ok (mem_fields w.m)) (opnds_m _ w) (dstRange_enc w.d)

theorem axor (w : MWord) : Statement (.axor w) :=
  of_raw _ (encM 0x189 w) rfl rfl rfl (congrArg (fun x => some (Instr.axor x)) (mOf_enc _ w)) rfl rfl
    (set_ok w.hdr _ _ _ _ _ _) (ty_ok (mem_fields w.m)) (opnds_m _ w) (dstRange_enc w.d)

theorem axch (w : MWord) : Statement (.axch w) :=
  of_raw _ (encM 0x18A w) rfl rfl rfl (congrArg (fun x => some (Instr.axch x)) (mOf_enc _ w)) rfl rfl
    (set_ok w.hdr _ _ _ _ _ _) (ty_ok (mem_fields w.m)) (opnds_m _ w) (dstRange_enc w.d)

theorem acas (w : MWord) : Statement (.acas w) :=
  of_raw _ (encM 0x18B w) rfl rfl rfl (congrArg (fun x => some (Instr.acas x)) (mOf_enc _ w)) rfl rfl
    (set_ok w.hdr _ _ _ _ _ _) (ty_ok (mem_fields w.m)) (opnds_m _ w) (dstRange_enc w.d)

theorem afadd (w : MWord) : Statement (.afadd w) :=
  of_raw _ (encM 0x18C w) rfl rfl rfl (congrArg (fun x => some (Instr.afadd x)) (mOf_enc _ w)) rfl rfl
    (set_ok w.hdr _ _ _ _ _ _) (ty_ok (mem_fields w.m)) (opnds_m _ w) (dstRange_enc w.d)

theorem radd (w : MWord) : Statement (.radd w) :=
  of_raw _ (encM 0x190 w) rfl rfl rfl (congrArg (fun x => some (Instr.radd x)) (mOf_enc _ w)) rfl rfl
    (set_ok w.hdr _ _ _ _ _ _) (ty_ok (mem_fields w.m)) (opnds_m _ w) (dstRange_enc w.d)

theorem rmin (w : MWord) : Statement (.rmin w) :=
  of_raw _ (encM 0x191 w) rfl rfl rfl (congrArg (fun x => some (Instr.rmin x)) (mOf_enc _ w)) rfl rfl
    (set_ok w.hdr _ _ _ _ _ _) (ty_ok (mem_fields w.m)) (opnds_m _ w) (dstRange_enc w.d)

theorem rmax (w : MWord) : Statement (.rmax w) :=
  of_raw _ (encM 0x192 w) rfl rfl rfl (congrArg (fun x => some (Instr.rmax x)) (mOf_enc _ w)) rfl rfl
    (set_ok w.hdr _ _ _ _ _ _) (ty_ok (mem_fields w.m)) (opnds_m _ w) (dstRange_enc w.d)

theorem rand (w : MWord) : Statement (.rand w) :=
  of_raw _ (encM 0x193 w) rfl rfl rfl (congrArg (fun x => some (Instr.rand x)) (mOf_enc _ w)) rfl rfl
    (set_ok w.hdr _ _ _ _ _ _) (ty_ok (mem_fields w.m)) (opnds_m _ w) (dstRange_enc w.d)

theorem ror (w : MWord) : Statement (.ror w) :=
  of_raw _ (encM 0x194 w) rfl rfl rfl (congrArg (fun x => some (Instr.ror x)) (mOf_enc _ w)) rfl rfl
    (set_ok w.hdr _ _ _ _ _ _) (ty_ok (mem_fields w.m)) (opnds_m _ w) (dstRange_enc w.d)

theorem rxor (w : MWord) : Statement (.rxor w) :=
  of_raw _ (encM 0x195 w) rfl rfl rfl (congrArg (fun x => some (Instr.rxor x)) (mOf_enc _ w)) rfl rfl
    (set_ok w.hdr _ _ _ _ _ _) (ty_ok (mem_fields w.m)) (opnds_m _ w) (dstRange_enc w.d)

theorem rfadd (w : MWord) : Statement (.rfadd w) :=
  of_raw _ (encM 0x196 w) rfl rfl rfl (congrArg (fun x => some (Instr.rfadd x)) (mOf_enc _ w)) rfl rfl
    (set_ok w.hdr _ _ _ _ _ _) (ty_ok (mem_fields w.m)) (opnds_m _ w) (dstRange_enc w.d)

theorem waita (w : MWord) : Statement (.waita w) :=
  of_raw _ (encM 0x198 w) rfl rfl rfl (congrArg (fun x => some (Instr.waita x)) (mOf_enc _ w)) rfl rfl
    (set_ok w.hdr _ _ _ _ _ _) (ty_ok (mem_fields w.m)) (opnds_m _ w) (dstRange_enc w.d)

theorem fence (w : RWord MemM) : Statement (.fence w) :=
  of_raw _ (encR 0x199 w (encMemM w.m)) rfl rfl rfl (congrArg (fun x => some (Instr.fence x)) ((rOf_enc _ w _ (memMOf (encMemM w.m))).trans (congrArg (fun m => (⟨w.hdr, m, w.d, w.a, w.b, w.c⟩ : RWord MemM)) (memMOf_enc w.m)))) rfl rfl
    (set_ok w.hdr _ _ _ _ _ _) (ty_ok (mem_fields w.m)) (opnds_r _ w _) (dstRange_enc w.d)

theorem cinv (w : MWord) : Statement (.cinv w) :=
  of_raw _ (encM 0x19A w) rfl rfl rfl (congrArg (fun x => some (Instr.cinv x)) (mOf_enc _ w)) rfl rfl
    (set_ok w.hdr _ _ _ _ _ _) (ty_ok (mem_fields w.m)) (opnds_m _ w) (dstRange_enc w.d)

theorem ctag (w : MWord) : Statement (.ctag w) :=
  of_raw _ (encM 0x19B w) rfl rfl rfl (congrArg (fun x => some (Instr.ctag x)) (mOf_enc _ w)) rfl rfl
    (set_ok w.hdr _ _ _ _ _ _) (ty_ok (mem_fields w.m)) (opnds_m _ w) (dstRange_enc w.d)

theorem pref (w : MWord) : Statement (.pref w) :=
  of_raw _ (encM 0x19C w) rfl rfl rfl (congrArg (fun x => some (Instr.pref x)) (mOf_enc _ w)) rfl rfl
    (set_ok w.hdr _ _ _ _ _ _) (ty_ok (mem_fields w.m)) (opnds_m _ w) (dstRange_enc w.d)

theorem txb (w : RWord MemM) : Statement (.txb w) :=
  of_raw _ (encR 0x19D w (encMemM w.m)) rfl rfl rfl (congrArg (fun x => some (Instr.txb x)) ((rOf_enc _ w _ (memMOf (encMemM w.m))).trans (congrArg (fun m => (⟨w.hdr, m, w.d, w.a, w.b, w.c⟩ : RWord MemM)) (memMOf_enc w.m)))) rfl rfl
    (set_ok w.hdr _ _ _ _ _ _) (ty_ok (mem_fields w.m)) (opnds_r _ w _) (dstRange_enc w.d)

theorem txc (w : RWord MemM) : Statement (.txc w) :=
  of_raw _ (encR 0x19E w (encMemM w.m)) rfl rfl rfl (congrArg (fun x => some (Instr.txc x)) ((rOf_enc _ w _ (memMOf (encMemM w.m))).trans (congrArg (fun m => (⟨w.hdr, m, w.d, w.a, w.b, w.c⟩ : RWord MemM)) (memMOf_enc w.m)))) rfl rfl
    (set_ok w.hdr _ _ _ _ _ _) (ty_ok (mem_fields w.m)) (opnds_r _ w _) (dstRange_enc w.d)

theorem txa (w : RWord MemM) : Statement (.txa w) :=
  of_raw _ (encR 0x19F w (encMemM w.m)) rfl rfl rfl (congrArg (fun x => some (Instr.txa x)) ((rOf_enc _ w _ (memMOf (encMemM w.m))).trans (congrArg (fun m => (⟨w.hdr, m, w.d, w.a, w.b, w.c⟩ : RWord MemM)) (memMOf_enc w.m)))) rfl rfl
    (set_ok w.hdr _ _ _ _ _ _) (ty_ok (mem_fields w.m)) (opnds_r _ w _) (dstRange_enc w.d)

theorem snappin (w : RWord MemM) : Statement (.snappin w) :=
  of_raw _ (encR 0x1A0 w (encMemM w.m)) rfl rfl rfl (congrArg (fun x => some (Instr.snappin x)) ((rOf_enc _ w _ (memMOf (encMemM w.m))).trans (congrArg (fun m => (⟨w.hdr, m, w.d, w.a, w.b, w.c⟩ : RWord MemM)) (memMOf_enc w.m)))) rfl rfl
    (set_ok w.hdr _ _ _ _ _ _) (ty_ok (mem_fields w.m)) (opnds_r _ w _) (dstRange_enc w.d)

theorem snaprel (w : RWord MemM) : Statement (.snaprel w) :=
  of_raw _ (encR 0x1A1 w (encMemM w.m)) rfl rfl rfl (congrArg (fun x => some (Instr.snaprel x)) ((rOf_enc _ w _ (memMOf (encMemM w.m))).trans (congrArg (fun m => (⟨w.hdr, m, w.d, w.a, w.b, w.c⟩ : RWord MemM)) (memMOf_enc w.m)))) rfl rfl
    (set_ok w.hdr _ _ _ _ _ _) (ty_ok (mem_fields w.m)) (opnds_r _ w _) (dstRange_enc w.d)

theorem cdrain (w : RWord MemM) : Statement (.cdrain w) :=
  of_raw _ (encR 0x1A2 w (encMemM w.m)) rfl rfl rfl (congrArg (fun x => some (Instr.cdrain x)) ((rOf_enc _ w _ (memMOf (encMemM w.m))).trans (congrArg (fun m => (⟨w.hdr, m, w.d, w.a, w.b, w.c⟩ : RWord MemM)) (memMOf_enc w.m)))) rfl rfl
    (set_ok w.hdr _ _ _ _ _ _) (ty_ok (mem_fields w.m)) (opnds_r _ w _) (dstRange_enc w.d)

theorem push (w : RWord (BitVec 12)) : Statement (.push w) :=
  of_raw _ (encR 0x200 w w.m) rfl rfl rfl (congrArg (fun x => some (Instr.push x)) (rOf_enc _ w _ w.m)) rfl rfl
    (set_ok w.hdr _ _ _ _ _ _) (rfl) (opnds_r _ w _) (dstRange_enc w.d)

theorem pop (w : RWord (BitVec 12)) : Statement (.pop w) :=
  of_raw _ (encR 0x201 w w.m) rfl rfl rfl (congrArg (fun x => some (Instr.pop x)) (rOf_enc _ w _ w.m)) rfl rfl
    (set_ok w.hdr _ _ _ _ _ _) (rfl) (opnds_r _ w _) (dstRange_enc w.d)

theorem caprd (w : RWord (BitVec 12)) : Statement (.caprd w) :=
  of_raw _ (encR 0x202 w w.m) rfl rfl rfl (congrArg (fun x => some (Instr.caprd x)) (rOf_enc _ w _ w.m)) rfl rfl
    (set_ok w.hdr _ _ _ _ _ _) (rfl) (opnds_r _ w _) (dstRange_enc w.d)

theorem binit (w : RWord (BitVec 12)) : Statement (.binit w) :=
  of_raw _ (encR 0x203 w w.m) rfl rfl rfl (congrArg (fun x => some (Instr.binit x)) (rOf_enc _ w _ w.m)) rfl rfl
    (set_ok w.hdr _ _ _ _ _ _) (rfl) (opnds_r _ w _) (dstRange_enc w.d)

theorem barrive (w : RWord (BitVec 12)) : Statement (.barrive w) :=
  of_raw _ (encR 0x204 w w.m) rfl rfl rfl (congrArg (fun x => some (Instr.barrive x)) (rOf_enc _ w _ w.m)) rfl rfl
    (set_ok w.hdr _ _ _ _ _ _) (rfl) (opnds_r _ w _) (dstRange_enc w.d)

theorem bexpect (w : RWord (BitVec 12)) : Statement (.bexpect w) :=
  of_raw _ (encR 0x205 w w.m) rfl rfl rfl (congrArg (fun x => some (Instr.bexpect x)) (rOf_enc _ w _ w.m)) rfl rfl
    (set_ok w.hdr _ _ _ _ _ _) (rfl) (opnds_r _ w _) (dstRange_enc w.d)

theorem bwaitp (w : RWord (BitVec 12)) : Statement (.bwaitp w) :=
  of_raw _ (encR 0x206 w w.m) rfl rfl rfl (congrArg (fun x => some (Instr.bwaitp x)) (rOf_enc _ w _ w.m)) rfl rfl
    (set_ok w.hdr _ _ _ _ _ _) (rfl) (opnds_r _ w _) (dstRange_enc w.d)

theorem btest (w : RWord (BitVec 12)) : Statement (.btest w) :=
  of_raw _ (encR 0x207 w w.m) rfl rfl rfl (congrArg (fun x => some (Instr.btest x)) (rOf_enc _ w _ w.m)) rfl rfl
    (set_ok w.hdr _ _ _ _ _ _) (rfl) (opnds_r _ w _) (dstRange_enc w.d)

theorem binval (w : RWord (BitVec 12)) : Statement (.binval w) :=
  of_raw _ (encR 0x208 w w.m) rfl rfl rfl (congrArg (fun x => some (Instr.binval x)) (rOf_enc _ w _ w.m)) rfl rfl
    (set_ok w.hdr _ _ _ _ _ _) (rfl) (opnds_r _ w _) (dstRange_enc w.d)

theorem bclose (w : RWord (BitVec 12)) : Statement (.bclose w) :=
  of_raw _ (encR 0x209 w w.m) rfl rfl rfl (congrArg (fun x => some (Instr.bclose x)) (rOf_enc _ w _ w.m)) rfl rfl
    (set_ok w.hdr _ _ _ _ _ _) (rfl) (opnds_r _ w _) (dstRange_enc w.d)

theorem bwait (w : RWord (BitVec 12)) : Statement (.bwait w) :=
  of_raw _ (encR 0x20A w w.m) rfl rfl rfl (congrArg (fun x => some (Instr.bwait x)) (rOf_enc _ w _ w.m)) rfl rfl
    (set_ok w.hdr _ _ _ _ _ _) (rfl) (opnds_r _ w _) (dstRange_enc w.d)

theorem bpoll (w : RWord (BitVec 12)) : Statement (.bpoll w) :=
  of_raw _ (encR 0x20B w w.m) rfl rfl rfl (congrArg (fun x => some (Instr.bpoll x)) (rOf_enc _ w _ w.m)) rfl rfl
    (set_ok w.hdr _ _ _ _ _ _) (rfl) (opnds_r _ w _) (dstRange_enc w.d)

theorem qfence (w : RWord (BitVec 12)) : Statement (.qfence w) :=
  of_raw _ (encR 0x20C w w.m) rfl rfl rfl (congrArg (fun x => some (Instr.qfence x)) (rOf_enc _ w _ w.m)) rfl rfl
    (set_ok w.hdr _ _ _ _ _ _) (rfl) (opnds_r _ w _) (dstRange_enc w.d)

theorem cpy (w : RWord (BitVec 12)) : Statement (.cpy w) :=
  of_raw _ (encR 0x280 w w.m) rfl rfl rfl (congrArg (fun x => some (Instr.cpy x)) (rOf_enc _ w _ w.m)) rfl rfl
    (set_ok w.hdr _ _ _ _ _ _) (rfl) (opnds_r _ w _) (dstRange_enc w.d)

theorem cpyT (w : RWord (BitVec 12)) : Statement (.cpyT w) :=
  of_raw _ (encR 0x281 w w.m) rfl rfl rfl (congrArg (fun x => some (Instr.cpyT x)) (rOf_enc _ w _ w.m)) rfl rfl
    (set_ok w.hdr _ _ _ _ _ _) (rfl) (opnds_r _ w _) (dstRange_enc w.d)

theorem cpyCv (w : RWord (BitVec 12)) : Statement (.cpyCv w) :=
  of_raw _ (encR 0x282 w w.m) rfl rfl rfl (congrArg (fun x => some (Instr.cpyCv x)) (rOf_enc _ w _ w.m)) rfl rfl
    (set_ok w.hdr _ _ _ _ _ _) (rfl) (opnds_r _ w _) (dstRange_enc w.d)

theorem cpyMeta (w : RWord (BitVec 12)) : Statement (.cpyMeta w) :=
  of_raw _ (encR 0x283 w w.m) rfl rfl rfl (congrArg (fun x => some (Instr.cpyMeta x)) (rOf_enc _ w _ w.m)) rfl rfl
    (set_ok w.hdr _ _ _ _ _ _) (rfl) (opnds_r _ w _) (dstRange_enc w.d)

theorem gather (w : RWord (BitVec 12)) : Statement (.gather w) :=
  of_raw _ (encR 0x284 w w.m) rfl rfl rfl (congrArg (fun x => some (Instr.gather x)) (rOf_enc _ w _ w.m)) rfl rfl
    (set_ok w.hdr _ _ _ _ _ _) (rfl) (opnds_r _ w _) (dstRange_enc w.d)

theorem mzero (w : RWord (BitVec 12)) : Statement (.mzero w) :=
  of_raw _ (encR 0x285 w w.m) rfl rfl rfl (congrArg (fun x => some (Instr.mzero x)) (rOf_enc _ w _ w.m)) rfl rfl
    (set_ok w.hdr _ _ _ _ _ _) (rfl) (opnds_r _ w _) (dstRange_enc w.d)

theorem mloop (w : RWord (BitVec 12)) : Statement (.mloop w) :=
  of_raw _ (encR 0x286 w w.m) rfl rfl rfl (congrArg (fun x => some (Instr.mloop x)) (rOf_enc _ w _ w.m)) rfl rfl
    (set_ok w.hdr _ _ _ _ _ _) (rfl) (opnds_r _ w _) (dstRange_enc w.d)

theorem mloopSp (w : RWord (BitVec 12)) : Statement (.mloopSp w) :=
  of_raw _ (encR 0x287 w w.m) rfl rfl rfl (congrArg (fun x => some (Instr.mloopSp x)) (rOf_enc _ w _ w.m)) rfl rfl
    (set_ok w.hdr _ _ _ _ _ _) (rfl) (opnds_r _ w _) (dstRange_enc w.d)

theorem macc (w : RWord (BitVec 12)) : Statement (.macc w) :=
  of_raw _ (encR 0x288 w w.m) rfl rfl rfl (congrArg (fun x => some (Instr.macc x)) (rOf_enc _ w _ w.m)) rfl rfl
    (set_ok w.hdr _ _ _ _ _ _) (rfl) (opnds_r _ w _) (dstRange_enc w.d)

theorem cbload (w : RWord (BitVec 12)) : Statement (.cbload w) :=
  of_raw _ (encR 0x289 w w.m) rfl rfl rfl (congrArg (fun x => some (Instr.cbload x)) (rOf_enc _ w _ w.m)) rfl rfl
    (set_ok w.hdr _ _ _ _ _ _) (rfl) (opnds_r _ w _) (dstRange_enc w.d)

theorem xfmR (w : RWord (BitVec 12)) : Statement (.xfmR w) :=
  of_raw _ (encR 0x28A w w.m) rfl rfl rfl (congrArg (fun x => some (Instr.xfmR x)) (rOf_enc _ w _ w.m)) rfl rfl
    (set_ok w.hdr _ _ _ _ _ _) (rfl) (opnds_r _ w _) (dstRange_enc w.d)

theorem xfmJ (w : RWord (BitVec 12)) : Statement (.xfmJ w) :=
  of_raw _ (encR 0x28B w w.m) rfl rfl rfl (congrArg (fun x => some (Instr.xfmJ x)) (rOf_enc _ w _ w.m)) rfl rfl
    (set_ok w.hdr _ _ _ _ _ _) (rfl) (opnds_r _ w _) (dstRange_enc w.d)

theorem decode (w : RWord (BitVec 12)) : Statement (.decode w) :=
  of_raw _ (encR 0x28C w w.m) rfl rfl rfl (congrArg (fun x => some (Instr.decode x)) (rOf_enc _ w _ w.m)) rfl rfl
    (set_ok w.hdr _ _ _ _ _ _) (rfl) (opnds_r _ w _) (dstRange_enc w.d)

theorem illegalOp (w : BitVec 96) : Statement (.illegalOp w) := by
  refine fun _ => ⟨fun h => absurd h (by simp [sig, sigControl, sigInteger, sigFloat, sigMemory, sigEngine]), fun v h => ?_⟩
  simp only [encode] at h
  split at h
  · next hc =>
    obtain rfl := Option.some.inj h
    simp only [Bool.and_eq_true, beq_iff_eq, bne_iff_ne] at hc
    obtain ⟨⟨h1, h2⟩, h3⟩ := hc
    have e2 : ((unpack w).opc == 0) = false := by simpa using h2
    have e3 : (w == BitVec.allOnes 96) = false := beq_eq_false_iff_ne.mpr h3
    unfold Sys2Proof.decode
    simp only [h1, e2, e3, Bool.false_eq_true, if_false]
  · cases h

theorem falloff : Statement .falloff :=
  fun _ => ⟨fun _ => ⟨_, rfl⟩, fun w h => by obtain rfl := Option.some.inj h; decide⟩

theorem powerGood : Statement .powerGood := of_none _ rfl rfl

theorem selfTestDone : ∀ x0 x1, Statement (.selfTestDone x0 x1) := fun _ _ => of_none _ rfl rfl

theorem imageReceived : Statement .imageReceived := of_none _ rfl rfl

theorem imageVerified : ∀ x0, Statement (.imageVerified x0) := fun _ => of_none _ rfl rfl

theorem thermalTrip : ∀ x0 x1, Statement (.thermalTrip x0 x1) := fun _ _ => of_none _ rfl rfl

theorem tripClear : ∀ x0, Statement (.tripClear x0) := fun _ => of_none _ rfl rfl

theorem freeze : Statement .freeze := of_none _ rfl rfl

theorem thaw : ∀ x0, Statement (.thaw x0) := fun _ => of_none _ rfl rfl

theorem coreFailure : ∀ x0 x1, Statement (.coreFailure x0 x1) := fun _ _ => of_none _ rfl rfl

theorem softError : ∀ x0, Statement (.softError x0) := fun _ => of_none _ rfl rfl

theorem patrolScrub : ∀ x0 x1 x2, Statement (.patrolScrub x0 x1 x2) := fun _ _ _ => of_none _ rfl rfl

theorem uncorrectableError : ∀ x0, Statement (.uncorrectableError x0) := fun _ => of_none _ rfl rfl

theorem startGrant : ∀ x0, Statement (.startGrant x0) := fun _ => of_none _ rfl rfl

theorem bankAccess : ∀ x0 x1, Statement (.bankAccess x0 x1) := fun _ _ => of_none _ rfl rfl

theorem pumpFullWrite : ∀ x0 x1, Statement (.pumpFullWrite x0 x1) := fun _ _ => of_none _ rfl rfl

theorem pumpPartialWrite : ∀ x0 x1, Statement (.pumpPartialWrite x0 x1) := fun _ _ => of_none _ rfl rfl

theorem pumpRead : ∀ x0 x1, Statement (.pumpRead x0 x1) := fun _ _ => of_none _ rfl rfl

theorem pumpAtomic : ∀ x0 x1, Statement (.pumpAtomic x0 x1) := fun _ _ => of_none _ rfl rfl

theorem reencryptComplete : ∀ x0, Statement (.reencryptComplete x0) := fun _ => of_none _ rfl rfl

theorem memoryResponse : ∀ x0, Statement (.memoryResponse x0) := fun _ => of_none _ rfl rfl

theorem storeAck : ∀ x0, Statement (.storeAck x0) := fun _ => of_none _ rfl rfl

theorem wkeyLoad : ∀ x0, Statement (.wkeyLoad x0) := fun _ => of_none _ rfl rfl

theorem wkeyRekey : ∀ x0 x1, Statement (.wkeyRekey x0 x1) := fun _ _ => of_none _ rfl rfl

theorem wkeyClear : ∀ x0, Statement (.wkeyClear x0) := fun _ => of_none _ rfl rfl

theorem rekeyLine : ∀ x0 x1, Statement (.rekeyLine x0 x1) := fun _ _ => of_none _ rfl rfl

theorem snapshotWaitEnd : ∀ x0, Statement (.snapshotWaitEnd x0) := fun _ => of_none _ rfl rfl

theorem txPrepare : ∀ x0 x1, Statement (.txPrepare x0 x1) := fun _ _ => of_none _ rfl rfl

theorem txVote : ∀ x0 x1, Statement (.txVote x0 x1) := fun _ _ => of_none _ rfl rfl

theorem txCommitWrite : ∀ x0 x1, Statement (.txCommitWrite x0 x1) := fun _ _ => of_none _ rfl rfl

theorem txCommitAck : ∀ x0 x1, Statement (.txCommitAck x0 x1) := fun _ _ => of_none _ rfl rfl

theorem lockRelease : ∀ x0, Statement (.lockRelease x0) := fun _ => of_none _ rfl rfl

theorem lwmRecompute : ∀ x0, Statement (.lwmRecompute x0) := fun _ => of_none _ rfl rfl

theorem poolWaitTimeout : ∀ x0, Statement (.poolWaitTimeout x0) := fun _ => of_none _ rfl rfl

theorem poolWaitEnd : ∀ x0, Statement (.poolWaitEnd x0) := fun _ => of_none _ rfl rfl

theorem pageWalk : ∀ x0 x1 x2, Statement (.pageWalk x0 x1 x2) := fun _ _ _ => of_none _ rfl rfl

theorem setDirty : ∀ x0 x1, Statement (.setDirty x0 x1) := fun _ _ => of_none _ rfl rfl

theorem faultRecordWaitEnd : ∀ x0, Statement (.faultRecordWaitEnd x0) := fun _ => of_none _ rfl rfl

theorem fltreplayReplay : ∀ x0 x1, Statement (.fltreplayReplay x0 x1) := fun _ _ => of_none _ rfl rfl

theorem fltreplayCancel : ∀ x0 x1, Statement (.fltreplayCancel x0 x1) := fun _ _ => of_none _ rfl rfl

theorem tlbinvRange : ∀ x0, Statement (.tlbinvRange x0) := fun _ => of_none _ rfl rfl

theorem tlbinvVf : ∀ x0, Statement (.tlbinvVf x0) := fun _ => of_none _ rfl rfl

theorem tlbinvAll : ∀ x0, Statement (.tlbinvAll x0) := fun _ => of_none _ rfl rfl

theorem tlbinvText : ∀ x0, Statement (.tlbinvText x0) := fun _ => of_none _ rfl rfl

theorem tlbinvComplete : Statement .tlbinvComplete := of_none _ rfl rfl

theorem partqEnable : ∀ x0 x1, Statement (.partqEnable x0 x1) := fun _ _ => of_none _ rfl rfl

theorem partqDisable : ∀ x0 x1, Statement (.partqDisable x0 x1) := fun _ _ => of_none _ rfl rfl

theorem ctxCreate : ∀ x0 x1, Statement (.ctxCreate x0 x1) := fun _ _ => of_none _ rfl rfl

theorem ctxSwitch : ∀ x0 x1, Statement (.ctxSwitch x0 x1) := fun _ _ => of_none _ rfl rfl

theorem ctxHalt : ∀ x0 x1, Statement (.ctxHalt x0 x1) := fun _ _ => of_none _ rfl rfl

theorem ctxResume : ∀ x0 x1, Statement (.ctxResume x0 x1) := fun _ _ => of_none _ rfl rfl

theorem ctxTeardown : ∀ x0 x1, Statement (.ctxTeardown x0 x1) := fun _ _ => of_none _ rfl rfl

theorem restoreStart : ∀ x0, Statement (.restoreStart x0) := fun _ => of_none _ rfl rfl

theorem restoreComplete : ∀ x0, Statement (.restoreComplete x0) := fun _ => of_none _ rfl rfl

theorem sliceEnd : ∀ x0, Statement (.sliceEnd x0) := fun _ => of_none _ rfl rfl

theorem saveComplete : ∀ x0, Statement (.saveComplete x0) := fun _ => of_none _ rfl rfl

theorem haltLineRise : ∀ x0 x1, Statement (.haltLineRise x0 x1) := fun _ _ => of_none _ rfl rfl

theorem unitStop : ∀ x0 x1, Statement (.unitStop x0 x1) := fun _ _ => of_none _ rfl rfl

theorem vfKeyLoad : ∀ x0, Statement (.vfKeyLoad x0) := fun _ => of_none _ rfl rfl

theorem vfKeyClear : ∀ x0, Statement (.vfKeyClear x0) := fun _ => of_none _ rfl rfl

theorem tokenAccrual : ∀ x0, Statement (.tokenAccrual x0) := fun _ => of_none _ rfl rfl

theorem reclaim : ∀ x0 x1, Statement (.reclaim x0 x1) := fun _ _ => of_none _ rfl rfl

theorem reclaimComplete : ∀ x0, Statement (.reclaimComplete x0) := fun _ => of_none _ rfl rfl

theorem objectLoad : ∀ x0 x1 x2 x3 x4, Statement (.objectLoad x0 x1 x2 x3 x4) := fun _ _ _ _ _ => of_none _ rfl rfl

theorem objectUnload : ∀ x0 x1, Statement (.objectUnload x0 x1) := fun _ _ => of_none _ rfl rfl

theorem gridAcceptance : ∀ x0, Statement (.gridAcceptance x0) := fun _ => of_none _ rfl rfl

theorem teamPlacement : ∀ x0 x1 x2 x3 x4, Statement (.teamPlacement x0 x1 x2 x3 x4) := fun _ _ _ _ _ => of_none _ rfl rfl

theorem gridCompletion : ∀ x0, Statement (.gridCompletion x0) := fun _ => of_none _ rfl rfl

theorem bindResolve : ∀ x0 x1 x2, Statement (.bindResolve x0 x1 x2) := fun _ _ _ => of_none _ rfl rfl

theorem groupStateLoaded : ∀ x0, Statement (.groupStateLoaded x0) := fun _ => of_none _ rfl rfl

theorem activeSetEntry : ∀ x0, Statement (.activeSetEntry x0) := fun _ => of_none _ rfl rfl

theorem fairnessEviction : ∀ x0, Statement (.fairnessEviction x0) := fun _ => of_none _ rfl rfl

theorem groupFree : ∀ x0, Statement (.groupFree x0) := fun _ => of_none _ rfl rfl

theorem spawnBinTimeout : ∀ x0 x1, Statement (.spawnBinTimeout x0 x1) := fun _ _ => of_none _ rfl rfl

theorem spawnBinPlace : ∀ x0 x1 x2, Statement (.spawnBinPlace x0 x1 x2) := fun _ _ _ => of_none _ rfl rfl

theorem sleepExpiry : ∀ x0, Statement (.sleepExpiry x0) := fun _ => of_none _ rfl rfl

theorem capdataWrite : ∀ x0 x1, Statement (.capdataWrite x0 x1) := fun _ _ => of_none _ rfl rfl

theorem cqCreate : ∀ x0 x1, Statement (.cqCreate x0 x1) := fun _ _ => of_none _ rfl rfl

theorem cqDestroy : ∀ x0 x1, Statement (.cqDestroy x0 x1) := fun _ _ => of_none _ rfl rfl

theorem queueAppend : ∀ x0, Statement (.queueAppend x0) := fun _ => of_none _ rfl rfl

theorem freeCountReturn : ∀ x0, Statement (.freeCountReturn x0) := fun _ => of_none _ rfl rfl

theorem wqdoor : ∀ x0 x1, Statement (.wqdoor x0 x1) := fun _ _ => of_none _ rfl rfl

theorem wqBind : ∀ x0 x1, Statement (.wqBind x0 x1) := fun _ _ => of_none _ rfl rfl

theorem wqPause : ∀ x0, Statement (.wqPause x0) := fun _ => of_none _ rfl rfl

theorem wqResume : ∀ x0, Statement (.wqResume x0) := fun _ => of_none _ rfl rfl

theorem wqDrain : ∀ x0, Statement (.wqDrain x0) := fun _ => of_none _ rfl rfl

theorem wqClose : ∀ x0, Statement (.wqClose x0) := fun _ => of_none _ rfl rfl

theorem wqUnbind : ∀ x0, Statement (.wqUnbind x0) := fun _ => of_none _ rfl rfl

theorem wqLaunchRecord : ∀ x0, Statement (.wqLaunchRecord x0) := fun _ => of_none _ rfl rfl

theorem wqSignalRecord : ∀ x0, Statement (.wqSignalRecord x0) := fun _ => of_none _ rfl rfl

theorem signalWrite : ∀ x0, Statement (.signalWrite x0) := fun _ => of_none _ rfl rfl

theorem mediaOpenDec : ∀ x0, Statement (.mediaOpenDec x0) := fun _ => of_none _ rfl rfl

theorem mediaOpenEnc : ∀ x0, Statement (.mediaOpenEnc x0) := fun _ => of_none _ rfl rfl

theorem mediaFrame : ∀ x0, Statement (.mediaFrame x0) := fun _ => of_none _ rfl rfl

theorem mediaRowback : ∀ x0, Statement (.mediaRowback x0) := fun _ => of_none _ rfl rfl

theorem mediaClose : ∀ x0, Statement (.mediaClose x0) := fun _ => of_none _ rfl rfl

theorem mediaRowDone : ∀ x0 x1 x2, Statement (.mediaRowDone x0 x1 x2) := fun _ _ _ => of_none _ rfl rfl

theorem bardropClear : ∀ x0, Statement (.bardropClear x0) := fun _ => of_none _ rfl rfl

theorem waitaRegister : ∀ x0 x1, Statement (.waitaRegister x0 x1) := fun _ _ => of_none _ rfl rfl

theorem waitaDeadline : ∀ x0 x1, Statement (.waitaDeadline x0 x1) := fun _ _ => of_none _ rfl rfl

theorem waitaWake : ∀ x0, Statement (.waitaWake x0) := fun _ => of_none _ rfl rfl

theorem linkTrain : ∀ x0, Statement (.linkTrain x0) := fun _ => of_none _ rfl rfl

theorem linkDrain : ∀ x0, Statement (.linkDrain x0) := fun _ => of_none _ rfl rfl

theorem linkDisable : ∀ x0, Statement (.linkDisable x0) := fun _ => of_none _ rfl rfl

theorem errcntClear : ∀ x0, Statement (.errcntClear x0) := fun _ => of_none _ rfl rfl

theorem linkTrained : ∀ x0 x1 x2, Statement (.linkTrained x0 x1 x2) := fun _ _ _ => of_none _ rfl rfl

theorem trainingTimeout : ∀ x0, Statement (.trainingTimeout x0) := fun _ => of_none _ rfl rfl

theorem laneLost : ∀ x0 x1, Statement (.laneLost x0 x1) := fun _ _ => of_none _ rfl rfl

theorem peerLost : ∀ x0, Statement (.peerLost x0) := fun _ => of_none _ rfl rfl

theorem flitReceived : ∀ x0 x1, Statement (.flitReceived x0 x1) := fun _ _ => of_none _ rfl rfl

theorem flitCrcFail : ∀ x0 x1, Statement (.flitCrcFail x0 x1) := fun _ _ => of_none _ rfl rfl

theorem flitAck : ∀ x0 x1 x2, Statement (.flitAck x0 x1 x2) := fun _ _ _ => of_none _ rfl rfl

theorem routeTimeout : ∀ x0, Statement (.routeTimeout x0) := fun _ => of_none _ rfl rfl

theorem functionLevelReset : ∀ x0, Statement (.functionLevelReset x0) := fun _ => of_none _ rfl rfl

theorem engineOpStart : ∀ x0, Statement (.engineOpStart x0) := fun _ => of_none _ rfl rfl

theorem engineLineTransfer : ∀ x0, Statement (.engineLineTransfer x0) := fun _ => of_none _ rfl rfl

theorem sparsityQueuePush : ∀ x0, Statement (.sparsityQueuePush x0) := fun _ => of_none _ rfl rfl

theorem mloopKStep : ∀ x0, Statement (.mloopKStep x0) := fun _ => of_none _ rfl rfl

theorem maccReadout : ∀ x0, Statement (.maccReadout x0) := fun _ => of_none _ rfl rfl

theorem xfmJobBlock : ∀ x0, Statement (.xfmJobBlock x0) := fun _ => of_none _ rfl rfl

theorem engineOpComplete : ∀ x0, Statement (.engineOpComplete x0) := fun _ => of_none _ rfl rfl

theorem dbgStop : ∀ x0, Statement (.dbgStop x0) := fun _ => of_none _ rfl rfl

theorem debugStopReached : ∀ x0, Statement (.debugStopReached x0) := fun _ => of_none _ rfl rfl

theorem dbgResume : ∀ x0, Statement (.dbgResume x0) := fun _ => of_none _ rfl rfl

theorem dbgStep : ∀ x0, Statement (.dbgStep x0) := fun _ => of_none _ rfl rfl

theorem dbgRead : ∀ x0, Statement (.dbgRead x0) := fun _ => of_none _ rfl rfl

theorem dbgWrite : ∀ x0 x1, Statement (.dbgWrite x0 x1) := fun _ _ => of_none _ rfl rfl

theorem dbgDrain : ∀ x0, Statement (.dbgDrain x0) := fun _ => of_none _ rfl rfl

theorem dbgBken : ∀ x0, Statement (.dbgBken x0) := fun _ => of_none _ rfl rfl

theorem dbgBkdis : ∀ x0, Statement (.dbgBkdis x0) := fun _ => of_none _ rfl rfl

theorem prfctlWrite : ∀ x0 x1 x2, Statement (.prfctlWrite x0 x1 x2) := fun _ _ _ => of_none _ rfl rfl

theorem profileSample : ∀ x0 x1, Statement (.profileSample x0 x1) := fun _ _ => of_none _ rfl rfl

theorem prfselWrite : ∀ x0 x1 x2, Statement (.prfselWrite x0 x1 x2) := fun _ _ _ => of_none _ rfl rfl

theorem lcrctlWrite : ∀ x0 x1, Statement (.lcrctlWrite x0 x1) := fun _ _ => of_none _ rfl rfl

theorem prfcntLowRead : ∀ x0 x1 x2, Statement (.prfcntLowRead x0 x1 x2) := fun _ _ _ => of_none _ rfl rfl

theorem registerWrite : ∀ x0 x1 x2 x3, Statement (.registerWrite x0 x1 x2 x3) := fun _ _ _ _ => of_none _ rfl rfl

theorem packageReset : Statement .packageReset := of_none _ rfl rfl

theorem textFault : Statement .textFault := of_none _ rfl rfl

theorem malformedRecord : ∀ x0, Statement (.malformedRecord x0) := fun _ => of_none _ rfl rfl

theorem variableLatencyResult : ∀ x0 x1, Statement (.variableLatencyResult x0 x1) := fun _ _ => of_none _ rfl rfl

theorem idleIssueCycle : ∀ x0, Statement (.idleIssueCycle x0) := fun _ => of_none _ rfl rfl

end Sys2Proof.Laws.RoundTrip
end

