-- ==== Sys2Proof/Tests/Slice0.lean ====
section
/-! SUPPORT. The model's own tests: words of every encoded constructor, the spec's worked examples, and for each statement
with hypotheses a state that meets them. -/

set_option Elab.async false

namespace Sys2Proof.Tests

open Sys2Proof Sys2Proof.Machine Sys2Proof.Claims

/-- Control, group and system instructions, each with its word written from the fields of R284 to R292 and the opcodes of R295. -/
def wordsControl : List (BitVec 96 × Instr) :=
  [(0x0E0000FE000E000E000FFC01#96, .nop ⟨plainHdr, 0, .none, .none, .none, .none⟩),
   (0x0E0000F000000028000FFC02#96, .bra ⟨plainHdr, 0, .none, .pred 0 false, 2⟩),
   (0x0E0000FE000E0002002FFC03#96, .brx ⟨plainHdr, 0, .none, .s 2 false false, .none, .none⟩),
   (0x0E0000F00000001800FFFC04#96, .brd ⟨plainHdr, 0, .none, .pred 7 true, 1⟩),
   (0x0E0000F00000004A20341005#96, .jarm ⟨plainHdr, 0, .s 4, .join 3, 4⟩),
   (0x0E0000FE000E000A203FFC06#96, .jarr ⟨plainHdr, 0, .none, .join 3, .none, .none⟩),
   (0x0E0000FFFFFFFFFE000FFC07#96, .call ⟨plainHdr, 0, .none, .none, 0xffffffff⟩),
   (0x0E0000FE000E0000006FFC08#96, .callx ⟨plainHdr, 0, .none, .v 6 false false, .none, .none⟩),
   (0x0E0000FE000E000E000FFC09#96, .ret ⟨plainHdr, 0, .none, .none, .none, .none⟩),
   (0x0E0000FE000E000E000FFC0A#96, .endI ⟨plainHdr, 0, .none, .none, .none, .none⟩),
   (0x0E0000F00000007E000FFC0B#96, .trap ⟨plainHdr, 0, .none, .none, 7⟩),
   (0x0E0000F12345678E000FFC0C#96, .bkpt ⟨plainHdr, 0, .none, .none, 0x12345678⟩),
   (0x0E0000FE000E0002003FFC0D#96, .bind ⟨plainHdr, 0, .none, .s 3 false false, .none, .none⟩),
   (0x0E0006F200800020001FFC0E#96, .spawn ⟨plainHdr, 0x6, .none, .v 1 false false, .v 2 false false, .s 8 false false⟩),
   (0x0E0000FE000E0002005FFC0F#96, .launch ⟨plainHdr, 0, .none, .s 5 false false, .none, .none⟩),
   (0x0E0000FE000E000E000FFC10#96, .yield ⟨plainHdr, 0, .none, .none, .none, .none⟩),
   (0x0E0000F00000064E000FFC11#96, .sleep ⟨plainHdr, 0, .none, .none, 0x64⟩),
   (0x0E0000F00000000E000FFC12#96, .mark ⟨plainHdr, 0, .none, .none, 0⟩),
   (0x0E0000FE000E000E00041813#96, .rdem ⟨plainHdr, 0, .s 6, .none, .none, .none⟩),
   (0x0E0000FE000E0002006FFC14#96, .wrem ⟨plainHdr, 0, .none, .s 6 false false, .none, .none⟩),
   (0x0E0001FE000E000A40102415#96, .rdsr ⟨plainHdr, 0x1, .v 9, .sreg .tid, .none, .none⟩),
   (0x0E0000FE000E0004003E1C16#96, .wrsr ⟨plainHdr, 0, .sreg .numctl, .imm 3, .none, .none⟩),
   (0x000000FE000E000E00041C17#96, .rdts ⟨{ plainHdr with set := some 0 }, 0, .s 7, .none, .none, .none⟩),
   (0x020000FE000E000400501018#96, .rdcnt ⟨{ plainHdr with set := some 1 }, 0, .v 4, .imm 5, .none, .none⟩),
   (0x0E0000FE000E000800AFFC19#96, .emp ⟨plainHdr, 0, .none, .pred 2 true, .none, .none⟩),
   (0x0E0002FE000E000A2004041A#96, .jrd ⟨plainHdr, 0x2, .s 1, .join 0, .none, .none⟩)]

/-- Integer and logical instructions, each with its word written from the fields of R284 to R292 and the opcodes of R295. -/
def wordsInteger : List (BitVec 96 × Instr) :=
  [(0x0E0027FE0005FFB000000880#96, .iadd ⟨plainHdr, ⟨.si32, 1⟩, .v 2, .v 0 false false, .imm (-5), .none⟩),
   (0x0E000CFE0006407200040881#96, .isub ⟨plainHdr, ⟨.ui64, 0⟩, .s 2, .s 0 false false, .cbank 1 7, .none⟩),
   (0x0E0028FE0000006000400882#96, .imul ⟨plainHdr, ⟨.si64, 1⟩, .v 2, .v 4 false false, .v 6 false false, .none⟩),
   (0x0E000BF00050004000300883#96, .imad ⟨plainHdr, ⟨.ui32, 0⟩, .v 2, .v 3 false false, .v 4 false false, .v 5 false false⟩),
   (0x0E0007FE0000005000400884#96, .imulw ⟨plainHdr, ⟨.si32, 0⟩, .v 2, .v 4 false false, .v 5 false false, .none⟩),
   (0x0E000BF20062005200440885#96, .imadw ⟨plainHdr, ⟨.ui32, 0⟩, .s 2, .s 4 false false, .s 5 false false, .s 6 false false⟩),
   (0x0E0007FE0001003080200486#96, .imin ⟨plainHdr, ⟨.si32, 0⟩, .v 1, .v 2 true false, .v 3 false true, .none⟩),
   (0x0E000BFE0004009000200487#96, .imax ⟨plainHdr, ⟨.ui32, 0⟩, .v 1, .v 2 false false, .imm 9, .none⟩),
   (0x0E0007FE000E000000200488#96, .iabs ⟨plainHdr, ⟨.si32, 0⟩, .v 1, .v 2 false false, .none, .none⟩),
   (0x0E0028FE000E000200240489#96, .ineg ⟨plainHdr, ⟨.si64, 1⟩, .s 1, .s 2 false false, .none, .none⟩),
   (0x0E0002FE000401F00020048A#96, .shl ⟨plainHdr, ⟨.b32, 0⟩, .v 1, .v 2 false false, .imm 31, .none⟩),
   (0x0E0028FE000000400020008B#96, .shr ⟨plainHdr, ⟨.si64, 1⟩, .v 0, .v 2 false false, .v 4 false false, .none⟩),
   (0x0E0023FE000200400020008C#96, .rot ⟨plainHdr, ⟨.b64, 1⟩, .v 0, .v 2 false false, .s 4 false false, .none⟩),
   (0x0E0162F0004000300020048D#96, .bop ⟨plainHdr, ⟨.b32, 11⟩, .v 1, .v 2 false false, .v 3 false false, .v 4 false false⟩),
   (0x0E0007FE000440800020048E#96, .bfe ⟨plainHdr, ⟨.si32, 0⟩, .v 1, .v 2 false false, .imm 1032, .none⟩),
   (0x0E0002F0004200300020048F#96, .bfi ⟨plainHdr, ⟨.b32, 0⟩, .v 1, .v 2 false false, .s 3 false false, .v 4 false false⟩),
   (0x0E0003FE000E000000200490#96, .popc ⟨plainHdr, ⟨.b64, 0⟩, .v 1, .v 2 false false, .none, .none⟩),
   (0x0E0002FE000E000200240491#96, .clz ⟨plainHdr, ⟨.b32, 0⟩, .s 1, .s 2 false false, .none, .none⟩),
   (0x0E0002FE000E000000200492#96, .brev ⟨plainHdr, ⟨.b32, 0⟩, .v 1, .v 2 false false, .none, .none⟩),
   (0x0E0147F80094064000780893#96, .isetp ⟨plainHdr, ⟨.si32, 10⟩, .p 2, .v 7 false false, .imm 100, .pred 1 true⟩),
   (0x0E0004F8003000C000801094#96, .sel ⟨plainHdr, ⟨.b128, 0⟩, .v 4, .v 8 false false, .v 12 false false, .pred 3 false⟩),
   (0x0E0003FE000E0007FFE40495#96, .mov ⟨plainHdr, ⟨.b64, 0⟩, .s 1, .cbank 7 1022, .none, .none⟩),
   (0x0E0002FDEADBEEFE00000C96#96, .movi ⟨plainHdr, ⟨.b32, 0⟩, .v 3, .none, 0xdeadbeef⟩),
   (0x0E0003F80000000E00040C97#96, .movih ⟨plainHdr, ⟨.b64, 0⟩, .s 3, .none, 0x80000000⟩),
   (0x0E0007F40030006200400898#96, .lea ⟨plainHdr, ⟨.si32, 0⟩, .v 2, .s 4 false false, .v 6 false false, .imm 3⟩),
   (0x0E0120F8004800B800280499#96, .plop ⟨plainHdr, 0x120, .p 1, .pred 2 false, .pred 3 true, .pred 4 false⟩),
   (0x0E0009F0004000300020049A#96, .isad ⟨plainHdr, ⟨.ui8, 0⟩, .v 1, .v 2 false false, .v 3 false false, .v 4 false false⟩),
   (0x0E0065F0004000300020049B#96, .idot ⟨plainHdr, ⟨.si8, 3⟩, .v 1, .v 2 false false, .v 3 false false, .v 4 false false⟩),
   (0x0E0062F4008000300020049C#96, .shfw ⟨plainHdr, ⟨.b32, 3⟩, .v 1, .v 2 false false, .v 3 false false, .imm 8⟩)]

/-- Lane-crossing instructions, each with its word written from the fields of R284 to R292 and the opcodes of R295. -/
def wordsLane : List (BitVec 96 × Instr) :=
  [(0x0E0042F400040010002004A0#96, .xlane ⟨plainHdr, ⟨.b32, 2⟩, .v 1, .v 2 false false, .imm 1, .imm 0⟩),
   (0x0E00A0FE000E0008001408A1#96, .pcol ⟨plainHdr, 0xa0, .s 2, .pred 1 false, .none, .none⟩),
   (0x040007FE000E0000001408A2#96, .redi ⟨{ plainHdr with set := some 2 }, ⟨.si32, 0⟩, .s 2, .v 1 false false, .none, .none⟩),
   (0x0E0688FE00000030002004A3#96, .bsel ⟨plainHdr, 0x688, .v 1, .v 2 false false, .v 3 false false, .none⟩),
   (0x04010BFE000E0000002004A4#96, .scan ⟨{ plainHdr with set := some 2 }, ⟨.ui32, 8⟩, .v 1, .v 2 false false, .none, .none⟩),
   (0x0E0002FE000E0000002004A5#96, .matchI ⟨plainHdr, ⟨.b32, 0⟩, .v 1, .v 2 false false, .none, .none⟩),
   (0x0E0003FE00040000004408A6#96, .rdlane ⟨plainHdr, ⟨.b64, 0⟩, .s 2, .v 4 false false, .imm 0, .none⟩),
   (0x0E0002FE00020032002004A7#96, .wrlane ⟨plainHdr, ⟨.b32, 0⟩, .v 1, .s 2 false false, .s 3 false false, .none⟩)]

/-- Floating and triplex instructions, each with its word written from the fields of R284 to R292 and the opcodes of R295. -/
def wordsFloat : List (BitVec 96 × Instr) :=
  [(0x0E000FFE00047F0000200500#96, .fadd ⟨plainHdr, ⟨.f32, .none, 0⟩, .v 1, .v 2 false false, .imm 2032, .none⟩),
   (0x0E002DFE0001003000200501#96, .fsub ⟨plainHdr, ⟨.f16, .rn, 0⟩, .v 1, .v 2 false false, .v 3 false true, .none⟩),
   (0x0E008EFE0000003000200502#96, .fmul ⟨plainHdr, ⟨.bf16, .rz, 0⟩, .v 1, .v 2 false false, .v 3 false false, .none⟩),
   (0x0E004FF00040003000200503#96, .ffma ⟨plainHdr, ⟨.f32, .ru, 0⟩, .v 1, .v 2 false false, .v 3 false false, .v 4 false false⟩),
   (0x0E0112F00060004000200504#96, .fdot ⟨plainHdr, ⟨.e2m1, .none, 1⟩, .v 1, .v 2 false false, .v 4 false false, .v 6 false false⟩),
   (0x0E000FFE0000003000200505#96, .fmin ⟨plainHdr, ⟨.f32, .none, 0⟩, .v 1, .v 2 false false, .v 3 false false, .none⟩),
   (0x0E000DFE0000003000200506#96, .fmax ⟨plainHdr, ⟨.f16, .none, 0⟩, .v 1, .v 2 false false, .v 3 false false, .none⟩),
   (0x0E0A0FF80000003000280507#96, .fsetp ⟨plainHdr, ⟨.f32, .none, 10⟩, .p 1, .v 2 false false, .v 3 false false, .pred 0 false⟩),
   (0x0E000FF80000003000200508#96, .fsel ⟨plainHdr, ⟨.f32, .none, 0⟩, .v 1, .v 2 false false, .v 3 false false, .pred 0 false⟩),
   (0x0E000FFE000E000000200509#96, .fclass ⟨plainHdr, ⟨.f32, .none, 0⟩, .v 1, .v 2 false false, .none, .none⟩),
   (0x00002FFE000000300020050A#96, .fdiv ⟨{ plainHdr with set := some 0 }, ⟨.f32, .rn, 0⟩, .v 1, .v 2 false false, .v 3 false false, .none⟩),
   (0x00006FFE000E00000020050B#96, .fsqrt ⟨{ plainHdr with set := some 0 }, ⟨.f32, .rd, 0⟩, .v 1, .v 2 false false, .none, .none⟩),
   (0x00006FFE000E00000020050C#96, .frcp ⟨{ plainHdr with set := some 0 }, ⟨.f32, .rd, 0⟩, .v 1, .v 2 false false, .none, .none⟩),
   (0x00006FFE000E00000020050D#96, .frsq ⟨{ plainHdr with set := some 0 }, ⟨.f32, .rd, 0⟩, .v 1, .v 2 false false, .none, .none⟩),
   (0x00006FFE000E00000020050E#96, .fexp2 ⟨{ plainHdr with set := some 0 }, ⟨.f32, .rd, 0⟩, .v 1, .v 2 false false, .none, .none⟩),
   (0x00006FFE000E00000020050F#96, .flog2 ⟨{ plainHdr with set := some 0 }, ⟨.f32, .rd, 0⟩, .v 1, .v 2 false false, .none, .none⟩),
   (0x00006FFE000E000000200510#96, .fsin ⟨{ plainHdr with set := some 0 }, ⟨.f32, .rd, 0⟩, .v 1, .v 2 false false, .none, .none⟩),
   (0x00006FFE000E000000200511#96, .fcos ⟨{ plainHdr with set := some 0 }, ⟨.f32, .rd, 0⟩, .v 1, .v 2 false false, .none, .none⟩),
   (0x00006FFE000E000000200512#96, .ftanh ⟨{ plainHdr with set := some 0 }, ⟨.f32, .rd, 0⟩, .v 1, .v 2 false false, .none, .none⟩),
   (0x0E0030F00000F02000200513#96, .fcvt ⟨plainHdr, ⟨.e4m3, .rn, 0⟩, .v 1, .v 2 false false, 0xf02⟩),
   (0x0E022FFE000E000000200514#96, .f2i ⟨plainHdr, ⟨.f32, .rn, 2⟩, .v 1, .v 2 false false, .none, .none⟩),
   (0x0E066DFE000E000000200515#96, .i2f ⟨plainHdr, ⟨.f16, .rd, 6⟩, .v 1, .v 2 false false, .none, .none⟩),
   (0x0E008FFE000E000000200516#96, .frnd ⟨plainHdr, ⟨.f32, .rz, 0⟩, .v 1, .v 2 false false, .none, .none⟩),
   (0x0E000FFE0005FFD000200517#96, .fscale ⟨plainHdr, ⟨.f32, .none, 0⟩, .v 1, .v 2 false false, .imm (-3), .none⟩),
   (0x0E000FFE000E000000200518#96, .digits ⟨plainHdr, ⟨.f32, .none, 0⟩, .v 1, .v 2 false false, .none, .none⟩),
   (0x0E0002FE0004001000200519#96, .sibrd ⟨plainHdr, ⟨.b32, .none, 0⟩, .v 1, .v 2 false false, .imm 1, .none⟩),
   (0x0E0003FE000400200040091A#96, .sibwr ⟨plainHdr, ⟨.b64, .none, 0⟩, .v 2, .v 4 false false, .imm 2, .none⟩),
   (0x0E000FFE000E00000020051B#96, .sibmed ⟨plainHdr, ⟨.f32, .none, 0⟩, .v 1, .v 2 false false, .none, .none⟩),
   (0x0E002EFE000E00000020051C#96, .sibmean ⟨plainHdr, ⟨.bf16, .rn, 0⟩, .v 1, .v 2 false false, .none, .none⟩),
   (0x0E000FFE000E00000020051D#96, .sibdiff ⟨plainHdr, ⟨.f32, .none, 0⟩, .v 1, .v 2 false false, .none, .none⟩),
   (0x0E020FFE000000300020051E#96, .fsgn ⟨plainHdr, ⟨.f32, .none, 2⟩, .v 1, .v 2 false false, .v 3 false false, .none⟩),
   (0x06002FFE000E00000024051F#96, .fred ⟨{ plainHdr with set := some 3 }, ⟨.f32, .rn, 0⟩, .s 1, .v 2 false false, .none, .none⟩)]

/-- Memory, atomic and transaction instructions, each with its word written from the fields of R284 to R292 and the opcodes of R295. -/
def wordsMemory : List (BitVec 96 × Instr) :=
  [(0x02030FFE0000040200401180#96, .ld ⟨{ plainHdr with set := some 1 }, ⟨.f32, false, .die, .acq, false⟩, .v 4, .s 4 false false, 64, .none⟩),
   (0x0E0003FE000FFF8000640981#96, .st ⟨plainHdr, ⟨.b64, false, .grp, .none, false⟩, .s 2, .v 6 false false, 65528, .none⟩),
   (0x020030FE0000004000801182#96, .ldx ⟨{ plainHdr with set := some 1 }, ⟨.e4m3, true, .grp, .none, false⟩, .v 4, .v 8 false false, 4, .none⟩),
   (0x0E000EFE0000000200401183#96, .stx ⟨plainHdr, ⟨.bf16, false, .grp, .none, false⟩, .v 4, .s 4 false false, 0, .none⟩),
   (0x000647F00020010200401184#96, .aadd ⟨{ plainHdr with set := some 0 }, ⟨.si32, false, .team, .ar, false⟩, .v 4, .s 4 false false, 16, .v 2 false false⟩),
   (0x00064BF00020010200401185#96, .amin ⟨{ plainHdr with set := some 0 }, ⟨.ui32, false, .team, .ar, false⟩, .v 4, .s 4 false false, 16, .v 2 false false⟩),
   (0x000648F00020010200401186#96, .amax ⟨{ plainHdr with set := some 0 }, ⟨.si64, false, .team, .ar, false⟩, .v 4, .s 4 false false, 16, .v 2 false false⟩),
   (0x000642F00020010200401187#96, .aand ⟨{ plainHdr with set := some 0 }, ⟨.b32, false, .team, .ar, false⟩, .v 4, .s 4 false false, 16, .v 2 false false⟩),
   (0x000643F00020010200401188#96, .aor ⟨{ plainHdr with set := some 0 }, ⟨.b64, false, .team, .ar, false⟩, .v 4, .s 4 false false, 16, .v 2 false false⟩),
   (0x000642F00020010200401189#96, .axor ⟨{ plainHdr with set := some 0 }, ⟨.b32, false, .team, .ar, false⟩, .v 4, .s 4 false false, 16, .v 2 false false⟩),
   (0x000643F0002001020040118A#96, .axch ⟨{ plainHdr with set := some 0 }, ⟨.b64, false, .team, .ar, false⟩, .v 4, .s 4 false false, 16, .v 2 false false⟩),
   (0x000643F0002001020040118B#96, .acas ⟨{ plainHdr with set := some 0 }, ⟨.b64, false, .team, .ar, false⟩, .v 4, .s 4 false false, 16, .v 2 false false⟩),
   (0x00064FF0002001020040118C#96, .afadd ⟨{ plainHdr with set := some 0 }, ⟨.f32, false, .team, .ar, false⟩, .v 4, .s 4 false false, 16, .v 2 false false⟩),
   (0x0E0427F000200100008FFD90#96, .radd ⟨plainHdr, ⟨.si32, true, .grp, .rel, false⟩, .none, .v 8 false false, 16, .v 2 false false⟩),
   (0x0E042CF000200100008FFD91#96, .rmin ⟨plainHdr, ⟨.ui64, true, .grp, .rel, false⟩, .none, .v 8 false false, 16, .v 2 false false⟩),
   (0x0E0427F000200100008FFD92#96, .rmax ⟨plainHdr, ⟨.si32, true, .grp, .rel, false⟩, .none, .v 8 false false, 16, .v 2 false false⟩),
   (0x0E0422F000200100008FFD93#96, .rand ⟨plainHdr, ⟨.b32, true, .grp, .rel, false⟩, .none, .v 8 false false, 16, .v 2 false false⟩),
   (0x0E0423F000200100008FFD94#96, .ror ⟨plainHdr, ⟨.b64, true, .grp, .rel, false⟩, .none, .v 8 false false, 16, .v 2 false false⟩),
   (0x0E0422F000200100008FFD95#96, .rxor ⟨plainHdr, ⟨.b32, true, .grp, .rel, false⟩, .none, .v 8 false false, 16, .v 2 false false⟩),
   (0x0E042EF000200100008FFD96#96, .rfadd ⟨plainHdr, ⟨.bf16, true, .grp, .rel, false⟩, .none, .v 8 false false, 16, .v 2 false false⟩),
   (0x000282F20060008200401198#96, .waita ⟨{ plainHdr with set := some 0 }, ⟨.b32, false, .core, .acq, false⟩, .v 4, .s 4 false false, 8, .s 6 false false⟩),
   (0x0E0FC0FE000E000E000FFD99#96, .fence ⟨plainHdr, ⟨.b8, false, .sys, .ar, true⟩, .none, .none, .none, .none⟩),
   (0x0E0000FE00000000006FFD9A#96, .cinv ⟨plainHdr, ⟨.b8, false, .grp, .none, false⟩, .none, .v 6 false false, 0, .none⟩),
   (0x000002FE000000000060119B#96, .ctag ⟨{ plainHdr with set := some 0 }, ⟨.b32, false, .grp, .none, false⟩, .v 4, .v 6 false false, 0, .none⟩),
   (0x0E0000FE00000802004FFD9C#96, .pref ⟨plainHdr, ⟨.b8, false, .grp, .none, false⟩, .none, .s 4 false false, 128, .none⟩),
   (0x0E0000FE000E000E000FFD9D#96, .txb ⟨plainHdr, ⟨.b8, false, .grp, .none, false⟩, .none, .none, .none, .none⟩),
   (0x020000FE000E000E0008059E#96, .txc ⟨{ plainHdr with set := some 1 }, ⟨.b8, false, .grp, .none, false⟩, .p 1, .none, .none, .none⟩),
   (0x0E0000FE000E000E000FFD9F#96, .txa ⟨plainHdr, ⟨.b8, false, .grp, .none, false⟩, .none, .none, .none, .none⟩),
   (0x020000FE000E000E000409A0#96, .snappin ⟨{ plainHdr with set := some 1 }, ⟨.b8, false, .grp, .none, false⟩, .s 2, .none, .none, .none⟩),
   (0x0E0000FE000E0004003FFDA1#96, .snaprel ⟨plainHdr, ⟨.b8, false, .grp, .none, false⟩, .none, .imm 3, .none, .none⟩),
   (0x0E0000FE000E000E000FFDA2#96, .cdrain ⟨plainHdr, ⟨.b8, false, .grp, .none, false⟩, .none, .none, .none, .none⟩)]

/-- Channel, barrier and batch instructions, each with its word written from the fields of R284 to R292 and the opcodes of R295. -/
def wordsQueue : List (BitVec 96 × Instr) :=
  [(0x000005FE0000002A11480600#96, .push ⟨{ plainHdr with set := some 0 }, 0x5, .p 1, .chan 20, .v 2 false false, .none⟩),
   (0x00000DFE0008000A10201201#96, .pop ⟨{ plainHdr with set := some 0 }, 0xd, .v 4, .chan 2, .pred 0 false, .none⟩),
   (0x0E0000FE000E000A13F40A02#96, .caprd ⟨plainHdr, 0, .s 2, .chan 63, .none, .none⟩),
   (0x0E0000FE0004003A001FFE03#96, .binit ⟨plainHdr, 0, .none, .bar 1, .imm 3, .none⟩),
   (0x0E0000FE0004001A001FFE04#96, .barrive ⟨plainHdr, 0, .none, .bar 1, .imm 1, .none⟩),
   (0x0E0000FE0002003A001FFE05#96, .bexpect ⟨plainHdr, 0, .none, .bar 1, .s 3 false false, .none⟩),
   (0x000000FE0004000A00180606#96, .bwaitp ⟨{ plainHdr with set := some 0 }, 0, .p 1, .bar 1, .imm 0, .none⟩),
   (0x0E0000FE000E000A03F40A07#96, .btest ⟨plainHdr, 0, .s 2, .bar 63, .none, .none⟩),
   (0x0E0000FE000E000A000FFE08#96, .binval ⟨plainHdr, 0, .none, .bar 0, .none, .none⟩),
   (0x0E0001FE000E000E00040A09#96, .bclose ⟨plainHdr, 0x1, .s 2, .none, .none, .none⟩),
   (0x0E0001FE000E0002002FFE0A#96, .bwait ⟨plainHdr, 0x1, .none, .s 2 false false, .none, .none⟩),
   (0x0E0003FE000E00040008060B#96, .bpoll ⟨plainHdr, 0x3, .p 1, .imm 0, .none, .none⟩),
   (0x0E000FFE000E000E000FFE0C#96, .qfence ⟨plainHdr, 0xf, .none, .none, .none, .none⟩)]

/-- Engine instructions, each with its word written from the fields of R284 to R292 and the opcodes of R295. -/
def wordsEngine : List (BitVec 96 × Instr) :=
  [(0x0E000AFA00100040002FFE80#96, .cpy ⟨plainHdr, 0xa, .none, .v 2 false false, .v 4 false false, .bar 1⟩),
   (0x0E0002FE000E0002004FFE81#96, .cpyT ⟨plainHdr, 0x2, .none, .s 4 false false, .none, .none⟩),
   (0x0E01F0FA00240002004FFE82#96, .cpyCv ⟨plainHdr, 0x1f0, .none, .s 4 false false, .imm 0, .bar 2⟩),
   (0x0E0001F40402004A103FFE83#96, .cpyMeta ⟨plainHdr, 0x1, .none, .chan 3, .s 4 false false, .imm 64⟩),
   (0x0E0000FA00040042004FFE84#96, .gather ⟨plainHdr, 0, .none, .s 4 false false, .imm 4, .bar 0⟩),
   (0x0E0000FE000E000E000C0A85#96, .mzero ⟨plainHdr, 0, .acc 2, .none, .none, .none⟩),
   (0x0E0003F400820042002C0686#96, .mloop ⟨plainHdr, 0x3, .acc 1, .s 2 false false, .s 4 false false, .imm 8⟩),
   (0x0E0019F40042004E000C0687#96, .mloopSp ⟨plainHdr, 0x19, .acc 1, .none, .s 4 false false, .imm 4⟩),
   (0x04010FF40004000A30102288#96, .macc ⟨{ plainHdr with set := some 2 }, 0x10f, .v 8, .acc 1, .imm 0, .imm 0⟩),
   (0x0E0000FE000E0002004FFE89#96, .cbload ⟨plainHdr, 0, .none, .s 4 false false, .none, .none⟩),
   (0x000002FE000400800080128A#96, .xfmR ⟨{ plainHdr with set := some 0 }, 0x2, .v 4, .v 8 false false, .imm 8, .none⟩),
   (0x0E0000FA003E0002004FFE8B#96, .xfmJ ⟨plainHdr, 0, .none, .s 4 false false, .none, .bar 3⟩),
   (0x000008FE000400520040128C#96, .decode ⟨{ plainHdr with set := some 0 }, 0x8, .v 4, .s 4 false false, .imm 5, .none⟩)]
/-! Building states. -/

/-- The state of a placed word, its group about to execute an instruction. -/
def one : State := { placeWord State.reset 0 with cur := some 0 }

/-- The same with its group changed. -/
def grp (f : Grp → Grp) : State := { one with groups := [(0, f (placedGrp 0))] }

/-- Every lane of a register with a value. -/
def lanes (r x : Nat) : Tab W32 := (List.range 96).map fun l => (r * 96 + l, BitVec.ofNat 32 x)

/-- v1 differs between threads: lanes of thread 0 hold 5. -/
def varied : State := grp fun g => { g with v := [(96, 5), (97, 5), (98, 5)] }

/-- A paired group, before and after the first of two issues. -/
def paired (px : Nat) : State := grp fun g => { g with paired := true, em := BitVec.allOnes 96, triplex := false, px := px }

/-- The instruction is well formed and at the head of its group, no cause of which halts. -/
def ready (s : State) (i : Instr) : Bool := match headOf i s with | some (_, g) => i.wf && noHalt g | none => false

/-- A lane rule's premises are met: its result is a value, or a fault. -/
def met (s : State) (r : LaneRule) : Bool := ready s r.i && (match r.res (envOf s (atIssue s ((tabGet s.groups 0).getD (placedGrp 0))) r.h) with | .ok _ => true | _ => false)
def refused (s : State) (r : LaneRule) (c : Nat) : Bool := ready s r.i && (match r.res (envOf s (atIssue s ((tabGet s.groups 0).getD (placedGrp 0))) r.h) with | .error x => x == c | _ => false)

/-- Each rule of a list of rules is met for one of some words. -/
def covers (ls : List (List LaneRule)) : Bool := (List.range (ls.headD []).length).all fun n => ls.any fun l => (l[n]?).any (met one)

/-- The state after an instruction, and its group. -/
def next (i : Instr) (s : State) : State := match exec i s with | .next t => t | _ => s
def after (i : Instr) (s : State) : Grp := (tabGet (next i s).groups 0).getD (placedGrp 0)

/-- What an instruction sends to a register cell. -/
def sent (i : Instr) (s : State) (c : Cell) : Option Nat :=
  let g := after i s
  (((g.pend.map (·.writes)).flatten ++ (g.vres.map (·.writes)).flatten).find? (·.cell == c)).map (·.val.toNat)

/-- The context is HALTING with the cause. -/
def halts (t : State) (c : Nat) : Bool := (tabGet t.ctxs 0).any fun x => x.state == .halting && x.cause == c

/-- Words of forms R, with a plain header. -/
def wI (t : Ty) (x : BitVec 7) (d : Dst) (a b c : Opnd) : RWord IntM := ⟨plainHdr, ⟨t, x⟩, d, a, b, c⟩
def wF (t : Ty) (r : Rnd) (x : BitVec 4) (d : Dst) (a b c : Opnd) : RWord FltM := ⟨plainHdr, ⟨t, r, x⟩, d, a, b, c⟩
def wN (m : BitVec 12) (d : Dst) (a b c : Opnd) : RWord (BitVec 12) := ⟨plainHdr, m, d, a, b, c⟩
def vv (i : BitVec 8) : Opnd := .v i false false
def ss (i : BitVec 6) : Opnd := .s i false false

/-! Decoding: each encoded constructor's word. -/

/-- The word decodes to the instruction, which is well formed and encodes to the word. -/
def reads (x : BitVec 96 × Instr) : Bool := match Sys2Proof.decode x.1 with | .ok j => j == x.2 && j.wf && encode j == some x.1 | _ => false

theorem test_decode_control : wordsControl.all reads = true := by decide +kernel
theorem test_decode_integer : wordsInteger.all reads = true := by decide +kernel
theorem test_decode_lane : wordsLane.all reads = true := by decide +kernel
theorem test_decode_float : wordsFloat.all reads = true := by decide +kernel
theorem test_decode_memory : wordsMemory.all reads = true := by decide +kernel
theorem test_decode_queue : wordsQueue.all reads = true := by decide +kernel
theorem test_decode_engine : wordsEngine.all reads = true := by decide +kernel

/-- The words the spec prints, and those that are no instruction (R295, R296). -/
theorem test_decode_printed : specWords.all reads = true := by decide +kernel
theorem test_decode_none :
    Sys2Proof.decode 0 = .ok .ztrap ∧ Sys2Proof.decode (BitVec.allOnes 96) = .ok .falloff ∧ Sys2Proof.decode 0x1B#96 = .ok (.illegalOp 0x1B#96) ∧
    assigned 0x1A = true ∧ assigned 0x1B = false ∧ assigned 0x3FF = false ∧ Sys2Proof.decode 0x0C0000FE000E000E000FFC01#96 = .error .illegalMod := by
  decide +kernel

/-- Ill-formed terms, one for each check: the modifier, the kind of an operand, its marks, the kind of the destination, the
constant words, a word-only check. -/
theorem test_wellformed :
    (Instr.iadd (wI .si32 0 (.v 1) (vv 2) (vv 3) .none)).wf = true ∧ (Instr.iadd (wI .f32 0 (.v 1) (vv 2) (vv 3) .none)).wf = false ∧
    (Instr.iadd (wI .si32 2 (.v 1) (vv 2) (vv 3) .none)).wf = false ∧ (Instr.iadd (wI .si32 0 (.v 1) (vv 2) (.pred 0 false) .none)).wf = false ∧
    (Instr.iadd (wI .si32 0 (.v 1) (vv 2) (vv 3) (vv 4))).wf = false ∧ (Instr.iadd (wI .ui32 0 (.v 1) (.v 2 true false) (vv 3) .none)).wf = false ∧
    (Instr.iadd (wI .si32 0 (.p 1) (vv 2) (vv 3) .none)).wf = false ∧ (Instr.iadd (wI .si64 0 (.v 2) (.cbank 0 1023) (vv 4) .none)).wf = false ∧
    (Instr.sibrd (wF .b32 .none 0 (.v 1) (vv 2) (.imm 1) (.imm 1))).wf = false ∧ (Instr.fmin (wF .f32 .rn 0 (.v 1) (vv 2) (vv 3) .none)).wf = false := by
  decide +kernel

/-! Every instruction of a word meets the premises of its statements in a small state. -/

theorem witness_head_control : (wordsControl.all fun x => ready one x.2) = true := by decide +kernel
theorem witness_head_memory : (wordsMemory.all fun x => ready one x.2) = true := by decide +kernel
theorem witness_head_queue : (wordsQueue.all fun x => ready one x.2) = true := by decide +kernel
theorem witness_head_engine : (wordsEngine.all fun x => ready one x.2) = true := by decide +kernel

/-! Instructions of lanes: every rule of a statement is met, and its faults. -/

theorem witness_IntegerArithmeticResults :
    covers ([wI .si32 0 (.v 1) (vv 2) (vv 3) .none, wI .si32 0 (.v 1) (vv 2) (vv 3) (vv 4), wI .si32 0 (.v 2) (vv 4) (vv 6) (vv 8),
      wI .si32 0 (.v 1) (vv 2) .none .none].map r328) = true ∧
    (r328 (wI .si32 0 (.s 1) (vv 1) (vv 2) .none)).head?.any (refused varied · fcNonuniform) = true := by decide +kernel
theorem witness_ShiftResults :
    covers ([wI .b32 1 (.v 1) (vv 2) (vv 3) .none, wI .b32 3 (.v 1) (vv 2) (vv 3) (vv 4)].map r329) = true ∧
    (r329 (wI .b32 0 (.s 1) (vv 1) (.imm 32) .none)).head?.any (refused varied · fcNonuniform) = true := by decide +kernel
theorem witness_LogicAndCompareResults :
    covers ([wI .si32 0x0A (.p 1) (vv 2) (vv 3) (.pred 0 false), wI .b32 0 (.v 1) (vv 2) (vv 3) (.pred 0 false)].map r332) = true ∧
    met one (bopRule (wI .b32 11 (.v 1) (vv 2) (vv 3) (vv 4))) = true ∧ met one (plopRule (wN 0x120 (.p 1) (.pred 0 true) (.pred 1 false) (.pred 7 true))) = true ∧
    ((r332 (wI .b32 0 (.s 1) (ss 2) (ss 3) (.pred 1 false)))[1]?).any (refused (grp fun g => { g with p := [(96, true)] }) · fcNonuniform) = true := by decide +kernel
theorem witness_BitFieldResults :
    covers ([wI .si32 0 (.v 1) (vv 2) (vv 3) .none, wI .b32 0 (.v 1) (vv 2) (vv 3) (vv 4), wI .b64 0 (.v 2) (vv 4) .none .none].map r331) = true ∧
    ((r331 (wI .b32 0 (.s 1) (vv 1) .none .none))[2]?).any (refused varied · fcNonuniform) = true := by decide +kernel
theorem witness_MoveAndAddressResults :
    covers [r333 (wI .b64 0 (.s 1) (ss 2) .none .none) ⟨plainHdr, ⟨.b32, 0⟩, .v 1, .none, 5⟩, r333 (wI .b64 0 (.s 1) (ss 2) .none .none) ⟨plainHdr, ⟨.b64, 0⟩, .s 1, .none, 5⟩] = true ∧
    covers ([wI .si32 0 (.v 2) (vv 4) (vv 6) (.imm 3), wI .ui8 0 (.v 1) (vv 2) (vv 3) (vv 4)].map r334) = true ∧
    met one (bselRule (wN 0x053 (.v 1) (vv 2) (vv 3) .none)) = true ∧
    ((r333 (wI .b32 0 (.s 1) (vv 1) .none .none) ⟨plainHdr, ⟨.b32, 0⟩, .v 1, .none, 5⟩)[0]?).any (refused varied · fcNonuniform) = true := by decide +kernel
theorem witness_LaneCrossingResults :
    covers ([wI .b32 2 (.v 1) (vv 2) (.imm 1) (.imm 0), wI .b32 0 (.v 1) (vv 2) .none .none, wI .b32 0 (.v 1) (vv 2) (.imm 15) .none,
      wI .b32 0 (.v 1) (ss 2) (.imm 15) .none].map laneCross) = true ∧
    met one (pcolRule (wN 0xA0 (.s 2) (.pred 1 false) .none .none)) = true ∧
    ((laneCross (wI .b32 0 (.v 1) (vv 2) (.imm 16) .none))[2]?).any (refused one · fcIllegalOpnd) = true ∧
    ((laneCross (wI .b32 0 (.v 1) (vv 2) (.imm 1) (.imm 3)))[0]?).any (refused one · fcIllegalOpnd) = true ∧
    ((laneCross (wI .b32 0 (.v 1) (vv 1) (.imm 0) .none))[3]?).any (refused varied · fcNonuniform) = true := by decide +kernel
theorem witness_GroupReductionResults :
    (∀ s ∈ [one, paired 0, paired 1], ready s (.redi (wI .si32 0 (.s 2) (vv 1) .none .none)) = true ∧ ready s (.scan (wI .ui32 8 (.v 3) (vv 1) .none .none)) = true) ∧
    (envOf (paired 0) (atIssue (paired 0) (after (.nop (wN 0 .none .none .none .none)) (paired 0))) plainHdr).act ≠ 0 := by decide +kernel
theorem witness_FloatArithmeticResults :
    covers ([wF .f32 .none 0 (.v 1) (vv 2) (vv 3) .none, wF .f32 .rn 0 (.v 1) (vv 2) (vv 3) (vv 4)].map r347) = true ∧
    met one (fdotRule (wF .e4m3 .none 0 (.v 1) (vv 2) (vv 3) (vv 4))) = true ∧
    (r347 (wF .f32 .rn 0 (.s 1) (vv 1) (vv 2) .none)).head?.any (refused varied · fcNonuniform) = true := by decide +kernel
theorem witness_FloatSelectAndFunctionResults :
    covers ([wF .f32 .none 0 (.v 1) (vv 2) (vv 3) .none, wF .f32 .none 0 (.v 1) (vv 2) .none .none, wF .f32 .none 0 (.v 1) (vv 2) (vv 3) (.pred 0 false),
      wF .f32 .none 8 (.p 1) (vv 2) (vv 3) (.pred 0 false)].map r349) = true ∧
    covers ([wF .f32 .rn 0 (.v 1) (vv 2) (vv 3) .none, wF .f32 .none 0 (.v 1) (vv 2) .none .none].map r351) = true ∧
    (r351 (wF .f32 .rn 0 (.s 1) (vv 1) (vv 2) .none)).head?.any (refused varied · fcNonuniform) = true := by decide +kernel
theorem witness_ConversionResults :
    covers ([wF .f32 .rn 2 (.v 1) (vv 2) .none .none, wF .f32 .none 0 (.v 1) (vv 2) .none .none, wF .f32 .none 0 (.v 1) (vv 2) (.imm 3) .none].map r354) = true ∧
    met one (fcvtRule ⟨plainHdr, ⟨.e4m3, .rn, 0⟩, .v 7, vv 2, 0xF82⟩) = true ∧ met one (fcvtRule ⟨plainHdr, ⟨.f32, .rn, 0⟩, .s 7, ss 2, 0xF82⟩) = true ∧
    refused (grp fun g => { g with v := lanes 2 0x7FC00000 }) (fcvtRule ⟨plainHdr, ⟨.e4m3, .rn, 0⟩, .v 7, vv 2, 0xFFF⟩) fcConv = true := by decide +kernel
theorem witness_SiblingResults :
    covers ([wF .f32 .none 0 (.v 1) (vv 2) .none .none, wF .b32 .none 0 (.v 1) (vv 2) (.imm 2) .none].map r357) = true ∧
    ∀ s ∈ [one, paired 0, paired 1], ready s (.fred (wF .f32 .rn 0 (.s 1) (vv 2) .none .none)) = true := by decide +kernel

/-! Worked examples of the spec. -/

/-- R349 of chapter 16's first case: the siblings of thread 3 hold 99, 100 and 101, p1 is false; p2 is false and CMP is set. -/
theorem test_isetp :
    let s := grp fun g => { g with v := [(7 * 96 + 9, 99), (7 * 96 + 10, 100), (7 * 96 + 11, 101)], numctl := 2 }
    let i := Instr.isetp ⟨{ plainHdr with pred := 7 }, ⟨.si32, 0xA⟩, .p 2, vv 7, .imm 100, .pred 1 true⟩
    sent i s (.p 2 3) = some 0 ∧ sent i s (.p 2 2) = some 1 ∧ ((after i s).numflag.getLsbD 1) = true := by decide +kernel

/-- R340 of chapter 16's second case: unit 1 of a paired SCAN writes 1 to 48 and holds the total 48. -/
theorem test_scan :
    let s := grp fun g => { g with paired := true, em := BitVec.allOnes 96, triplex := false, v := lanes 4 1 }
    let g := after (.scan (wI .ui32 0 (.v 5) (vv 4) .none .none)) s
    g.px = 1 ∧ g.partial_ = [48] ∧ tabGet g.v (5 * 96) = some 1 ∧ tabGet g.v (5 * 96 + 47) = some 48 ∧ tabGet g.v (5 * 96 + 48) = none := by decide +kernel

/-- The conversion of chapter 2, in single-lane mode: 0x007E_7E7F; and the CONV of policy 0xFF. -/
theorem test_fcvt :
    let s := grp fun g => { g with triplex := false, v := [(192, 0x7FC00000), (288, 0x7F800000), (384, 0x43FA0000), (480, 0x3A400000)] }
    sent (.fcvt ⟨plainHdr, ⟨.e4m3, .rn, 0⟩, .v 7, vv 2, 0xF82⟩) s (.v 7 0) = some 0x007E7E7F ∧
    halts (next (.fcvt ⟨plainHdr, ⟨.e4m3, .rn, 0⟩, .v 7, vv 2, 0xFFF⟩) s) fcConv = true := by decide +kernel

/-- The example of R348: 8 + 0.5 is 8.5, and one draw is made. -/
theorem test_fdot :
    let s := grp fun g => { g with v := lanes 2 0x38383838 ++ lanes 3 0x40404040 ++ lanes 4 0x3F000000 }
    let i := Instr.fdot (wF .e4m3 .none 0 (.v 1) (vv 2) (vv 3) (vv 4))
    sent i s (.v 1 0) = some 0x41080000 ∧ tabGetD (after i s).draws 0 0 = 1 := by decide +kernel

/-- The example after R45: the weights of index 0x05B3 under scale 0x7E, in eighths. -/
theorem test_cb2 : cb2Weights [(1, 0x7531024600000000#128)] 0x05B3 0x7E =
    [(true, 13), (false, 9), (false, 5), (true, 1), (true, 3), (false, 7), (true, 11), (false, 15)].map fun x => .num x.1 x.2 (-3) false := by decide +kernel

/-- The example after R48: four products and twelve zeros add 2^-20 to 0.5, in every direction and order. -/
theorem test_group_sum :
    let ps : List XV := [.num false 1 10 false, .num true 1 10 false, .num false 9 (-23) false, .num false 3 (-23) false]
    ([.up, .down, .ne].map fun d => accAdd d 0x3F000000 (groupSum (ps ++ List.replicate 12 (.zero true)))) = List.replicate 3 0x3F000010 ∧
    accAdd .ne 0x3F000000 (groupSum (List.replicate 12 (.zero true) ++ ps.reverse)) = 0x3F000010 := by decide +kernel

/-- The example of R73: siblings 1 - 2^-20, 1 and 1 + 2^-20 have 18 digits. -/
theorem test_digits : digits .f32 0x3F7FFFF0 0x3F800000 0x3F800008 = 18 := by decide +kernel

/-- The example after R79: three differences, CANCEL in sr.numflag, one draw, one record; with CANCEL_H set, NUMI. -/
theorem test_numi :
    let s := fun h : W64 => grp fun g => { g with numctl := 0x08040001#64 ||| h, v :=
      [(4 * 96 + 6, 0x3F800003), (4 * 96 + 7, 0x3F800004), (4 * 96 + 8, 0x3F800005)] ++ lanes 5 0x3F800000 }
    let i := Instr.fsub (wF .f32 .none 0 (.v 9) (vv 4) (vv 5) .none)
    let t := next i (s 0)
    sent i (s 0) (.v 9 6) = some 0x34C00000 ∧ sent i (s 0) (.v 9 7) = some 0x35000000 ∧ sent i (s 0) (.v 9 8) = some 0x35200000 ∧
    tabGetD (after i (s 0)).draws 2 0 = 1 ∧ (after i (s 0)).numflag.getLsbD 0 = true ∧ ((tabGet t.ctxs 0).map (·.ne.head)) ≠ some 0 ∧
    halts (next i (s 0x100)) fcNumi = true ∧ (after i (s 0x100)).numflag = 0 ∧ tabGetD (after i (s 0x100)).draws 2 0 = 0 := by decide +kernel

/-! Control instructions: a state for each clause, seen by its effect. -/

/-- Headers that guard every thread off, and guard by p0. -/
def off : Hdr := { plainHdr with inv := false }
def byP0 : Hdr := ⟨0, none, false, 0, false, 0⟩
def wJ (h : Hdr) (d : Dst) (a : Opnd) (imm : BitVec 32) : IWord (BitVec 12) := ⟨h, 0, d, a, imm⟩
def wH (h : Hdr) (m : BitVec 12) (d : Dst) (a b c : Opnd) : RWord (BitVec 12) := ⟨h, m, d, a, b, c⟩

/-- p0 holds for thread 0. -/
def first : State := grp fun g => { g with p := [(0, true)] }

/-- The PC after an instruction, its EM as a number, and the path table's PCs. -/
def pcAfter (i : Instr) (s : State) : Nat := (after i s).pc
def emAfter (i : Instr) (s : State) : Nat := (after i s).em.toNat
def pathPcs (i : Instr) (s : State) : List Nat := (after i s).paths.map (·.pc)

theorem witness_BranchesMovePaths :
    pcAfter (.bra (wJ off .none .none 2)) one = 1 ∧ pcAfter (.bra (wJ plainHdr .none .none 2)) one = 2 ∧
    halts (next (.bra (wJ plainHdr .none (.pred 0 false) 2)) first) fcNonuniform = true ∧
    pcAfter (.bra (wJ plainHdr .none .none 4095)) one = 4095 ∧ halts (next (.bra (wJ plainHdr .none .none 4096)) one) fcPcWrap = true ∧
    pcAfter (.brd (wJ off .none (.pred 7 true) 2)) one = 1 ∧ halts (next (.brd (wJ plainHdr .none (.pred 7 true) (-1))) one) fcPcWrap = true ∧
    pcAfter (.brd (wJ plainHdr .none (.pred 0 false) 5)) first = 1 ∧ pathPcs (.brd (wJ plainHdr .none (.pred 0 false) 5)) first = [5] ∧
    pcAfter (.brx (wH off 0 .none (ss 2) .none .none)) one = 1 ∧
    pcAfter (.brx (wH plainHdr 0 .none (ss 2) .none .none)) (grp fun g => { g with s := [(2, 9)] }) = 9 ∧
    halts (next (.brx (wH plainHdr 0 .none (ss 2) .none .none)) (grp fun g => { g with s := [(2, 4096)] })) fcPcWrap = true := by decide +kernel

/-- A group with join 3 armed for a mask, as many lanes arrived, at instruction 8. -/
def armed (exp arr : Mask) : State := grp fun g => { g with joins := [(3, ⟨true, false, exp, arr, 8⟩)] }

theorem witness_JoinsArmAndReconverge :
    let jarm := fun s4 : W64 => next (.jarm (wJ plainHdr (.s 4) (.join 3) 4)) (grp fun g => { g with s := [(4, s4)] })
    let jarr := Instr.jarr (wH plainHdr 0 .none (.join 3) .none .none)
    (after (.jarm (wJ off .none (.join 3) 4)) one).joins = [] ∧
    (after (.jarm (wJ plainHdr .none (.join 3) 4)) one).joins = [(3, ⟨true, false, 2 ^ 48 - 1, 0, 4⟩)] ∧
    halts (jarm (2 ^ 48)) fcIllegalOpnd = true ∧ halts (jarm 1) fcMaskSplit = true ∧ halts (jarm 7) fcIllegalOpnd = false ∧
    halts (next (.jarm (wJ plainHdr .none (.join 3) 4096)) one) fcPcWrap = true ∧
    halts (next (.jarm (wJ plainHdr (.s 4) (.join 3) 4)) (grp fun g => { g with s := [(4, 7)], ended := 7, em := (2 ^ 48 - 1) &&& ~~~7 })) fcIllegalOpnd = true ∧
    pcAfter (.jarr (wH off 0 .none (.join 3) .none .none)) one = 1 ∧ halts (next jarr one) fcIllegalOpnd = true ∧
    pcAfter jarr (armed (2 ^ 48 - 1) 0) = 8 ∧ emAfter jarr (armed (2 ^ 48 - 1) 0) = 2 ^ 48 - 1 ∧
    halts (next jarr (armed (2 ^ 48 - 1) 7)) fcIllegalOpnd = true ∧
    (after jarr { armed (2 ^ 48 - 1) 0 with groups := [(0, { placedGrp 0 with joins := [(3, ⟨true, false, 2 ^ 48 - 1, 0, 8⟩)], em := 7, paths := [⟨.runnable, 5, (2 ^ 48 - 1) &&& ~~~7, 0, 0, 0, false, 0, 0⟩] })] }).pc = 5 ∧
    met one (jrdRule (wN 2 (.s 1) (.join 0) .none .none)) = true := by decide +kernel

theorem witness_CallsReturnAndEnd :
    let call := Instr.call (wJ plainHdr .none .none 8)
    let ret := Instr.ret (wH plainHdr 0 .none .none .none .none)
    let ras := fun e : RasEnt => grp fun g => { g with ras := [e] }
    pcAfter (.call (wJ off .none .none 8)) one = 1 ∧ pcAfter call one = 8 ∧ (after call one).ras = [⟨1, false, 2 ^ 48 - 1, 0⟩] ∧
    halts (next call (grp fun g => { g with ras := List.replicate 15 ⟨1, false, 0, 0⟩ })) fcIllegalOpnd = false ∧
    halts (next call (grp fun g => { g with ras := List.replicate 16 ⟨1, false, 0, 0⟩ })) fcIllegalOpnd = true ∧
    halts (next (.call (wJ plainHdr .none .none 4096)) one) fcPcWrap = true ∧
    pcAfter (.callx (wH plainHdr 0 .none (ss 2) .none .none)) (grp fun g => { g with s := [(2, 7)] }) = 7 ∧
    ((after (.callx (wH plainHdr 0 .none (vv 6) .none .none)) (grp fun g => { g with v := lanes 6 7 ++ [(7 * 96, 0)] ++ [] })).ras.map (·.divergent)) = [false] ∧
    ((after (.callx (wH plainHdr 0 .none (vv 6) .none .none)) (grp fun g => { g with v := [(576, 7), (577, 7), (578, 7)] })).ras.map (·.divergent)) = [true] ∧
    pcAfter (.ret (wH off 0 .none .none .none .none)) one = 1 ∧ halts (next ret one) fcIllegalOpnd = true ∧
    pcAfter ret (ras ⟨9, false, 2 ^ 48 - 1, 0⟩) = 9 ∧ halts (next ret (ras ⟨9, false, 7, 0⟩)) fcIllegalOpnd = true ∧
    halts (next ret (ras ⟨4096, false, 2 ^ 48 - 1, 0⟩)) fcPcWrap = true ∧
    ((after (.ret (wH byP0 0 .none .none .none .none)) (grp fun g => { g with p := [(0, true)], ras := [⟨9, false, 2 ^ 48 - 1, 0⟩] })).ras.map (·.arr)) = [7] ∧
    pcAfter (.endI (wH off 0 .none .none .none .none)) one = 1 ∧
    (after (.endI (wH byP0 0 .none .none .none .none)) first).ended = 7 ∧ emAfter (.endI (wH byP0 0 .none .none .none .none)) first = 2 ^ 48 - 8 := by decide +kernel

theorem witness_GroupControlEffects :
    let wrsr := fun d a => Instr.wrsr (wH plainHdr 0 (.sreg d) a .none .none)
    let wrem := Instr.wrem (wH plainHdr 0 .none (ss 6) .none .none)
    let em := fun x : W64 => grp fun g => { g with s := [(6, x)] }
    let obj := fun g : Grp => { one with groups := [(0, g)], ctxs := [(0, { placedCtx with objs := [(0, ⟨false, 0, 4096, [], [], [⟨20, []⟩], [], [0x40000], [], [], [], [], []⟩)] })] }
    (after (.yield (wH plainHdr 0 .none .none .none .none)) one).yld = true ∧ (after (.yield (wH off 0 .none .none .none .none)) one).yld = false ∧
    (after (.yield (wH plainHdr 0 .none .none .none .none)) { one with groups := ((List.range 8).map fun i => (i, placedGrp 0)) ++ [(8, { placedGrp 0 with state := .ready })] }).state = .ready ∧
    halts (next (.mark (wJ plainHdr .none .none 0)) one) fcIllegalOpnd = true ∧ (after (.mark (wJ plainHdr .none .none 0)) (obj (placedGrp 0))).mark.valid = true ∧
    (after (.mark (wJ off .none .none 0)) (obj (placedGrp 0))).mark.valid = false ∧
    (after (.mark (wJ plainHdr .none .none 0)) (obj { placedGrp 0 with recovering := true, mark := ⟨true, 0, 7, [(0, 5)], 0⟩ })).em = 7 ∧
    (after (wrsr .numctl (.imm 3)) one).numctl = 3 ∧ (after (wrsr .schk (.imm 1)) one).schk = true ∧ (after (wrsr .seed (.imm 1)) one).seed = 0 ∧
    tabGet (after (wrsr .draw (.imm 7)) one).draws 15 = some 7 ∧ halts (next (wrsr .numflag (vv 1)) varied) fcNonuniform = true ∧
    emAfter (.wrem (wH off 0 .none (ss 6) .none .none)) (em 7) = 2 ^ 48 - 1 ∧ emAfter wrem (em 7) = 7 ∧ halts (next wrem (em 1)) fcMaskSplit = true ∧
    halts (next wrem (em (2 ^ 48))) fcIllegalOpnd = true ∧ halts (next wrem { one with groups := [(0, { placedGrp 0 with s := [(6, 7)], ended := 7, em := 2 ^ 48 - 8 })] }) fcIllegalOpnd = true ∧
    emAfter (.emp (wH plainHdr 0 .none (.pred 0 false) .none .none)) first = 7 ∧ emAfter (.emp (wH off 0 .none (.pred 0 false) .none .none)) first = 2 ^ 48 - 1 := by decide +kernel

theorem witness_SpecialRegisterReads :
    covers [readRules (wN 0 (.s 6) .none .none .none), readRules (wN 1 (.v 9) (.sreg .tid) .none .none)] = true ∧
    sent (.rdts (wN 0 (.s 7) .none .none .none)) { one with gts3 := 30 } (.s 7) = some 10 ∧
    halts (next (.rdcnt (wN 0 (.s 7) (.imm (-1)) .none .none)) one) fcIllegalOpnd = true ∧
    (sent (.rdcnt (wN 0 (.s 7) (.imm 5) .none .none)) one (.s 7)).isSome = true := by decide +kernel

/-! Memory: a page of the group's context at 0x10000, readable and writable, whose bytes are at 0x50000. -/

/-- Words at their addresses, with the page mapped and the group changed. -/
def paged (ws : List (Nat × Nat)) (f : Grp → Grp) : State :=
  { grp f with mem := placeWords one.mem ([(0x30008, 0x50C0F)] ++ ws) }

/-- An s register with a value. -/
def withS (r : Nat) (x : W64) (g : Grp) : Grp := { g with s := [(r, x)] }

/-- The kinds of the group's parked paths. -/
def kinds (i : Instr) (s : State) : List PathKind := (after i s).paths.map (·.kind)

theorem witness_WaitsSpawnsAndLaunches :
    let bind := Instr.bind (wN 0 .none (ss 3) .none .none)
    let spawn := fun m : BitVec 12 => Instr.spawn (wN m .none (vv 1) (vv 2) (ss 8))
    let launch := Instr.launch (wN 0 .none (ss 5) .none .none)

    kinds (.sleep (wJ plainHdr .none .none 100)) one = [.waiting .sleep (.sleep 100)] ∧ pcAfter (.sleep (wJ plainHdr .none .none 0)) one = 1 ∧
    pcAfter (.sleep (wJ off .none .none 100)) one = 1 ∧
    halts (next (.bind (wN 0 .none (vv 1) .none .none)) varied) fcNonuniform = true ∧ pcAfter (.bind (wH off 0 .none (ss 3) .none .none)) one = 1 ∧
    halts (next bind (paged [] (withS 3 0x10004))) fcMisalign = true ∧
    pcAfter bind (paged [(0x50008, 2 ^ 63 + 9)] (withS 3 0x10008)) = 1 ∧ kinds bind (paged [(0x50008, 9)] (withS 3 0x10008)) = [.waiting .bind (.bind 0x50008)] ∧
    halts (next (spawn 0) (grp fun g => { g with v := lanes 1 0x80000000 })) fcIllegalOpnd = true ∧ halts (next (spawn 1) one) fcIllegalOpnd = true ∧
    halts (next (spawn 0) (grp (withS 8 4096))) fcPcWrap = true ∧ pcAfter (.spawn (wH off 0 .none (vv 1) (vv 2) (ss 8))) one = 1 ∧
    pcAfter (spawn 4) one = 1 ∧ (getCore (next (spawn 0) { one with groups := [(0, { placedGrp 0 with em := 7 })] }) 0).bins.map (·.2.threads.length) = [1] ∧
    halts (next launch (paged [] (withS 5 0x10080))) fcMisalign = true ∧ pcAfter (.launch (wH off 0 .none (ss 5) .none .none)) one = 1 ∧
    (next launch (paged [(0x50008, 77)] (withS 5 0x10000))).reqs.map (fun r => (r.2.addr, r.2.words.getD 1 0)) = [(0x10000, 77)] := by decide +kernel

/-- Words of form M with a plain header. -/
def wM (t : Ty) (o : Ord4) (d : Dst) (a : Opnd) (b : BitVec 16) (c : Opnd) : MWord := ⟨plainHdr, ⟨t, false, .grp, o, false⟩, d, a, b, c⟩

/-- The addresses and data of the parts an instruction sends. -/
def parts (i : Instr) (s : State) : List (Nat × Nat × Nat) := ((next i s).accs.map (·.2.parts.map fun p => (p.2.pa, p.2.size, p.2.data.toNat))).flatten

/-- One thread of the group runs, with s4 at the page and v2 = 7. -/
def thread (s4 : W64) : State := paged [(0x50040, 0x1234)] fun g => { g with em := 7, s := [(4, s4)], v := lanes 2 7 }

theorem witness_LoadsAndStoresSendAccesses :
    let ld := fun b => Instr.ld (wM .b32 .none (.v 4) (ss 4) b .none)
    let st := fun b => Instr.st (wM .b32 .none (.v 2) (ss 4) b .none)
    parts (ld 0x40) (thread 0x10000) = [(0x50040, 4, 0)] ∧ pcAfter (ld 0x40) (thread 0x10000) = 1 ∧
    halts (next (ld 2) (thread 0x10000)) fcMisalign = true ∧
    parts (st 4) (thread 0x10000) = [(0x50004, 4, 7)] ∧ halts (next (st 4) (thread 0)) fcProtection = true ∧
    parts (.ldx (wM .b32 .none (.v 4) (ss 4) 0 .none)) (thread 0x10000) ≠ [] ∧ parts (.stx (wM .b32 .none (.v 2) (ss 4) 0 .none)) (thread 0x10000) ≠ [] ∧
    parts (.ld { wM .b32 .none (.v 4) (ss 4) 0 .none with hdr := off }) (thread 0x10000) = [] ∧
    (next (ld 0x40) (thread 0x10000)).accs.length = 1 ∧
    halts (next (ld 0) (thread 0x20000)) fcTranslation = true := by decide +kernel

theorem witness_AtomicsSendAccesses :
    let i := fun f : MWord → Instr => f (wM .si32 .none (.v 6) (ss 4) 0 (vv 2))
    let r := fun f : MWord → Instr => f (wM .si32 .rel .none (ss 4) 0 (vv 2))
    (∀ f ∈ [Instr.aadd, .amin, .amax], parts (i f) (thread 0x10000) = [(0x50000, 4, 7)]) ∧
    (∀ f ∈ [Instr.aand, .aor, .axor, .axch, .acas], parts (f (wM .b32 .none (.v 6) (ss 4) 0 (vv 2))) (thread 0x10000) = [(0x50000, 4, 7)]) ∧
    parts (.afadd (wM .f32 .none (.v 6) (ss 4) 0 (vv 2))) (thread 0x10000) = [(0x50000, 4, 7)] ∧
    (∀ f ∈ [Instr.radd, .rmin, .rmax], parts (r f) (thread 0x10000) = [(0x50000, 4, 7)]) ∧
    (∀ f ∈ [Instr.rand, .ror, .rxor], parts (f (wM .b32 .none .none (ss 4) 0 (vv 2))) (thread 0x10000) = [(0x50000, 4, 7)]) ∧
    parts (.rfadd (wM .f32 .none .none (ss 4) 0 (vv 2))) (thread 0x10000) = [(0x50000, 4, 7)] ∧
    halts (next (i .aadd) (thread 0x10002)) fcMisalign = true ∧ halts (next (i .aadd) (thread 0)) fcProtection = true := by decide +kernel

/-- The state in which the group executes once more, some cycles later. -/
def again (t : State) : State := { t with cur := some 0, cycle := t.cycle + 20 }

theorem witness_CacheAndOrderEffects :
    let m := fun f => { (wM .b8 .none .none (ss 4) 0 .none) with d := .none, m := ⟨.b8, false, .grp, .none, f⟩ }
    let fence := fun sc o x => Instr.fence ⟨plainHdr, ⟨.b8, false, sc, o, x⟩, .none, .none, .none, .none⟩
    kinds (.waita (wM .b32 .none (.v 4) (ss 4) 0 (ss 6))) (thread 0x10000) ≠ [] ∧ pcAfter (fence .sys .ar true) one = 1 ∧ pcAfter (fence .die .acq false) one = 1 ∧
    pcAfter (.cinv (m false)) (thread 0x10000) = 1 ∧ pcAfter (.cinv { m true with a := .none }) one = 1 ∧
    sent (.ctag { wM .b32 .none (.v 4) (ss 4) 0 .none with hdr := plainHdr }) (thread 0x10000) (.v 4 0) = some 0x40 ∧
    pcAfter (.pref (m false)) (thread 0x10000) = 1 ∧
    pcAfter (.cdrain ⟨plainHdr, ⟨.b8, false, .grp, .none, false⟩, .none, .none, .none, .none⟩) one = 1 ∧
    (next (.cdrain ⟨{ plainHdr with set := some 1 }, ⟨.b8, false, .grp, .none, false⟩, .none, .none, .none, .none⟩)
      (again (next (.st (wM .b32 .none (.v 2) (ss 4) 0 .none)) (thread 0x10000)))).accs.map (·.2.kind) = [.store, .drain] := by decide +kernel

theorem witness_TransactionEffects :
    let w := fun f : RWord MemM → Instr => f ⟨plainHdr, ⟨.b8, false, .grp, .none, false⟩, .none, .none, .none, .none⟩
    let txc := Instr.txc ⟨plainHdr, ⟨.b8, false, .grp, .none, false⟩, .p 1, .none, .none, .none⟩
    let pin := Instr.snappin ⟨plainHdr, ⟨.b8, false, .grp, .none, false⟩, .s 2, .none, .none, .none⟩
    let rel := fun x => Instr.snaprel ⟨plainHdr, ⟨.b8, false, .grp, .none, false⟩, .none, .imm x, .none, .none⟩
    let tx := fun st d ls => grp fun g => { g with tx := { g.tx with state := st, depth := d, lines := ls } }
    let line : TxLine := ⟨0x500, 15, 7, false, 0x10040⟩
    let held := { one with ctxs := [(0, { placedCtx with pins := [(3, ⟨.held, 5, 0⟩)] })] }
    (after (w .txb) one).tx.state = .open ∧ (after (w .txb) (tx .open 1 [])).tx.depth = 2 ∧ (after (w .txb) (tx .doomed 1 [])).tx.state = .doomed ∧
    (after txc (tx .open 2 [])).tx.depth = 1 ∧ (after txc (tx .open 1 [])).tx.state = .none ∧ (after txc (tx .doomed 1 [])).tx.state = .none ∧
    (after txc (tx .open 1 [line])).tx.state = .preparing ∧ (after (w .txa) (tx .open 2 [])).tx.state = .none ∧
    (sent pin one (.s 2)).isSome = true ∧ halts (next (rel 3) one) fcIllegalOpnd = true ∧ halts (next (rel 3) held) fcIllegalOpnd = false := by decide +kernel

/-! Queues, barriers, batches and engines: a team with four barriers, 64 rows and a matrix role, on core 0. -/

def kit (team : Team → Team) (core : Core → Core) (f : Grp → Grp) : State :=
  { paged [] f with teams := [(0, team { placedTeam with rows := 64, scratch := 8192, nbars := 4 })], cores := [(0, core Core.reset)],
                    grids := [(0, { placedGrid with roles := [⟨0, 1, 32, true⟩] })] }

/-- Channel 2's instance with an allowance, and queue slot 0 with some entries. -/
def chan (entry : W64) (allow : Nat) (wait : List (Nat × Nat)) (t : Team) : Team := { t with caps := [(2, ⟨entry, allow, wait, none⟩)] }
def queue (n : Nat) (c : Core) : Core := { c with qslots := [(0, ⟨0, none, false, 2000, 8, 4, 0, n % 4, n, List.replicate n 0, List.replicate n false, []⟩)] }
def full : W64 := 0x8E00000000000000#64

theorem witness_QueueInstructionEffects :
    let push := fun m => Instr.push (wN m (if m = 4 then .p 1 else .none) (.chan 2) (ss 3) .none)
    let pop := fun m b => Instr.pop (wN m (.s 4) (.chan 2) b .none)
    let s := fun e a n => kit (chan e a []) (queue n) id
    let msgs := fun i s => (next i s).msgs.length
    msgs (push 0) (s full 1 0) = 1 ∧ msgs (push 0) (s full 0 0) = 0 ∧ kinds (push 0) (s full 0 0) = [.waiting .queue (.push 2 1)] ∧
    sent (push 4) (s full 0 0) (.p 1 0) = some 0 ∧ sent (push 4) (s full 1 0) (.p 1 15) = some 1 ∧ pcAfter (.push (wH off 0 .none (.chan 2) (ss 3) .none)) (s full 1 0) = 1 ∧
    halts (next (push 0) (s 0 1 0)) fcCap = true ∧ halts (next (push 0) (s 0x8600000000000000#64 1 0)) fcCapPerm = true ∧
    halts (next (push 0) (s 0x9800000000000000#64 1 0)) fcIllegalOpnd = true ∧
    kinds (push 0) (s 0xC800000000000000#64 1 0) = [.waiting .queue (.push 2 1)] ∧
    kinds (push 0) (kit (chan full 1 [(999, 1)]) (queue 0) id) = [.waiting .queue (.push 2 1)] ∧
    (sent (pop 0 .none) (s full 0 1) (.s 4)).isSome = true ∧ (getCore (next (pop 0 .none) (s full 0 1)) 0).qslots.map (·.2.count) = [0] ∧
    (getCore (next (pop 8 .none) (s full 0 1)) 0).qslots.map (·.2.count) = [1] ∧ kinds (pop 0 .none) (s full 0 0) = [.waiting .queue (.pop 0 1)] ∧
    kinds (pop 8 .none) (s full 0 0) = [.waiting .queue (.pop 0 0)] ∧ sent (pop 4 (.pred 1 false)) (s full 0 0) (.p 1 3) = some 0 ∧
    halts (next (pop 0 .none) (s 0 0 1)) fcCap = true ∧ halts (next (pop 0 .none) (s 0x8A00000000000000#64 0 1)) fcCapPerm = true ∧
    halts (next (pop 0 .none) (kit (chan full 0 []) id id)) fcQueueError = true ∧ halts (next (pop 1 .none) (s full 0 1)) fcQueueError = true ∧
    sent (.caprd (wN 0 (.s 2) (.chan 2) .none .none)) (s full 5 0) (.s 2) = some 0x8E00000000050000 := by decide +kernel

/-- Barrier 1 of the team's core with a word, and a path that waits on it. -/
def bar (x : Bar) (c : Core) : Core := { c with bars := [(1, barWord x)] }
def b0 : Bar := ⟨3, true, false, 2, 5, 0, 0⟩

theorem witness_BarrierInstructionEffects :
    let w := fun b o => wN 0 .none b o .none
    let s := fun x => kit id (bar x) id
    let on := fun i x => barOf (tabGetD (getCore (next i (s x)) 0).bars 1 0)
    let bad := fun i x c => halts (next i (s x)) c
    let waits := fun t => Instr.bwaitp (wN 0 (.p 1) (.bar 1) (.imm t) .none)
    on (.binit (w (.bar 1) (.imm 4095))) { b0 with arrPend := 5 } = ⟨0, true, false, 4095, 4095, 0, 0⟩ ∧ bad (.binit (w (.bar 4) (.imm 1))) b0 fcIllegalOpnd = true ∧
    bad (.binit (w (.bar 1) (.imm (-1)))) b0 fcIllegalOpnd = true ∧
    halts (next (.binit (w (.bar 1) (.imm 1))) (kit id (bar { b0 with arrPend := 5 }) fun g => { g with em := 7, paths := [⟨.waiting .barrier (.barrier 1 3 1 1 none), 9, 56, 0, 0, 0, false, 0, 0⟩] })) fcBarrierStore = true ∧
    bad (.binit (w (.bar 1) (.imm 1))) b0 fcBarrierStore = true ∧
    on (.barrive (w (.bar 1) (.imm 1))) b0 = { b0 with arrPend := 1 } ∧ on (.barrive (w (.bar 1) (.imm 2))) b0 = { b0 with phase := 4, arrPend := 5 } ∧
    bad (.barrive (w (.bar 1) (.imm 3))) b0 fcBarrierInvalid = true ∧ bad (.barrive (w (.bar 1) (.imm 1))) { b0 with valid := false } fcBarrierInvalid = true ∧
    on (.barrive (w (.bar 1) (.imm 0))) { b0 with arrPend := 0, phase := 15 } = { b0 with phase := 0, arrPend := 5 } ∧
    on (.bexpect (w (.bar 1) (.imm 7))) b0 = { b0 with sec := 7 } ∧ bad (.bexpect (w (.bar 1) (.imm 1))) { b0 with sec := 2 ^ 23 - 1 } fcIllegalOpnd = true ∧
    on (.bexpect (w (.bar 1) (.imm 1))) { b0 with sec := 2 ^ 23 - 2 } = { b0 with sec := 2 ^ 23 - 1 } ∧
    bad (.bexpect (w (.bar 1) (.imm 1))) { b0 with valid := false } fcBarrierInvalid = true ∧
    sent (waits 2) (s b0) (.p 1 0) = some 1 ∧ sent (waits 11) (s b0) (.p 1 0) = some 1 ∧ kinds (waits 3) (s b0) ≠ [] ∧ kinds (waits 10) (s b0) ≠ [] ∧
    bad (waits 3) { b0 with valid := false } fcBarrierInvalid = true ∧ sent (waits 3) (s { b0 with valid := false, inval := true }) (.p 1 15) = some 0 ∧
    sent (.btest (wN 0 (.s 2) (.bar 1) .none .none)) (s b0) (.s 2) = some 0x05000213 ∧
    on (.binval (w (.bar 1) .none)) b0 = { b0 with valid := false, inval := true, arrPend := 5 } ∧
    pcAfter (.barrive (wH off 0 .none (.bar 1) (.imm 1) .none)) (s b0) = 1 := by decide +kernel

theorem witness_BatchInstructionEffects :
    let close := Instr.bclose (wN 1 (.s 2) .none .none .none)
    let s := fun b => grp fun g => { g with batches := [(1, b)] }
    let many : Batches := ⟨70, 5, [], (List.range 64).map fun i => (6 + i, [])⟩
    let waits := fun n => Instr.bwait (wN 1 .none (.imm n) .none .none)
    let open1 : Batches := ⟨2, 0, [], [(1, [7])]⟩
    sent close one (.s 2) = some 1 ∧ pcAfter (.bclose (wH off 1 (.s 2) .none .none .none)) one = 1 ∧ kinds close (s many) = [.waiting .batch (.batchFull 1)] ∧
    sent close (s { many with closed := many.closed.drop 1 }) (.s 2) = some 70 ∧ sent close (s ⟨65535, 65534, [], []⟩) (.s 2) = some 65535 ∧
    pcAfter (waits 1) (s ⟨2, 1, [], []⟩) = 1 ∧ kinds (waits 1) (s open1) = [.waiting .batch (.batch 1 1)] ∧ halts (next (waits 2) (s open1)) fcIllegalOpnd = true ∧
    halts (next (waits 0) one) fcIllegalOpnd = true ∧ pcAfter (.bwait (wH off 1 .none (.imm 1) .none .none)) one = 1 ∧
    sent (.bpoll (wN 1 (.p 1) (.imm 1) .none .none)) (s open1) (.p 1 0) = some 0 ∧ sent (.bpoll (wN 1 (.p 1) (.imm 1) .none .none)) (s ⟨2, 1, [], []⟩) (.p 1 0) = some 1 ∧
    halts (next (.bpoll (wN 1 (.p 1) (.imm 3) .none .none)) (s open1)) fcIllegalOpnd = true ∧
    pcAfter (.qfence (wN 15 .none .none .none .none)) one = 1 ∧
    (next (.qfence (wN 1 .none .none .none .none)) (again (next (.cpy (wN 12 .none (vv 1) (vv 2) .none)) (kit id id id)))).ops.map (·.2.cls) = [0, 9] := by decide +kernel

/-- A descriptor in s4 to s7. -/
def desc (xs : List W64) (g : Grp) : Grp := { g with s := xs.zipIdx.map fun x => (4 + x.2, x.1) }

/-- The class, sectors and units of the operations in the queues after an instruction. -/
def issues (i : Instr) (s : State) : List (Nat × Nat × Nat) := (next i s).ops.map fun o => (o.2.cls, o.2.sectors, o.2.total)

theorem witness_EngineInstructionsIssueOperations :
    let s := fun xs => kit id (bar { b0 with phase := 0 }) (desc xs)
    let cpy := fun b => Instr.cpy (wN 12 .none (vv 1) (vv 2) b)
    let mz := Instr.mzero (wN 0 (.acc 2) .none .none .none)
    issues (cpy .none) (s []) = [(0, 2, 16)] ∧ issues (cpy (.bar 1)) (s []) = [(0, 2, 16)] ∧ halts (next (cpy (.bar 4)) (s [])) fcIllegalOpnd = true ∧
    halts (next (cpy (.bar 2)) (s [])) fcBarrierInvalid = true ∧
    halts (next (cpy .none) (kit id id fun g => { g with v := lanes 1 2 })) fcMisalign = true ∧ halts (next (cpy .none) (kit id id fun g => { g with v := lanes 1 8192 })) fcProtection = true ∧
    issues (.cpy (wH off 12 .none (vv 1) (vv 2) .none)) (s []) = [] ∧
    issues mz (s []) = [(1, 0, 1)] ∧ halts (next mz { s [] with grids := [(0, placedGrid)] }) fcIllegalOpnd = true ∧
    issues (.cpyT (wN 3 .none (ss 4) .none .none)) (s [0, 0x400, 0x00020008#64, 0]) ≠ [] ∧ halts (next (.cpyT (wN 3 .none (ss 4) .none .none)) (s [])) fcIllegalOpnd = true ∧
    issues (.cpyCv (wN (0xC00 ||| 15 <<< 5 ||| 16) .none (ss 4) (.imm 0) .none)) (s [0, 0x400, 0x00020008#64, 0]) ≠ [] ∧
    issues (.cpyMeta (wN 1 .none (.chan 2) (ss 4) (.imm 1))) (kit (chan 0xB800000000000000#64 0 []) id id) = [(0, 0, 1)] ∧ halts (next (.cpyMeta (wN 1 .none (.chan 2) (ss 4) (.imm 1))) (s [])) fcCap = true ∧
    issues (.gather (wN 0 .none (ss 4) (.imm 4) .none)) (s []) ≠ [] ∧ halts (next (.gather (wN 0 .none (ss 4) (.imm 65) .none)) (s [])) fcIllegalOpnd = true ∧
    issues (.mloop (wN 1 (.acc 1) (ss 2) (ss 4) (.imm 1))) (s []) = [(1, 0, 1)] ∧ issues (.mloopSp (wN 1 (.acc 1) (ss 2) (ss 4) (.imm 1))) (s []) = [(1, 0, 1)] ∧
    issues (.macc (wN 15 (.v 8) (.acc 1) (.imm 0) (.imm 0))) (s []) = [(1, 0, 1)] ∧ issues (.macc (wN 0x30 .none (.acc 1) (ss 4) (.imm 0))) (s [0x0000004000000000#64]) ≠ [] ∧
    issues (.cbload (wN 0 .none (ss 4) .none .none)) (s []) = [(1, 0, 1)] ∧ issues (.xfmJ (wN 0 .none (ss 4) .none .none)) (s []) ≠ [] ∧
    halts (next (.xfmJ (wN 0 .none (ss 4) .none .none)) (s [1])) fcMisalign = true := by decide +kernel

theorem witness_SiphonInstructionEffects :
    let xfm := fun m b => Instr.xfmR (wN m (.v 4) (vv 8) b .none)
    let dec := fun m b => Instr.decode (wN m (.v 4) (ss 4) b .none)
    let s := fun xs => kit id id (desc xs)
    (sent (xfm 2 (.imm 8)) (s []) (.v 4 0)).isSome = true ∧ (after (xfm 0x102 (.imm 8)) (s [])).px = 1 ∧
    (sent (xfm 0x102 (.imm 8)) (kit id id fun g => { g with px := 1 }) (.v 5 0)).isSome = true ∧ halts (next (xfm 2 (.imm 0)) (s [])) fcIllegalOpnd = true ∧
    sent (.decode (wH off 0 (.v 4) (ss 4) (.imm 5) .none)) (s []) (.s 5) = none ∧ sent (dec 0 (.imm 5)) (s []) (.s 5) ≠ none ∧
    halts (next (dec 0 (.imm 0)) (s [])) fcIllegalOpnd = true ∧ halts (next (dec 0 (.imm 5)) (s [0x0000000100000000#64, 9])) fcIllegalOpnd = true ∧
    halts (next (dec 0 (.imm 5)) (s [0x0000000100002000#64])) fcProtection = true ∧ (after (dec 0 (.imm 5)) (s [0x0000000100000000#64])).px = 1 ∧
    (after (dec 0 (.imm 5)) (kit id id fun g => { desc [0x0000000100000000#64] g with em := 7 })).px = 0 := by decide +kernel

/-! Faults and the steps of the rest of the part: a state for each clause, seen by its effect. -/

theorem witness_FaultsTakeTheHaltLine :
    let trap := Instr.trap (wJ plainHdr .none .none 7)
    let bkpt := Instr.bkpt (wJ plainHdr .none .none 7)
    let t := next trap one
    halts (next .ztrap one) fcFetchZero = true ∧ halts (next (.illegalOp 0x1B) one) fcIllegalOp = true ∧ halts (next .falloff one) fcFalloff = true ∧
    halts (next .textFault one) fcTextFault = true ∧ next .ztrap { grp (fun g => { g with nextAt := 9 }) with cur := some 0 } = { grp (fun g => { g with nextAt := 9 }) with cur := none } ∧
    halts t fcTrap = true ∧ ((getPart t 0).halt.map fun h => (h.cause, h.unit, h.gid)) = some (fcTrap, groupUnit 0, gidOf (placedGrp 0)) ∧
    (tabGet t.groups 0).map (·.pc) = some 0 ∧ pcAfter (.trap (wJ off .none .none 7)) one = 1 ∧ halts (next bkpt one) fcBkpt = true ∧
    (after bkpt (grp fun g => { g with bken := true })).state = .stopped ∧ pcAfter bkpt (grp fun g => { g with bken := true }) = 1 := by decide +kernel

/-- A firmware image, sound or not. -/
def image : FwImage := ⟨[1, 2, 3], (4, 5), (6, 7)⟩

/-- The package in a boot state. -/
def boot (b : Boot) : State := { State.reset with pkg := { Pkg.reset with boot := b } }

theorem witness_BringUpAndThermalTrip :
    let up := fun i s => (next i s).pkg.boot
    let hot := fun s d v => getDie (next (.thermalTrip d v) s) d
    up .powerGood State.reset = .rom ∧ up (.selfTestDone true 0) (boot .rom) = .awaitImage ∧ up (.selfTestDone false 3) (boot .rom) = .failed ∧
    (getLink (next (.selfTestDone true 0) { boot .rom with pkg := { Pkg.reset with boot := .rom, bridge := false } }) 5).state = .training ∧
    up .imageReceived (boot .awaitImage) = .verify ∧ up .imageReceived (boot .rom) = .rom ∧ up (.imageVerified image) (boot .rom) = .rom ∧
    (next .imageReceived (boot .awaitImage)).pkg.image = none ∧ up .imageReceived { boot .awaitImage with pkg := { Pkg.reset with boot := .awaitImage, bridge := false } } = .awaitImage ∧
    (next .packageReset one).groups = [] ∧ (next .packageReset one).pkg.boot = .reset ∧
    (hot one 0 104).trip = false ∧ (hot one 0 105).trip = true ∧ halts (next (.thermalTrip 0 105) one) fcThermal = true ∧ halts (next (.thermalTrip 1 105) one) fcThermal = false ∧
    up (.thermalTrip 7 255) (boot .rom) = .failed ∧ (hot { one with pkg := { one.pkg with frozen := true } } 0 105).tripPending = true ∧
    (getDie (next (.tripClear 0) (updDie one 0 fun x => { x with trip := true, temp := 95 })) 0).trip = false ∧
    (getDie (next (.tripClear 0) (updDie one 0 fun x => { x with trip := true, temp := 96 })) 0).trip = true := by decide +kernel

/-- The clocks are stopped, with a trip seen on die 0 or none. -/
def frozen (trip : Bool) : State := updDie { one with pkg := { one.pkg with frozen := true } } 0 fun x => { x with tripPending := trip }

theorem witness_FreezeAndThawEffects :
    (next .freeze one).pkg.frozen = true ∧ next .freeze (frozen false) = frozen false ∧ next (.thaw 9) one = one ∧ (next (.thaw 9) (frozen false)).gts3 = 27 ∧
    ((tabGet (next (.thaw 9) (frozen false)).ctxs 0).map (·.ev.head)) = some 1 ∧ (getVf (next (.thaw 9) { frozen false with vfs := [(0, Vf.reset)] }) 0).chargedTo = 9 ∧
    halts (next (.thaw 9) (frozen true)) fcThermal = true ∧
    (frozen false).pkg.frozen = true ∧ awake .powerGood = false ∧ isWordRow .powerGood = false := by decide +kernel

theorem witness_ErrorsAndStartGrants :
    let op : EngOp := { markerOp (.mloop (wN 0 (.acc 1) (ss 2) (ss 4) (.imm 1))) 0 (placedGrp 0) with cls := 1, startReq := true }
    let s := { one with ops := [(3, op)] }
    let busy := updDie s 0 fun x => { x with grants := List.replicate 8 0 }
    (getCore (next (.coreFailure 0 9) one) 0).failed = true ∧ halts (next (.coreFailure 0 9) one) 9 = true ∧ (getDie (next (.softError 7) one) 7).softcnt = 1 ∧
    (getDie (next (.softError 0) (updDie one 0 fun x => { x with softcnt := 2 ^ 32 - 1 })) 0).softcnt = 2 ^ 32 - 1 ∧
    (getDie (next (.patrolScrub 1 (2 ^ 32 + 5) true) one) 1).softcnt = 1 ∧ next (.patrolScrub 1 (2 ^ 32 + 5) false) one = one ∧
    (next (.uncorrectableError (.mem 0x50004)) one).lines.poison = [0x14001] ∧
    (getDie (next (.patrolScrub 0 0xA00 false) { one with lines := { one.lines with poison := [0x14001] } }) 0).uncorr = 1 ∧
    (after (.uncorrectableError (.v 0 5 3)) one).poison = [.v 5 3] ∧ (after (.uncorrectableError (.s 0 5)) one).poison = [.s 5] ∧
    (after (.uncorrectableError (.p 0 2 1)) one).poison = [.p 2 1] ∧
    (tabGet (next (.startGrant 0) s).ops 3).map (·.granted) = some true ∧ (getDie (next (.startGrant 0) s) 0).lastGrant = 0 ∧
    next (.startGrant 0) busy = busy ∧ next (.startGrant 1) s = s := by decide +kernel

/-- After an access of one thread: its parts due at their home. -/
def sentLd : State := next (.ld { wM .b32 .none (.v 4) (ss 4) 0x40 .none with hdr := { plainHdr with set := some 1 } }) (thread 0x10000)
def sentSt : State := next (.st { wM .b32 .none (.v 2) (ss 4) 0x40 .none with hdr := { plainHdr with set := some 1 } }) (thread 0x10000)
def sentAt : State := next (.aadd (wM .si32 .none (.v 6) (ss 4) 0x40 (vv 2))) (thread 0x10000)
def theAcc (s : State) : Nat := s.accs.head?.elim 0 (·.1)
def thePart (s : State) : Nat := s.accs.head?.elim 0 fun a => a.2.parts.head?.elim 0 (·.1)

/-- The premises of a step of a home, as a test. -/
def isDue (s : State) : Bool :=
  match tabGet s.accs (theAcc s) with
  | some a => match tabGet a.parts (thePart s) with
    | some p => partPending p && !waitsOwn p.hold && !partBlocked s (theAcc s) a p && atPump p && p.size ≤ 16 && !poisoned s (p.pa / 128 * 128) 128 &&
        !p.ver && !rekeying s p.key && sealOk s (p.pa / 128) p.key && decide ((lineOf s (p.pa / 128)).minor < 127)
    | none => false
  | none => false

/-- A state with its accesses and their parts changed. -/
def accsWith (f : Acc → Acc) (h : Part → Part) (s : State) : State :=
  { s with accs := s.accs.map fun a => (a.1, f { a.2 with parts := a.2.parts.map fun p => (p.1, h p.2) }) }

/-- The same access at a scratchpad place, which a bank unit performs. -/
def atBankOf : State → State := accsWith id fun p => { p with home := .bank 0, pa := rowAddr 0 0 1024 0 }

def partRes (s : State) : Option (Bool × Nat) := (tabGet s.accs (theAcc s)).bind fun a => a.parts.head?.map fun p => (p.2.done, p.2.res.toNat)

theorem witness_HomesPerformAccesses :
    isDue sentLd = true ∧ isDue sentSt = true ∧ isDue sentAt = true ∧ partRes (next (.pumpRead (theAcc sentLd) (thePart sentLd)) sentLd) = some (true, 0x1234) ∧
    partRes (next (.pumpAtomic (theAcc sentAt) (thePart sentAt)) sentAt) = some (true, 0x1234) ∧
    memNat (next (.pumpAtomic (theAcc sentAt) (thePart sentAt)) sentAt).mem 0x50040 4 = 0x123B ∧
    memNat (next (.pumpPartialWrite (theAcc sentSt) (0x50040 / 128)) sentSt).mem 0x50040 4 = 7 ∧
    (lineOf (next (.pumpPartialWrite (theAcc sentSt) (0x50040 / 128)) sentSt) (0x50040 / 128)).minor = 1 ∧
    partRes (next (.bankAccess (theAcc sentLd) (thePart sentLd)) (atBankOf sentLd)) = some (true, 0) ∧
    memNat (next (.bankAccess (theAcc sentAt) (thePart sentAt)) (atBankOf sentAt)).mem (rowAddr 0 0 1024 0) 4 = 7 ∧
    memNat (next (.bankAccess (theAcc sentSt) (thePart sentSt)) (atBankOf sentSt)).mem (rowAddr 0 0 1024 0) 4 = 7 ∧
    (next (.reencryptComplete 3) { one with lines := { one.lines with reenc := [(3, .vf 0)] } }).lines.reenc = [] := by decide +kernel

/-- Sixteen threads' stores of 8 bytes that fill a line are one full write (R102). -/
theorem witness_full_line :
    let s := next (.st (wM .b64 .none (.v 2) (vv 6) 0 .none)) (paged [] fun g => { g with triplex := false, em := 2 ^ 16 - 1, v := ((List.range 16).map fun l => (192 + l, BitVec.ofNat 32 l)) ++ (List.range 16).map fun l => (576 + l, BitVec.ofNat 32 (0x10000 + 8 * l)) })
    let t := next (.pumpFullWrite (theAcc s) (0x50000 / 128)) s
    ((tabGet s.accs (theAcc s)).map fun a => piecesMask (0x50000 / 128) (groupPieces (lineGroup a (0x50000 / 128)))) = some (BitVec.allOnes 128) ∧
    memNat t.mem 0x50078 8 = 15 ∧ (lineOf t (0x50000 / 128)).minor = 1 := by decide +kernel

/-- Results that land: a variable-latency result, a response and an acknowledgement. -/
theorem witness_ResultsLand :
    let rd := next (.rdts { wN 0 (.s 7) .none .none .none with hdr := { plainHdr with set := some 0 } }) { one with gts3 := 30 }
    let n := ((tabGet rd.groups 0).bind fun g => g.vres.head?.map (·.id)).getD 0
    let ld := next (.pumpRead (theAcc sentLd) (thePart sentLd)) sentLd
    let st := next (.pumpPartialWrite (theAcc sentSt) (0x50040 / 128)) sentSt
    let g := fun t : State => (tabGet t.groups 0).getD (placedGrp 0)
    tabGet (g (next (.variableLatencyResult 0 n) rd)).s 7 = some 10 ∧ tabGetD (g rd).sb 0 0 = 1 ∧ tabGetD (g (next (.variableLatencyResult 0 n) rd)).sb 0 0 = 0 ∧
    tabGet (g (next (.memoryResponse (theAcc ld)) ld)).v (4 * 96) = some 0x1234 ∧ tabGetD (g ld).sb 1 0 = 1 ∧ tabGetD (g (next (.memoryResponse (theAcc ld)) ld)).sb 1 0 = 0 ∧
    (next (.memoryResponse (theAcc ld)) ld).accs = [] ∧ (next (.storeAck (theAcc st)) st).accs = [] ∧ tabGetD (g st).sb 1 0 = 1 ∧ tabGetD (g (next (.storeAck (theAcc st)) st)).sb 1 0 = 0 := by decide +kernel

theorem witness_KeyCommands :
    let staged := { one with pkg := { one.pkg with keystage := [1, 2, 3, 4] } }
    let ofWin : Line := { Line.reset with sealed := some ⟨.win 5, 0, 0, 0, 0⟩ }
    let win := fun (st : WinState) todo => { staged with wins := [(5, ⟨st, todo, none, []⟩)], lines := { one.lines with lines := [(0xA00, ofWin), (0xA01, ofWin)] } }
    let w := fun i s => getWin (next i s) 5
    (w (.wkeyLoad 5) staged).state = .active ∧ (w (.wkeyLoad 5) staged).key = some (stagedKey staged) ∧ (next (.wkeyLoad 5) staged).pkg.keystage = [0, 0, 0, 0] ∧
    (w (.wkeyRekey 5 []) { win .active [] with lines := one.lines }).state = .active ∧ (w (.wkeyRekey 5 []) (win .active [])).state = .rekeying ∧
    (w (.wkeyRekey 5 []) (win .active [])).todo = [0xA00, 0xA01] ∧ (w (.wkeyClear 5) (win .active [])).state = .empty ∧
    (w (.rekeyLine 5 0xA00) (win .rekeying [0xA00, 0xA01])).todo = [0xA01] ∧ (w (.rekeyLine 5 0xA01) (win .rekeying [0xA01])).state = .active ∧
    tabGetD (next (.rekeyLine 5 0xA01) (win .rekeying [0xA01])).lines.majors (groupOf 0xA01) 0 = 1 ∧ next (.rekeyLine 5 9) (win .rekeying [0xA01]) = win .rekeying [0xA01] ∧
    (getVf (next (.vfKeyLoad 383) staged) 383).key = some (stagedKey staged) ∧ (getVf (next (.vfKeyClear 383) staged) 383).key = none ∧
    next (.vfKeyLoad 0) staged = staged ∧ next (.vfKeyClear 0) staged = staged := by decide +kernel

/-! Waits, versions, translation and faults of accesses. -/

/-- A WAITA on the word at 0x50040 for a value, with a mask and a TIMEOUT in ns, its part due. -/
def waited (mask exp : W64) (dl : Nat) : State :=
  next (.waita (wM .b32 .acq (.v 4) (ss 4) 0x40 (ss 6))) (paged [(0x50040, 0x1234)] fun g => { g with em := 7, s := [(4, 0x10000), (6, exp), (7, mask), (8, BitVec.ofNat 64 (2 ^ 32 * dl))] })

def registered (s : State) : State := match execWaitaRegister (theAcc s) (thePart s) s with | .next t => t | _ => s

theorem witness_WaitTableAndHeldAccesses :
    let held := fun (h : Hold) (snap : Option Nat) => { accsWith (fun a => { a with snap := snap }) (fun p => { p with hold := h, ver := true }) sentLd with gts3 := 3000 }
    let pool := fun (s : State) (u : Nat) => { accsWith id (fun p => { p with hold := .pool 0, ver := true }) s with dies := [(0, { Die.reset with poolUsed := u })] }
    let armed := registered (waited 0xFFFF 1 10)
    let table := { waited 0xFFFF 1 10 with waits := (List.replicate 256 armed.waits).flatten.map fun w => { w with acc := 99 } }
    (registered (waited 0xFFFF 0x1234 10)).waits = [] ∧ (registered (waited 0xFFFF 1 10)).waits.length = 1 ∧ (registered (waited 0xFFFF 1 0)).waits = [] ∧ (registered table).waits.length = 256 ∧
    (next (.waitaDeadline (theAcc armed) (thePart armed)) { armed with gts3 := 3000000000 }).waits = [] ∧
    ((tabGet (next (.waitaWake (theAcc armed)) (registered (waited 0xFFFF 0x1234 10))).groups 0).map (·.state)) = some .ready ∧
    partRes (next (.snapshotWaitEnd (theAcc sentLd)) (held (.snap 0) (some 991))) = some (true, 0x1234) ∧
    partRes (next (.snapshotWaitEnd (theAcc sentLd)) (held (.snap 0) (some 992))) = some (false, 0) ∧
    partRes (next (.poolWaitEnd (theAcc sentSt)) (pool { sentSt with pkg := { sentSt.pkg with pool := 1 } } 0)) = some (true, 0) ∧
    next (.poolWaitEnd (theAcc sentSt)) (pool sentSt (2 ^ 40)) = pool sentSt (2 ^ 40) ∧
    halts (next (.poolWaitTimeout (theAcc sentSt)) (pool { sentSt with cycle := 65536 } (2 ^ 40))) fcVersionPool = true := by decide +kernel

/-- A group that prepares a commit of line 0xA00 at pump 0 of its address. -/
def preparing (f : Tx → Tx) : State :=
  let t := fun x : Tx => f { x with state := .preparing, depth := 1, ts := 5, lines := [⟨0xA00, 15, 7, false, 0x10000⟩], asked := [pumpOf 0x50000], pdst := some 1, threads := 1 }
  { paged [(0x50040, 0x1234)] (fun g => { g with state := .wait, tx := t g.tx }) with pkg := { one.pkg with pool := 1 } }
def txOf (s : State) : Tx := ((tabGet s.groups 0).getD (placedGrp 0)).tx
def atLine (l : Line) (s : State) : State := { s with lines := { s.lines with lines := [(0xA00, l)] } }

theorem witness_CommitVoteSteps :
    let p := pumpOf 0x50000
    let prep := fun s => (txOf (next (.txPrepare 0 p) s)).sent
    let vote := fun f => txOf (next (.txVote 0 p) (preparing f))
    prep (atLine { Line.reset with stamp := 6 } (preparing id)) = [(p, .no 1)] ∧ prep (atLine { Line.reset with lock := some (3, 1) } (preparing id)) = [(p, .no 1)] ∧
    prep (preparing id) ≠ [] ∧ prep (preparing id) ≠ [(p, .no 1)] ∧ (lineOf (next (.txPrepare 0 p) (preparing id)) 0xA00).lock = some (0, 5) ∧
    prep { preparing id with pkg := { one.pkg with pool := 0 }, cycle := 65536 } = [(p, .no 4)] ∧ prep { preparing id with pkg := { one.pkg with pool := 0 }, cycle := 65535 } = [] ∧
    (vote fun t => { t with asked := [p, p + 1], sent := [(p, .yes 9)] }).votes = [(p, .yes 9)] ∧
    (vote fun t => { t with sent := [(p, .no 1)] }).cause = 1 ∧ (vote fun t => { t with sent := [(p, .no 4)] }).cause = 4 ∧
    (vote fun t => { t with asked := [p, p + 1], sent := [(p, .yes 9)], votes := [(p + 1, .yes 12)] }).stamp = some 12 := by decide +kernel

theorem witness_CommitWriteSteps :
    let p := pumpOf 0x50000
    let s := preparing fun t => { t with stamp := some 40, towrite := [0xA00] }
    let t := next (.txCommitWrite 0 0xA00) s
    let ack := fun asked => next (.txCommitAck 0 p) (preparing fun t => { t with stamp := some 40, asked := asked })
    let old := atLine { Line.reset with stamp := 30, older := [⟨10, 0, ⟨.vf 0, 0, 0, 0, 0⟩, 0⟩, ⟨20, 0, ⟨.vf 0, 0, 0, 0, 0⟩, 0⟩] } { one with gts3 := 3 * 60 }
    (lineOf t 0xA00).stamp = 40 ∧ memNat t.mem 0x50000 4 = 7 ∧ memNat t.mem 0x50040 2 = 0x1234 ∧ (txOf t).towrite = [] ∧ (lineOf t 0xA00).older.length = 1 ∧
    (txOf (ack [p, p + 1])).acked = [p] ∧ (txOf (ack [p])).state = .none ∧ ((tabGet (ack [p]).groups 0).bind fun g => tabGet g.p 96) = some true ∧
    (lineOf (next (.lockRelease 0) (atLine { Line.reset with lock := some (0, 5) } one)) 0xA00).lock = none ∧
    (lineOf (next (.lockRelease 0) (atLine { Line.reset with lock := some (1, 5) } one)) 0xA00).lock = some (1, 5) ∧
    (lineOf (next (.lwmRecompute 0) old) 0xA00).older = [] ∧ (getDie (next (.lwmRecompute 7) old) 7).lwm = lowWater old := by decide +kernel

theorem witness_TranslationSteps :
    let s := { paged [] id with tlb := [] }
    let e := fun s => (next (.pageWalk 0 0 0x10008) s).tlb
    let ro : State := { s with mem := placeWords one.mem [(0x30008, 0x5000F)] }
    let cached := next (.pageWalk 0 0 0x10008) ro
    let inv := fun (i : W64 → Instr) (w : W64) => (next (i w) (next (.pageWalk 0 0 0x10008) s)).tlb
    (e s).length = 1 ∧ e { s with mem := placeWords one.mem [(0x30008, 0)] } = [] ∧ memNat cached.mem 0x30008 8 = 0x5040F ∧
    memNat (next (.setDirty 0 0x10008) { cached with accs := sentSt.accs }).mem 0x30008 8 = 0x50C0F ∧ next (.setDirty 0 0x10008) cached = cached ∧
    inv .tlbinvRange 0x0000000100000000#64 ≠ [] ∧ (next (.tlbinvRange 0x0000000100000000#64) { next (.pageWalk 0 0 0x10008) s with pkg := { s.pkg with tlbinvVa := 0x10000 } }).tlb = [] ∧
    inv .tlbinvVf 0x0100000000000000#64 = [] ∧ inv .tlbinvVf 0x0100000000000001#64 ≠ [] ∧ inv .tlbinvAll 0x0200000000000001#64 = [] ∧
    inv .tlbinvText 0x0300000000000000#64 ≠ [] ∧ inv .tlbinvAll 0x02000000C0000000#64 ≠ [] ∧
    (next .tlbinvComplete { s with pkg := { s.pkg with tlbinvBusy := true } }).pkg.tlbinvBusy = false ∧
    (next .tlbinvComplete { sentSt with pkg := { s.pkg with tlbinvBusy := true, tlbinvWait := [theAcc sentSt] } }).pkg.tlbinvBusy = true := by decide +kernel

/-- A load held on a record of the context's one page fault. -/
def faulted (ctxs : Ctx → Ctx) : State :=
  { accsWith id (fun p => { p with hold := .page 1 0, pa := 0 }) sentLd with ctxs := [(0, ctxs { placedCtx with faults := [⟨1, 0, false, []⟩] })] }

theorem witness_FaultRecordSteps :
    let waits := { one with ctxs := [(0, { placedCtx with faults := [⟨1, 0, true, [1, 2, 3, 4]⟩] })] }
    let stuck := { one with ctxs := [(0, { placedCtx with faults := [⟨1, 0, true, [1, 2, 3, 4]⟩], fl := ⟨16, 0, 0⟩ })] }
    ((tabGet (next (.faultRecordWaitEnd 0) waits).ctxs 0).map fun c => (c.fl.head, c.faults.map (·.waiting))) = some (1, [false]) ∧
    next (.faultRecordWaitEnd 0) stuck = stuck ∧ heldAccs (faulted id) 0 (selectedSeqs (faulted id) 0 0) = [theAcc sentLd] ∧
    ((next (.fltreplayReplay 0 0) (faulted id)).accs.map fun a => a.2.parts.map fun p => (p.2.pa, p.2.hold == .no)) = [[(0x50040, true)]] ∧
    halts (next (.fltreplayCancel 0 0) (faulted id)) fcTranslation = true := by decide +kernel

/-! Contexts, partitions, kernel objects, grids and groups. -/

/-- The placed state with its context changed, and partition 0 on core 0. -/
def ctx (f : Ctx → Ctx) : State :=
  { one with ctxs := [(0, f placedCtx)], mem := placeWords one.mem [(0x30008, 0x50C0F), (0x73000, 1)],
             parts := [(0, { Part48.reset with w0 := 0x00001C00C4008101#64, w1 := 0x73000, running := some 0 })] }
def inState (st : CtxState) : State := ctx fun c => { c with state := st }
def stateOf (s : State) (k : Nat) : Option CtxState := (tabGet s.ctxs k).map (·.state)

theorem witness_QuotaAndReclaimSteps :
    let w0 := fun i s => (getPart (next i s) 1).w0
    let s := { ctx id with parts := (ctx id).parts ++ [(1, { Part48.reset with w0 := 1 })] }
    let lent := { ctx id with teams := [(0, { placedTeam with borrowed := some 1 })], parts := (ctx id).parts ++ [(1, { Part48.reset with w0 := 1 })] }
    let t := next (.reclaim 1 0) lent
    w0 (.partqEnable 1 0x0080002000000001#64) (ctx id) = 0x0080002000000001#64 ∧ w0 (.partqEnable 1 0x0000002000000001#64) (ctx id) = 0x0000002000000002#64 ∧
    w0 (.partqEnable 1 0x0080002000000001#64) s = 1 ∧ w0 (.partqDisable 1 0) s = 0 ∧ (getPart (next (.partqDisable 0 0) (ctx id)) 0).w0 = 0x00001C00C4008101#64 ∧
    t.groups = [] ∧ (getPart t 1).reclaim = some (0, [0], 0) ∧ ((tabGet t.ctxs 0).map fun c => c.saved.map (·.1)) = some [0] ∧
    (getPart (next (.reclaimComplete 1) { s with parts := [(1, { Part48.reset with reclaim := some (0, [], 1) })] }) 1).reclaim = none := by decide +kernel

theorem witness_ContextCommandSteps :
    let cmd := fun op slot : Nat => BitVec.ofNat 64 (op * 2 ^ 60 + slot * 2 ^ 56)
    let desc := { ctx id with parts := [(0, { Part48.reset with w0 := 0x00001C00C4008101#64, running := some 0 })], mem := placeWords (ctx id).mem (placedDesc.zipIdx.map fun x => (0x80000 + 8 * x.2, x.1.toNat)) }
    let create := Instr.ctxCreate 0 (cmd 1 1 ||| 0x80000)
    let two := fun a b => { ctx id with ctxs := [(0, { placedCtx with state := a }), (1, { placedCtx with state := b })] }
    let st := fun i s k => stateOf (next i s) k
    let gone := { inState .halted with grids := [] }
    st create desc 1 = some .loaded ∧ st create (ctx id) 1 = none ∧ (getVf (next create (two .running .loaded)) 0).cause = fcIllegalOpnd ∧
    st (.ctxSwitch 0 (cmd 2 1)) (two .running .loaded) 0 = some .saving ∧ (getVf (next (.ctxSwitch 0 (cmd 2 1)) (two .halting .saved)) 0).cause = fcIllegalOpnd ∧
    (getVf (next (.ctxSwitch 0 (cmd 2 1)) (two .halted .saved)) 0).cur = 1 ∧ (getVf (next (.ctxSwitch 0 (cmd 2 1)) (ctx id)) 0).cause = fcIllegalOpnd ∧
    st (.ctxHalt 0 (cmd 3 0)) (ctx id) 0 = some .halting ∧ st (.ctxHalt 0 (cmd 3 0)) (inState .loaded) 0 = some .halted ∧ st (.ctxHalt 0 (cmd 3 0)) (inState .restoring) 0 = some .halted ∧
    st (.ctxResume 0 (cmd 4 0)) (inState .halted) 0 = some .saved ∧ (getVf (next (.ctxResume 0 (cmd 4 0)) (ctx id)) 0).cause = fcIllegalOpnd ∧
    st (.ctxTeardown 0 (cmd 5 0)) gone 0 = none ∧ (next (.ctxTeardown 0 (cmd 5 0)) gone).groups = [] ∧ st (.ctxTeardown 0 (cmd 5 0)) (ctx id) 0 = some .halting := by decide +kernel

theorem witness_HaltSteps :
    let up := next (.haltLineRise 0 9) (ctx id)
    let two := next (.haltLineRise 0 9) { ctx id with groups := [(0, placedGrp 0), (1, { placedGrp 0 with serial := 5 })] }
    let half := next (.unitStop 0 (groupUnit 1)) two
    halts up 9 = true ∧ stateOf half 0 = some .halting ∧ ((tabGet half.ctxs 0).map fun c => c.recs.map (·.unit)) = some [groupUnit 1] ∧
    ((tabGet half.groups 1).map (·.state)) = some .stopped ∧ (stopUnits half ((getPart half 0).halt.getD ⟨0, noUnit, 0, 0, 0, 0, [], []⟩)) = [groupUnit 0, groupUnit 1] ∧
    stateOf (next (.unitStop 0 (groupUnit 0)) half) 0 = some .halted ∧ (next (.unitStop 0 (groupUnit 0)) half).groups = [] := by decide +kernel

theorem witness_TimeSliceSteps :
    let vf := fun (b : Int) => { Vf.reset with bucket := b, cap := 4, rate := 512 }
    let late := { inState .running with gts3 := 3 * 1000, vfs := [(0, vf 0), (1, vf 5)], ctxs := [(0, placedCtx), (16, { placedCtx with state := .saved })], grids := [(0, placedGrid), (1, { placedGrid with ctx := 16 })] }
    stateOf (next (.restoreStart 0) (inState .loaded)) 0 = some .restoring ∧ stateOf (next (.restoreStart 0) (inState .saved)) 0 = some .restoring ∧
    stateOf (next (.restoreComplete 0) (inState .restoring)) 0 = some .running ∧ next (.sliceEnd 0) (inState .running) = inState .running ∧
    stateOf (next (.sliceEnd 0) { inState .running with gts3 := 2999 }) 0 = some .running ∧ stateOf (next (.sliceEnd 0) late) 0 = some .saving ∧ (getPart (next (.sliceEnd 0) late) 0).next = some 1 ∧
    stateOf (next (.sliceEnd 0) { late with grids := [] }) 0 = some .running ∧ (getPart (next (.sliceEnd 0) { late with grids := [] }) 0).sliceStart = 1000 ∧
    stateOf (next (.saveComplete 0) (inState .saving)) 0 = some .saved ∧ (next (.saveComplete 0) (inState .saving)).groups = [] ∧
    (getVf (next (.tokenAccrual 0) { late with gts3 := 6000 }) 0).bucket < 0 ∧ (getVf (next (.tokenAccrual 1) { late with gts3 := 3000000 }) 1).chargedTo = 1000000 := by decide +kernel

/-- An object file of one kernel, one role and one instruction. -/
def file : List Byte :=
  let sect := fun off n : Nat => leBytes off 8 ++ leBytes n 8
  leBytes 0x004F5853 4 ++ leBytes 1 4 ++ leBytes 1 8 ++ sect 256 12 ++ sect 268 0 ++ sect 268 32 ++ sect 300 16 ++ (List.replicate 4 (sect 316 0)).flatten ++ List.replicate 112 0 ++
    wordBytes 0x0E0000FE000E000E000FFC0A#96 ++ (leBytes 0 9 ++ leBytes 1 23) ++ (leBytes 0 5 ++ leBytes 1 1 ++ leBytes 32 2 ++ leBytes 0 8)

theorem witness_KernelObjectSteps :
    let waits := { paged [] (fun g => { g with state := .wait, em := 0, running := false, paths := [⟨.waiting .bind (.bind 0x50008), 4, 2 ^ 48 - 1, 0, 0, 0, false, 0, 0⟩] }) with cur := none }
    let got := next (.bindResolve 0 0x50008 (some 4095)) waits
    fileOk file = true ∧ fileOk (file.drop 1) = false ∧ tabGet placedCtx.objs 1 = none ∧ ownWell one 0x90000 = true ∧ (textLen file + 4095) / 4096 = 1 ∧
    placedCtx.objs.all (fun o => !rangesMeet 4096 4096 o.2.base o.2.size) = true ∧ ((tabGet (next (.objectLoad 0 (file.drop 1) 1 4096 [0x90000]) one).ctxs 0).map fun c => (c.loadCause, c.objs.length)) = some (fcIllegalOpnd, 1) ∧
    ((tabGet (next (.objectUnload 0 0) one).ctxs 0).map fun c => c.objs.map (·.2.unloading)) = some [true] ∧
    ((tabGet (next (.objectUnload 0 0) { one with grids := [] }).ctxs 0).map (·.objs)) = some [] ∧
    bindWaiters waits 0 0x50008 = [0] ∧ next (.bindResolve 0 0x50000 none) waits = waits ∧ halts (next (.bindResolve 0 0x50008 none) waits) fcBindFail = true ∧
    ((tabGet got.groups 0).map fun g => (g.state, g.paths.map fun p => (p.kind, p.pc))) = some (.ready, [(.runnable, 5)]) := by decide +kernel

/-- A launch parameter block of one team of one group, its completion record at 0x10040; and a request for it. -/
def lpb : List W64 := [0x0100000000000000#64, 0, 0x0000010000010001#64, 0, 0, 0, 0, 0x10040] ++ List.replicate 24 0
def request (l : List W64) (ck : Nat) : State := { ctx id with grids := [], reqs := [(7, ⟨ck, 0x10000, l, none⟩)], serial := 9 }

theorem witness_GridAndTeamSteps :
    let s := next (.gridAcceptance 7) (request lpb 0)
    let g := tabGet s.grids 9
    let free := { s with groups := [], teams := [] }
    let t := next (.teamPlacement 9 0 [5] 0 0) free
    let done := { s with grids := s.grids.map fun g => (g.1, { g.2 with ended := 1 }), teams := [], groups := [] }
    let bad := next (.gridAcceptance 7) (request (lpb.set 1 1) 0)
    checkLaunch (request lpb 0) placedCtx lpb ≠ .error 2 ∧ (g.map fun x => (x.lpbAddr, x.placed)) = some (0x10000, 0) ∧ s.reqs = [] ∧
    bad.grids = [] ∧ bad.reqs = [] ∧ memNat bad.mem 0x50058 8 = 0x10000 ∧
    (g.map fun x => (nextTeam x, (servedGrid free 0).map (·.1))) = some (some (0, 0, 0), some 9) ∧ ((tabGet t.groups 5).map (·.state)) = some .pending ∧ t.teams.length = 1 ∧
    next (.gridCompletion 9) s = s ∧ (next (.gridCompletion 9) done).grids = [] ∧ memNat (next (.gridCompletion 9) done).mem 0x50050 8 = 1 := by decide +kernel

/-- The example after R211: the order of placement of a 4 by 3 plane with swizzle 1, and of the curve of a 2 by 2 plane. -/
theorem test_team_order :
    let grid := fun w0 w2 (k : Nat × Nat) => nextTeam { placedGrid with lpb := [w0, 0, w2], placed := k.1, z := 0, d := k.2 }
    ((List.range 12).map fun i => (grid 0x0000008000000000#64 0x0000040000030001#64 (i, i)).map (·.2.2)) = [0, 4, 1, 5, 2, 6, 3, 7, 8, 9, 10, 11].map some ∧
    ((List.range 4).map fun i => (grid 0x00000C0000000000#64 0x0000020000020001#64 (i, i)).map (·.2.2)) = [0, 2, 3, 1].map some := by decide +kernel

theorem witness_GroupScheduleSteps :
    let g := placedGrp 0
    let st := fun (s : State) k => (tabGet s.groups k).map Grp.state
    let few := { one with groups := [(0, { g with state := .ready })], cycle := 192 }
    let eight := fun c => { one with groups := ((List.range 8).map fun i => (i, { g with activeAt := i })) ++ [(8, { g with state := .ready })], cycle := c }
    let bin : Bin := ⟨0, 0, 0, [⟨3, [1, 2, 3, 4]⟩], 0, false⟩
    let binned := fun (b : Bin) c => { one with cores := [(0, { Core.reset with bins := [(2, b)] })], cycle := c, parts := [(0, { getPart one 0 with w1 := 0x73000 })], mem := [(0x73000, 1#8)] }
    let asleep := fun c => { one with cycle := c, groups := [(0, { g with state := .wait, em := 0, running := false, paths := [⟨.waiting .sleep (.sleep 100), 4, 7, 0, 0, 5, false, 0, 0⟩] })] }
    st (next (.groupStateLoaded 0) { one with groups := [(0, { g with state := .pending })] }) 0 = some .ready ∧ st (next (.activeSetEntry 0) few) 0 = some .active ∧
    next (.activeSetEntry 0) (eight 0) = eight 0 ∧ next (.activeSetEntry 1) few = few ∧ next (.fairnessEviction 0) (eight 191) = eight 191 ∧
    st (next (.fairnessEviction 0) (eight 192)) 8 = some .active ∧ st (next (.fairnessEviction 0) (eight 192)) 0 = some .ready ∧ next (.fairnessEviction 0) few = few ∧
    next (.groupFree 0) one = one ∧ st (next (.groupFree 0) { one with groups := [(0, { g with state := .retired })] }) 0 = none ∧
    (next (.groupFree 0) { one with groups := [(0, { g with state := .retired })] }).teams = [] ∧
    next (.spawnBinTimeout 0 2) (binned bin 2047) = binned bin 2047 ∧ (next (.spawnBinTimeout 0 2) (binned bin 2048)).groups.length = 2 ∧
    ((tabGet (next (.spawnBinPlace 0 2 9) (binned { bin with fired := true } 5)).groups 9).map fun g => (g.pc, tabGet g.tids 0)) = some (0, some 3) ∧
    next (.sleepExpiry 0) (asleep 104) = asleep 104 ∧ st (next (.sleepExpiry 0) (asleep 105)) 0 = some .ready := by decide +kernel

/-! Channels, work queues, media engines and links. -/

/-- Messages on their way, with what they meet. -/
def msgTo (s : State) (m : Msg) : State := { s with msgs := [(4, m)] }
def entry8 (q : Nat) : Msg := .append 0 q 0 (chanId one 0 0 2) (leBytes 0x1122 8) 0 0 0 none false
def cardOf' (op more : Nat) : List W64 := [BitVec.ofNat 64 (op * 2 ^ 60 + 2 ^ 56 + 16 * 2 ^ 40 + more)] ++ List.replicate 7 0

theorem witness_ChannelSteps :
    let vf := fun i => { ctx id with vfs := [(0, { Vf.reset with capidx := i })] }
    let cap := fun i w => next (.capdataWrite 0 w) (vf i)
    let rows := fun c : Ctx => { c with desc := placedDesc.set 8 7168 }
    let create := Instr.cqCreate 0 0x4000004000000000#64
    let destroy := Instr.cqDestroy 0 0x8000000000000000#64
    let small := fun f => { ctx f with parts := [(0, { Part48.reset with w0 := 0x00000040C4008101#64, w1 := 0x73000 })] }
    let made := next create (small fun c => { c with state := .loaded })
    let keys := fun s : State => (tabGet s.ctxs 0).map fun c => c.savedQ.map (·.1)
    let cause := fun s : State => (getVf s 0).cause
    let tt := fun n => msgTo (kit id (queue n) id) (entry8 0)
    let counts := fun s : State => (getCore s 0).qslots.map fun x => (x.2.count, x.2.err)
    let rec1 := Msg.record 3 0 (chanId one 0 0 2) (leBytes 0 64) 0 0 0 none false
    let card := fun op => next (.queueAppend 4) (msgTo one (.card 1 0 0 (wordsBytes (cardOf' op 0)) 0 0 0 0 none false))
    let free := fun ch st => next (.freeCountReturn 4) (msgTo { kit (chan full 1 []) id id with ctxs := [(0, { placedCtx with state := st, shared := [(16, full)] })] } (.freeCount 0 (chanId one 0 0 ch)))
    next (.capdataWrite 0 full) (vf 15) = vf 15 ∧ cause (cap 16 (full + 1)) = fcIllegalOpnd ∧ cause (cap 0x50 full) = fcIllegalOpnd ∧
    ((tabGet (cap 16 full).ctxs 0).map (·.shared)) = some [(16, full)] ∧
    cause (next create (ctx id)) = fcIllegalOpnd ∧ keys made = some [0] ∧ cause (next create (ctx fun c => { rows c with state := .loaded })) = fcIllegalOpnd ∧
    cause (next destroy (inState .loaded)) = fcIllegalOpnd ∧ keys (next destroy made) = some [] ∧
    msgBehind { tt 0 with msgs := [(2, entry8 0), (4, entry8 0)] } 4 (entry8 0) = true ∧ counts (next (.queueAppend 4) (tt 0)) = [(1, false)] ∧
    memNat (next (.queueAppend 4) (tt 3)).mem (rowAddr 0 0 2000 24) 8 = 0x1122 ∧ counts (next (.queueAppend 4) (tt 4)) = [(4, true)] ∧ halts (next (.queueAppend 4) (tt 4)) fcQueueError = true ∧
    ((getWq (next (.queueAppend 4) (msgTo { one with wqs := [(3, { Wq.reset with state := .open, tail := 2 ^ 32 - 1 })] } rec1)) 3).tail) = 0 ∧
    (getMedia (card 5) 1).cards.length = 1 ∧ (getMedia (card 6) 1).cards = [] ∧ (card 0).msgs.map (·.2) = [.freeCount 0 0] ∧
    (next (.freeCountReturn 4) (msgTo one (.freeCount 0 0x0040000000000000#64))).msgs.length = 1 ∧
    ((tabGet (free 2 .halted).ctxs 0).map (·.heldMsgs.length)) = some 1 ∧ ((instGet (free 16 .running) 0 (chanId one 0 0 16)).map (·.allow)) = some 1 ∧
    ((tabGet (free 2 .running).teams 0).map fun t => t.caps.map (·.2.allow)) = some [2] := by decide +kernel

/-- Work queue 3 of the placed context, its ring of 16 records at PA 0x50000 with one record. -/
def ring (f : Wq → Wq) (r : List Nat) : State :=
  { paged (r.zipIdx.map fun x => (0x50000 + 8 * x.2, x.1)) id with wqs := [(3, f { Wq.reset with base := 0x2000000000050000#64, state := .open, tail := 1 })] }

theorem witness_WorkQueueSteps :
    let tt := fun (st : WqState) => ring (fun w => { w with state := st }) []
    let q := fun i s => getWq (next i s) 3
    let st := fun i s => (q i s).state
    let launch := [2 ^ 56, 0x10100]
    let signal := [2 ^ 57, 0x10040, 5]
    let recs := fun r s => (consumes s (getWq s 3), (headRecord s 3 (getWq s 3)).2.map fun x => match x with | .ok y => recordType y | .error c => 1000 + c) == (true, some r)
    let sig := fun va => ring (fun w => { w with signal := some (va, 5), tail := 0 }) []
    (q (.wqdoor 0 0x0000000300000009#64) (tt .open)).tail = 9 ∧ next (.wqdoor 0 0x0000000300000009#64) (tt .unbound) = tt .unbound ∧
    next (.wqdoor 1 0x0000000300000009#64) (tt .open) = tt .open ∧ next (.wqdoor 0 0x0000000300000009#64) (tt .draining) = tt .draining ∧
    st (.wqBind 3 0) (tt .unbound) = .open ∧ st (.wqBind 3 0) (tt .closed) = .closed ∧ st (.wqPause 3) (tt .open) = .paused ∧ st (.wqPause 3) (tt .closed) = .closed ∧
    st (.wqResume 3) (tt .paused) = .open ∧ st (.wqDrain 3) (tt .open) = .draining ∧ st (.wqDrain 3) (ring (fun w => { w with tail := 0 }) []) = .closed ∧
    st (.wqClose 3) (tt .draining) = .closed ∧ st (.wqUnbind 3) (tt .closed) = .unbound ∧ st (.wqUnbind 3) (tt .open) = .open ∧
    recs 1 (ring id launch) = true ∧ recs 2 (ring id signal) = true ∧ recs 0 (ring id [3 * 2 ^ 56]) = true ∧ recs 0 (ring id [2 ^ 56, 0x10100, 1]) = true ∧
    (next (.wqLaunchRecord 3) (ring id launch)).reqs.map (fun r => (r.2.addr, r.2.wq)) = [(0x10100, some 3)] ∧ (q (.wqLaunchRecord 3) (ring id launch)).head = 1 ∧
    (q (.wqLaunchRecord 3) (ring id [2 ^ 56, 0x10104])).cause = fcMisalign ∧ (q (.wqSignalRecord 3) (ring id signal)).signal = some (0x10040, 5) ∧
    st (.malformedRecord 3) (ring id [3 * 2 ^ 56]) = .error ∧ st (.malformedRecord 3) (ring id launch) = .open ∧
    st (.malformedRecord 3) { ring id launch with lines := { one.lines with poison := [0x14000] } } = .error ∧
    st (.malformedRecord 3) (ring (fun w => { w with base := 0x2008000000050000#64 }) []) = .open ∧ next (.wqLaunchRecord 3) (tt .paused) = tt .paused ∧
    memNat (next (.signalWrite 3) { sig 0x10040 with grids := [] }).mem 0x50040 8 = 5 ∧ halts (next (.signalWrite 3) { sig 0x10044 with grids := [] }) fcMisalign = true ∧
    (q (.signalWrite 3) { sig 0x10040 with grids := [(0, { placedGrid with wq := some 3 })] }).signal = some (0x10040, 5) := by decide +kernel

/-- Media engine 2 with cards and sessions; channel 16 of the context leads to a queue of 16-byte entries. -/
def media (cards : List (List W64)) (sess : List Sess) : State :=
  { kit id (fun c => { c with qslots := [(0, ⟨0, none, false, 2000, 16, 4, 0, 0, 0, [], [], []⟩)] }) id with
      medias := [(2, ⟨cards.map fun w => ⟨0, chanId one 0 0 16, 0, w⟩, sess⟩)], ctxs := [(0, { placedCtx with shared := [(16, full + 0x10000)] })] }
def session (st : SessState) (awaits : Bool) : Sess := ⟨0, 0, false, 1, 16, st, 0x10000, 64, 0x11000, 7, 2, awaits, false, false, 0, 0, .no⟩

/-- State, row, frame number and wait of the sessions after an instruction. -/
def sessions (i : Instr) (s : State) (l : List (SessState × Nat × Nat × Bool)) : Bool :=
  ((getMedia (next i s) 2).sess.map fun z => (z.state, z.row, z.frameno, z.awaiting)) == l

theorem witness_MediaSteps :
    let taken := fun i s => ((getMedia (next i s) 2).cards.length, (next i s).msgs.length) == (0, 1)
    let rb := [BitVec.ofNat 64 (2 ^ 62), 0, 0, 0, 0x00020007#64, 0, 0, 0]
    sessions (.mediaOpenDec 2) (media [cardOf' 1 0] []) [(.idle, 0, 0, false)] = true ∧ taken (.mediaOpenDec 2) (media [cardOf' 1 0] []) = true ∧
    (getMedia (next (.mediaOpenEnc 2) (media [cardOf' 2 0] [])) 2).sess.map (·.enc) = [true] ∧ (next (.mediaFrame 2) (media [] [])).msgs = [] ∧
    sessions (.mediaFrame 2) (media [cardOf' 3 0] [session .idle false]) [(.busy, 0, 7, false)] = true ∧ sessions (.mediaFrame 2) (media [cardOf' 3 0] [session .failed false]) [(.failed, 2, 7, false)] = true ∧
    sessions (.mediaRowback 2) (media [rb] [session .busy true]) [(.busy, 2, 7, false)] = true ∧ sessions (.mediaRowback 2) (media [rb.set 4 0] [session .busy true]) [(.busy, 2, 7, true)] = true ∧
    ((getMedia (next (.mediaClose 2) (media [cardOf' 5 0] [session .busy false])) 2).sess.map (·.closing)) = [true] ∧ sessions (.mediaClose 2) (media [cardOf' 5 0] [session .idle false]) [] = true ∧ taken (.mediaClose 2) (media [cardOf' 5 0] [session .idle false]) = true := by decide +kernel

theorem witness_mediaRows :
    let push := fun out c n l =>
      let s := { media [] [session .busy false] with ctxs := [(0, { placedCtx with shared := [(16, full + c * 0x10000)] })] }
      ((getCore (next (.mediaRowDone 2 0 out) s) 0).qslots.map (·.2.count)) == [n] && sessions (.mediaRowDone 2 0 out) s l
    sessions (.mediaRowDone 2 0 (.fail 3 [])) (media [] [session .busy false]) [(.failed, 2, 7, false)] = true ∧ push (.final 0x40 true []) 0 0 [(.busy, 2, 7, false)] = true ∧
    push (.final 0x40 true []) 1 1 [(.idle, 0, 8, false)] = true ∧ push (.final 0x40 false []) 1 1 [(.busy, 3, 7, false)] = true ∧
    push (.recon 0x40 []) 1 1 [(.busy, 2, 7, false)] = true ∧ push (.awaiting 0x40 []) 1 1 [(.busy, 2, 7, true)] = true ∧
    halts (next (.mediaRowDone 2 0 (.fail 1 [.read 0x20000 64])) { media [] [session .busy false] with mem := placeWords one.mem [(0x30010, 1)] }) fcPteFormat = true ∧
    (getCore (next (.bardropClear 511) (updCore one 511 fun c => { c with bardrop := 5 })) 511).bardrop = 0 := by decide +kernel

/-- Link 5 as given. -/
def linked (f : Link → Link) (s : State) : State := updLink s 5 f
def asState (st : LinkState) (l : Link) : Link := { l with state := st, lanes := 8 }

theorem witness_LinkSteps :
    let l := fun i st => (getLink (next i (linked (asState st) one)) 5).state
    let at10 := fun n => { linked (asState .training) one with gts3 := 3 * n }
    let crc := fun thr n => getLink (next (.flitCrcFail 5 []) (linked (fun x => { asState .active x with thresh := thr, window := n, windowAt := 0, errcnt := 2 ^ 32 - 1 }) one)) 5
    let away := accsWith id fun p => { p with pa := 2 ^ 44, home := .remote 1 }
    let on := fun (x : State) st => linked (fun y => { asState st y with sent := [(theAcc x, thePart x)] }) (away x)
    let flr := fun st => next (.functionLevelReset 1) (inState st)
    let far := { accsWith id (fun p => { p with pa := 2 ^ 44, home := .remote 1 }) sentLd with gts3 := 3 * 10000000 }
    l (.linkTrain 5) .down = .training ∧ l (.linkTrain 5) .fenced = .training ∧ l (.linkTrain 5) .draining = .draining ∧ l (.linkDrain 5) .active = .down ∧
    l (.linkDrain 5) .training = .training ∧ (getLink (next (.linkDrain 5) (on sentSt .degraded)) 5).state = .draining ∧ l (.linkDisable 5) .active = .down ∧ l (.peerLost 5) .degraded = .down ∧ l (.peerLost 5) .fenced = .fenced ∧
    (getLink (next (.errcntClear 5) (linked (fun x => { x with errcnt := 9 }) one)) 5).errcnt = 0 ∧
    l (.linkTrained 5 8 0) .training = .active ∧ l (.linkTrained 5 4 0) .training = .degraded ∧ l (.linkTrained 5 3 0) .training = .down ∧ l (.linkTrained 5 8 1) .training = .training ∧
    (getLink (next (.trainingTimeout 5) (at10 10000000)) 5).state = .down ∧ next (.trainingTimeout 5) (at10 9999999) = at10 9999999 ∧
    l (.laneLost 5 4) .active = .degraded ∧ l (.laneLost 5 3) .active = .down ∧
    (crc 3 1).state = .active ∧ (crc 3 2).state = .fenced ∧ (crc 0 0).state = .fenced ∧ (crc 3 1).errcnt = 2 ^ 32 - 1 ∧
    partRes (next (.flitAck 5 (theAcc sentSt) (thePart sentSt)) (on sentSt .active)) = some (true, 0) ∧
    partRes (next (.flitReceived 5 (.answer (theAcc sentLd) (thePart sentLd) 0x77)) (on sentLd .active)) = some (true, 0x77) ∧
    ((getCore (next (.flitReceived 5 (.push 0 0 0 1 (leBytes 9 8))) (linked (asState .active) (kit id (queue 1) id))) 0).qslots.map (·.2.count)) = [2] ∧
    memNat (next (.flitReceived 5 (.write 0 none false 0x50040 [9, 8])) (linked (asState .active) one)).mem 0x50040 2 = 0x809 ∧
    next (.functionLevelReset 0) one = one ∧ next (.functionLevelReset 385) one = one ∧
    next (.flitReceived 5 (.free 0 0)) (linked (asState .down) one) = linked (asState .down) one ∧ next (.routeTimeout 0) one = one ∧
    (far.accs.all fun a => a.2.parts.all fun p => linkPart far p.2) = true ∧ halts (next (.routeTimeout (theAcc far)) far) fcUncorrectable = true ∧
    stateOf (flr .running) 0 = some .halting ∧ stateOf { next (.functionLevelReset 1) { inState .saved with grids := [] } with grids := [] } 0 = none := by decide +kernel

/-! Engine operations, the debug unit, profiling and registers, and the machine. -/

/-- The events of the one operation of a state, in order, and its progress. -/
def opId (s : State) : Nat := s.ops.head?.elim 0 (·.1)
def opRun (s : State) (is : List (Nat → Instr)) : State := is.foldl (fun t i => next (i (opId s)) t) s
def opProg (s : State) : Option (Nat × Bool) := s.ops.head?.map fun o => (o.2.prog, o.2.started)

/-- A state whose team's scratchpad row 0 and 2 hold words, after an instruction that issues an operation. -/
def begun (i : Instr) (ws : List (Nat × Nat)) (f : Grp → Grp) : State :=
  let s := kit (chan 0xB800000000000000#64 0 []) (bar { b0 with phase := 0 }) f
  next i { s with mem := placeWords s.mem (ws.map fun x => (rowAddr 0 0 1024 0 + x.1, x.2)) }
def locNat (s : State) (a n : Nat) : Nat := memNat s.mem (rowAddr 0 0 1024 0 + a) n
def coreCtx (s : State) : CoreCtx := (tabGet s.ctxs 0).elim CoreCtx.reset fun c => getCoreCtx c 0
def erOk {α : Type} (r : ER α) : Bool := match r with | .ok _ _ => true | _ => false

theorem witness_EngineOperationSteps :
    let cpy := opRun (begun (.cpy (wN 12 .none (vv 1) (vv 2) .none)) [(0, 0x99)] fun g => { g with v := lanes 1 0x40 }) [.engineOpStart]
    let rows : List W64 := [0, 0x400, 0x00020008#64, 0x0000000800000008#64]
    let cpyT := opRun (begun (.cpyT (wN 3 .none (ss 4) .none .none)) [(0, 0x99), (8, 0x77)] (desc rows)) [.engineOpStart]
    let cpyCv := opRun (begun (.cpyCv (wN (0xC00 ||| 15 <<< 5 ||| 16) .none (ss 4) (.imm 0) .none)) [] (desc rows)) [.engineOpStart, .engineLineTransfer]
    let gather := opRun (begun (.gather (wN 0 .none (ss 4) (.imm 4) .none)) [(0, 2), (256, 0x55)] (desc [])) [.engineOpStart, .engineLineTransfer]
    let push := opRun (begun (.cpyMeta (wN 1 .none (.chan 2) (ss 4) (.imm 1))) [(0, 5)] (desc [])) [.engineOpStart]
    let mzero := begun (.mzero (wN 0 (.acc 2) .none .none .none)) [] id
    let tiled := updCoreCtx mzero 0 0 fun x => { x with tiles := [(6, 1), (2 * 12288 + 6, 1)], gcount := [(2, 3)] }
    let loop := fun n => begun (.mloop (wN 1 (.acc 1) (ss 2) (ss 4) (.imm n))) [] id
    let two := opRun (loop 9) [.engineOpStart]
    let goes := opRun { two with ops := two.ops.map fun o => (o.1, { o.2 with granted := true }) } [.engineOpStart]
    let macc := opRun (begun (.macc (wN 15 (.v 8) (.acc 1) (.imm 0) (.imm 0))) [] id) [.engineOpStart]
    let job := fun op => opRun (begun (.xfmJ (wN 0 .none (ss 4) .none .none))
      [(0, op * 2 ^ 60 + 15 * 2 ^ 55 + 16 * 2 ^ 50 + 3 * 2 ^ 40), (8, 0x200), (16, 0x400), (24, 2 ^ 40 + 200)] (desc [])) [.engineOpStart]
    opProg cpy = some (0, true) ∧ locNat (opRun cpy [.engineLineTransfer]) 0x40 4 = 0x99 ∧ opProg (opRun cpy [.engineLineTransfer]) = some (1, true) ∧
    locNat (opRun cpyT [.engineLineTransfer, .engineLineTransfer]) 0x408 8 = 0x77 ∧ opProg cpyCv = some (1, true) ∧
    opProg gather = some (1, true) ∧ leNat ((coreCtx gather).latch.take 8) = 0x55 ∧
    (coreCtx (opRun push [.sparsityQueuePush])).sparse = [5] ∧ next (.sparsityQueuePush (opId push)) (updCoreCtx push 0 0 fun x => { x with sparse := List.replicate 64 0 }) =
      updCoreCtx push 0 0 (fun x => { x with sparse := List.replicate 64 0 }) ∧
    (coreCtx (opRun tiled [.engineOpStart])).tiles = [(6, 1)] ∧ tabGetD (coreCtx (opRun tiled [.engineOpStart])).gcount 2 0 = 0 ∧
    (coreCtx (opRun (begun (.cbload (wN 0 .none (ss 4) .none .none)) [(16, 9)] (desc [])) [.engineOpStart])).codebook = [(1, 9)] ∧
    two.ops.map (fun o => (o.2.startReq, o.2.started, o.2.total)) = [(true, false, 9)] ∧ opProg goes = some (0, true) ∧
    (opRun goes [.mloopKStep]).ops.map (fun o => (o.2.granted, o.2.work.length)) = [(false, 32)] ∧
    opProg (opRun macc [.maccReadout]) = some (1, true) ∧ opRun macc [.engineOpComplete] = macc ∧ (opRun macc [.maccReadout, .engineOpComplete]).ops = [] ∧
    halts (opRun (job 9) [.xfmJobBlock]) fcEngineError = true ∧ opProg (opRun (job 2) [.xfmJobBlock]) = some (1, true) := by decide +kernel

/-- Die 0's debug registers, with group 0 as given. -/
def dbg (sel : Nat) (f : Grp → Grp) : State := updDie (grp f) 0 fun d => { d with dbgsel := BitVec.ofNat 64 (sel * 2 ^ 54), dbgdata := 3 }
def held (g : Grp) : Grp := { g with state := .stopped, dbgStop := true, v := [(96, 5)], s := [(2, 9)] }

theorem witness_DebugSteps :
    let st := fun i s => (getDie (next i s) 0).dbgstatus
    let data := fun sel f => (getDie (next (.dbgRead 0) (dbg sel f)) 0).dbgdata
    let froze := fun (s : State) => { s with pkg := { s.pkg with frozen := true } }
    let runs := updDie (dbg 0 id) 0 fun d => { d with dbgrun := true }
    let asked := next (.dbgStop 0) (dbg 0 id)
    let stopped := next (.debugStopReached 0) asked
    let busy := fun g : Grp => { held g with vres := [⟨7, [⟨.s 2, 1⟩], none, none⟩] }
    next (.dbgStop 0) runs = runs ∧ st (.dbgStop 0) (froze (dbg 0 id)) = 3 ∧ st (.dbgResume 0) { dbg 0 id with groups := [] } = 3 ∧
    (getDie (next (.dbgRead 0) (froze (dbg 258 held))) 0).dbgdata = 9 ∧ (after (.dbgBken 0) (dbg 0 id)).bken = true ∧ (after (.dbgBkdis 0) (dbg 0 fun g => { g with bken := true })).bken = false ∧
    st (.dbgStop 0) (dbg 0 fun g => { g with state := .retired }) = 2 ∧ (after (.dbgStop 0) (dbg 0 id)).dbgReq = true ∧ (getDie asked 0).dbgrun = true ∧
    st (.dbgResume 0) (dbg 0 id) = 2 ∧ st (.dbgDrain 0) (dbg 0 id) = 2 ∧ (after (.dbgResume 0) (dbg 0 held)).state = .ready ∧ (after (.dbgStep 0) (dbg 0 held)).step = true ∧
    st (.dbgDrain 0) (dbg 0 held) = 0 ∧ st (.dbgRead 0) (dbg 1023 held) = 4 ∧ st (.dbgWrite 0 true) (dbg 1023 held) = 4 ∧
    data 1 held = 5 ∧ data 258 held = 9 ∧ data (768 + 0xF0) (fun g => { held g with pc := 77 }) = 77 ∧ data (768 + 0xF1) held = 2 ^ 48 - 1 ∧
    (after (.dbgWrite 0 false) (dbg 258 held)).s = [(2, 3)] ∧ (after (.dbgWrite 0 false) (dbg 1 held)).v = [(96, 3)] ∧ (after (.dbgWrite 0 false) (dbg (768 + 0xF0) held)).pc = 3 ∧
    st (.dbgWrite 0 false) (dbg 258 busy) = 1 ∧ next (.debugStopReached 0) one = one ∧ (tabGet stopped.groups 0).map (·.state) = some .stopped ∧
    ((getDie stopped 0).dbgstatus, (getDie stopped 0).dbgrun) = (0, false) := by decide +kernel

theorem witness_ProfilingAndRegisterSteps :
    let on := fun (ctl : W64) (f : Vf → Vf) => { one with cycle := 200, vfs := [(0, f { Vf.reset with prfctl := ctl, prfbase := 0x0400000000050000#64, prfcnt := [(1, 0x500000007#64)] })] }
    let go := 0x8100000000000000#64
    let vf := fun i s => getVf (next i s) 0
    let bad := [Instr.profileSample 0 0]
    (vf (.prfctlWrite 0 true 0xF000000000000000#64) (on 0 id)).prfctl.getLsbD 60 = true ∧ (vf (.prfctlWrite 0 false 0xF000000000000000#64) (on 0 id)).prfctl.getLsbD 60 = false ∧
    (vf (.prfctlWrite 0 false go) (on 0 id)).prfcnt = [] ∧ (vf (.prfctlWrite 0 false 0) (on 0 id)).prfcnt.length = 1 ∧
    next (.profileSample 0 0) (on 0 id) = on 0 id ∧ next (.profileSample 0 0) (on go fun v => { v with prfStart := 0, sampled := [(0, 100)] }) = on go (fun v => { v with prfStart := 0, sampled := [(0, 100)] }) ∧
    (vf (.profileSample 0 0) (on 0x8000000000000000#64 id)) = getVf (on 0x8000000000000000#64 id) 0 ∧ (vf (.profileSample 0 0) { on go id with cycle := 256 }).prfhead = 1 ∧ bad.length = 1 ∧
    tabGetD (vf (.prfselWrite 0 1 0x80000500FFFF0003#64) (on 0 id)).prfcnt 1 9 = 0 ∧ ((vf (.prfselWrite 0 1 0x80000600000F0003#64) (on 0 id)).prfsel.any fun x => x.2.getLsbD 62) = true ∧
    (vf (.lcrctlWrite 0 (BitVec.allOnes 64)) (on 0 id)).lcrctl = 0xFC0000FFFFFFFFFF#64 ∧ (vf (.prfcntLowRead 0 1 false) (on 0 id)).latch = [(1, 5)] ∧
    (next (.prfcntLowRead 0 1 true) (on 0 id)).pkg.pfLatch = [(1, 5)] ∧
    (pickGroup one 0).isSome = true ∧ next (.idleIssueCycle 0) one = one ∧ next (.idleIssueCycle 1) one = one ∧
    tabGetD (vf (.idleIssueCycle 0) { on go id with groups := [(0, { placedGrp 0 with nextAt := 999 })] }).lcr 4 0 = 48 := by decide +kernel

theorem witness_registerWrite :
    let wr := fun d off b w => next (.registerWrite d off b w) one
    let ones := BitVec.allOnes 64
    (getDie (wr 7 0x0710 true 5) 7).dbgdata = 5 ∧ (getDie (wr 0 0x0700 true ones) 0).dbgsel = 0xFFFF3FFE00FFFC00#64 ∧ (getLink (wr 7 0x0510 true 0x30000) 22).thresh = 3 ∧
    (wr 0 0x0300 true ones).pkg.tlbinvVa = 0x007FFFFFFFFF0000#64 ∧ (getWq (wr 0 (0x8000 + 32 * 1023) true ones) 1023).base = 0xF80FFFFFFFFFFFC0#64 ∧
    (getPart (wr 0 0x45F0 true ones) 47).w2 = 0xFFFF000000007F00#64 ∧ (getVf (wr 0 (0x100050 + 0x100 * 383) false ones) 383).capidx = 0x3FF ∧
    (getVf (wr 0 0x100090 false ones) 0).prftail = 2 ^ 32 - 1 ∧ wr 8 0x0710 true 5 = one := by decide +kernel

/-! The machine. -/

/-- A placed word is what the next step fetches and runs, one cycle on. -/
def stepsTo (w : BitVec 96) : Bool :=
  match Machine.step (State.reset.withFetchWord 96 w.toNat), Sys2Proof.decode w with
  | .next t, .ok i =>
    let u := { unyield { tick (State.reset.withFetchWord 96 w.toNat) with agenda := [] } 0 0 with issued := [0] }
    (match Machine.fetch u 0 (releaseSlots u.cycle (placedGrp 0)) with
      | (v, .word j) => j == i && (match exec i { v with cur := some 0 } with | .next t' => t' == t | _ => false)
      | _ => false)
  | .next t, .error _ => halts t fcIllegalMod
  | _, _ => false

theorem test_step_runs : ((wordsControl.take 12).map (·.1)).all stepsTo = true ∧ stepsTo 0 = true ∧ stepsTo (BitVec.allOnes 96) = true ∧
    stepsTo 0x1B#96 = true ∧ stepsTo 0x0C0000FE000E000E000FFC01#96 = true := by decide +kernel

/-- A step of an event of the agenda runs it; with an empty agenda the part waits for power at reset (log entry 3). -/
theorem test_agenda :
    let s := { (updCore State.reset 0 fun c => { c with bardrop := 5 }) with agenda := [.event (.bardropClear 0)] }
    (match Machine.step s with | .next t => (getCore t 0).bardrop | _ => 9) = 0 ∧ isWordRow (.bardropClear 0) = false ∧
    (match Machine.step State.reset with | .next t => t.pkg.boot | _ => .rom) = .reset := by decide +kernel

/-- The invariants that every step keeps hold at reset and in the placed state. -/
theorem witness_invariants : (MemInv State.reset ∧ TabInv State.reset) ∧ MemInv one ∧ TabInv one := by
  simp only [MemInv, TabInv, keysRise]; decide +kernel

/-- Known answers: AES-256 of FIPS 197 C.3, GHASH of the second GCM test case, and SHA-384 of "abc" of FIPS 180-4. -/
theorem test_ciphers :
    beNat (aesBlock (aesKeys (List.range 32)) (beBytes 16 0x00112233445566778899aabbccddeeff)) = 0x8ea2b7ca516745bfeafc49904b496089 ∧
    ghash 0x66e94bd4ef8a2c3b884cfa59ca342b2e [0x0388dace60b6a392f328c2b971b2fe78, 0x80] = 0xf38cbb1ad69223dcc3457ae5b6b0f885 ∧
    sha384 [97, 98, 99] = 0xcb00753f45a35e8bb5a03d699ac65007272c32ab0eded1631a8b605a43ff5bed8086072ba1e7cc2358baeca134c825a7 ∧
    ecOn p384g = true := by decide +kernel

/-- Register reads: DIESTAT's fields (R31), a key slot's LEFT (R111), a queue's STATE (R249) and a link's word (R275); nothing answers
the host during a freeze (R23), and VFSCHED reads as zero to a VF (R182). -/
theorem test_register_reads :
    let hot := updDie { one with pkg := { one.pkg with frozen := true } } 3 fun d => { d with softcnt := 2, temp := 0x69, trip := true }
    let win := { one with wins := [(5, ⟨.rekeying, [1, 2, 3], none, []⟩)] }
    registerRead hot .port 3 0x0100 = some 0x00000002690000C0#64 ∧ registerRead hot .physical 3 0x0100 = none ∧
    registerRead one .physical 0 0x0100 = some 4#64 ∧ registerRead win .physical 0 0x2028 = some 0x0000000300000002#64 ∧
    registerRead (updWq one 1 fun w => { w with state := .open, vf := 5, slot := 3 }) .physical 0 0x8028 = some 0x0000298000000001#64 ∧
    registerRead (updVf one 0 fun v => { v with cap := 3 }) (.vf 0) 0 0x100010 = some 0#64 ∧
    registerRead one (.vf 1) 0 0x100008 = none := by decide +kernel

/-! Records of numeric events, sectors that land on barriers, and what waits. -/

/-- The example after R79 on a full ring or an empty one, at GTS 77. -/
def cancels (halt : W64) (full : Bool) : State :=
  let s := grp fun g => { g with numctl := 0x08040001#64 ||| halt, v :=
    [(4 * 96 + 6, 0x3F800003), (4 * 96 + 7, 0x3F800004), (4 * 96 + 8, 0x3F800005)] ++ lanes 5 0x3F800000 }
  { s with gts3 := 3 * 77, ctxs := if full then s.ctxs.map fun x => (x.1, { x.2 with ne := { x.2.ne with head := 2 ^ fld (descW x.2 6) 63 56, tail := 0 } }) else s.ctxs }
def numRing (t : State) : Option (List Nat) :=
  (tabGet t.ctxs 0).map fun y => y.ne.head :: (List.range 4).map fun i => memNat t.mem (fld (descW y 6) 51 5 * 32 + 8 * i) 8

/-- The record of R78 for the example of R79, counting and halting; on a full ring, RINGOVF or nothing. -/
theorem witness_NumericRecords :
    let i := Instr.fsub (wF .f32 .none 0 (.v 9) (vv 4) (vv 5) .none)
    numRing (next i (cancels 0 false)) = some [1, 77, 0, 0x1C0, 21 * 2 ^ 22] ∧ numRing (next i (cancels 0x100 false)) = some [1, 77, 2 ^ 19, 0x1C0, 21 * 2 ^ 22] ∧
    (after i (cancels 0 true)).numflag = 33 ∧ (after i (cancels 0x100 true)).numflag = 0 ∧ halts (next i (cancels 0x100 true)) fcNumi = true := by decide +kernel

/-- The eighth copy of a CPY on barrier 1, which makes a sector: it lands, completes the phase, is late, or passes the range (R262, R268). -/
theorem witness_SectorsLand :
    let s := opRun (begun (.cpy (wN 12 .none (vv 1) (vv 2) (.bar 1))) [(0, 0x99)] fun g => { g with v := lanes 1 0x40 }) [.engineOpStart]
    let on := fun f => opRun { updCore s 0 fun c => { c with bars := c.bars.map fun x => (x.1, barWord (f (barOf x.2))) } with
      ops := s.ops.map fun o => (o.1, { o.2 with prog := 7 }) } [.engineLineTransfer]
    let w := fun t => (getCore t 0).bars.map fun x => ((barOf x.2).phase, (barOf x.2).arrPend, (barOf x.2).sec)
    w (on id) = [(0, 2, -1)] ∧ (on id).ops.map (fun o => (o.2.prog, o.2.counted)) = [(8, 1)] ∧
    w (on fun b => { b with sec := 1, arrPend := 0, arrInit := 3 }) = [(1, 3, 0)] ∧ (getCore (on fun b => { b with valid := false, inval := true }) 0).bardrop = 1 ∧
    halts (on fun b => { b with sec := -2 ^ 23 }) fcEngineError = true := by decide +kernel

/-- A load of bytes that an atomic of its thread, or a held store, has still to write waits; one beside them does not (R118, R172). -/
theorem witness_LoadsWait :
    let ld := fun b => Instr.ld (wM .b32 .none (.v 5) (ss 4) b .none)
    let hit := updCore (again sentAt) 0 fun c => { c with l1 := [⟨0, 0xA00, 0⟩] }
    let late := again (accsWith id (fun p => { p with hold := .page 0 0 }) sentSt)
    (next (ld 0x40) hit).accs.length = 1 ∧ (next (ld 0x44) hit).accs.length = 2 ∧ (next (ld 0x40) late).accs.length = 1 ∧ (next (ld 0x44) late).accs.length = 2 := by
  decide +kernel

/-- The scale of a `.cb2x` that differs between threads (R378), and a stream that holds a poisoned word (R30). -/
theorem witness_SiphonFaults :
    let s := kit id id fun g => { g with v := [(96, 5), (97, 5), (98, 5)] }
    let d := kit id id (desc [0x0000000100000000#64])
    halts (next (.xfmR (wN 1 (.v 4) (vv 8) (.imm 0) (vv 1))) s) fcNonuniform = true ∧
    halts (next (.decode (wN 0 (.v 4) (ss 4) (.imm 5) .none)) { d with lines := { d.lines with poison := [rowAddr 0 0 1024 0 / 4] } }) fcUncorrectable = true := by decide +kernel

/-- An event within a cycle (R17), a command behind a write of the host that waits (R134), and a text frame of another package (R278). -/
theorem witness_TimeAndOrder :
    let s := { one with agenda := [.within 2 (.bardropClear 0)] }
    let p := { one with posted := [⟨true, 0, .vf 0, false, false, 0x50000, [1], none⟩] }
    let far := (Machine.fetch one 0 (placedGrp 0)).1.tlb.map fun e => { e with pte := e.pte ||| 0x0000040000000000#64 }
    (match Machine.step s with | .next t => (t.gts3, t.cycle, t.sub) | _ => (0, 0, 0)) = (s.gts3 + 2, s.cycle, 2) ∧
    (match stepChoice p (.event (.bardropClear 0)) with | .next t => t.later.length | _ => 0) = 1 ∧
    (Machine.fetch { one with tlb := far } 0 (placedGrp 0)).2 = .wait ∧ (Machine.fetch { one with tlb := far } 0 (placedGrp 0)).1.fars.length = 1 := by decide +kernel

end Sys2Proof.Tests
end

/-! The obligations of the device chapter (01_device). All three fail, each in a state that the part does not come to. O28 and O30 ask that
a trip and a core failure write no memory, and do not ask that the table of contexts lists each context once; O29 asks that a trip
seen while frozen halts every RUNNING context with something on the die, and does not ask that the entries of the wait tables
belong to WAITAs. What else they say is proved here: `bringUp_holds`, `startGrant_holds` and `exec_frozen` for every state, and
`thermal_of_nodup`, `errorSteps_of_nodup` and `freezing_of_teams` under a hypothesis that excludes the counterexample. -/

namespace Sys2Proof.Proofs.Device

open Sys2Proof Sys2Proof.Machine Sys2Proof.Claims

/-! Tables and memory. -/

theorem tabGet_mem {α : Type} {t : Tab α} {k : Nat} {x : α} (h : tabGet t k = some x) : (k, x) ∈ t := by
  induction t with
  | nil => cases h
  | cons e t ih =>
    obtain ⟨j, y⟩ := e
    rw [tabGet_cons] at h
    split at h
    · next e => cases h; rw [e]; exact List.mem_cons_self
    · exact List.mem_cons_of_mem _ (ih h)

/-- In a table that lists each key once, a read finds the entry that is listed. -/
theorem tabGet_of_mem {α : Type} {t : Tab α} {k : Nat} {x : α} (hn : (t.map (·.1)).Nodup) (h : (k, x) ∈ t) : tabGet t k = some x := by
  induction t with
  | nil => cases h
  | cons e t ih =>
    obtain ⟨j, y⟩ := e
    simp only [List.map_cons, List.nodup_cons, List.mem_map, not_exists, not_and] at hn
    rw [tabGet_cons]
    rcases List.mem_cons.mp h with e | h
    · cases e
      rw [if_pos rfl]
    · rw [if_neg fun e => hn.1 (k, x) h e.symm, ih hn.2 h]

/-- A write loses no entry but the one that its key reads. -/
theorem mem_tabPut {α : Type} {t : Tab α} {e : Nat × α} (h : e ∈ t) (i : Nat) (x : α) : e ∈ tabPut t i x ∨ tabGet t i = some e.2 := by
  induction t with
  | nil => cases h
  | cons a t ih =>
    obtain ⟨k, v⟩ := a
    simp only [tabPut, tabGet_cons]
    split
    · exact .inl (List.mem_cons_of_mem _ h)
    · split
      · next hk =>
        subst hk
        rcases List.mem_cons.mp h with rfl | h
        · exact .inr (by simp)
        · exact .inl (List.mem_cons_of_mem _ h)
      · next hk =>
        rcases List.mem_cons.mp h with rfl | h
        · exact .inl List.mem_cons_self
        · rw [if_neg (Ne.symm hk)]
          exact (ih h).imp_left (List.mem_cons_of_mem _)

/-- A change that keeps a property of an entry keeps that some entry has it. -/
theorem any_tabUpd {α : Type} {t : Tab α} {p : α → Bool} {f : α → α} (hp : ∀ x, p (f x) = p x) (h : (t.any fun e => p e.2) = true) (i : Nat) :
    ((tabUpd t i f).any fun e => p e.2) = true := by
  unfold tabUpd
  split
  · next x hx =>
    obtain ⟨e, he, hpe⟩ := List.any_eq_true.mp h
    rcases mem_tabPut he i (f x) with hm | hm
    · exact List.any_eq_true.mpr ⟨e, hm, hpe⟩
    · rw [hx] at hm
      obtain rfl := Option.some.inj hm
      exact List.any_eq_true.mpr ⟨(i, f e.2), tabGet_mem (tabGet_put_same t i _), by rw [hp]; exact hpe⟩
  · exact h

/-- Bytes left out by their addresses read as unlisted, and the others as before. -/
theorem memByte_filter {q : Nat → Bool} {m : Mem} (h : Memory.wf m = true) (a : Nat) :
    memByte (m.filter fun x => !q x.1) a = if q a then memDefault else memByte m a := by
  have key : ∀ (m : Mem) (o : Option Nat), memWfFrom o m = true →
      memByte (m.filter fun x => !q x.1) a = if q a then memDefault else memByte m a := by
    intro m
    induction m with
    | nil => intro o _; simp [memByte]
    | cons x t ih =>
      obtain ⟨k, v⟩ := x
      intro o ho
      have ht : memWfFrom (some k) t = true := by
        cases o <;> simp only [memWfFrom, Bool.and_eq_true] at ho <;> exact ho.2
      have hbelow : a ≤ k → memByte t a = memDefault := memByte_below ht
      rw [List.filter_cons]
      by_cases hk : q k = true
      · simp only [hk, Bool.not_true, Bool.false_eq_true, if_false, ih _ ht, memByte]
        split_ifs with h1 h2 h3
        · rfl
        · exact absurd (h2 ▸ hk) h1
        · exact hbelow (Nat.le_of_lt h3)
        · rfl
      · simp only [hk, Bool.not_false, if_true, memByte, ih _ ht]
        split_ifs with h1 h2 h3 h4
        · exact absurd (h1 ▸ h2) hk
        all_goals rfl
  exact key m none h

/-! Steps of the part, and the clocks (R23). -/

/-- A step acts where the clocks run, and leaves a frozen state as it is. -/
theorem event_running {s t : State} (h : s.pkg.frozen = false) : event s t = .next t := by simp [event, h]
theorem event_frozen {s t : State} (h : s.pkg.frozen = true) : event s t = .next s := by simp [event, h]

/-- While the clocks are stopped, a row that is no word's and is not among those that act then leaves the state as it is: every
other row is a step (R23, R24, R409). The second half of O29 is this. -/
theorem exec_frozen (i : Instr) (s : State) (hw : isWordRow i = false) (ha : awake i = false) (hf : s.pkg.frozen = true) :
    exec i s = .next s := by
  cases i <;> first
    | contradiction
    | exact event_frozen hf

/-! Bring-up (R26, R27). -/

/-- Starting training on links one after another: the links alone change, each of those named once. -/
theorem updLinks_foldl (f : Link → Link) (n : Nat) (s : State) :
    ∃ ls, (List.range n).foldl (fun t l => updLink t l f) s = { s with links := ls } ∧
      ∀ l, tabGetD ls l Link.reset = if l < n then f (getLink s l) else getLink s l := by
  induction n with
  | zero => exact ⟨s.links, rfl, fun _ => rfl⟩
  | succ n ih =>
    obtain ⟨ls, e, hl⟩ := ih
    refine ⟨tabPut ls n (f (tabGetD ls n Link.reset)), ?_, fun l => ?_⟩
    · rw [List.range_succ, List.foldl_append, e]
      rfl
    · rw [tabGetD_put, hl, hl]
      by_cases hn : n = l
      · simp [hn]
      · simp only [hn, if_false, if_neg (Nat.lt_irrefl n)]
        congr 1
        simp only [eq_iff_iff]
        omega

/-- What O28 says of the boot steps and PACKAGE_RESET holds in every state. -/
theorem bringUp_holds (s : State) (image : FwImage) (u : Nat) : bringUp s image u := by
  have hlinks : (!(usableTo s s.pkg.bridgeId).isEmpty) = true ↔ usableTo s s.pkg.bridgeId ≠ [] := by simp
  refine ⟨fun hb hf => ?_, fun hb hf => ?_, fun hb => ⟨fun hbr hf => ?_, fun hbr hf => ?_, fun hf => ?_⟩, fun hb b hf => ?_,
    fun hb hu hf => ?_, fun hb hf => ?_, fun hb hf => ?_, fun hb hf => ?_, ?_⟩
  · refine ⟨_, event_running hf, ?_, fun l x hx => ?_⟩
    · simp only [bootStep, hb, if_true]
    · simp only [hb, if_true, tabGet_map, hx, bootStep]
      rfl
  · simp only [exec, execPowerGood, event_running hf, hb, if_false]
  · simp only [exec, execSelfTestDone, event_running hf, hb, hbr, bootStep, ne_eq, not_true, if_true, if_false]
  · obtain ⟨ls, e, hl⟩ := updLinks_foldl (fun x => if x.state = .down then { x with state := .training, since := s.gts } else x) 24
      { s with pkg := { s.pkg with boot := .awaitImage } }
    refine ⟨{ s with pkg := { s.pkg with boot := .awaitImage }, links := ls }, ?_, rfl, fun l h => ?_⟩
    · rw [exec, execSelfTestDone, event_running hf, if_neg (not_not.mpr hb), if_pos rfl, bootStep, if_pos hb]
      exact congrArg _ ((if_neg (by simp [hbr])).trans e)
    · exact (hl l).trans (if_pos h)
  · simp [exec, execSelfTestDone, event_running hf, hb]
  · simp [exec, execSelfTestDone, event_running hf, hb]
  · rw [exec, execImageReceived, event_running hf, if_pos ⟨hb, hu.imp_right hlinks.mpr⟩, bootStep, if_pos hb]
  · rw [exec, execImageReceived, event_running hf, if_neg]
    rintro ⟨hboot, hway⟩
    rcases hb with hb | ⟨hbr, hno⟩
    · exact hb hboot
    · rcases hway with hway | hway
      · rw [hbr] at hway
        cases hway
      · exact hlinks.mp hway hno
  · simp only [exec, execImageVerified, event_running hf, hb, ne_eq, not_true, if_false]
  · simp only [exec, execImageVerified, event_running hf, hb, ne_eq, not_false_eq_true, if_true]
  · refine ⟨_, rfl, rfl, rfl, rfl, rfl, rfl, rfl, rfl, rfl, rfl, rfl, rfl, rfl, rfl, rfl, rfl, rfl, rfl, rfl, rfl, rfl, rfl, rfl, rfl, rfl, rfl, ?_⟩
    exact fun hm a => memByte_filter hm a

/-! Start grants (R19, R20). -/

/-- The place of a request in the order of R20, counted from the partition after the one granted last. -/
def turnOf (last : Nat) (r : Nat × Nat × Nat) : Nat := (r.2.1 + 47 - last) % 48 * 512 + r.2.2

/-- The request served next is one of those that wait, and none of them has an earlier place. -/
theorem nextRequest_cons (last : Nat) (r : Nat × Nat × Nat) (rs : List (Nat × Nat × Nat)) :
    ∃ m ∈ r :: rs, nextRequest last (r :: rs) = some m ∧ ∀ q ∈ r :: rs, turnOf last m ≤ turnOf last q := by
  induction rs generalizing r with
  | nil => exact ⟨r, by simp, rfl, by simp⟩
  | cons x rs ih =>
    have hstep : nextRequest last (r :: x :: rs) = nextRequest last ((if turnOf last x < turnOf last r then x else r) :: rs) := by
      simp only [nextRequest, List.foldl_cons, turnOf]
      exact congrArg (fun o => List.foldl _ o rs) (apply_ite some _ _ _).symm
    obtain ⟨m, hm, e, hmin⟩ := ih (if turnOf last x < turnOf last r then x else r)
    rw [hstep]
    simp only [List.mem_cons, forall_eq_or_imp] at hm hmin ⊢
    refine ⟨m, ?_, e, ?_, ?_, hmin.2⟩ <;> split_ifs at hm hmin with hx
    · exact .inr hm
    · exact hm.imp_right .inr
    · exact hmin.1.trans hx.le
    · exact hmin.1
    · exact hmin.1
    · exact hmin.1.trans (Nat.le_of_not_lt hx)

/-- What START_GRANT leaves where a start may be granted: the operation of the request next in turn is granted (R19, R20). -/
theorem exec_startGrant (s : State) (d : Nat) (hf : s.pkg.frozen = false) :
    exec (.startGrant d) s = .next (match nextRequest (getDie s d).lastGrant ((startRequests s d).filter fun r => grantable s d r.1) with
      | some (id, p, _) =>
        updDie { s with ops := tabUpd s.ops id fun o => { o with granted := true, startReq := false } } d fun x => { x with
          lastGrant := p, grants := recentGrants s d ++ [s.cycle],
          reserved := ((liveReserved s d).find? fun r => some r.2 == opTeam s id).elim (liveReserved s d) (liveReserved s d).erase }
      | none => s) := event_running hf

/-- What O30 says of START_GRANT holds in every state. -/
theorem startGrant_holds (s : State) (d : Nat) : startGrant s d := by
  have hfree : ((startRequests s d).filter fun r => decide
      (((getDie s d).grants.filter fun c => decide (s.cycle < c + 64)).length +
        ((((getDie s d).reserved.filter fun r => decide (s.cycle < r.1 + 64)).filter
          fun x => some x.2 != (tabGet s.ops r.1).map (·.team)).length) < 8)) =
      (startRequests s d).filter fun r => grantable s d r.1 := by
    simp only [grantable, recentGrants, liveReserved, opTeam, List.countP_eq_length_filter]
  simp only [startGrant, hfree]
  refine ⟨fun hnone hf => ?_, fun h8 => ?_, fun hsome => ?_⟩
  · rw [exec_startGrant s d hf, hnone]
    rfl
  · rw [List.filter_eq_nil_iff]
    intro r _
    have hfull : 8 ≤ (recentGrants s d).length := h8
    simp only [grantable, decide_eq_true_eq, not_lt]
    omega
  · obtain ⟨r, rs, hrs⟩ := List.exists_cons_of_ne_nil hsome
    obtain ⟨m, hm, hnext, hmin⟩ := nextRequest_cons (getDie s d).lastGrant r rs
    rw [← hrs] at hm hnext hmin
    refine ⟨m, hm, hmin, fun o ho hf => ?_⟩
    have hown : opTeam s m.1 = some o.team := by simp only [opTeam, ho, Option.map_some]
    rw [exec_startGrant s d hf, hnext]
    simp only [tabUpd_some ho, hown, Option.some_beq_some]
    congr 2
    funext x
    simp only [liveReserved, recentGrants]
    cases List.find? _ _ <;> rfl

/-! What the rise of a halt line leaves (R183, R185). -/

/-- The state and the cause of a context slot. -/
def ctxMark (s : State) (ck : Nat) : Option (CtxState × Nat) := (tabGet s.ctxs ck).map fun c => (c.state, c.cause)

theorem ctxMark_congr {s t : State} (h : t.ctxs = s.ctxs) (ck : Nat) : ctxMark t ck = ctxMark s ck := by rw [ctxMark, h, ctxMark]

theorem ctxMark_setCtx (s : State) (j ck : Nat) (c : Ctx) :
    ctxMark (setCtx s j c) ck = if j = ck then some (c.state, c.cause) else ctxMark s ck := by
  simp only [ctxMark, setCtx_ctxs, tabGet_put]
  split <;> rfl

theorem ctxMark_updCtx (s : State) (j ck : Nat) (f : Ctx → Ctx) (hs : ∀ c, (f c).state = c.state) (hc : ∀ c, (f c).cause = c.cause) :
    ctxMark (updCtx s j f) ck = ctxMark s ck := by
  simp only [ctxMark, updCtx_ctxs, tabGet_upd]
  split
  · rw [Option.map_map]
    congr 1
    funext c
    simp [hs, hc]
  · rfl

/-- What halt lines that rise may change. -/
structure Rose (s t : State) : Prop where
  same : t = { s with
    parts := t.parts, ctxs := t.ctxs, vfs := t.vfs, ops := t.ops, accs := t.accs, groups := t.groups, teams := t.teams,
    medias := t.medias, fars := t.fars, lines := t.lines, dies := t.dies, mem := t.mem, waits := t.waits, raised := t.raised,
    serial := t.serial }
  die : ∀ d, ∃ n, getDie t d = { getDie s d with poolUsed := n }

theorem Rose.refl (s : State) : Rose s s := ⟨rfl, fun d => ⟨(getDie s d).poolUsed, rfl⟩⟩

theorem Rose.trans {s t u : State} (h1 : Rose s t) (h2 : Rose t u) : Rose s u := by
  refine ⟨h2.same.trans (by rw [h1.same]), fun d => ?_⟩
  obtain ⟨m, hm⟩ := h1.die d
  obtain ⟨n, hn⟩ := h2.die d
  exact ⟨n, by rw [hn, hm]⟩

/-- A fold of steps keeps what every step keeps. -/
theorem Rose.foldl {α : Type} (f : State → α → State) (hf : ∀ s x, Rose s (f s x)) (l : List α) (s : State) : Rose s (l.foldl f s) := by
  induction l generalizing s with
  | nil => exact .refl s
  | cons x l ih => exact (hf s x).trans (ih _)

theorem Rose.of_wrote {s t : State} (h : DeviceWrote { s with ctxs := t.ctxs } t) : Rose s t := by
  have e := h.same
  refine ⟨by rw [e], fun d => ⟨(getDie s d).poolUsed, ?_⟩⟩
  simp only [getDie]
  rw [e]

/-- Locks that are released give back their records, and change nothing else of a die. -/
theorem txUnlock_rest (s : State) (k : Nat) :
    ∃ ls ds, txUnlock s k = { s with lines := ls, dies := ds } ∧ ∀ d, ∃ n, tabGetD ds d Die.reset = { getDie s d with poolUsed := n } := by
  have key : ∀ (l : List Nat) (t : State), ∃ ds,
      l.foldl (fun t l => updDie t (l / 2 ^ 32 % 8) fun d => { d with poolUsed := d.poolUsed - 1 }) t = { t with dies := ds } ∧
      ∀ d, ∃ n, tabGetD ds d Die.reset = { getDie t d with poolUsed := n } := by
    intro l
    induction l with
    | nil => exact fun t => ⟨t.dies, rfl, fun d => ⟨(getDie t d).poolUsed, rfl⟩⟩
    | cons x l ih =>
      intro t
      obtain ⟨ds, e, h⟩ := ih (updDie t (x / 2 ^ 32 % 8) fun d => { d with poolUsed := d.poolUsed - 1 })
      refine ⟨ds, e, fun d => ?_⟩
      obtain ⟨n, hn⟩ := h d
      rw [hn, getDie_updDie]
      split
      · next hd => exact ⟨n, by rw [hd]⟩
      · exact ⟨n, rfl⟩
  obtain ⟨ds, e, h⟩ := key _ s
  exact ⟨_, ds, by rw [txUnlock, e], h⟩

/-- A group keeps its place in its program. -/
structure GrpKept (g h : Grp) : Prop where
  pc : h.pc = g.pc
  em : h.em = g.em

theorem GrpKept.refl (g : Grp) : GrpKept g g := ⟨rfl, rfl⟩

/-- The rise's effect on a group's transaction changes that group, locks and their records alone (R149). -/
theorem txHalt_rest (s : State) (k : Nat) : ∃ gs ls ds, txHalt s k = { s with groups := gs, lines := ls, dies := ds } ∧
    (∀ d, ∃ n, tabGetD ds d Die.reset = { getDie s d with poolUsed := n }) ∧
    (gs = s.groups ∨ ∃ g h, tabGet s.groups k = some g ∧ gs = tabPut s.groups k h ∧ GrpKept g h) := by
  have stays : ∃ gs ls ds, s = { s with groups := gs, lines := ls, dies := ds } ∧
      (∀ d, ∃ n, tabGetD ds d Die.reset = { getDie s d with poolUsed := n }) ∧
      (gs = s.groups ∨ ∃ g h, tabGet s.groups k = some g ∧ gs = tabPut s.groups k h ∧ GrpKept g h) :=
    ⟨s.groups, s.lines, s.dies, rfl, fun d => ⟨(getDie s d).poolUsed, rfl⟩, .inl rfl⟩
  unfold txHalt
  split
  · exact stays
  · next g hg =>
    split
    · exact ⟨_, s.lines, s.dies, rfl, fun d => ⟨(getDie s d).poolUsed, rfl⟩, .inr ⟨g, _, hg, rfl, rfl, rfl⟩⟩
    · split
      · exact stays
      · obtain ⟨ls, ds, e, hd⟩ := txUnlock_rest (setGroup s k _) k
        obtain ⟨v, x, p, o, q, hland⟩ := landCells_rest _ _
        exact ⟨_, ls, ds, e, hd, .inr ⟨g, _, hg, rfl, by rw [hland], by rw [hland]⟩⟩
    · exact stays

/-- The groups of one table stand in another, each kept. -/
def GroupsKept (t u : Tab Grp) : Prop := ∀ k g, tabGet t k = some g → ∃ h, tabGet u k = some h ∧ GrpKept g h

theorem GrpKept.trans {a b c : Grp} (h1 : GrpKept a b) (h2 : GrpKept b c) : GrpKept a c :=
  ⟨h2.pc.trans h1.pc, h2.em.trans h1.em⟩

theorem GroupsKept.refl (t : Tab Grp) : GroupsKept t t := fun _ g h => ⟨g, h, .refl g⟩

theorem GroupsKept.trans {t u v : Tab Grp} (h1 : GroupsKept t u) (h2 : GroupsKept u v) : GroupsKept t v := by
  intro k g hg
  obtain ⟨h, hh, k1⟩ := h1 k g hg
  obtain ⟨h', hh', k2⟩ := h2 k h hh
  exact ⟨h', hh', k1.trans k2⟩

theorem GroupsKept.put {t : Tab Grp} {k : Nat} {g h : Grp} (hg : tabGet t k = some g) (hk : GrpKept g h) : GroupsKept t (tabPut t k h) := by
  intro j x hx
  rw [tabGet_put]
  split
  · next e =>
    subst e
    rw [hg] at hx
    obtain rfl := Option.some.inj hx
    exact ⟨h, rfl, hk⟩
  · exact ⟨x, hx, .refl x⟩

/-- What the rise of a halt line changes where the context is on its partition: neither memory nor a team (R185). -/
structure LineRose (s t : State) : Prop where
  same : t = { s with
    parts := t.parts, ctxs := t.ctxs, vfs := t.vfs, ops := t.ops, accs := t.accs, groups := t.groups, medias := t.medias,
    fars := t.fars, lines := t.lines, dies := t.dies }
  die : ∀ d, ∃ n, getDie t d = { getDie s d with poolUsed := n }
  groups : GroupsKept s.groups t.groups

theorem LineRose.refl (s : State) : LineRose s s := ⟨rfl, fun d => ⟨(getDie s d).poolUsed, rfl⟩, .refl _⟩

theorem LineRose.trans {s t u : State} (h1 : LineRose s t) (h2 : LineRose t u) : LineRose s u := by
  refine ⟨h2.same.trans (by rw [h1.same]), fun d => ?_, h1.groups.trans h2.groups⟩
  obtain ⟨m, hm⟩ := h1.die d
  obtain ⟨n, hn⟩ := h2.die d
  exact ⟨n, by rw [hn, hm]⟩

theorem LineRose.rose {s t : State} (h : LineRose s t) : Rose s t := ⟨by rw [h.same], h.die⟩

theorem LineRose.mem {s t : State} (h : LineRose s t) : t.mem = s.mem := by rw [h.same]
theorem LineRose.teams {s t : State} (h : LineRose s t) : t.teams = s.teams := by rw [h.same]

theorem txHalt_lineRose (s : State) (k : Nat) : LineRose s (txHalt s k) ∧ (txHalt s k).ctxs = s.ctxs := by
  obtain ⟨gs, ls, ds, e, hd, hg⟩ := txHalt_rest s k
  rw [e]
  refine ⟨⟨rfl, hd, ?_⟩, rfl⟩
  rcases hg with rfl | ⟨g, h, hg, rfl, hk⟩
  · exact .refl _
  · exact .put hg hk

theorem txHalts_lineRose (l : List Nat) (s : State) : LineRose s (l.foldl txHalt s) ∧ (l.foldl txHalt s).ctxs = s.ctxs := by
  induction l generalizing s with
  | nil => exact ⟨.refl s, rfl⟩
  | cons k l ih =>
    obtain ⟨h1, e1⟩ := txHalt_lineRose s k
    obtain ⟨h2, e2⟩ := ih (txHalt s k)
    exact ⟨h1.trans h2, e2.trans e1⟩

/-- A change that leaves memory, teams, groups and dies. -/
theorem LineRose.of_eq {s t : State} (h : t = { s with
    parts := t.parts, ctxs := t.ctxs, vfs := t.vfs, ops := t.ops, accs := t.accs, medias := t.medias, fars := t.fars }) : LineRose s t :=
  ⟨h.trans (by rw [h]), fun d => ⟨(getDie s d).poolUsed, by rw [h]; rfl⟩, by rw [h]; exact .refl _⟩

theorem withdrawHeld_lineRose (s : State) (ck : Nat) : LineRose s (withdrawHeld s ck) := .of_eq rfl

theorem ctxMark_withdrawHeld (s : State) (ck j : Nat) : ctxMark (withdrawHeld s ck) j = ctxMark s j :=
  ctxMark_updCtx _ ck j (fun c => { c with faults := [], poolAsks := [] }) (fun _ => rfl) fun _ => rfl

/-- A cause that reaches a RUNNING or SAVING context: it is HALTING with that cause, and no other slot's state changes. -/
theorem haltRise_running {s : State} {ck : Nat} {c : Ctx} (hc : tabGet s.ctxs ck = some c) (hs : c.state = .running ∨ c.state = .saving)
    (cause : Nat) (unit : UnitId) (gid addr : Nat) (own : Bool) :
    LineRose s (haltRise s ck cause unit gid addr own) ∧
      ∀ j, ctxMark (haltRise s ck cause unit gid addr own) j = if ck = j then some (.halting, cause) else ctxMark s j := by
  obtain ⟨f, os, hrise⟩ : ∃ f os, haltRise s ck cause unit gid addr own =
      (let s4 := { haltCause (setCtx (updPart s (ctxPart c) f) ck { c with state := .halting, cause := cause, recs := [] }) ck with ops := os }
       (ctxGroups s4 ck).foldl txHalt (withdrawHeld s4 ck)) := by
    simp only [haltRise, hc]
    rcases hs with hs | hs <;> rw [hs] <;> exact ⟨_, _, rfl⟩
  rw [hrise]
  generalize hs4 : ({ haltCause (setCtx (updPart s (ctxPart c) f) ck { c with state := .halting, cause := cause, recs := [] }) ck with
    ops := os } : State) = s4
  obtain ⟨hl, he⟩ := txHalts_lineRose (ctxGroups s4 ck) (withdrawHeld s4 ck)
  have h4 : LineRose s s4 := .of_eq (by rw [← hs4]; rfl)
  refine ⟨h4.trans ((withdrawHeld_lineRose s4 ck).trans hl), fun j => ?_⟩
  rw [ctxMark_congr he, ctxMark_withdrawHeld, ctxMark_congr (s := setCtx s ck { c with state := .halting, cause := cause, recs := [] })
    (by rw [← hs4]; rfl), ctxMark_setCtx]

/-- A cause that reaches a HALTING context: it stays HALTING, with its cause or the new one. -/
theorem haltRise_halting {s : State} {ck : Nat} {c : Ctx} (hc : tabGet s.ctxs ck = some c) (hs : c.state = .halting)
    (cause : Nat) (unit : UnitId) (gid addr : Nat) (own : Bool) :
    LineRose s (haltRise s ck cause unit gid addr own) ∧ ∃ b, (b = c.cause ∨ b = cause) ∧
      ∀ j, ctxMark (haltRise s ck cause unit gid addr own) j = if ck = j then some (.halting, b) else ctxMark s j := by
  simp only [haltRise, hc, hs]
  split
  · refine ⟨.of_eq rfl, cause, .inr rfl, fun j => ?_⟩
    rw [ctxMark_congr (s := setCtx s ck { c with cause := cause }) (by simp only [hs]; rfl), ctxMark_setCtx, hs]
  · refine ⟨.of_eq rfl, c.cause, .inl rfl, fun j => ?_⟩
    split
    · next hj => rw [← hj, ctxMark, updPart_ctxs, hc, Option.map_some, hs]
    · rfl

/-- A group that goes back to the save changes no slot's state. -/
theorem unplaceGroup_rose (s : State) (k : Nat) : Rose s (unplaceGroup s k) ∧ ∀ j, ctxMark (unplaceGroup s k) j = ctxMark s j := by
  unfold unplaceGroup
  split
  · exact ⟨.refl s, fun _ => rfl⟩
  · next g _ =>
    refine ⟨⟨rfl, fun d => ⟨(getDie s d).poolUsed, rfl⟩⟩, fun j => ?_⟩
    exact ctxMark_updCtx _ g.ctx j (fun c => { c with saved := tabPut c.saved g.serial g }) (fun _ => rfl) fun _ => rfl

theorem abandonRestore_rose (s : State) (ck : Nat) : Rose s (abandonRestore s ck) ∧ ∀ j, ctxMark (abandonRestore s ck) j = ctxMark s j := by
  unfold abandonRestore
  generalize ctxGroups s ck = l
  induction l generalizing s with
  | nil => exact ⟨.refl s, fun _ => rfl⟩
  | cons k l ih =>
    obtain ⟨h1, m1⟩ := unplaceGroup_rose s k
    obtain ⟨h2, m2⟩ := ih (unplaceGroup s k)
    exact ⟨h1.trans h2, fun j => (m2 j).trans (m1 j)⟩

/-- An event record changes the event ring of its context, and what a write of the device changes; where the ring is not full,
HEAD goes up by one (R198, R199). -/
theorem eventPush_rest (s : State) (ck kind sub a0 a1 : Nat) :
    DeviceWrote { s with ctxs := (eventPush s ck kind sub a0 a1).ctxs } (eventPush s ck kind sub a0 a1) ∧
      ∃ r : Ctx → Ring, (eventPush s ck kind sub a0 a1).ctxs = tabUpd s.ctxs ck (fun c => { c with ev := r c }) ∧
        ∀ c, tabGet s.ctxs ck = some c → ringFull c .event = false → (r c).head = (c.ev.head + 1) % 2 ^ 32 := by
  unfold eventPush
  dsimp only
  split
  · next t ht =>
    refine ⟨ringPush_wrote ht, ?_⟩
    unfold ringPush at ht
    split at ht
    · cases ht
    · next c hc =>
      split at ht
      · cases ht
      · obtain rfl := Option.some.inj ht
        refine ⟨fun _ => { c.ev with head := (c.ev.head + 1) % 2 ^ 32 }, ?_, fun c' hc' _ => ?_⟩
        · rw [updCtx_ctxs, (devWrite_wrote s ck _ _).same]
          rfl
        · rw [hc] at hc'
          rw [Option.some.inj hc']
  · next hnone =>
    refine ⟨⟨rfl⟩, fun c => { c.ev with drops := sat32 (c.ev.drops + 1) }, rfl, fun c hc hfull => ?_⟩
    simp [ringPush, hc, hfull] at hnone

theorem eventPush_rose (s : State) (ck kind sub a0 a1 : Nat) :
    Rose s (eventPush s ck kind sub a0 a1) ∧ ∀ j, ctxMark (eventPush s ck kind sub a0 a1) j = ctxMark s j := by
  obtain ⟨hw, r, hr, -⟩ := eventPush_rest s ck kind sub a0 a1
  refine ⟨.of_wrote hw, fun j => ?_⟩
  rw [ctxMark_congr (s := updCtx s ck fun c => { c with ev := r c }) hr]
  exact ctxMark_updCtx _ _ _ _ (fun _ => rfl) fun _ => rfl

/-- A context that is not on its partition is HALTED at once, with a HALTED event (R183). -/
def haltAtOnce (s : State) (ck cause : Nat) : State :=
  eventPush (haltCause (updCtx s ck fun c => { c with state := .halted, cause := cause }) ck) ck 1 cause 0 0

theorem haltAtOnce_rose (s : State) (ck cause : Nat) :
    Rose s (haltAtOnce s ck cause) ∧ ∀ j, j ≠ ck → ctxMark (haltAtOnce s ck cause) j = ctxMark s j := by
  have hset : Rose s (haltCause (updCtx s ck fun c => { c with state := .halted, cause := cause }) ck) :=
    ⟨rfl, fun d => ⟨(getDie s d).poolUsed, rfl⟩⟩
  obtain ⟨he, me⟩ := eventPush_rose (haltCause (updCtx s ck fun c => { c with state := .halted, cause := cause }) ck) ck 1 cause 0 0
  refine ⟨hset.trans he, fun j hj => (me j).trans ?_⟩
  simp only [ctxMark, haltCause, updVf_ctxs, updCtx_ctxs, tabGet_upd, if_neg (Ne.symm hj)]

/-- A cause that reaches a context changes no other slot's state. -/
theorem haltRise_rose (s : State) (ck cause : Nat) (unit : UnitId) (gid addr : Nat) (own : Bool) :
    Rose s (haltRise s ck cause unit gid addr own) ∧ ∀ j, j ≠ ck → ctxMark (haltRise s ck cause unit gid addr own) j = ctxMark s j := by
  have still : haltRise s ck cause unit gid addr own = s → Rose s (haltRise s ck cause unit gid addr own) ∧
      ∀ j, j ≠ ck → ctxMark (haltRise s ck cause unit gid addr own) j = ctxMark s j := by
    intro e
    rw [e]
    exact ⟨.refl s, fun _ _ => rfl⟩
  cases hc : tabGet s.ctxs ck with
  | none => exact still (by simp only [haltRise, hc])
  | some c =>
    cases hs : c.state with
    | running =>
      obtain ⟨h, m⟩ := haltRise_running hc (.inl hs) cause unit gid addr own
      exact ⟨h.rose, fun j hj => (m j).trans (if_neg (Ne.symm hj))⟩
    | saving =>
      obtain ⟨h, m⟩ := haltRise_running hc (.inr hs) cause unit gid addr own
      exact ⟨h.rose, fun j hj => (m j).trans (if_neg (Ne.symm hj))⟩
    | halting =>
      obtain ⟨h, b, -, m⟩ := haltRise_halting hc hs cause unit gid addr own
      exact ⟨h.rose, fun j hj => (m j).trans (if_neg (Ne.symm hj))⟩
    | loaded | saved =>
      simp only [haltRise, hc, hs]
      exact haltAtOnce_rose s ck cause
    | restoring =>
      obtain ⟨h, m⟩ := abandonRestore_rose s ck
      obtain ⟨h', m'⟩ := haltAtOnce_rose (abandonRestore s ck) ck cause
      simp only [haltRise, hc, hs]
      exact ⟨h.trans h', fun j hj => (m' j hj).trans (m j)⟩
    | empty | halted => exact still (by simp only [haltRise, hc, hs])

/-- One cause reaches several contexts in turn. -/
def haltRises (s : State) (cks : List Nat) (cause : Nat) (unit : UnitId) : State :=
  cks.foldl (fun t ck => haltRise t ck cause unit 0 0 false) s

theorem haltRises_rose (s : State) (cks : List Nat) (cause : Nat) (unit : UnitId) : Rose s (haltRises s cks cause unit) :=
  .foldl _ (fun t ck => (haltRise_rose t ck cause unit 0 0 false).1) cks s

/-- A context that is HALTING with a cause stays so while that cause reaches others. -/
theorem haltRises_halting {s : State} {ck cause : Nat} (h : ctxMark s ck = some (.halting, cause)) (cks : List Nat) (unit : UnitId) :
    ctxMark (haltRises s cks cause unit) ck = some (.halting, cause) := by
  induction cks generalizing s with
  | nil => exact h
  | cons j cks ih =>
    refine ih ?_
    by_cases hj : j = ck
    · subst hj
      obtain ⟨c, hc, e⟩ := Option.map_eq_some_iff.mp h
      obtain ⟨hs, hcause⟩ := Prod.mk.inj e
      obtain ⟨-, b, hb, m⟩ := haltRise_halting hc hs cause unit 0 0 false
      rw [m, if_pos rfl]
      rcases hb with rfl | rfl
      · rw [hcause]
      · rfl
    · exact ((haltRise_rose s j cause unit 0 0 false).2 ck (Ne.symm hj)).trans h

/-- Every RUNNING context that the cause reaches is HALTING with it (R183, R185). -/
theorem haltRises_halts {s : State} {ck : Nat} {c : Ctx} (hc : tabGet s.ctxs ck = some c) (hs : c.state = .running) {cks : List Nat}
    (hmem : ck ∈ cks) (cause : Nat) (unit : UnitId) : ctxMark (haltRises s cks cause unit) ck = some (.halting, cause) := by
  have key : ∀ {s : State}, (ctxMark s ck).map (·.1) = some .running → ctxMark (haltRises s cks cause unit) ck = some (.halting, cause) := by
    clear hc hs
    induction cks with
    | nil => cases hmem
    | cons j cks ih =>
      intro s h
      by_cases hj : j = ck
      · subst hj
        obtain ⟨x, hx, e⟩ := Option.map_eq_some_iff.mp h
        obtain ⟨c, hc, rfl⟩ := Option.map_eq_some_iff.mp hx
        refine haltRises_halting ?_ cks unit
        rw [(haltRise_running hc (.inl e) cause unit 0 0 false).2, if_pos rfl]
      · refine ih ((List.mem_cons.mp hmem).resolve_left (Ne.symm hj)) ?_
        rw [(haltRise_rose s j cause unit 0 0 false).2 ck (Ne.symm hj)]
        exact h
  exact key (by rw [ctxMark, hc, Option.map_some, Option.map_some, hs])

/-- A context is on its partition: RUNNING, SAVING or HALTING. -/
def OnPartition (s : State) (ck : Nat) : Prop :=
  ∃ m, ctxMark s ck = some m ∧ (m.1 = .running ∨ m.1 = .saving ∨ m.1 = .halting)

/-- A cause that reaches a context on its partition writes no memory, and no other context leaves its partition. -/
theorem haltRise_onPartition {s : State} {ck : Nat} (h : OnPartition s ck) (cause : Nat) (unit : UnitId) :
    LineRose s (haltRise s ck cause unit 0 0 false) ∧ ∀ j, OnPartition s j → OnPartition (haltRise s ck cause unit 0 0 false) j := by
  obtain ⟨m, hm, hs⟩ := h
  obtain ⟨c, hc, rfl⟩ := Option.map_eq_some_iff.mp hm
  obtain ⟨hline, b, hmark⟩ : LineRose s (haltRise s ck cause unit 0 0 false) ∧
      ∃ b, ∀ j, ctxMark (haltRise s ck cause unit 0 0 false) j = if ck = j then some (.halting, b) else ctxMark s j := by
    rcases hs with hs | hs | hs
    · exact ⟨(haltRise_running hc (.inl hs) cause unit 0 0 false).1, cause, (haltRise_running hc (.inl hs) cause unit 0 0 false).2⟩
    · exact ⟨(haltRise_running hc (.inr hs) cause unit 0 0 false).1, cause, (haltRise_running hc (.inr hs) cause unit 0 0 false).2⟩
    · obtain ⟨hl, b, -, hb⟩ := haltRise_halting hc hs cause unit 0 0 false
      exact ⟨hl, b, hb⟩
  refine ⟨hline, fun j hj => ?_⟩
  by_cases e : ck = j
  · exact ⟨_, (hmark j).trans (if_pos e), .inr (.inr rfl)⟩
  · obtain ⟨x, hx, hx'⟩ := hj
    exact ⟨x, ((hmark j).trans (if_neg e)).trans hx, hx'⟩

theorem haltRises_onPartition {s : State} {cks : List Nat} (h : ∀ ck ∈ cks, OnPartition s ck) (cause : Nat) (unit : UnitId) :
    LineRose s (haltRises s cks cause unit) := by
  induction cks generalizing s with
  | nil => exact .refl s
  | cons ck cks ih =>
    obtain ⟨hline, hkeep⟩ := haltRise_onPartition (h ck List.mem_cons_self) cause unit
    exact hline.trans (ih fun j hj => hkeep j (h j (List.mem_cons_of_mem ck hj)))

/-- A RUNNING context is resident. -/
theorem mem_residentCtxs {s : State} {ck : Nat} {c : Ctx} (hc : tabGet s.ctxs ck = some c) (hs : c.state = .running) :
    ck ∈ residentCtxs s :=
  List.mem_map.mpr ⟨(ck, c), List.mem_filter.mpr ⟨tabGet_mem hc, by simp [hs]⟩, rfl⟩

/-- Where each context is listed once and none is being restored, the resident ones are on their partitions. -/
theorem onPartition_of_resident {s : State} (hn : (s.ctxs.map (·.1)).Nodup) (hr : NoRestore s) {ck : Nat} (h : ck ∈ residentCtxs s) :
    OnPartition s ck := by
  obtain ⟨⟨k, c⟩, hmem, rfl⟩ := List.mem_map.mp h
  obtain ⟨hmem, hstate⟩ := List.mem_filter.mp hmem
  have hc := tabGet_of_mem hn hmem
  have hnot := hr k c hc
  refine ⟨_, by rw [ctxMark, hc]; rfl, ?_⟩
  simp only [Bool.or_eq_true, beq_iff_eq] at hstate
  tauto

/-- A RUNNING context that a cause reached is what `Halts` says. -/
theorem halts_of_ctxMark {s t : State} {p : Nat → Prop} {cause : Nat}
    (h : ∀ ck c, tabGet s.ctxs ck = some c → c.state = .running → p ck → ctxMark t ck = some (.halting, cause)) : Halts s t p cause := by
  intro ck c hc hs hp
  obtain ⟨y, hy, e⟩ := Option.map_eq_some_iff.mp (h ck c hc hs hp)
  exact ⟨y, hy, (Prod.mk.inj e).1, (Prod.mk.inj e).2⟩

/-! Thermal trips (R22, R26, R31). -/

theorem Rose.pkg {s t : State} (h : Rose s t) : t.pkg = s.pkg := by rw [h.same]
theorem Rose.gts3 {s t : State} (h : Rose s t) : t.gts3 = s.gts3 := by rw [h.same]
theorem Rose.cores {s t : State} (h : Rose s t) : t.cores = s.cores := by rw [h.same]

/-- The contexts that a trip of a die halts. -/
def tripCtxs (s : State) (d : Nat) : List Nat := (residentCtxs s).filter fun ck => ctxOnDie s ck d

/-- A package in boot, where a die trips, has failed its boot (R26). -/
def tripPkg (p : Pkg) : Pkg := if p.boot = .run then p else { p with boot := .failed }

theorem withTripPkg (t : State) :
    (if t.pkg.boot = .run then t else { t with pkg := { t.pkg with boot := .failed } }) = { t with pkg := tripPkg t.pkg } := by
  unfold tripPkg
  split <;> rfl

/-- A trip is the rise of its halt lines, and the registers of the die and of the package. -/
theorem trip_eq (s : State) (d : Nat) : trip s d =
    { updDie (haltRises s (tripCtxs s d) fcThermal noUnit) d (fun x => { x with trip := true, tripPending := false }) with
      pkg := tripPkg s.pkg } := by
  rw [← (haltRises_rose s (tripCtxs s d) fcThermal noUnit).pkg]
  exact withTripPkg (updDie (haltRises s (tripCtxs s d) fcThermal noUnit) d _)

theorem trip_ctxMark (s : State) (d ck : Nat) : ctxMark (trip s d) ck = ctxMark (haltRises s (tripCtxs s d) fcThermal noUnit) ck := by
  rw [trip_eq]
  rfl

/-- A trip sets the bits of its die, and of the others changes the count of version records alone. -/
theorem trip_die (s : State) (d e : Nat) : ∃ n, getDie (trip s d) e =
    if d = e then { getDie s e with trip := true, tripPending := false, poolUsed := n } else { getDie s e with poolUsed := n } := by
  obtain ⟨n, hn⟩ := (haltRises_rose s (tripCtxs s d) fcThermal noUnit).die e
  refine ⟨n, ?_⟩
  rw [trip_eq]
  show getDie (updDie (haltRises s (tripCtxs s d) fcThermal noUnit) d fun x => { x with trip := true, tripPending := false }) e = _
  rw [getDie_updDie]
  split
  · next h =>
    subst h
    rw [hn]
  · exact hn

/-- A trip halts every RUNNING context that has something on the die (R22, R183). -/
theorem trip_halts (s : State) (d : Nat) : Halts s (trip s d) (fun ck => ctxOnDie s ck d = true) fcThermal := by
  refine halts_of_ctxMark fun ck c hc hs hd => ?_
  rw [trip_ctxMark]
  exact haltRises_halts hc hs (List.mem_filter.mpr ⟨mem_residentCtxs hc hs, hd⟩) _ _

/-- Where each context is listed once and none is being restored, a trip writes no memory. -/
theorem trip_mem {s : State} (hn : (s.ctxs.map (·.1)).Nodup) (hr : NoRestore s) (d : Nat) : (trip s d).mem = s.mem := by
  rw [trip_eq]
  exact (haltRises_onPartition (fun ck h => onPartition_of_resident hn hr (List.mem_filter.mp h).1) _ _).mem

theorem updDie_updDie (s : State) (d : Nat) (f g : Die → Die) : updDie (updDie s d f) d g = updDie s d fun x => g (f x) := by
  simp only [updDie, getDie, tabGetD, tabGet_put_same, Option.getD_some, tabPut_put]

/-- What O28 says of THERMAL_TRIP and TRIP_CLEAR holds in every state that lists each context once. -/
theorem thermal_of_nodup {s : State} (hn : (s.ctxs.map (·.1)).Nodup) (d v : Nat) : thermal s d v := by
  intro hd hv read
  have hread : exec (.thermalTrip d v) s = .next (if v < 105 then read
      else if s.pkg.frozen then updDie read d fun x => { x with tripPending := true } else trip read d) := by
    simp only [exec, execThermalTrip, if_neg (Nat.not_le.mpr hd), Nat.mod_eq_of_lt hv, read]
  refine ⟨fun h => ?_, fun h hf => ?_, fun h hf => ?_, fun ht hf => ?_, fun ht hf => ?_⟩
  · rw [hread, if_pos h]
  · rw [hread, if_neg (Nat.not_lt.mpr h), if_pos hf, updDie_updDie]
  · obtain ⟨n, hdie⟩ := trip_die read d d
    rw [if_pos rfl, getDie_updDie, if_pos rfl] at hdie
    refine ⟨trip read d, ?_, ?_, ?_, ?_, ?_, fun hr => trip_mem (s := read) hn hr d, trip_halts read d⟩
    · rw [hread, if_neg (Nat.not_lt.mpr h), hf]
      rfl
    · rw [trip_eq]
      rfl
    all_goals rw [hdie]
  · rw [exec, execTripClear, event_running hf, if_neg (by simp; omega)]
  · rw [exec, execTripClear, event_running hf, if_pos (by simp; omega)]

/-! Errors (R28, R29, R30). -/

theorem poisonCell_some {s : State} {k : Nat} {g : Grp} (h : tabGet s.groups k = some g) (c : Cell) :
    poisonCell s k c = setGroup s k { g with poison := if g.poison.contains c then g.poison else g.poison ++ [c] } := by
  simp only [poisonCell, updGroup, tabUpd_some h, setGroup]
  congr 2
  split <;> rfl

/-- A core that failed is fenced (R28). -/
def fenced (s : State) (core : Nat) : State := updCore s core fun x => { x with failed := true }

/-- The contexts that a failure of a core halts. -/
def failCtxs (s : State) (core : Nat) : List Nat := (residentCtxs s).filter fun ck => ctxOnCore s ck (· == core)

theorem exec_coreFailure {s : State} {core c : Nat} (hcore : core < 512) (hc : c < 256) (hf : s.pkg.frozen = false) :
    exec (.coreFailure core c) s = .next (haltRises (fenced s core) (failCtxs s core) c ⟨0, core / 64, core % 64, 0, 0⟩) := by
  have hlt : ¬ core ≥ 512 := Nat.not_le.mpr hcore
  simp only [exec, execCoreFailure, event_running hf, if_neg hlt, Nat.mod_eq_of_lt hc]
  rfl

/-- A core failure fences the core and halts every RUNNING context with a team on it; it writes no memory where each context is
listed once and none is being restored (R28). -/
theorem coreFailure_of_nodup {s : State} (hn : (s.ctxs.map (·.1)).Nodup) {core c : Nat} (hcore : core < 512) (hc : c < 256) :
    Leaves (.coreFailure core c) s fun t => getCore t core = { getCore s core with failed := true } ∧ (NoRestore s → t.mem = s.mem) ∧
      Halts s t (fun ck => s.teams.any fun x => x.2.ctx == ck && x.2.away.isNone && x.2.core == core) c := by
  intro hf
  refine ⟨_, exec_coreFailure hcore hc hf, ?_, fun hr => ?_, halts_of_ctxMark fun ck x hx hs hteam => ?_⟩
  · rw [getCore, (haltRises_rose _ _ _ _).cores]
    exact (getCore_updCore s core core _).trans (if_pos rfl)
  · exact (haltRises_onPartition (s := fenced s core)
      (fun ck h => onPartition_of_resident (s := s) hn hr (List.mem_filter.mp h).1) _ _).mem
  · refine haltRises_halts (s := fenced s core) hx hs (List.mem_filter.mpr ⟨mem_residentCtxs hx hs, ?_⟩) _ _
    rw [ctxOnCore, hx, Option.any_some, if_neg (by simp [hs])]
    exact hteam

/-- What O30 says of the four error steps holds in every state that lists each context once. -/
theorem errorSteps_of_nodup {s : State} (hn : (s.ctxs.map (·.1)).Nodup) : errorSteps s := by
  refine ⟨fun core c hcore hc => coreFailure_of_nodup hn hcore hc, fun d hd hf => ?_, fun d n hd hdie => ⟨fun hf => ?_, fun hf => ?_⟩,
    fun pa hpa hf => ?_, fun k g hg => ⟨fun r l hf => ?_, fun r hf => ?_, fun r u hf => ?_⟩⟩
  · rw [exec, execSoftError, event_running hf, if_neg (Nat.not_le.mpr hd)]
    rfl
  · rw [exec, execPatrolScrub, event_running hf, if_neg (by simp; omega)]
    rfl
  · rw [exec, execPatrolScrub, event_running hf, if_neg (by simp; omega)]
    rfl
  · have hplace : exec (.uncorrectableError (.mem pa)) s = .next (if s.lines.poison.contains (pa / 4) then s
        else { s with lines := { s.lines with poison := s.lines.poison ++ [pa / 4] } }) := by
      obtain ⟨a, b, h | h⟩ := hpa <;> simp only [exec, execUncorrectableError, event_running hf, h]
    rw [hplace]
    refine ⟨_, rfl, ?_⟩
    split
    · next h => exact ⟨rfl, h, fun _ => id⟩
    · exact ⟨rfl, by simp, fun w hw => by simpa using .inl (List.contains_iff_mem.mp hw)⟩
  all_goals exact (event_running hf).trans (congrArg _ (poisonCell_some hg _))

/-! THAW: the gap is told to every live context, and the trips seen while frozen are acted on (R24, R25). -/

theorem noRestore_iff {s : State} : NoRestore s ↔ ∀ j m, ctxMark s j = some m → m.1 ≠ .restoring := by
  constructor
  · intro h j m hm
    obtain ⟨c, hc, rfl⟩ := Option.map_eq_some_iff.mp hm
    exact h j c hc
  · intro h j c hc
    exact h j (c.state, c.cause) (by rw [ctxMark, hc]; rfl)

/-- Teams stand as they are, groups are kept in their places, and no context begins a restore. -/
structure PlacesKept (s t : State) : Prop where
  teams : t.teams = s.teams
  groups : GroupsKept s.groups t.groups
  calm : NoRestore t

theorem PlacesKept.trans {s t u : State} (h1 : PlacesKept s t) (h2 : PlacesKept t u) : PlacesKept s u :=
  ⟨h2.teams.trans h1.teams, h1.groups.trans h2.groups, h2.calm⟩

theorem PlacesKept.of_wrote {s t : State} (h : DeviceWrote { s with ctxs := t.ctxs } t) (hr : NoRestore t) : PlacesKept s t :=
  ⟨by rw [h.same], by rw [h.same]; exact .refl _, hr⟩

theorem noRestore_of_marks {s t : State} {ck : Nat} (hr : NoRestore s) (hself : ∀ m, ctxMark t ck = some m → m.1 ≠ .restoring)
    (hother : ∀ j, j ≠ ck → ctxMark t j = ctxMark s j) : NoRestore t := by
  refine noRestore_iff.mpr fun j m hm => ?_
  by_cases hj : j = ck
  · exact hself m (hj ▸ hm)
  · exact noRestore_iff.mp hr j m (hother j hj ▸ hm)

/-- A context that is HALTED at once leaves groups and teams in their places. -/
theorem haltAtOnce_placesKept {s : State} (hr : NoRestore s) (ck cause : Nat) : PlacesKept s (haltAtOnce s ck cause) := by
  obtain ⟨hw, -⟩ := eventPush_rest (haltCause (updCtx s ck fun c => { c with state := .halted, cause := cause }) ck) ck 1 cause 0 0
  have hcalm : NoRestore (haltAtOnce s ck cause) := by
    refine noRestore_of_marks hr (fun m hm => ?_) (haltAtOnce_rose s ck cause).2
    rw [haltAtOnce, (eventPush_rose _ ck 1 cause 0 0).2] at hm
    simp only [ctxMark, haltCause, updVf_ctxs, updCtx_ctxs, tabGet_upd, if_true, Option.map_map, Option.map_eq_some_iff] at hm
    obtain ⟨c, -, rfl⟩ := hm
    simp
  have hset : PlacesKept (haltCause (updCtx s ck fun c => { c with state := .halted, cause := cause }) ck) (haltAtOnce s ck cause) :=
    .of_wrote hw hcalm
  exact ⟨hset.teams, hset.groups, hcalm⟩

/-- Where no context is being restored, a cause leaves groups and teams in their places. -/
theorem haltRise_placesKept {s : State} (hr : NoRestore s) (ck cause : Nat) (unit : UnitId) :
    PlacesKept s (haltRise s ck cause unit 0 0 false) := by
  have ofLine : ∀ b, LineRose s (haltRise s ck cause unit 0 0 false) →
      (∀ j, ctxMark (haltRise s ck cause unit 0 0 false) j = if ck = j then some (.halting, b) else ctxMark s j) →
      PlacesKept s (haltRise s ck cause unit 0 0 false) := by
    intro b hl hm
    refine ⟨hl.teams, hl.groups, noRestore_of_marks hr (fun m h => ?_) fun j hj => (hm j).trans (if_neg (Ne.symm hj))⟩
    rw [hm, if_pos rfl] at h
    cases h
    simp
  have still : haltRise s ck cause unit 0 0 false = s → PlacesKept s (haltRise s ck cause unit 0 0 false) := by
    intro e
    rw [e]
    exact ⟨rfl, .refl _, hr⟩
  cases hc : tabGet s.ctxs ck with
  | none => exact still (by simp only [haltRise, hc])
  | some c =>
    cases hs : c.state with
    | running =>
      obtain ⟨hl, hm⟩ := haltRise_running hc (.inl hs) cause unit 0 0 false
      exact ofLine _ hl hm
    | saving =>
      obtain ⟨hl, hm⟩ := haltRise_running hc (.inr hs) cause unit 0 0 false
      exact ofLine _ hl hm
    | halting =>
      obtain ⟨hl, b, -, hm⟩ := haltRise_halting hc hs cause unit 0 0 false
      exact ofLine b hl hm
    | loaded | saved =>
      simp only [haltRise, hc, hs]
      exact haltAtOnce_placesKept hr ck cause
    | restoring => exact absurd hs (hr ck c hc)
    | empty | halted => exact still (by simp only [haltRise, hc, hs])

theorem haltRises_placesKept {s : State} (hr : NoRestore s) (cks : List Nat) (cause : Nat) (unit : UnitId) :
    PlacesKept s (haltRises s cks cause unit) := by
  induction cks generalizing s with
  | nil => exact ⟨rfl, .refl _, hr⟩
  | cons ck cks ih =>
    have h := haltRise_placesKept hr ck cause unit
    exact h.trans (ih h.calm)

/-- The trips of several dies, in turn. -/
theorem trips_rest (ds : List Nat) (s : State) :
    (ds.foldl trip s).pkg = (if ds = [] then s.pkg else tripPkg s.pkg) ∧ (ds.foldl trip s).gts3 = s.gts3 ∧
      (NoRestore s → PlacesKept s (ds.foldl trip s)) := by
  induction ds generalizing s with
  | nil => exact ⟨rfl, rfl, fun hr => ⟨rfl, .refl _, hr⟩⟩
  | cons d ds ih =>
    obtain ⟨hp, hg, hk⟩ := ih (trip s d)
    have hpkg : (trip s d).pkg = tripPkg s.pkg := by rw [trip_eq]
    have hgts : (trip s d).gts3 = s.gts3 := by
      rw [trip_eq]
      exact (haltRises_rose s (tripCtxs s d) fcThermal noUnit).gts3
    have hidem : tripPkg (tripPkg s.pkg) = tripPkg s.pkg := by
      unfold tripPkg
      split_ifs <;> rfl
    refine ⟨?_, hg.trans hgts, fun hr => ?_⟩
    · rw [List.foldl_cons, hp, hpkg, hidem, if_neg (List.cons_ne_nil d ds)]
      split <;> rfl
    · have h : PlacesKept s (trip s d) := by
        obtain ⟨ht, hgr, hc⟩ := haltRises_placesKept hr (tripCtxs s d) fcThermal noUnit
        rw [trip_eq]
        exact ⟨ht, hgr, hc⟩
      exact h.trans (hk h.calm)

/-- A die whose trip is acted on is tripped. -/
theorem trips_trip {ds : List Nat} {d : Nat} (h : d ∈ ds) (s : State) : (getDie (ds.foldl trip s) d).trip = true := by
  have stays : ∀ (l : List Nat) (t : State), (getDie t d).trip = true → (getDie (l.foldl trip t) d).trip = true := by
    intro l
    induction l with
    | nil => exact fun _ => id
    | cons e l ih =>
      intro t ht
      obtain ⟨n, hn⟩ := trip_die t e d
      refine ih (trip t e) ?_
      rw [hn]
      split
      · rfl
      · exact ht
  induction ds generalizing s with
  | nil => cases h
  | cons e ds ih =>
    by_cases he : e = d
    · obtain ⟨n, hn⟩ := trip_die s e d
      exact stays ds _ (by rw [hn, if_pos he])
    · exact ih ((List.mem_cons.mp h).resolve_left (Ne.symm he)) _

/-- A context has a team that is on a core of a die. -/
def teamOn (s : State) (ck d : Nat) : Bool := s.teams.any fun t => t.2.ctx == ck && t.2.away.isNone && t.2.core / 64 == d

theorem teamOn_unplaceGroup {s : State} {ck d : Nat} (h : teamOn s ck d = true) (k : Nat) : teamOn (unplaceGroup s k) ck d = true := by
  unfold unplaceGroup
  split
  · exact h
  · next g _ =>
    exact any_tabUpd (p := fun t : Team => t.ctx == ck && t.away.isNone && t.core / 64 == d)
      (f := fun t => { t with slots := tabMap t.slots fun _ x => if x = k then savedKey g.serial else x }) (fun _ => rfl) h g.team

theorem teamOn_abandonRestore {s : State} {ck d : Nat} (h : teamOn s ck d = true) (j : Nat) : teamOn (abandonRestore s j) ck d = true := by
  unfold abandonRestore
  generalize ctxGroups s j = l
  induction l generalizing s with
  | nil => exact h
  | cons k l ih => exact ih (teamOn_unplaceGroup h k)

theorem teamOn_congr {s t : State} (h : t.teams = s.teams) (ck d : Nat) : teamOn t ck d = teamOn s ck d := by rw [teamOn, h, teamOn]

theorem eventPush_teams (s : State) (ck kind sub a0 a1 : Nat) : (eventPush s ck kind sub a0 a1).teams = s.teams := by
  rw [(eventPush_rest s ck kind sub a0 a1).1.same]

/-- A cause that reaches a context takes no team from its core. -/
theorem teamOn_haltRise {s : State} {ck d : Nat} (h : teamOn s ck d = true) (j cause : Nat) (unit : UnitId) :
    teamOn (haltRise s j cause unit 0 0 false) ck d = true := by
  have same : ∀ {t : State}, t.teams = s.teams → teamOn t ck d = true := fun e => (teamOn_congr e ck d).trans h
  cases hc : tabGet s.ctxs j with
  | none =>
    simp only [haltRise, hc]
    exact h
  | some c =>
    cases hs : c.state with
    | running => exact same (haltRise_running hc (.inl hs) cause unit 0 0 false).1.teams
    | saving => exact same (haltRise_running hc (.inr hs) cause unit 0 0 false).1.teams
    | halting => exact same (haltRise_halting hc hs cause unit 0 0 false).1.teams
    | loaded | saved =>
      simp only [haltRise, hc, hs]
      exact same (eventPush_teams _ _ _ _ _ _)
    | restoring =>
      simp only [haltRise, hc, hs]
      exact (teamOn_congr (eventPush_teams _ _ _ _ _ _) ck d).trans (teamOn_abandonRestore h j)
    | empty | halted =>
      simp only [haltRise, hc, hs]
      exact h

theorem teamOn_trip {s : State} {ck d : Nat} (h : teamOn s ck d = true) (e : Nat) : teamOn (trip s e) ck d = true := by
  rw [trip_eq]
  show teamOn (haltRises s (tripCtxs s e) fcThermal noUnit) ck d = true
  generalize tripCtxs s e = l
  induction l generalizing s with
  | nil => exact h
  | cons j l ih => exact ih (teamOn_haltRise h j _ _)

/-- A RUNNING context that no cause reaches stays RUNNING. -/
theorem haltRises_others {s : State} {cks : List Nat} {ck : Nat} (h : ck ∉ cks) (cause : Nat) (unit : UnitId) :
    ctxMark (haltRises s cks cause unit) ck = ctxMark s ck := by
  induction cks generalizing s with
  | nil => rfl
  | cons j cks ih =>
    obtain ⟨hj, hrest⟩ := not_or.mp fun hm => h (List.mem_cons.mpr hm)
    exact (ih hrest).trans ((haltRise_rose s j cause unit 0 0 false).2 ck hj)

/-- A RUNNING context with a team on one of the dies that trip is HALTING with the cause THERMAL. -/
theorem trips_halt {ds : List Nat} {d : Nat} (hd : d ∈ ds) {s : State} {ck : Nat} {c : Ctx} (hc : tabGet s.ctxs ck = some c)
    (hs : c.state = .running) (hteam : teamOn s ck d = true) : ctxMark (ds.foldl trip s) ck = some (.halting, fcThermal) := by
  have stays : ∀ (l : List Nat) (t : State), ctxMark t ck = some (.halting, fcThermal) →
      ctxMark (l.foldl trip t) ck = some (.halting, fcThermal) := by
    intro l
    induction l with
    | nil => exact fun _ => id
    | cons e l ih => exact fun t ht => ih _ ((trip_ctxMark t e ck).trans (haltRises_halting ht _ _))
  induction ds generalizing s c with
  | nil => cases hd
  | cons e ds ih =>
    by_cases hin : ck ∈ tripCtxs s e
    · exact stays ds _ ((trip_ctxMark s e ck).trans (haltRises_halts hc hs hin _ _))
    · have hne : e ≠ d := by
        rintro rfl
        refine hin (List.mem_filter.mpr ⟨mem_residentCtxs hc hs, ?_⟩)
        have hcore : ctxOnCore s ck (fun core => core / 64 == e) = true := by
          rw [ctxOnCore, hc, Option.any_some, if_neg (by simp [hs])]
          exact hteam
        rw [ctxOnDie, hcore, Bool.true_or, Bool.true_or]
      have hmark : ctxMark (trip s e) ck = some (c.state, c.cause) := by
        rw [trip_ctxMark, haltRises_others hin, ctxMark, hc, Option.map_some]
      obtain ⟨y, hy, hyc⟩ := Option.map_eq_some_iff.mp hmark
      exact ih ((List.mem_cons.mp hd).resolve_left (Ne.symm hne)) hy ((Prod.mk.inj hyc).1.trans hs) (teamOn_trip hteam e)

/-- The gap told to several contexts: what the records leave (R25, R199). -/
def tellGap (s : State) (cks : List Nat) (at0 now : Nat) : State := cks.foldl (fun t ck => eventPush t ck 2 0 at0 now) s

theorem wrote_trans {s t u : State} (h1 : DeviceWrote { s with ctxs := t.ctxs } t) (h2 : DeviceWrote { t with ctxs := u.ctxs } u) :
    DeviceWrote { s with ctxs := u.ctxs } u := ⟨h2.same.trans (by rw [h1.same])⟩

theorem tellGap_wrote (s : State) (cks : List Nat) (at0 now : Nat) :
    DeviceWrote { s with ctxs := (tellGap s cks at0 now).ctxs } (tellGap s cks at0 now) ∧
      ∀ j, ctxMark (tellGap s cks at0 now) j = ctxMark s j := by
  induction cks generalizing s with
  | nil => exact ⟨⟨rfl⟩, fun _ => rfl⟩
  | cons ck cks ih =>
    obtain ⟨h1, -⟩ := eventPush_rest s ck 2 0 at0 now
    obtain ⟨h2, m2⟩ := ih (eventPush s ck 2 0 at0 now)
    exact ⟨wrote_trans h1 h2, fun j => (m2 j).trans ((eventPush_rose s ck 2 0 at0 now).2 j)⟩

theorem tellGap_other {s : State} {cks : List Nat} {ck : Nat} (h : ck ∉ cks) (at0 now : Nat) :
    tabGet (tellGap s cks at0 now).ctxs ck = tabGet s.ctxs ck := by
  induction cks generalizing s with
  | nil => rfl
  | cons j cks ih =>
    obtain ⟨hj, hrest⟩ := not_or.mp fun hm => h (List.mem_cons.mpr hm)
    obtain ⟨-, r, hr, -⟩ := eventPush_rest s j 2 0 at0 now
    refine (ih hrest).trans ?_
    rw [hr, tabGet_upd, if_neg (Ne.symm hj)]

/-- A context that is told once has one more record in its event ring. -/
theorem tellGap_once {s : State} {cks : List Nat} (hn : cks.Nodup) {ck : Nat} {c : Ctx} (hmem : ck ∈ cks)
    (hc : tabGet s.ctxs ck = some c) (hfull : ringFull c .event = false) (at0 now : Nat) :
    ∃ y, tabGet (tellGap s cks at0 now).ctxs ck = some { c with ev := y } ∧ y.head = (c.ev.head + 1) % 2 ^ 32 := by
  induction cks generalizing s with
  | nil => cases hmem
  | cons j cks ih =>
    obtain ⟨hj, hn'⟩ := List.nodup_cons.mp hn
    obtain ⟨-, r, hr, hhead⟩ := eventPush_rest s j 2 0 at0 now
    have hnext := tabGet_upd s.ctxs j ck fun c => { c with ev := r c }
    rw [← hr] at hnext
    by_cases e : j = ck
    · subst e
      refine ⟨r c, (tellGap_other hj at0 now).trans ?_, hhead c hc hfull⟩
      rw [hnext, if_pos rfl, hc]
      rfl
    · exact ih hn' ((List.mem_cons.mp hmem).resolve_left (Ne.symm e)) (by rw [hnext, if_neg e, hc])

/-- The clocks run again: the time is the pod's where that is later, and no bucket sees the gap (R24, R25). -/
def restarted (s : State) (gts : Nat) : State :=
  { s with
    pkg := { s.pkg with frozen := false }, gts3 := max s.gts3 (3 * gts),
    vfs := tabMap s.vfs fun _ v => { v with chargedTo := v.chargedTo + (max s.gts3 (3 * gts) / 3 % 2 ^ 64 - s.pkg.freezeGts) } }

/-- The contexts that are told of the gap, and the dies whose trips are acted on. -/
def liveCtxs (s : State) : List Nat := tabKeys s.ctxs fun _ c => c.state != .empty
def pendingDies (s : State) : List Nat := tabKeys s.dies fun _ d => d.tripPending

/-- The package once the gap is told. -/
def gapTold (s : State) (gts : Nat) : State :=
  tellGap (restarted s gts) (liveCtxs s) s.pkg.freezeGts (restarted s gts).gts

theorem gapTold_wrote (s : State) (gts : Nat) :
    DeviceWrote { restarted s gts with ctxs := (gapTold s gts).ctxs } (gapTold s gts) ∧ ∀ j, ctxMark (gapTold s gts) j = ctxMark s j :=
  tellGap_wrote (restarted s gts) _ _ _

theorem exec_thaw {s : State} (hf : s.pkg.frozen = true) (gts : Nat) :
    exec (.thaw gts) s = .next ((pendingDies s).foldl trip (gapTold s gts)) := by
  have hdies : (gapTold s gts).dies = s.dies := by rw [(gapTold_wrote s gts).1.same]; rfl
  have e : exec (.thaw gts) s = .next (if !s.pkg.frozen then s else (pendingDies (gapTold s gts)).foldl trip (gapTold s gts)) := rfl
  rw [e, hf, pendingDies, hdies]
  rfl

theorem pendingDies_eq_nil {s : State} : pendingDies s = [] ↔ ∀ x ∈ s.dies, x.2.tripPending = false := by
  simp [pendingDies, tabKeys, List.filter_eq_nil_iff]

/-- What O29 says of FREEZE and THAW holds in every state where a RUNNING context that has something on a die with a pending trip
has a team there. -/
theorem freezing_of_teams {s : State} (gts : Nat)
    (hteams : ∀ d x ck c, tabGet s.dies d = some x → x.tripPending = true → tabGet s.ctxs ck = some c → c.state = .running →
      ctxOnDie s ck d = true → teamOn s ck d = true) : freezing s gts := by
  refine ⟨fun hf => ?_, fun hf => ?_, fun hf => ?_, fun hf => ⟨_, exec_thaw hf gts, ?_⟩⟩
  · simp only [exec, execFreeze, hf, Bool.false_eq_true, if_false]
  · simp only [exec, execFreeze, hf, if_true]
  · simp only [exec, execThaw, hf, Bool.not_false, if_true]
  obtain ⟨hw, hmark⟩ := gapTold_wrote s gts
  obtain ⟨hpkg, hgts, hplaces⟩ := trips_rest (pendingDies s) (gapTold s gts)
  have hpkg0 : (gapTold s gts).pkg = { s.pkg with frozen := false } := by rw [hw.same]; rfl
  have hgts0 : (gapTold s gts).gts3 = max s.gts3 (3 * gts) := by rw [hw.same]; rfl
  have hteams0 : (gapTold s gts).teams = s.teams := by rw [hw.same]; rfl
  have hgroups0 : (gapTold s gts).groups = s.groups := by rw [hw.same]; rfl
  refine ⟨?_, hgts.trans hgts0, fun hr => ?_, fun hnone => ?_, fun d x hx htrip => ?_⟩
  · rw [hpkg, hpkg0]
    by_cases hnone : ∀ x ∈ s.dies, x.2.tripPending = false
    · rw [if_pos (pendingDies_eq_nil.mpr hnone), if_pos (.inr hnone)]
    · rw [if_neg (mt pendingDies_eq_nil.mp hnone), tripPkg]
      by_cases hrun : s.pkg.boot = .run
      · rw [if_pos hrun, if_pos (.inl hrun)]
      · rw [if_neg hrun, if_neg (not_or.mpr ⟨hrun, hnone⟩)]
  · have hcalm : NoRestore (gapTold s gts) := noRestore_iff.mpr fun j m hm => noRestore_iff.mp hr j m (hmark j ▸ hm)
    obtain ⟨ht, hg, -⟩ := hplaces hcalm
    refine ⟨ht.trans hteams0, fun k g hk => ?_⟩
    obtain ⟨h, hh, hkept⟩ := hg k g (by rw [hgroups0]; exact hk)
    exact ⟨h, hh, hkept.pc, hkept.em⟩
  · rw [pendingDies_eq_nil.mpr hnone]
    refine ⟨hgroups0, hteams0, by rw [List.foldl_nil, hw.same]; rfl, fun v x hx => ?_, fun hn ck c hc hlive hfull => ?_⟩
    · have hvfs : (gapTold s gts).vfs = (restarted s gts).vfs := by rw [hw.same]
      have hnow : (gapTold s gts).gts = (restarted s gts).gts := by rw [State.gts, State.gts, hgts0]; rfl
      rw [List.foldl_nil, hvfs, hnow, restarted, tabGet_map, hx]
      rfl
    · have hmem : ck ∈ liveCtxs s := List.mem_map.mpr ⟨(ck, c), List.mem_filter.mpr ⟨tabGet_mem hc, by simpa using hlive⟩, rfl⟩
      have hlist : (liveCtxs s).Nodup := hn.sublist (List.filter_sublist.map _)
      exact tellGap_once (s := restarted s gts) hlist hmem hc hfull _ _
  · have hpend : d ∈ pendingDies s := List.mem_map.mpr ⟨(d, x), List.mem_filter.mpr ⟨tabGet_mem hx, htrip⟩, rfl⟩
    refine ⟨trips_trip hpend _, halts_of_ctxMark fun ck c hc hs hon => ?_⟩
    obtain ⟨y, hy, hyc⟩ := Option.map_eq_some_iff.mp ((hmark ck).trans (by rw [ctxMark, hc]; rfl : ctxMark s ck = some (c.state, c.cause)))
    refine trips_halt hpend hy ((Prod.mk.inj hyc).1.trans hs) ?_
    rw [teamOn_congr hteams0]
    exact hteams d x ck c hx htrip hc hs hon

/-! The counterexamples. -/

/-- The state that a step leaves, where it leaves one. -/
def leftState : Host.Outcome State Fault Refusal → Option State
  | .next t => some t
  | _ => none

/-- A team of context 0 on core 0, and two entries for that context. A read of the context finds the first, LOADED; the list of
resident contexts names it for the second, RUNNING. A table with a key twice is not in its one form (`TabInv`), and `thermal`
and `errorSteps` do not ask for that form. -/
def contextTwice : State :=
  { State.reset with
    ctxs := [(0, newCtx []), (0, { newCtx [] with state := .running })],
    teams := [(0, ⟨0, 0, 0, 0, 0, 0, 0, 0, 0, 0, [], [], none, none, []⟩)] }

/-- Context 0 is LOADED where it is read. -/
theorem contextTwice_noRestore : NoRestore contextTwice := by
  intro ck x hx
  simp only [contextTwice, tabGet_cons, tabGet_nil] at hx
  split at hx
  · cases hx
    decide
  · cases hx

/-- The trip halts context 0 as one that is not on its partition, and the record of its HALTED event is written to memory. -/
theorem thermalTrip_contextTwice_mem :
    (leftState (exec (.thermalTrip 0 105) contextTwice)).map (·.mem) ≠ some contextTwice.mem := by decide +kernel

/-- The same of a failure of its team's core. -/
theorem coreFailure_contextTwice_mem :
    (leftState (exec (.coreFailure 0 9) contextTwice)).map (·.mem) ≠ some contextTwice.mem := by decide +kernel

/-- Refutes O28: where the table of contexts holds a key twice, a trip writes memory although no context is being restored. -/
theorem not_bringUpAndThermalTrip : ¬ Obligations.BringUpAndThermalTrip := by
  unfold Obligations.BringUpAndThermalTrip
  intro h
  obtain ⟨-, hthermal⟩ := h contextTwice 0 105 ⟨[], (0, 0), (0, 0)⟩ 0
  obtain ⟨-, -, htrip, -, -⟩ := hthermal (by decide) (by decide)
  obtain ⟨t, ht, -, -, -, -, hmem, -⟩ := htrip (Nat.le_refl _) rfl
  refine thermalTrip_contextTwice_mem ?_
  rw [ht, leftState, Option.map_some, hmem contextTwice_noRestore]

/-- Refutes O30: where the table of contexts holds a key twice, a core failure writes memory although no context is being
restored. -/
theorem not_errorsAndStartGrants : ¬ Obligations.ErrorsAndStartGrants := by
  unfold Obligations.ErrorsAndStartGrants
  intro h
  obtain ⟨⟨hfail, -⟩, -⟩ := h contextTwice 0
  obtain ⟨t, ht, -, hmem, -⟩ := hfail 0 9 (by decide) (by decide) rfl
  refine coreFailure_contextTwice_mem ?_
  rw [ht, leftState, Option.map_some, hmem contextTwice_noRestore]

/-- A frozen package with a trip pending on die 0, where a RUNNING context has a store still to be performed and nothing else,
and an entry of a wait table names that store. `freezing` does not ask that a wait entry's access be a WAITA. -/
def waitOnStore : State :=
  { State.reset with
    pkg := { Pkg.reset with boot := .run, frozen := true },
    dies := [(0, { Die.reset with tripPending := true })],
    ctxs := [(0, { newCtx [] with state := .running })],
    accs := [(0, ⟨.store, .add, 0, 0, 0, 0, 0, .b64, .none, none,
      [(0, ⟨0, 0, 0, 8, .pump 0, .vf 0, false, false, 0, 0, 0, false, .no, false, false⟩)],
      [], none, false, .grp, false, false, false, 0, [], none⟩)],
    waits := [⟨0, 0, 0, 0, 0, 8, BitVec.allOnes 64, 0, 1, 0⟩] }

/-- The store is work of context 0 on the die. -/
theorem waitOnStore_onDie : ctxOnDie waitOnStore 0 0 = true := by decide +kernel

/-- The record of the gap, written to the ring at the word of the wait entry, ends the entry and with it the store: when the
trip is acted on, nothing of the context is on the die, and it runs on. -/
theorem thaw_waitOnStore_state :
    (leftState (exec (.thaw 1) waitOnStore)).bind (fun t => (tabGet t.ctxs 0).map (·.state)) = some .running := by decide +kernel

/-- Refutes O29: where a wait entry names a store, the record of the gap ends that store before the pending trip is acted on, and
the context that it belonged to is not halted. -/
theorem not_freezeAndThawEffects : ¬ Obligations.FreezeAndThawEffects := by
  unfold Obligations.FreezeAndThawEffects
  rintro ⟨hfreezing, -⟩
  obtain ⟨-, -, -, hthaw⟩ := hfreezing waitOnStore 1
  obtain ⟨t, ht, -, -, -, -, htrip⟩ := hthaw rfl
  obtain ⟨-, hhalts⟩ := htrip 0 _ rfl rfl
  obtain ⟨y, hy, hstate, -⟩ := hhalts 0 _ rfl rfl waitOnStore_onDie
  have hrun := thaw_waitOnStore_state
  rw [ht, leftState, Option.bind_some, hy, Option.map_some, hstate] at hrun
  cases hrun

end Sys2Proof.Proofs.Device

namespace Sys2Proof.Proofs.Memory

open Sys2Proof Sys2Proof.Machine Sys2Proof.Claims Sys2Proof.Proofs.Device

/-! Values in bytes (R4). -/

theorem leNat_lt (bs : List Byte) : leNat bs < 2 ^ (8 * bs.length) := by
  induction bs with
  | nil => exact Nat.one_pos
  | cons b bs ih =>
    have hb : b.toNat < 256 := b.isLt
    have hpow : 2 ^ (8 * (bs.length + 1)) = 256 * 2 ^ (8 * bs.length) := by rw [Nat.mul_succ, Nat.pow_add, Nat.mul_comm]
    rw [leNat, List.length_cons, hpow]
    omega

theorem memBytes_length (m : Mem) (a n : Nat) : (memBytes m a n).length = n := by
  induction n generalizing a with
  | zero => rfl
  | succ n ih => rw [memBytes, List.length_cons, ih]

theorem memNat_lt (m : Mem) (a n : Nat) : memNat m a n < 2 ^ (8 * n) := by
  have h := leNat_lt (memBytes m a n)
  rwa [memBytes_length] at h

theorem leBytes_length (x n : Nat) : (leBytes x n).length = n := by
  induction n generalizing x with
  | zero => rfl
  | succ n ih => rw [leBytes, List.length_cons, ih]

/-- The bytes of a value give the value back, as far as they reach. -/
theorem leNat_leBytes (x n : Nat) : leNat (leBytes x n) = x % 2 ^ (8 * n) := by
  induction n generalizing x with
  | zero => rw [leBytes, leNat, Nat.mul_zero, Nat.pow_zero, Nat.mod_one]
  | succ n ih =>
    have hpow : 2 ^ (8 * (n + 1)) = 256 * 2 ^ (8 * n) := by rw [Nat.mul_succ, Nat.pow_add, Nat.mul_comm]
    have hbyte : (BitVec.ofNat 8 (x % 256)).toNat = x % 256 := by rw [BitVec.toNat_ofNat]; omega
    rw [leBytes, leNat, ih, hbyte, hpow, Nat.mod_mul]

/-- Bytes read where they were written. -/
theorem memBytes_memWrite {m : Mem} (h : Memory.wf m = true) (a : Nat) (bs : List Byte) : memBytes (memWrite m a bs) a bs.length = bs := by
  have key : ∀ (n c : Nat), c + n = bs.length → memBytes (memWrite m a bs) (a + c) n = bs.drop c := by
    intro n
    induction n with
    | zero => intro c hc; rw [memBytes, List.drop_eq_nil_of_le (by omega)]
    | succ n ih =>
      intro c hc
      have hlt : c < bs.length := by omega
      rw [memBytes, Nat.add_assoc, ih (c + 1) (by omega), memWrite_read bs m a (a + c) h, if_pos ⟨by omega, by omega⟩,
        Nat.add_sub_cancel_left, List.drop_eq_getElem_cons hlt, List.getD_eq_getElem _ _ hlt]
  exact key bs.length 0 (Nat.zero_add _)

/-- A value read where it was written. -/
theorem memNat_memWrite {m : Mem} (h : Memory.wf m = true) (a x n : Nat) : memNat (memWrite m a (leBytes x n)) a n = x % 2 ^ (8 * n) := by
  have hread := memBytes_memWrite h a (leBytes x n)
  rw [leBytes_length] at hread
  rw [memNat, hread, leNat_leBytes]

/-- A mask that names no byte leaves the value. -/
theorem overlayBytes_zero (size d v : Nat) : overlayBytes size 0 d v = v % 2 ^ (8 * size) := by
  unfold overlayBytes
  induction size with
  | zero => rw [List.range_zero, List.foldl_nil, Nat.mul_zero, Nat.pow_zero, Nat.mod_one]
  | succ n ih =>
    have hpow : 2 ^ (8 * (n + 1)) = 2 ^ (8 * n) * 256 := by rw [Nat.mul_succ, Nat.pow_add]
    rw [List.range_succ, List.foldl_append, ih, List.foldl_cons, List.foldl_nil, hpow, Nat.mod_mul, Nat.zero_div, Nat.zero_mod,
      if_neg (by decide), Nat.mul_comm (2 ^ (8 * n))]

/-- Bytes written in one place are what a home is asked to write. -/
theorem wrote_of_mem {s t : State} {pa n v : Nat} (h : t.mem = memWrite s.mem pa (leBytes v n)) : Wrote s t pa n v := by
  intro hs
  rw [h]
  refine ⟨fun a ha => ?_, memNat_memWrite hs pa v n⟩
  rw [memWrite_read _ _ _ _ hs, leBytes_length, if_neg (by omega)]

/-! What profiling counts change (R416). -/

/-- Counting changes the VFs' counters alone, and no key. -/
structure Counted (s t : State) : Prop where
  same : t = { s with vfs := t.vfs }
  key : ∀ k, keyVal t k = keyVal s k

theorem Counted.refl (s : State) : Counted s s := ⟨rfl, fun _ => rfl⟩

theorem Counted.trans {s t u : State} (h1 : Counted s t) (h2 : Counted t u) : Counted s u :=
  ⟨by rw [h2.same, h1.same], fun k => (h2.key k).trans (h1.key k)⟩

theorem updVf_counted (s : State) (v : Nat) (f : Vf → Vf) (hf : ∀ x, (f x).key = x.key) : Counted s (updVf s v f) := by
  refine ⟨rfl, fun k => ?_⟩
  cases k with
  | win w => rfl
  | vf u =>
    simp only [keyVal, updVf_vfs, tabGet_put]
    split
    · next e =>
      subst e
      rw [Option.bind_some, hf, getVf, tabGetD]
      cases tabGet s.vfs v <;> rfl
    · rfl

theorem prfAdd_counted (s : State) (vf kind die inst event n : Nat) : Counted s (prfAdd s vf kind die inst event n) := by
  unfold prfAdd
  simp only
  split
  · exact .refl s
  · split
    · exact .refl s
    · exact updVf_counted s vf _ fun _ => rfl

theorem pumpCount_counted (s : State) (vf pa ev n : Nat) : Counted s (pumpCount s vf pa ev n) := by
  unfold pumpCount
  split
  · exact prfAdd_counted ..
  · exact .refl s

theorem countRead_counted (s : State) (vf pa : Nat) (cmp : Bool) : Counted s (countRead s vf pa cmp) :=
  ((pumpCount_counted ..).trans (pumpCount_counted ..)).trans (pumpCount_counted ..)

theorem countWrite_counted (s0 s : State) (vf pa : Nat) (cmp ver partly : Bool) : Counted s (countWrite s0 s vf pa cmp ver partly) :=
  ((((pumpCount_counted ..).trans (pumpCount_counted ..)).trans (pumpCount_counted ..)).trans (pumpCount_counted ..)).trans
    (pumpCount_counted ..)

/-! The parts of an access. -/

/-- The access has the part. -/
def HasPart (t : State) (acc i : Nat) : Prop := ∃ a p, tabGet t.accs acc = some a ∧ tabGet a.parts i = some p

/-- Every access and every part is still there. -/
def PartsStay (s t : State) : Prop := ∀ acc i, HasPart s acc i → HasPart t acc i

theorem partDone_stay (s : State) (acc pa : Nat) (res : W128) (code : Nat) : PartsStay s (partDone s acc pa res code) := by
  rintro n i ⟨a, p, ha, hp⟩
  simp only [HasPart, partDone, tabGet_upd, ha]
  split
  · exact ⟨_, _, rfl, by rw [tabGet_map, hp]; rfl⟩
  · exact ⟨a, p, rfl, hp⟩

/-- What a write's tests of the wait tables change: accesses that they wake, and the tables. -/
structure Woken (s t : State) : Prop where
  same : t = { s with accs := t.accs, waits := t.waits }
  stay : PartsStay s t

theorem Woken.refl (s : State) : Woken s s := ⟨rfl, fun _ _ h => h⟩

theorem Woken.trans {s t u : State} (h1 : Woken s t) (h2 : Woken t u) : Woken s u :=
  ⟨by rw [h2.same, h1.same], fun acc i h => h2.stay acc i (h1.stay acc i h)⟩

theorem Woken.foldl {α : Type} {f : State → α → State} (hf : ∀ s x, Woken s (f s x)) (l : List α) (s : State) : Woken s (l.foldl f s) := by
  induction l generalizing s with
  | nil => exact .refl s
  | cons x l ih => exact (hf s x).trans (ih _)

theorem wakeWaits_woken (s : State) (pa n : Nat) : Woken s (wakeWaits s pa n) := by
  have hdone := Woken.foldl (f := fun t w => partDone t w.acc w.pa (BitVec.ofNat 128 (waitVal s w)) waWoken)
    (fun t w => ⟨rfl, partDone_stay t w.acc w.pa _ _⟩)
    (s.waits.filter fun w => decide (w.pa < pa + n) && decide (pa < w.pa + w.size) && waitHolds s w) s
  exact hdone.trans ⟨rfl, fun _ _ h => h⟩

theorem wakePieces_woken (s : State) (ps : Pieces) : Woken s (wakePieces s ps) :=
  Woken.foldl (f := fun t (p : Nat × List Byte) => wakeWaits t p.1 p.2.length) (fun t p => wakeWaits_woken t p.1 p.2.length) ps s

/-- Marking parts as performed changes accesses alone. -/
theorem partsDone_rest (s : State) (acc : Nat) (is : List Nat) : partsDone s acc is = { s with accs := (partsDone s acc is).accs } := by
  induction is generalizing s with
  | nil => rfl
  | cons i is ih => exact (ih _).trans rfl

/-- A part as `partsDone` marks it. -/
def performed (p : Part) : Part := { p with done := true, hold := .no }

theorem performed_eq {p : Part} (hd : p.done = true) (hh : p.hold = .no) : performed p = p := by
  rw [performed, ← hd, ← hh]

/-- The access once one of its parts is marked. -/
theorem partsDone_cons (s : State) (acc i : Nat) (is : List Nat) :
    partsDone s acc (i :: is) = partsDone { s with accs := tabUpd s.accs acc fun a => { a with parts := tabUpd a.parts i performed } } acc is :=
  rfl

/-- A part that is performed stays so while others are marked, and keeps its result. -/
theorem partsDone_keeps {s : State} {acc i : Nat} {r : Option Nat} (h : PartDone s acc i r) (is : List Nat) :
    PartDone (partsDone s acc is) acc i r := by
  induction is generalizing s with
  | nil => exact h
  | cons j is ih =>
    obtain ⟨a, p, ha, hp, hd, hh, hr⟩ := h
    rw [partsDone_cons]
    refine ih ⟨_, p, by rw [tabGet_upd, if_pos rfl, ha, Option.map_some], ?_, hd, hh, hr⟩
    rw [tabGet_upd, hp, Option.map_some, performed_eq hd hh, ite_self]

theorem partsDone_done {s : State} {acc i : Nat} {is : List Nat} (hi : i ∈ is) (h : HasPart s acc i) :
    PartDone (partsDone s acc is) acc i none := by
  induction is generalizing s with
  | nil => cases hi
  | cons j is ih =>
    obtain ⟨a, p, ha, hp⟩ := h
    have ha' : tabGet (tabUpd s.accs acc fun a => { a with parts := tabUpd a.parts j performed }) acc =
        some { a with parts := tabUpd a.parts j performed } := by rw [tabGet_upd, if_pos rfl, ha, Option.map_some]
    rw [partsDone_cons]
    by_cases hj : j = i
    · refine partsDone_keeps ⟨_, performed p, ha', ?_, rfl, rfl, fun _ h => by cases h⟩ is
      rw [tabGet_upd, if_pos hj, hp, Option.map_some]
    · exact ih ((List.mem_cons.mp hi).resolve_left (Ne.symm hj)) ⟨_, p, ha', by rw [tabGet_upd, if_neg hj, hp]⟩

/-! A home's reads and writes at an open place (R98, R107, R108). -/

/-- The checks of R107 and R108 on a well line, all passed. -/
structure LineFree (s : State) (line : Nat) (key : KeyId) : Prop where
  rekey : rekeying s key = false
  reenc : tabGet s.lines.reenc (groupOf line) = none
  clear : lineClear s line key = true
  sealed : sealOk s line key = true
  minor : (lineOf s line).minor < 127
  commit : commitLine s line = none
  poison : poisoned s (128 * line) 128 = false

/-- What the places that answer without a check, and the lines that pass theirs, have in common. -/
theorem openAt_cases {s : State} {key : KeyId} {pa n : Nat} (h : OpenAt s key pa n) : poisoned s pa n = false ∧
    ((∃ c r, placeOf s.pkg.id pa = .cistern c r) ∨ placeOf s.pkg.id pa = .host ∨
      (∃ d o, placeOf s.pkg.id pa = .well d o) ∧ LineFree s (pa / 128) key) := by
  obtain ⟨-, hline, hpoison, hplace⟩ := h
  refine ⟨hpoison, ?_⟩
  split at hplace
  · next c r e => exact .inl ⟨c, r, e⟩
  · next e => exact .inr (.inl e)
  · next d o e =>
    obtain ⟨h1, h2, h3, h4, h5, h6⟩ := hplace
    exact .inr (.inr ⟨⟨d, o, e⟩, ⟨h1, h2, h3, h4, h5, h6, hline⟩⟩)
  · cases hplace

/-- A read of an open place gives its bytes. -/
theorem pumpRead_open {s : State} {key : KeyId} {pa n : Nat} (h : OpenAt s key pa n) (snap : Option Nat) :
    pumpRead s key false snap pa n = .done s (memNat s.mem pa n) := by
  obtain ⟨hpoison, ⟨c, r, hp⟩ | hp | ⟨⟨d, o, hp⟩, hl⟩⟩ := openAt_cases h
  · simp [pumpRead, hp, hpoison]
  · simp [pumpRead, hp, hpoison]
  · simp [pumpRead, hp, hpoison, hl.rekey, hl.sealed, curNat, hl.commit, viewNat, hl.clear]

/-- The state with the pieces in their places: a line they cover is not poisoned any more (R30). -/
def piecesIn (s : State) (line : Nat) (ps : Pieces) : State :=
  if piecesMask line ps = BitVec.allOnes 128 then clearPoison (putPieces s ps) (128 * line) 128 else putPieces s ps

theorem piecesIn_wrote (s : State) (line : Nat) (ps : Pieces) : DeviceWrote s (piecesIn s line ps) := by
  unfold piecesIn
  split
  · exact (putPieces_wrote ps s).trans (clearPoison_wrote _ _ _)
  · exact putPieces_wrote ps s

theorem piecesIn_mem (s : State) (line : Nat) (ps : Pieces) : (piecesIn s line ps).mem = (putPieces s ps).mem := by
  unfold piecesIn
  split <;> rfl

theorem putPieces_rest (s : State) (ps : Pieces) : putPieces s ps = { s with mem := (putPieces s ps).mem } := by
  induction ps generalizing s with
  | nil => rfl
  | cons p ps ih => exact (ih _).trans rfl

/-- Everything but the poisoned words of a line stays where pieces are put. -/
theorem piecesIn_rest (s : State) (line : Nat) (ps : Pieces) :
    piecesIn s line ps = { s with mem := (putPieces s ps).mem, lines := { s.lines with poison := (piecesIn s line ps).lines.poison } } := by
  unfold piecesIn
  split
  · rw [clearPoison, putPieces_rest]
  · rw [putPieces_rest]

/-- A write at its home to a well line that passes its checks (R107 steps 4 to 9). -/
theorem pumpWrites_line {s : State} {key : KeyId} {pa d o : Nat} (hp : placeOf s.pkg.id pa = .well d o) (h : LineFree s (pa / 128) key)
    (cmp : Bool) (ps : Pieces) (own st : Option Nat) : pumpWrites s key false cmp pa ps own st =
      .done (wakePieces (sealLine (piecesIn s (pa / 128) ps) (pa / 128) key cmp false) ps) 0 := by
  have hminor : ¬ 127 ≤ (lineOf s (pa / 128)).minor := by have := h.minor; omega
  simp only [pumpWrites, hp, h.rekey, h.reenc, h.sealed, h.clear, h.poison, hminor, piecesIn, Option.isSome_none, Bool.or_self, Bool.not_true,
    Bool.and_false, Bool.false_and, Bool.false_eq_true, if_false, ge_iff_le, decide_false]
  by_cases hm : piecesMask (pa / 128) ps = BitVec.allOnes 128 <;> simp [hm]

/-- A write at its home to an open place stores the pieces, and seals a well line. -/
theorem pumpWrites_open {s : State} {key : KeyId} {pa n : Nat} (h : OpenAt s key pa n) (cmp : Bool) (ps : Pieces) (own st : Option Nat) :
    ∃ t, pumpWrites s key false cmp pa ps own st = .done (wakePieces t ps) 0 ∧ t.mem = (putPieces s ps).mem ∧
      t = { s with mem := t.mem, lines := t.lines } := by
  obtain ⟨-, ⟨c, r, hp⟩ | hp | ⟨⟨d, o, hp⟩, hl⟩⟩ := openAt_cases h
  · refine ⟨piecesIn s (pa / 128) ps, by simp only [pumpWrites, hp]; rfl, piecesIn_mem .., ?_⟩
    rw [piecesIn_rest]
  · refine ⟨piecesIn s (pa / 128) ps, by simp only [pumpWrites, hp]; rfl, piecesIn_mem .., ?_⟩
    rw [piecesIn_rest]
  · refine ⟨_, pumpWrites_line hp hl cmp ps own st, piecesIn_mem .., ?_⟩
    rw [piecesIn_rest]
    rfl

/-! Loads. -/

theorem l1Fill_rest (s : State) (core vf line : Nat) (data : BitVec 1024) :
    l1Fill s core vf line data = { s with cores := (l1Fill s core vf line data).cores } := by
  unfold l1Fill
  split <;> rfl

/-- A write of a part gives the access that part. -/
theorem setPart_get {s : State} {id : Nat} {a : Acc} (h : tabGet s.accs id = some a) (i : Nat) (p : Part) :
    tabGet (setPart s id i p).accs id = some { a with parts := tabPut a.parts i p } := by
  rw [setPart, tabGet_upd, if_pos rfl, h, Option.map_some]

/-- A load's part at an open place is performed with the bytes there. -/
theorem loadAt_open {s : State} {acc part : Nat} {a : Acc} {p : Part} (ha : tabGet s.accs acc = some a) (hver : p.ver = false)
    (hopen : OpenAt s p.key p.pa p.size) (hsize : p.size ≤ 16) (hdata : p.data2.toNat < 4) :
    PartDone (loadAt s acc part a p) acc part (some (memNat s.mem p.pa p.size)) ∧ (loadAt s acc part a p).mem = s.mem ∧
      (loadAt s acc part a p).groups = s.groups ∧ (loadAt s acc part a p).ctxs = s.ctxs := by
  have hval : overlayBytes p.size (p.data2.toNat / 4) p.data.toNat (memNat s.mem p.pa p.size) = memNat s.mem p.pa p.size := by
    rw [Nat.div_eq_of_lt hdata, overlayBytes_zero, Nat.mod_eq_of_lt (memNat_lt ..)]
  have hfit : memNat s.mem p.pa p.size < 2 ^ 128 := lt_of_lt_of_le (memNat_lt ..) (Nat.pow_le_pow_right (by decide) (by omega))
  unfold loadAt
  rw [hver, pumpRead_open hopen]
  simp only [hval]
  have hcount : ∀ b : Bool, Counted s (if b then countRead s (ctxVf a.ctx) p.pa p.cmp else s) := fun b => by
    split
    · exact countRead_counted ..
    · exact .refl s
  have hfill : ∀ (b : Bool) (t : State) (x : BitVec 1024), ∃ c,
      (if b then l1Fill t a.core (ctxVf a.ctx) (p.pa / 128) x else t) = { t with cores := c } := fun b t x => by
    split
    · exact ⟨_, l1Fill_rest ..⟩
    · exact ⟨t.cores, rfl⟩
  have h2 := (hcount (!(a.parts.any fun q => q.1 != part && q.2.done && q.2.pa / 128 == p.pa / 128 && q.2.va / 128 == p.va / 128))).same
  obtain ⟨c, h3⟩ := hfill _ _ _
  rw [h3, h2]
  refine ⟨⟨_, _, setPart_get (by exact ha) _ _, tabGet_put_same _ _ _, rfl, rfl, ?_⟩, rfl, rfl, rfl⟩
  rintro x ⟨⟩
  rw [BitVec.toNat_ofNat, Nat.mod_eq_of_lt hfit]

/-! Stores and atomics. -/

/-- What follows a write that a home has performed: wait tables and accesses, and profiling counts, which hold no key. -/
structure Followed (s t : State) : Prop where
  same : t = { s with accs := t.accs, waits := t.waits, vfs := t.vfs }
  key : ∀ k, keyVal t k = keyVal s k

theorem Followed.trans {s t u : State} (h1 : Followed s t) (h2 : Followed t u) : Followed s u :=
  ⟨by rw [h2.same, h1.same], fun k => (h2.key k).trans (h1.key k)⟩

theorem Woken.followed {s t : State} (h : Woken s t) : Followed s t := ⟨by rw [h.same], fun k => by rw [h.same]; cases k <;> rfl⟩

theorem Counted.followed {s t : State} (h : Counted s t) : Followed s t := ⟨by rw [h.same], h.key⟩

theorem partsDone_followed (s : State) (acc : Nat) (is : List Nat) : Followed s (partsDone s acc is) :=
  ⟨by rw [partsDone_rest], fun k => by rw [partsDone_rest]; cases k <;> rfl⟩

theorem Counted.partsStay {s t : State} (h : Counted s t) : PartsStay s t := fun acc i hp => by rw [h.same]; exact hp

theorem Followed.mem {s t : State} (h : Followed s t) : t.mem = s.mem := by rw [h.same]
theorem Followed.groups {s t : State} (h : Followed s t) : t.groups = s.groups := by rw [h.same]
theorem Followed.ctxs {s t : State} (h : Followed s t) : t.ctxs = s.ctxs := by rw [h.same]
theorem Followed.lines {s t : State} (h : Followed s t) : t.lines = s.lines := by rw [h.same]

theorem Followed.lineClear {s t : State} (h : Followed s t) (line : Nat) (k : KeyId) : lineClear t line k = lineClear s line k := by
  have hseal : sealNow t line k = sealNow s line k := by rw [sealNow, h.key, lineOf, h.lines]; rfl
  rw [Machine.lineClear, Machine.lineClear, hseal, lineOf, h.lines]
  rfl

/-- The parts of a store that go to a line are performed by the write of their pieces: `u` is the state with the pieces in their
places. -/
theorem storeAt_done {s u : State} {acc i : Nat} {a : Acc} {h : Part} {ps : Tab Part}
    (hw : pumpWrites s h.key h.ver h.cmp h.pa (groupPieces ((i, h) :: ps)) none none = .done (wakePieces u (groupPieces ((i, h) :: ps))) 0) :
    Followed u (storeAt s acc a ((i, h) :: ps)) ∧
    ∀ x ∈ (i, h) :: ps, HasPart u acc x.1 → PartDone (storeAt s acc a ((i, h) :: ps)) acc x.1 none := by
  simp only [storeAt, hw]
  have hwoken := wakePieces_woken u (groupPieces ((i, h) :: ps))
  have hcount := countWrite_counted s (wakePieces u (groupPieces ((i, h) :: ps))) (ctxVf a.ctx) h.pa h.cmp h.ver
    (piecesMask (h.pa / 128) (groupPieces ((i, h) :: ps)) != BitVec.allOnes 128)
  refine ⟨(hwoken.followed.trans hcount.followed).trans (partsDone_followed ..), fun x hx hpart => ?_⟩
  exact partsDone_done (List.mem_map_of_mem hx) (hcount.partsStay _ _ (hwoken.stay _ _ hpart))

/-- A store's part at an open place puts its datum there. -/
theorem storeAt_open {s : State} {acc part : Nat} {a : Acc} {p : Part} (ha : tabGet s.accs acc = some a) (hp : tabGet a.parts part = some p)
    (hopen : Open s p) : PartDone (storeAt s acc a [(part, p)]) acc part none ∧
      Wrote s (storeAt s acc a [(part, p)]) p.pa p.size p.data.toNat ∧
      (storeAt s acc a [(part, p)]).groups = s.groups ∧ (storeAt s acc a [(part, p)]).ctxs = s.ctxs := by
  obtain ⟨hver, hplace⟩ := hopen
  obtain ⟨u, hw, hmem, hrest⟩ := pumpWrites_open hplace p.cmp (groupPieces [(part, p)]) none none
  rw [← hver] at hw
  obtain ⟨hf, hdone⟩ := storeAt_done (a := a) (acc := acc) hw
  refine ⟨hdone _ List.mem_cons_self ?_, wrote_of_mem (hf.mem.trans hmem), ?_, ?_⟩
  · rw [hrest]
    exact ⟨a, p, ha, hp⟩
  · rw [hf.groups, hrest]
  · rw [hf.ctxs, hrest]

/-- The result of an atomic's part, as `atomAt` notes it. -/
def setRes (s : State) (acc i : Nat) (r : W128) : State :=
  { s with accs := tabUpd s.accs acc fun a => { a with parts := tabUpd a.parts i fun p => { p with res := r } } }

theorem partDone_setRes {s : State} {acc i : Nat} (h : HasPart s acc i) (r : W128) :
    PartDone (partsDone (setRes s acc i r) acc [i]) acc i (some r.toNat) := by
  obtain ⟨a, p, ha, hp⟩ := h
  refine ⟨{ a with parts := tabUpd (tabUpd a.parts i fun p => { p with res := r }) i performed }, performed { p with res := r },
    ?_, ?_, rfl, rfl, fun x hx => Option.some.inj hx⟩
  · rw [partsDone_cons]
    simp only [partsDone, List.foldl_nil, setRes, tabGet_upd, if_true, ha, Option.map_some]
  · simp only [tabGet_upd, if_true, hp, Option.map_some]

/-- An atomic that combines with no other gives the old bytes and stores its operation's value. -/
theorem atomAt_open {s : State} {acc part : Nat} {a : Acc} {p : Part} (ha : tabGet s.accs acc = some a) (hp : tabGet a.parts part = some p)
    (hopen : Open s p) (hsize : p.size ≤ 16) :
    PartDone (atomAt s acc a [(part, p)]) acc part (some (memNat s.mem p.pa p.size)) ∧
      Wrote s (atomAt s acc a [(part, p)]) p.pa p.size (aopApply a.ty a.op p.size (memNat s.mem p.pa p.size) p.data.toNat p.data2.toNat) ∧
      (atomAt s acc a [(part, p)]).groups = s.groups ∧ (atomAt s acc a [(part, p)]).ctxs = s.ctxs := by
  obtain ⟨hver, hplace⟩ := hopen
  have hfit : memNat s.mem p.pa p.size < 2 ^ 128 := lt_of_lt_of_le (memNat_lt ..) (Nat.pow_le_pow_right (by decide) (by omega))
  generalize hv : aopApply a.ty a.op p.size (memNat s.mem p.pa p.size) p.data.toNat p.data2.toNat = v
  obtain ⟨u, hw, hmem, hrest⟩ := pumpWrites_open hplace p.cmp [(p.pa, leBytes v p.size)] none none
  simp only [atomAt, hver, Bool.false_and, Bool.false_eq_true, if_false, pumpRead_open hplace, combineParts, hv, pumpWrite, hw,
    List.foldl_cons, List.foldl_nil, List.map_cons, List.map_nil]
  have hwoken := wakePieces_woken u [(p.pa, leBytes v p.size)]
  have hcount := (pumpCount_counted (wakePieces u [(p.pa, leBytes v p.size)]) (ctxVf a.ctx) p.pa 0 1).trans
    (countWrite_counted s _ (ctxVf a.ctx) p.pa p.cmp false true)
  generalize countWrite s _ _ _ _ _ _ = w at hcount ⊢
  have hf := hwoken.followed.trans hcount.followed
  have hpart : HasPart u acc part := by
    rw [hrest]
    exact ⟨a, p, ha, hp⟩
  refine ⟨?_, ?_, ?_, ?_⟩
  · have hdone := partDone_setRes (hcount.partsStay acc part (hwoken.stay acc part hpart)) (BitVec.ofNat 128 (memNat s.mem p.pa p.size))
    rwa [BitVec.toNat_ofNat, Nat.mod_eq_of_lt hfit] at hdone
  · refine wrote_of_mem ?_
    rw [partsDone_rest]
    exact hf.mem.trans hmem
  · rw [partsDone_rest]
    exact hf.groups.trans (by rw [hrest])
  · rw [partsDone_rest]
    exact hf.ctxs.trans (by rw [hrest])

/-! Sealing (R105 to R107) and re-encryption (R109). -/

/-- Counting up the tree of a key changes line counters alone. -/
theorem bumpTree_rest (s : State) (line : Nat) (k : KeyId) :
    bumpTree s line k = { s with lines := { s.lines with
      nodes := (bumpTree s line k).lines.nodes, macs := (bumpTree s line k).lines.macs,
      roots := tabPut s.lines.roots (rootAt k line) (tabGetD s.lines.roots (rootAt k line) 0 + 1) } } := rfl

/-- The next major counter of a group changes line metadata and counters alone. -/
theorem nextMajor_rest (s : State) (n : Nat) (k : KeyId) :
    nextMajor s n k = { s with lines := { s.lines with
      lines := tabMap s.lines.lines (fun m l => if groupOf m = n then reseal (tabGetD s.lines.majors n 0) l else l),
      nodes := (nextMajor s n k).lines.nodes, macs := (nextMajor s n k).lines.macs,
      roots := tabPut s.lines.roots (rootAt k (64 * n)) (tabGetD s.lines.roots (rootAt k (64 * n)) 0 + 1),
      majors := tabPut s.lines.majors n (tabGetD s.lines.majors n 0 + 1) } } := rfl


theorem sealLine_minor (s : State) (line : Nat) (k : KeyId) (cmp bad : Bool) :
    (lineOf (sealLine s line k cmp bad) line).minor = (lineOf s line).minor + 1 := by
  rw [lineOf, sealLine, tabGetD_put, if_pos rfl]

/-- A line is clear to readers under the key that it has just been sealed under. -/
theorem lineClear_sealLine (s : State) (line : Nat) (k : KeyId) (cmp bad : Bool) : lineClear (sealLine s line k cmp bad) line k = true := by
  have hkey : keyVal (sealLine s line k cmp bad) k = keyVal s k := by cases k <;> rfl
  simp only [lineClear, sealNow, hkey]
  simp only [lineOf, sealLine, tabGetD_put, if_true]
  exact beq_self_eq_true _

theorem sealLine_root (s : State) (line : Nat) (k : KeyId) (cmp bad : Bool) :
    tabGetD (sealLine s line k cmp bad).lines.roots (rootAt k line) 0 = tabGetD s.lines.roots (rootAt k line) 0 + 1 := by
  have hroots : (sealLine s line k cmp bad).lines.roots =
      tabPut s.lines.roots (rootAt k line) (tabGetD s.lines.roots (rootAt k line) 0 + 1) := rfl
  rw [hroots, tabGetD_put, if_pos rfl]

theorem keyVal_endReenc (s : State) (n : Nat) (k : KeyId) : keyVal (endReenc s n) k = keyVal s k := by
  unfold endReenc
  split <;> cases k <;> rfl

/-- The re-encryption of a group ends with its next major counter. -/
theorem endReenc_some {s : State} {n : Nat} {key : KeyId} (h : tabGet s.lines.reenc n = some key) :
    endReenc s n = { s with lines := { (nextMajor s n key).lines with reenc := tabDel s.lines.reenc n } } := by
  rw [endReenc, h]
  rfl

/-- A line of a re-encrypted group that was clear to a reader is clear under the next major counter. -/
theorem reseal_sealed {l : Line} {e : Seal} (h : l.sealed = some e) {m : Nat} (hm : e.major = m) (hn : e.minor = l.minor) (ht : e.tag = l.tag) :
    (reseal m l).sealed = some { e with major := m + 1, minor := 0 } := by
  simp [reseal, h, hm, hn, ht]

theorem lineOf_endReenc {s : State} {n : Nat} {key : KeyId} (h : tabGet s.lines.reenc n = some key) (m : Nat) :
    tabGet (endReenc s n).lines.lines m =
      (tabGet s.lines.lines m).map fun l => if groupOf m = n then reseal (tabGetD s.lines.majors n 0) l else l := by
  rw [endReenc_some h, nextMajor_rest, tabGet_map]

theorem lineClear_endReenc {s : State} {n : Nat} {key : KeyId} (h : tabGet s.lines.reenc n = some key) {m : Nat} {l : Line}
    (hl : tabGet s.lines.lines m = some l) (hm : groupOf m = n) {k : KeyId} (hc : lineClear s m k = true) :
    lineClear (endReenc s n) m k = true := by
  have hold : lineOf s m = l := by rw [lineOf, tabGetD, hl, Option.getD_some]
  have hnew : lineOf (endReenc s n) m = reseal (tabGetD s.lines.majors n 0) l := by
    rw [lineOf, tabGetD, lineOf_endReenc h, hl, Option.map_some, if_pos hm, Option.getD_some]
  have hmajor : tabGetD (endReenc s n).lines.majors n 0 = tabGetD s.lines.majors n 0 + 1 := by
    rw [endReenc_some h, nextMajor_rest, tabGetD_put, if_pos rfl]
  rw [lineClear, hold] at hc
  rw [lineClear, hnew]
  cases hs : l.sealed with
  | none => simp [reseal, hs]
  | some e =>
    rw [hs] at hc
    simp only [beq_iff_eq, sealNow, hold, hm] at hc
    subst hc
    rw [reseal_sealed hs rfl rfl rfl]
    simp only [beq_iff_eq, sealNow, hnew, hm, hmajor, keyVal_endReenc]
    rfl

theorem reencrypts_holds (s : State) (n : Nat) : reencrypts s n := by
  intro key h hf
  refine ⟨endReenc s n, event_running hf, ?_, ?_, ?_, ?_, fun m l hl hm => ⟨?_, fun k hc => lineClear_endReenc h hl hm hc⟩, fun m hm => ?_⟩
  · rw [endReenc_some h]
  · rw [endReenc_some h, tabGet_del, if_pos rfl]
  · rw [endReenc_some h, nextMajor_rest, tabGetD_put, if_pos rfl]
  · rw [endReenc_some h, nextMajor_rest, tabGetD_put, if_pos rfl]
  · rw [lineOf, tabGetD, lineOf_endReenc h, hl, Option.map_some, if_pos hm]
    rfl
  · rw [lineOf, tabGetD, lineOf_endReenc h]
    simp only [hm, if_false, Option.map_id']
    rfl

/-! The steps of banks and pumps. -/

/-- A part that is due runs through `onPart`. -/
theorem onPart_due {s : State} {acc part : Nat} {a : Acc} {p : Part} (h : Due s acc part a p) (f : Acc → Part → State) :
    onPart s acc part f = f a p := by
  obtain ⟨ha, hp, hpend, hwait, hblock⟩ := h
  simp [onPart, ha, hp, hpend, hwait, hblock]

theorem atBank_home {s : State} {p : Part} (h : atBank s p = true) :
    linkPart s p = false ∧ ((∃ c, p.home = .bank c) ∨ p.home = .host) := by
  simp only [atBank, Bool.and_eq_true, Bool.not_eq_true'] at h
  refine ⟨h.1, ?_⟩
  have hhome := h.2
  split at hhome
  · next c e => exact .inl ⟨c, e⟩
  · next e => exact .inr e
  · cases hhome

/-- What a due part at a bank or at the host comes to. -/
theorem exec_bankAccess {s : State} {acc part : Nat} {a : Acc} {p : Part} (hf : s.pkg.frozen = false) (h : Due s acc part a p)
    (hb : atBank s p = true) : exec (.bankAccess acc part) s = .next (
      if isLoad a.kind then loadAt s acc part a p
      else if isStore a.kind then storeAt s acc a [(part, p)]
      else if isAtom a.kind then
        if (atomGroup a part p).any (fun q => partBlocked s acc a q.2) then s else atomAt s acc a (atomGroup a part p)
      else s) := by
  obtain ⟨hlink, ⟨c, hhome⟩ | hhome⟩ := atBank_home hb <;>
    simp only [exec, execBankAccess, event_running hf, onPart_due h, hhome, hlink, Bool.false_eq_true, if_false]

theorem isStore_not_load {k : AccKind} (h : isStore k = true) : isLoad k = false := by cases k <;> first | rfl | cases h
theorem isAtom_not_load {k : AccKind} (h : isAtom k = true) : isLoad k = false := by cases k <;> first | rfl | cases h
theorem isAtom_not_store {k : AccKind} (h : isAtom k = true) : isStore k = false := by cases k <;> first | rfl | cases h

theorem bankSteps_holds : bankSteps := by
  refine ⟨fun s acc part a p h hb hopen hsize hk hdata hf => ?_, fun s acc part a p h hb hopen _ hsize hk hgroup hf => ?_,
    fun s acc part a p h hb hopen _ _ hk hf => ?_⟩
  all_goals obtain ⟨ha, hp, -, -, hblock⟩ := id h
  · refine ⟨_, exec_bankAccess hf h hb, ?_⟩
    rw [if_pos hk]
    exact loadAt_open ha hopen.1 hopen.2 hsize hdata
  · refine ⟨_, exec_bankAccess hf h hb, ?_⟩
    simp only [isAtom_not_load hk, isAtom_not_store hk, hk, hgroup, hblock, List.any_cons, List.any_nil, Bool.or_false,
      Bool.false_eq_true, if_false, if_true]
    exact atomAt_open ha hp hopen hsize
  · refine ⟨_, exec_bankAccess hf h hb, ?_⟩
    simp only [isStore_not_load hk, hk, Bool.false_eq_true, if_false, if_true]
    exact storeAt_open ha hp hopen

/-- The parts that a store sends to a line lie in it, and are of one key. -/
theorem lineGroup_cons {a : Acc} {line i : Nat} {h : Part} {ps : Tab Part} (he : lineGroup a line = (i, h) :: ps) :
    ∀ x ∈ (i, h) :: ps, x.2.pa / 128 = line ∧ x.2.key = h.key := by
  have hkey : ∃ k : KeyId, ∀ x ∈ (i, h) :: ps, x.2.pa / 128 = line ∧ x.2.key = k := by
    rw [← he]
    unfold lineGroup
    split
    · exact ⟨.vf 0, fun x hx => by cases hx⟩
    · next y _ =>
      refine ⟨y.2.key, fun x hx => ?_⟩
      have hx2 := (List.mem_filter.mp hx).2
      simp only [Bool.and_eq_true, beq_iff_eq] at hx2
      obtain ⟨⟨⟨⟨-, hline⟩, hkey⟩, -⟩, -⟩ := hx2
      exact ⟨hline, hkey⟩
  obtain ⟨k, hk⟩ := hkey
  exact fun x hx => ⟨(hk x hx).1, (hk x hx).2.trans (hk _ List.mem_cons_self).2.symm⟩

/-- The pump's step on the parts of a line that are due: a full write where they cover the line, a partial one where not. -/
theorem exec_pumpWrite {s : State} {acc line : Nat} {a : Acc} {ps : Tab Part} (hf : s.pkg.frozen = false) (h : LineDue s acc line a ps) :
    exec (if piecesMask line (groupPieces ps) == BitVec.allOnes 128 then .pumpFullWrite acc line else .pumpPartialWrite acc line) s =
      .next (storeAt s acc a ps) := by
  obtain ⟨ha, hk, hgroup, -, hdue⟩ := h
  have hall : (ps.all fun p => atPump p.2 && !waitsOwn p.2.hold && !partBlocked s acc a p.2) = true := by
    refine List.all_eq_true.mpr fun x hx => ?_
    obtain ⟨hpump, hwait, hblock, -⟩ := hdue x hx
    rw [hpump, hwait, hblock]
    rfl
  have hstep : ∀ full, (piecesMask line (groupPieces ps) == BitVec.allOnes 128) = full → pumpStore s acc line full = storeAt s acc a ps := by
    intro full hfull
    have hcond : (isStore a.kind && (ps.all fun p => atPump p.2 && !waitsOwn p.2.hold && !partBlocked s acc a p.2) &&
        (piecesMask line (groupPieces ps) == BitVec.allOnes 128) == full) = true := by
      rw [hk, hall, hfull, beq_self_eq_true]
      rfl
    simp only [pumpStore, ha, hgroup]
    exact if_pos hcond
  cases hw : piecesMask line (groupPieces ps) == BitVec.allOnes 128
  · exact (event_running hf).trans (congrArg _ (hstep false hw))
  · exact (event_running hf).trans (congrArg _ (hstep true hw))

/-- A store's line at its pump. -/
theorem pumpStores_holds {s : State} {acc line : Nat} {a : Acc} {ps : Tab Part} (h : LineDue s acc line a ps) :
    Leaves (if piecesMask line (groupPieces ps) == BitVec.allOnes 128 then .pumpFullWrite acc line else .pumpPartialWrite acc line) s fun t =>
      (∀ x ∈ ps, PartDone t acc x.1 none) ∧ (∀ b, memByte t.mem b = memByte (putPieces s (groupPieces ps)).mem b) ∧
      (lineOf t line).minor = (lineOf s line).minor + 1 ∧ t.groups = s.groups ∧ t.ctxs = s.ctxs ∧
      ∀ x ∈ ps, lineClear t line x.2.key = true ∧
        tabGetD t.lines.roots (rootAt x.2.key line) 0 = tabGetD s.lines.roots (rootAt x.2.key line) 0 + 1 := by
  intro hf
  refine ⟨_, exec_pumpWrite hf h, ?_⟩
  obtain ⟨ha, -, hgroup, hne, hdue⟩ := h
  cases ps with
  | nil => exact absurd rfl hne
  | cons y ps =>
    obtain ⟨i, h⟩ := y
    have hline := lineGroup_cons hgroup
    obtain ⟨rfl, -⟩ := hline _ List.mem_cons_self
    obtain ⟨-, -, -, ⟨hver, hopen⟩, -, ⟨d, o, hwell⟩, -⟩ := hdue _ List.mem_cons_self
    have hfree : LineFree s (h.pa / 128) h.key := by
      obtain ⟨-, ⟨c, r, hp⟩ | hp | ⟨-, hl⟩⟩ := openAt_cases hopen
      · rw [hwell] at hp
        cases hp
      · rw [hwell] at hp
        cases hp
      · exact hl
    have hw := pumpWrites_line hwell hfree h.cmp (groupPieces ((i, h) :: ps)) none none
    rw [← hver] at hw
    obtain ⟨hfol, hdone⟩ := storeAt_done (a := a) (acc := acc) hw
    have hin := piecesIn_rest s (h.pa / 128) (groupPieces ((i, h) :: ps))
    have hkept : (lineOf (piecesIn s (h.pa / 128) (groupPieces ((i, h) :: ps))) (h.pa / 128)) = lineOf s (h.pa / 128) := by
      rw [lineOf, hin]
      rfl
    refine ⟨fun x hx => hdone x hx ?_, fun b => ?_, ?_, ?_, ?_, fun x hx => ?_⟩
    · obtain ⟨-, -, -, -, -, -, hpart⟩ := hdue x hx
      exact ⟨a, x.2, by rw [(sealLine_wrote _ _ _ _ _).same, hin]; exact ha, hpart⟩
    · rw [hfol.mem]
      exact congrArg (memByte · b) (piecesIn_mem _ _ _)
    · rw [lineOf, hfol.lines]
      exact (sealLine_minor ..).trans (by rw [hkept])
    · rw [hfol.groups, (sealLine_wrote _ _ _ _ _).same, hin]
    · rw [hfol.ctxs, (sealLine_wrote _ _ _ _ _).same, hin]
    · obtain ⟨-, hkey⟩ := hline x hx
      rw [hkey, hfol.lineClear, hfol.lines, sealLine_root, hin]
      exact ⟨lineClear_sealLine .., rfl⟩

theorem pumpSteps_holds : pumpSteps := by
  refine ⟨fun s acc part a p h hb hopen hsize hk hdata hf => ?_, fun s acc part a p h hb hopen _ hsize hk hgroup hf => ?_,
    fun s acc line a ps h => pumpStores_holds h⟩
  all_goals obtain ⟨ha, hp, -, hwait, hblock⟩ := id h
  · refine ⟨loadAt s acc part a p, ?_, loadAt_open ha hopen.1 hopen.2 hsize hdata⟩
    simp only [exec, execPumpRead, event_running hf, onPart_due h, hb, hk, Bool.and_self, if_true]
  · refine ⟨atomAt s acc a [(part, p)], ?_, atomAt_open ha hp hopen hsize⟩
    simp [exec, execPumpAtomic, event_running hf, onPart_due h, hb, hk, hgroup, hwait, hblock]

/-- Settles O32: at an open place every check of R107 and R108 passes, so that a bank or pump reads or writes the bytes there, and
what follows the write changes neither memory nor the line; re-encryption re-seals the lines of its group one by one. -/
theorem homesPerformAccesses : Obligations.HomesPerformAccesses := ⟨bankSteps_holds, pumpSteps_holds, reencrypts_holds⟩



/-! Re-encryption and re-keying (R109, R112): what the next major counter and the counters above it leave. -/

/-- What is left of a table without the keys that a test picks. -/
theorem tabGet_filter {α : Type} (q : Nat → Bool) (t : Tab α) (j : Nat) :
    tabGet (t.filter fun x => q x.1) j = if q j then tabGet t j else none := by
  induction t with
  | nil => simp
  | cons e t ih =>
    obtain ⟨k, x⟩ := e
    simp only [List.filter_cons, tabGet_cons]
    by_cases hk : k = j
    · subst hk
      by_cases hq : q k = true <;> simp [hq, ih, tabGet_cons]
    · by_cases hq : q k = true <;> simp [hq, ih, tabGet_cons, hk]

/-- Erased root counters read zero on every die. -/
theorem setRoot_root (s : State) (key : KeyId) (h : rootOf key < 2048) (line : Nat) :
    tabGetD (setRoot s (rootOf key)).lines.roots (rootAt key line) 0 = 0 := by
  have hmod : rootAt key line % 2048 = rootOf key := by rw [rootAt]; omega
  have hroots : (setRoot s (rootOf key)).lines.roots = s.lines.roots.filter fun r => r.1 % 2048 != rootOf key := rfl
  rw [tabGetD, hroots, tabGet_filter (fun k => k % 2048 != rootOf key)]
  simp [hmod]

/-- A window slot that is re-keyed is there, and has a key of its own. -/
theorem getWin_some {s : State} {w : Nat} (h : (getWin s w).state ≠ .empty) : tabGet s.wins w = some (getWin s w) := by
  unfold getWin tabGetD at h ⊢
  cases hw : tabGet s.wins w with
  | none => rw [hw] at h; exact absurd rfl h
  | some x => rfl

/-- What REKEY_LINE leaves of a line beside its seal: minor counter 0, and no fault. -/
def rekeyedLine (s : State) (w n : Nat) : Line := { lineOf (nextMajor s (groupOf n) (.win w)) n with minor := 0, bad := false }

/-- The lines once the line has moved to its group's next major counter. -/
def rekeyed (s : State) (w n : Nat) : State :=
  { s with lines := { (nextMajor s (groupOf n) (.win w)).lines with
    lines := tabPut (nextMajor s (groupOf n) (.win w)).lines.lines n (rekeyedLine s w n) } }

/-- The lines once the line is sealed anew. -/
def rekeyedLines (s : State) (w n : Nat) : LineSt :=
  { (rekeyed s w n).lines with
    lines := tabPut (rekeyed s w n).lines.lines n { rekeyedLine s w n with sealed := some (sealNow (rekeyed s w n) n (.win w)) } }

/-- The slot with one line less to rewrite. -/
def rekeyedWin (x : Win) (n : Nat) : Win :=
  { x with todo := x.todo.filter (· != n), state := if (x.todo.filter (· != n)).isEmpty then .active else .rekeying }

/-- REKEY_LINE on a line that is still to be rewritten. -/
theorem exec_rekeyLine {s : State} {w n : Nat} (hf : s.pkg.frozen = false) (hs : (getWin s w).state = .rekeying)
    (hn : (getWin s w).todo.contains n = true) :
    exec (.rekeyLine w n) s = .next { s with lines := rekeyedLines s w n, wins := tabPut s.wins w (rekeyedWin (getWin s w) n) } := by
  simp only [exec, execRekeyLine, event_running hf, hs, hn, and_self, if_true]
  rfl

theorem rekeyedLines_majors (s : State) (w n : Nat) :
    (rekeyedLines s w n).majors = tabPut s.lines.majors (groupOf n) (tabGetD s.lines.majors (groupOf n) 0 + 1) := rfl

/-- A re-keyed line is clear to the window's readers: it is sealed under the slot's key and the counters as they stand. -/
theorem lineClear_rekeyed {s : State} {w : Nat} (hw : tabGet s.wins w = some (getWin s w)) (n : Nat) :
    lineClear { s with lines := rekeyedLines s w n, wins := tabPut s.wins w (rekeyedWin (getWin s w) n) } n (.win w) = true := by
  have hline : tabGetD (rekeyedLines s w n).lines n Line.reset =
      { rekeyedLine s w n with sealed := some (sealNow (rekeyed s w n) n (.win w)) } := by simp [rekeyedLines, tabGetD_put]
  have hold : tabGetD (rekeyed s w n).lines.lines n Line.reset = rekeyedLine s w n := by simp [rekeyed, tabGetD_put]
  have hwin : tabGet (rekeyed s w n).wins w = some (getWin s w) := hw
  simp only [lineClear, lineOf, hline, beq_iff_eq]
  simp only [sealNow, lineOf, hline, hold, keyVal, hwin, tabGet_put_same, rekeyedWin, Option.bind_some]
  rfl

theorem rekeyLine_holds {s : State} {w n : Nat} (hs : (getWin s w).state = .rekeying) (hn : (getWin s w).todo.contains n = true) :
    Leaves (.rekeyLine w n) s fun t =>
      t = { s with wins := t.wins, lines := t.lines } ∧ lineClear t n (.win w) = true ∧
      tabGetD t.lines.majors (groupOf n) 0 = tabGetD s.lines.majors (groupOf n) 0 + 1 ∧
      let left := (getWin s w).todo.filter (· != n)
      getWin t w = { getWin s w with todo := left, state := if left.isEmpty then .active else .rekeying } := by
  intro hf
  have hw : tabGet s.wins w = some (getWin s w) := getWin_some (by rw [hs]; decide)
  refine ⟨_, exec_rekeyLine hf hs hn, rfl, lineClear_rekeyed hw n, ?_, ?_⟩
  · rw [rekeyedLines_majors, tabGetD_put, if_pos rfl]
  · simp only [getWin, tabGetD_put, if_true]; rfl

/-- The window key commands: each acts in its own state of the slot and leaves every other alone. -/
theorem windowKeys_holds (s : State) (w : Nat) : windowKeys s w := by
  unfold windowKeys
  intro staged x put hw
  refine ⟨fun hx hf => ?_, fun hx more hf => ?_, fun hx hf => ?_, fun hx hf => ?_, fun hx => ⟨fun more hf => ?_, fun hf => ?_⟩,
    fun hx n hn => rekeyLine_holds hx hn⟩
  · simp only [exec, execWkeyLoad, event_running hf]
    rw [if_pos ⟨hw, hx⟩]; rfl
  · simp only [exec, execWkeyRekey, event_running hf]
    rw [if_pos ⟨hw, hx⟩]; rfl
  · simp only [exec, execWkeyClear, event_running hf]
    rw [if_pos ⟨hw, hx⟩]; rfl
  · simp only [exec, execWkeyLoad, event_running hf]
    rw [if_neg fun h => hx h.2]
  · simp only [exec, execWkeyRekey, event_running hf]
    rw [if_neg fun h => hx h.2]
  · simp only [exec, execWkeyClear, event_running hf]
    rw [if_neg fun h => hx h.2]

@[simp] theorem getVf_setRoot (s : State) (root v : Nat) : getVf (setRoot s root) v = getVf s v := rfl
@[simp] theorem getVf_takeKey (s : State) (v : Nat) : getVf (takeKey s) v = getVf s v := rfl

/-- A VF all of whose contexts are EMPTY: none is in the table. -/
def vfIdle (s : State) (v : Nat) : Prop := ∀ c ∈ s.ctxs, c.1 / 16 ≠ v

/-- What refuses a VF's key commands. -/
theorem vfKey_refused {s : State} {v : Nat} (hv : v < 384) : (decide (v ≥ 384) || s.ctxs.any (fun c => ctxVf c.1 == v)) = true ↔ ¬ vfIdle s v := by
  simp [vfIdle, ctxVf, Nat.not_le.mpr hv]

theorem exec_vfKeyLoad {s : State} {v : Nat} (hv : v < 384) (hf : s.pkg.frozen = false) [Decidable (vfIdle s v)] :
    exec (.vfKeyLoad v) s = .next (if vfIdle s v then
      takeKey (setRoot (updVf s v fun x => { x with key := some (stagedKey s) }) (rootOf (.vf v))) else s) := by
  simp only [exec, execVfKeyLoad, event_running hf, vfKey_refused hv, ite_not]

theorem exec_vfKeyClear {s : State} {v : Nat} (hv : v < 384) (hf : s.pkg.frozen = false) [Decidable (vfIdle s v)] :
    exec (.vfKeyClear v) s = .next (if vfIdle s v then setRoot (updVf s v fun x => { x with key := none }) (rootOf (.vf v)) else s) := by
  simp only [exec, execVfKeyClear, event_running hf, vfKey_refused hv, ite_not]

theorem vfKeys_holds (s : State) (v : Nat) : vfKeys s v := by
  classical
  intro hv
  have hroot : rootOf (.vf v) < 2048 := by rw [rootOf]; omega
  refine ⟨fun (hidle : vfIdle s v) => ⟨fun hf => ?_, fun hf => ?_⟩, fun ⟨c, hc, hcv⟩ => ?_⟩
  · have he := exec_vfKeyLoad hv hf
    rw [if_pos hidle] at he
    exact ⟨_, he, by simp [getVf_updVf], rfl, setRoot_root _ _ hroot, rfl⟩
  · have he := exec_vfKeyClear hv hf
    rw [if_pos hidle] at he
    exact ⟨_, he, by simp [getVf_updVf], setRoot_root _ _ hroot, rfl⟩
  · have hbusy : ¬ vfIdle s v := fun h => h c hc hcv
    exact ⟨fun hf => (exec_vfKeyLoad hv hf).trans (by rw [if_neg hbusy]), fun hf => (exec_vfKeyClear hv hf).trans (by rw [if_neg hbusy])⟩

/-- Settles O33: each command is one write of the slot or of the VF's key, refused where the state says so, and a re-keyed line is
sealed under the new key. -/
theorem keyCommands : Obligations.KeyCommands := fun s w v => ⟨windowKeys_holds s w, vfKeys_holds s v⟩

end Sys2Proof.Proofs.Memory

namespace Sys2Proof.Proofs.Memory

open Sys2Proof Sys2Proof.Machine Sys2Proof.Claims Sys2Proof.Proofs.Device

/-! Memory keeps its form (O58). A step reaches its next state through functions that answer with a state, or with a state
beside something else; a predicate for each kind of answer says that memory has its form in every state the answer holds.
Each function of the model then has one lemma, in the order of the model's files: from a state whose memory has the form it
gives an answer whose memory does. Memory itself changes only where bytes are written, cleared, filtered or merged. -/

def OutInv : Out → Prop
  | .ok t | .fault t _ _ | .wait t => MemInv t

def PumpInv : PumpRes → Prop
  | .done t _ | .stall t _ => MemInv t
  | .fault _ => True

def FilledInv : Filled → Prop
  | .absent _ => True
  | .bad t _ | .leaf t _ => MemInv t

def XlInv : XRes → Prop
  | .ok t _ | .fault t _ | .absent t _ => MemInv t

def ErInv {α : Type} : ER α → Prop
  | .ok t _ | .stall t _ | .absent t _ _ _ | .fail t _ _ _ _ => MemInv t

/-- An engine operation's answer: the value of `.ok` is itself the state that is kept. -/
def OpInv : ER State → Prop
  | .ok _ t | .stall t _ | .absent t _ _ _ | .fail t _ _ _ _ => MemInv t

def AppendInv : Append → Prop
  | .ok t | .reject t => MemInv t

def ReplayedInv : Replayed → Prop
  | .ok t _ | .fault t _ => MemInv t

def ResInv : Res → Prop
  | .ok t _ | .fault t _ _ | .wait t | .park t _ | .unit t => MemInv t

def ApsInv : APs → Prop
  | .ok t _ | .fault t _ _ => MemInv t
  | .stall => True

def OptInv : Option State → Prop
  | some t => MemInv t
  | none => True

def OptFstInv {α : Type} : Option (State × α) → Prop
  | some t => MemInv t.1
  | none => True

def ExcInv : Except State State → Prop
  | .ok t | .error t => MemInv t

def ExcFstInv {ε α : Type} : Except ε (State × α) → Prop
  | .ok t => MemInv t.1
  | .error _ => True

def NextInv : Host.Outcome State Fault Refusal → Prop
  | .next t => MemInv t
  | _ => True

variable {s t : State}

theorem memInv_foldl {α : Type} {f : State → α → State} {l : List α} (hf : ∀ u x, MemInv u → MemInv (f u x)) (h : MemInv s) :
    MemInv (l.foldl f s) :=
  List.foldlRecOn _ _ h (fun u hu x _ => hf u x hu)

theorem memInv_ite {p : Prop} {_ : Decidable p} (h1 : MemInv s) (h2 : MemInv t) : MemInv (if p then s else t) := by
  split
  · exact h1
  · exact h2

/-! What a case of an answer says of its state. -/

theorem OutInv.ok {o : Out} (e : o = .ok t) (h : OutInv o) : MemInv t := by subst e; exact h
theorem OutInv.fault {o : Out} {c a : Nat} (e : o = .fault t c a) (h : OutInv o) : MemInv t := by subst e; exact h
theorem OutInv.wait {o : Out} (e : o = .wait t) (h : OutInv o) : MemInv t := by subst e; exact h
theorem PumpInv.done {r : PumpRes} {d : Nat} (e : r = .done t d) (h : PumpInv r) : MemInv t := by subst e; exact h
theorem PumpInv.stall {r : PumpRes} {x : Hold} (e : r = .stall t x) (h : PumpInv r) : MemInv t := by subst e; exact h
theorem FilledInv.bad {r : Filled} {c : Nat} (e : r = .bad t c) (h : FilledInv r) : MemInv t := by subst e; exact h
theorem FilledInv.leaf {r : Filled} {x : TlbEnt} (e : r = .leaf t x) (h : FilledInv r) : MemInv t := by subst e; exact h
theorem XlInv.ok {r : XRes} {x : Xl} (e : r = .ok t x) (h : XlInv r) : MemInv t := by subst e; exact h
theorem XlInv.fault {r : XRes} {c : Nat} (e : r = .fault t c) (h : XlInv r) : MemInv t := by subst e; exact h
theorem XlInv.absent {r : XRes} {l : Nat} (e : r = .absent t l) (h : XlInv r) : MemInv t := by subst e; exact h
theorem AppendInv.ok {r : Append} (e : r = .ok t) (h : AppendInv r) : MemInv t := by subst e; exact h
theorem AppendInv.reject {r : Append} (e : r = .reject t) (h : AppendInv r) : MemInv t := by subst e; exact h
theorem ReplayedInv.ok {r : Replayed} {ps : List Part} (e : r = .ok t ps) (h : ReplayedInv r) : MemInv t := by
  subst e
  exact h
theorem ReplayedInv.fault {r : Replayed} {c : Nat} (e : r = .fault t c) (h : ReplayedInv r) : MemInv t := by
  subst e
  exact h
theorem ResInv.ok {r : Res} {n : Notes} (e : r = .ok t n) (h : ResInv r) : MemInv t := by subst e; exact h
theorem ApsInv.ok {r : APs} {ps : List Part} (e : r = .ok t ps) (h : ApsInv r) : MemInv t := by subst e; exact h
theorem ApsInv.fault {r : APs} {c v : Nat} (e : r = .fault t c v) (h : ApsInv r) : MemInv t := by subst e; exact h
theorem OptInv.some {o : Option State} (e : o = .some t) (h : OptInv o) : MemInv t := by subst e; exact h
theorem OptFstInv.some {α : Type} {x : α} {o : Option (State × α)} (e : o = .some (t, x)) (h : OptFstInv o) : MemInv t := by
  subst e
  exact h
theorem ExcInv.ok {r : Except State State} (e : r = .ok t) (h : ExcInv r) : MemInv t := by subst e; exact h
theorem ExcInv.error {r : Except State State} (e : r = .error t) (h : ExcInv r) : MemInv t := by subst e; exact h
theorem ExcFstInv.ok {ε α : Type} {x : α} {r : Except ε (State × α)} (e : r = .ok (t, x)) (h : ExcFstInv r) : MemInv t := by
  subst e
  exact h
theorem memInv_fst {α : Type} {p : State × α} {x : α} (e : p = (t, x)) (h : MemInv p.1) : MemInv t := by
  subst e
  exact h
theorem memInv_snd {α : Type} {p : α × State} {x : α} (e : p = (x, t)) (h : MemInv p.2) : MemInv t := by
  subst e
  exact h
theorem outInv_fst {α : Type} {p : Out × α} {o : Out} {x : α} (e : p = (o, x)) (h : OutInv p.1) : OutInv o := by
  subst e
  exact h

/-! The frames that the model's functions share. -/

theorem event_memInv (h : MemInv s) (ht : MemInv t) : NextInv (event s t) := by
  unfold event
  split
  · exact h
  · exact ht

theorem putBytes_memInv {a : Nat} {bs : List Byte} (h : MemInv s) : MemInv (putBytes s a bs) := memWrite_wf bs s.mem a h

theorem ER_bind_memInv {α β : Type} {r : ER α} {f : State → α → ER β} (h : ErInv r) (hf : ∀ u x, MemInv u → ErInv (f u x)) :
    ErInv (r.bind f) := by
  cases r with
  | ok s x => exact hf s x h
  | stall | absent | fail => exact h

theorem ER_bind_opInv {α : Type} {r : ER α} {f : State → α → ER State} (h : ErInv r) (hf : ∀ u x, MemInv u → OpInv (f u x)) :
    OpInv (r.bind f) := by
  cases r with
  | ok s x => exact hf s x h
  | stall | absent | fail => exact h

theorem outInv_ite {p : Prop} {_ : Decidable p} {o q : Out} (h1 : OutInv o) (h2 : OutInv q) : OutInv (if p then o else q) := by
  
  split
  · exact h1
  · exact h2

theorem elim_memInv {α : Type} {o : Option α} {f : α → State} (h : MemInv s) (hf : ∀ x, o = some x → MemInv (f x)) :
    MemInv (o.elim s f) := by
  cases o with
  | none => exact h
  | some x => exact hf x rfl

theorem map_optFstInv {α : Type} {o : Option State} {x : α} (h : OptInv o) : OptFstInv (o.map (fun u => (u, x))) := by
  cases o with
  | none => trivial
  | some u => exact h

theorem bind_optInv {α : Type} {o : Option α} {f : α → Option State} (hf : ∀ x, o = some x → OptInv (f x)) :
    OptInv (o.bind f) := by
  cases o with
  | none => trivial
  | some x => exact hf x rfl

section

variable {s : State}

/-! Homes of memory. -/

theorem wakeWaits_memInv {pa n : Nat} (h : MemInv s) : MemInv (wakeWaits s pa n) := by
  unfold wakeWaits
  extract_lets
  exact memInv_foldl (fun _ _ hu => hu) h

theorem newVersion_memInv {k : KeyId} {line stamp : Nat} (h : MemInv s) : OptInv (newVersion s k line stamp) := by
  unfold newVersion
  extract_lets
  split
  · trivial
  · exact h

theorem putPieces_memInv {ps : Pieces} (h : MemInv s) : MemInv (putPieces s ps) :=
  memInv_foldl (fun _ _ hu => putBytes_memInv hu) h

theorem wakePieces_memInv {ps : Pieces} (h : MemInv s) : MemInv (wakePieces s ps) :=
  memInv_foldl (fun _ _ hu => wakeWaits_memInv hu) h

theorem endReenc_memInv {grp : Nat} (h : MemInv s) : MemInv (endReenc s grp) := by
  unfold endReenc
  split <;> exact h

theorem pumpWrites_memInv {key : KeyId} {ver cmp : Bool} {pa : Nat} {ps : Pieces} {own stampAt : Option Nat} (h : MemInv s) :
    PumpInv (pumpWrites s key ver cmp pa ps own stampAt) := by
  unfold pumpWrites
  split
  case h_1 | h_2 | h_3 =>
    extract_lets s1
    have hs1 : MemInv s1 := putPieces_memInv h
    exact wakePieces_memInv (memInv_ite hs1 hs1)
  · extract_lets _ _ _ _ s1
    have hs1 : OptInv s1 := by
      unfold s1
      split
      · exact newVersion_memInv h
      · exact h
    split
    · exact h
    split
    · trivial
    split
    · trivial
    split
    · exact h
    split
    · trivial
    split
    · exact h
    clear_value s1
    split
    · exact h
    extract_lets s3 s4
    have hs3 : MemInv s3 := by
      unfold s3
      refine putPieces_memInv ?_
      split
      · exact putBytes_memInv hs1
      · exact hs1
    refine wakePieces_memInv ?_
    unfold s4
    split <;> exact hs3
  · trivial

theorem pumpWrite_memInv {key : KeyId} {ver cmp : Bool} {pa : Nat} {bs : List Byte} {own stampAt : Option Nat} (h : MemInv s) :
    PumpInv (pumpWrite s key ver cmp pa bs own stampAt) := pumpWrites_memInv h

theorem pumpRead_memInv {key : KeyId} {ver : Bool} {snap : Option Nat} {pa n : Nat} (h : MemInv s) :
    PumpInv (pumpRead s key ver snap pa n) := by
  unfold pumpRead
  split
  case h_1 | h_2 | h_3 =>
    split
    · trivial
    · exact h
  · extract_lets _ home
    split
    · exact h
    split
    · trivial
    split
    · split
      · exact h
      split
      · exact h
      split
      · unfold home
        split
        · trivial
        · exact h
      split
      · trivial
      split
      · trivial
      · exact h
    unfold home
    split
    · trivial
    · exact h
  · trivial

theorem farAsk_memInv {owner ck : Nat} {key : KeyId} {cmp : Bool} {pa n : Nat} {data : Option Nat} {keep : Bool} (h : MemInv s) :
    PumpInv (farAsk s owner ck key cmp pa n data keep) := by
  unfold farAsk
  split
  · split
    · trivial
    · split <;> exact h
    · exact h
  split
  · next s1 e1 =>
      have hs1 : MemInv s1 := memInv_snd e1 h
      exact hs1

theorem agentRead_memInv {owner ck : Nat} {key : KeyId} {ver : Bool} {snap : Option Nat} {pa n : Nat} {keep : Bool}
    (h : MemInv s) :
    PumpInv (agentRead s owner ck key ver snap pa n keep) := by
  unfold agentRead
  split
  · exact farAsk_memInv h
  · exact pumpRead_memInv h

theorem agentWrite_memInv {owner ck : Nat} {key : KeyId} {ver cmp : Bool} {pa : Nat} {bs : List Byte} {keep : Bool}
    (h : MemInv s) :
    PumpInv (agentWrite s owner ck key ver cmp pa bs keep) := by
  unfold agentWrite
  split
  · exact farAsk_memInv h
  · exact pumpWrite_memInv h

theorem noteIntegrity_memInv {cause : Nat} {k : KeyId} {ck pa : Nat} (h : MemInv s) : MemInv (noteIntegrity s cause k ck pa) := by
  unfold noteIntegrity
  split <;> exact h

theorem devWrite_memInv {ck pa : Nat} {bs : List Byte} (h : MemInv s) : MemInv (devWrite s ck pa bs) := by
  unfold devWrite
  extract_lets
  split
  · exact h
  split
  · next e1 => exact PumpInv.done e1 (pumpWrite_memInv h)
  · exact h
  · next s1 _ e1 =>
      have hs1 : MemInv s1 := PumpInv.stall e1 (pumpWrite_memInv h)
      split
      · next e2 => exact PumpInv.done e2 (pumpWrite_memInv (endReenc_memInv hs1))
      · next e2 => exact PumpInv.stall e2 (pumpWrite_memInv (endReenc_memInv hs1))
      · exact hs1

theorem healLine_memInv {line : Nat} {whole : Bool} (h : MemInv s) : MemInv (healLine s line whole) := by
  unfold healLine
  split <;> exact h

theorem lineWrite_memInv {k : KeyId} {ver cmp : Bool} {pa : Nat} {bs : List Byte} (h : MemInv s) :
    PumpInv (lineWrite s k ver cmp pa bs) := by
  unfold lineWrite
  split
  · next s1 _ e =>
      have hs1 : MemInv s1 := PumpInv.stall e (pumpWrite_memInv h)
      split
      · exact pumpWrite_memInv (endReenc_memInv hs1)
      · exact hs1
  · exact pumpWrite_memInv h

theorem hostWrite_memInv {cmp : State → Nat → Bool} {n : Nat} {s : State} {x : KeyId} {x1 : Bool} {n1 : Nat} {x2 : List Byte}
    (h : MemInv s) :
    MemInv (hostWrite cmp n s x x1 n1 x2).1 := by
  unfold hostWrite
  split
  · exact h
  split
  · exact h
  extract_lets
  split
  · exact hostWrite_memInv h
  · exact hostWrite_memInv h
  · exact hostWrite_memInv h
  split
  · next e4 => exact hostWrite_memInv (healLine_memInv (PumpInv.done e4 (lineWrite_memInv h)))
  · refine hostWrite_memInv ?_
    split <;> exact h
  · next e4 => exact PumpInv.stall e4 (lineWrite_memInv h)

theorem hostPut_memInv {vf pa : Nat} {bs : List Byte} (h : MemInv s) : MemInv (hostPut s vf pa bs) := hostWrite_memInv h

/-! Rings, records and halts. -/

theorem ringPush_memInv {ck : Nat} {r : RingId} {rec : List W64} (h : MemInv s) : OptInv (ringPush s ck r rec) := by
  unfold ringPush
  split
  · trivial
  split
  · trivial
  · exact devWrite_memInv h

theorem eventPush_memInv {ck kind sub a0 a1 : Nat} (h : MemInv s) : MemInv (eventPush s ck kind sub a0 a1) := by
  unfold eventPush
  extract_lets
  split
  · next e => exact OptInv.some e (ringPush_memInv h)
  · exact h

theorem prfAdd_memInv {vf kind die inst event n : Nat} (h : MemInv s) : MemInv (prfAdd s vf kind die inst event n) := by
  unfold prfAdd
  extract_lets
  split
  · exact h
  split <;> exact h

theorem numPush_memInv {k pc : Nat} {halted : Bool} {e : NumEv} (h : MemInv s) : MemInv (numPush s k pc halted e) := by
  unfold numPush
  split
  · exact h
  split
  · next e2 => exact prfAdd_memInv (OptInv.some e2 (ringPush_memInv h))
  split <;> exact h

theorem txUnlock_memInv {k : Nat} (h : MemInv s) : MemInv (txUnlock s k) := by
  unfold txUnlock
  extract_lets
  exact memInv_foldl (fun _ _ hu => hu) h

theorem txHalt_memInv {k : Nat} (h : MemInv s) : MemInv (txHalt s k) := by
  unfold txHalt
  split
  · exact h
  split
  · exact h
  · split
    · exact h
    · exact txUnlock_memInv h
  · exact h

theorem growHalts_memInv (h : MemInv s) : MemInv (growHalts s) := by
  unfold growHalts
  refine memInv_foldl (fun _ _ hu => ?_) h
  split <;> exact hu

theorem unplaceGroup_memInv {k : Nat} (h : MemInv s) : MemInv (unplaceGroup s k) := by
  unfold unplaceGroup
  split <;> exact h

theorem abandonRestore_memInv {ck : Nat} (h : MemInv s) : MemInv (abandonRestore s ck) :=
  memInv_foldl (fun _ _ hu => unplaceGroup_memInv hu) h

theorem haltRise_memInv {ck cause : Nat} {unit : UnitId} {gid addr : Nat} {own : Bool} (h : MemInv s) :
    MemInv (haltRise s ck cause unit gid addr own) := by
  unfold haltRise
  split
  · exact h
  extract_lets _ _ _ s1 s2 s3 s4 s41 _ s11 s12 s21
  have hs1 : MemInv s1 := h
  have hs2 : MemInv s2 := hs1
  have hs3 : MemInv s3 := hs2
  have hs4 : MemInv s4 := hs3
  have hs41 : MemInv s41 := hs3
  have hs11 : MemInv s11 := h
  have hs12 : MemInv s12 := memInv_ite (abandonRestore_memInv h) h
  have hs21 : MemInv s21 := hs12
  split
  · refine memInv_foldl (fun _ _ hu => ?_) hs4
    exact txHalt_memInv hu
  · refine memInv_foldl (fun _ _ hu => ?_) hs41
    exact txHalt_memInv hu
  · split <;> exact hs11
  · exact eventPush_memInv hs21
  · exact eventPush_memInv hs21
  · exact eventPush_memInv hs21
  · exact h
  · exact h

theorem haltKey_memInv {key : KeyId} {unit : UnitId} {gid addr : Nat} (h : MemInv s) : MemInv (haltKey s key unit gid addr) := by
  unfold haltKey
  extract_lets
  exact memInv_foldl (fun _ _ hu => haltRise_memInv hu) h

theorem takeRaised_memInv (h : MemInv s) : MemInv (takeRaised s) := by
  unfold takeRaised
  refine memInv_foldl (fun _ _ hu => ?_) h
  split
  · exact haltKey_memInv hu
  · exact haltRise_memInv hu

theorem raiseGroup_memInv {k cause addr : Nat} (h : MemInv s) : MemInv (raiseGroup s k cause addr) := by
  unfold raiseGroup
  split
  · exact h
  · exact haltRise_memInv h

theorem resumeCtx_memInv {ck : Nat} (h : MemInv s) : MemInv (resumeCtx s ck) := by
  unfold resumeCtx
  split
  · split
    · exact eventPush_memInv h
    · exact h
  · exact h

/-! Address translation. -/

theorem tlbFill_memInv {a : Agent} {e : TlbEnt} (h : MemInv s) : MemInv (tlbFill s a e) := by
  unfold tlbFill
  split <;> exact h

theorem pteSet_memInv {ck addr : Nat} {p : W64} (h : MemInv s) : MemInv (pteSet s ck addr p) := devWrite_memInv h

theorem walkFill_memInv {ck : Nat} {a : Agent} {text : Bool} {va : Nat} {set : W64} (h : MemInv s) :
    FilledInv (walkFill s ck a text va set) := by
  unfold walkFill
  split
  · trivial
  · exact noteIntegrity_memInv h
  extract_lets
  exact tlbFill_memInv (memInv_ite h (pteSet_memInv h))

theorem lookup_memInv {ck : Nat} {a : Agent} {text write : Bool} {va : Nat} (h : MemInv s) :
    FilledInv (lookup s ck a text write va) := by
  unfold lookup
  split
  · split
    · exact walkFill_memInv h
    split
    · exact h
    · exact tlbFill_memInv h
  · exact walkFill_memInv h

theorem setDirty_memInv {ck : Nat} {a : Agent} {va : Nat} (h : MemInv s) : MemInv (setDirty s ck a va) := by
  unfold setDirty
  split
  · next e1 => exact FilledInv.leaf e1 (walkFill_memInv h)
  · exact h

theorem translateOnly_memInv {ck : Nat} {a : Agent} {va : Nat} {u : Use} (h : MemInv s) : XlInv (translateOnly s ck a va u) := by
  unfold translateOnly
  split
  · exact h
  split
  · exact h
  split
  · exact h
  · next e2 => exact FilledInv.bad e2 (lookup_memInv h)
  · next e3 => split <;> exact FilledInv.leaf e3 (lookup_memInv h)

theorem dirtyFor_memInv {ck : Nat} {a : Agent} {va : Nat} (h : MemInv s) : MemInv (dirtyFor s ck a va) := by
  unfold dirtyFor
  split
  · split
    · exact h
    · exact setDirty_memInv h
  · exact setDirty_memInv h

theorem translate_memInv {ck : Nat} {a : Agent} {va : Nat} {u : Use} (h : MemInv s) : XlInv (translate s ck a va u) := by
  unfold Machine.translate
  split
  · next s1 _ e =>
      have hs1 : MemInv s1 := XlInv.ok e (translateOnly_memInv h)
      exact memInv_ite (dirtyFor_memInv hs1) hs1
  · exact translateOnly_memInv h

/-! Absent pages and the accesses of a group's instruction. -/

theorem noteFault_memInv {ck va kind level gid die core : Nat} (h : MemInv s) :
    MemInv (noteFault s ck va kind level gid die core).1 := by
  unfold noteFault
  split
  · exact h
  split
  · exact h
  extract_lets
  split
  · next s2 e2 =>
      have hs2 : MemInv s2 := OptInv.some e2 (ringPush_memInv h)
      exact hs2
  · exact h

theorem Out_andThen_memInv {o : Out} {f : State → Out} (ho : OutInv o) (hf : ∀ u, MemInv u → OutInv (f u)) :
    OutInv (Out.andThen o f) := by
  unfold Out.andThen
  split
  · exact hf _ ho
  · exact ho
  · exact ho

theorem oneAbsent_memInv {k : Nat} {g : Grp} {va kind level : Nat} (h : MemInv s) : OutInv (oneAbsent s k g va kind level) := by
  unfold oneAbsent
  split
  · split
    · next s1 _ e1 =>
        have hs1 : MemInv s1 := memInv_fst e1 (noteFault_memInv h)
        exact hs1
  · exact h

theorem pumpCount_memInv {vf pa ev n : Nat} (h : MemInv s) : MemInv (pumpCount s vf pa ev n) := by
  unfold pumpCount
  split
  · exact prfAdd_memInv h
  · exact h

theorem countRead_memInv {vf pa : Nat} {cmp : Bool} (h : MemInv s) : MemInv (countRead s vf pa cmp) :=
  pumpCount_memInv (pumpCount_memInv (pumpCount_memInv h))

theorem countWrite_memInv {s0 s : State} {vf pa : Nat} {cmp ver partly : Bool} (h : MemInv s) :
    MemInv (countWrite s0 s vf pa cmp ver partly) :=
  pumpCount_memInv (pumpCount_memInv (pumpCount_memInv (pumpCount_memInv (pumpCount_memInv h))))

theorem oneDone_memInv {k : Nat} {g : Grp} (h : MemInv s) : MemInv (oneDone s k g) := by
  unfold oneDone
  split <;> exact h

theorem storeNow_memInv {k : Nat} {g : Grp} {va : Nat} {bs : List Byte} (h : MemInv s) : OutInv (storeNow s k g va bs) := by
  unfold storeNow
  split
  · exact h
  split
  · exact h
  split
  · next s1 _ e2 =>
      have hs1 : MemInv s1 := XlInv.fault e2 (translate_memInv h)
      exact hs1
  · next s1 _ e2 =>
      have hs1 : MemInv s1 := XlInv.absent e2 (translate_memInv h)
      exact oneAbsent_memInv hs1
  · next s1 _ e2 =>
      have hs1 : MemInv s1 := XlInv.ok e2 (translate_memInv h)
      split
      · exact hs1
      split
      · next s2 _ e4 =>
          have hs2 : MemInv s2 := PumpInv.done e4 (agentWrite_memInv hs1)
          exact countWrite_memInv (oneDone_memInv hs2)
      · next s2 _ e4 =>
          have hs2 : MemInv s2 := PumpInv.stall e4 (agentWrite_memInv hs1)
          split
          · exact hs2
          split <;> exact hs1
      · next s2 _ _ e5 =>
          have hs2 : MemInv s2 := PumpInv.stall e5 (agentWrite_memInv hs1)
          exact hs2
      · exact noteIntegrity_memInv hs1

theorem loadNow_memInv {k : Nat} {g : Grp} {va n : Nat} {snap : Option Nat} (h : MemInv s) :
    OutInv (loadNow s k g va n snap).1 := by
  unfold loadNow
  split
  · exact h
  split
  · exact h
  split
  · next e2 => exact XlInv.fault e2 (translate_memInv h)
  · next e2 => exact oneAbsent_memInv (XlInv.absent e2 (translate_memInv h))
  · next s1 _ e2 =>
      have hs1 : MemInv s1 := XlInv.ok e2 (translate_memInv h)
      split
      · exact hs1
      split
      · next e4 => exact countRead_memInv (oneDone_memInv (PumpInv.done e4 (agentRead_memInv hs1)))
      · next e4 => exact PumpInv.stall e4 (agentRead_memInv hs1)
      · exact noteIntegrity_memInv hs1

/-! Paths and the return-address stack. -/

theorem prfRecord_memInv {k kind arg : Nat} (h : MemInv s) : MemInv (prfRecord s k kind arg) := by
  unfold prfRecord
  split
  · exact h
  extract_lets
  split
  · exact h
  split
  refine memInv_foldl (fun _ _ hu => ?_) h
  extract_lets
  split
  · exact hu
  · exact devWrite_memInv hu

theorem probeWalks_memInv {k : Nat} {g : Grp} {vas : List Nat} (h : MemInv s) : MemInv (probeWalks s k g vas) := by
  unfold probeWalks
  refine memInv_foldl (fun _ _ hu => ?_) h
  split
  · next e => exact XlInv.ok e (translateOnly_memInv hu)
  · next e => exact XlInv.fault e (translateOnly_memInv hu)
  · next e => exact XlInv.absent e (translateOnly_memInv hu)

theorem storeAll_memInv {s0 : State} {k : Nat} {g : Grp} {done : List Nat} {s : State} {x : List (Nat × List Byte)}
    (hs0 : MemInv s0) (h : MemInv s) :
    OutInv (storeAll s0 k g done s x) := by
  unfold storeAll
  split
  · exact h
  split
  · next e => exact storeAll_memInv hs0 (OutInv.ok e (storeNow_memInv h))
  · exact storeNow_memInv (probeWalks_memInv hs0)

theorem spillAll_memInv {k : Nat} (h : MemInv s) : OutInv (spillAll s k) := by
  unfold spillAll
  split
  · exact h
  extract_lets
  split
  · exact h
  split
  · exact h
  · exact Out_andThen_memInv (storeAll_memInv h h) (fun _ hu => hu)

theorem refillPaths_memInv {s : State} {k n : Nat} (h : MemInv s) : OutInv (refillPaths s k n) := by
  unfold refillPaths
  split
  · exact h
  split
  · exact h
  split
  · exact h
  split
  · exact h
  split
  · next e3 => exact Out_andThen_memInv (outInv_fst e3 (loadNow_memInv h)) (fun _ hu => refillPaths_memInv hu)

theorem readRunning_memInv {k : Nat} {g : Grp} (h : MemInv s) : OutInv (readRunning s k g) := by
  unfold readRunning
  split
  · exact h
  split
  · next e2 =>
      extract_lets
      exact Out_andThen_memInv (outInv_fst e2 (loadNow_memInv h)) (fun _ hu => hu)

theorem balance_memInv {k n : Nat} (h : MemInv s) : OutInv (balance s k n) := by
  unfold balance
  split
  · exact h
  · exact Out_andThen_memInv (Out_andThen_memInv (readRunning_memInv h) (fun _ hu => refillPaths_memInv hu))
      (fun _ hu => spillAll_memInv hu)

theorem rasPush_memInv {k : Nat} {r : RasEnt} (h : MemInv s) : OutInv (rasPush s k r) := by
  unfold rasPush
  split
  · exact h
  split
  · split
    · exact h
    extract_lets
    split <;> exact h
  split
  · exact h
  extract_lets
  split <;> exact h

theorem rasRefill_memInv {k : Nat} {em : Mask} (h : MemInv s) : OutInv (rasRefill s k em) := by
  unfold rasRefill
  split
  · exact h
  extract_lets
  split
  · exact h
  split
  · next e2 => exact Out_andThen_memInv (outInv_fst e2 (loadNow_memInv h)) (fun _ hu => hu)

/-! Issue. -/

theorem Out_toRes_memInv {o : Out} {n : Notes} (ho : OutInv o) : ResInv (Out.toRes o n) := by
  unfold Out.toRes
  split <;> exact ho

theorem countLanes_memInv {k : Nat} {g : Grp} {act : Mask} (h : MemInv s) : MemInv (countLanes s k g act) := by
  unfold countLanes
  extract_lets
  exact memInv_foldl (fun _ _ hu => prfAdd_memInv hu) h

theorem takeFault_memInv {k cause addr : Nat} (h : MemInv s) : NextInv (takeFault s k cause addr) := raiseGroup_memInv h

theorem numApply_memInv {s0 s1 : State} {k pc : Nat} {n : Notes} (hs0 : MemInv s0) (hs1 : MemInv s1) :
    ExcInv (numApply s0 s1 k pc n) := by
  unfold numApply
  split
  · split
    · exact memInv_foldl (fun _ _ hu => numPush_memInv hu) hs0
    · exact memInv_foldl (fun _ _ hu => numPush_memInv hu) hs1
  · exact hs1

theorem notReady_memInv {i : Instr} {k : Nat} {g : Grp} {x : Sig} {f : Fields} (h : MemInv s) :
    NextInv (notReady i s k g x f) := by
  unfold notReady
  split
  · exact h
  split
  · exact h
  · exact h
  split
  · exact takeFault_memInv h
  split
  · exact takeFault_memInv h
  split <;> exact takeFault_memInv h

theorem settlePaths_memInv {k : Nat} (h : MemInv s) : OutInv (settlePaths s k).1 := by
  unfold settlePaths
  split
  · split
    exact balance_memInv h
  · exact h

theorem concludeIssue_memInv {s s1 : State} {k : Nat} {g : Grp} {act : Mask} {n : Notes} (h : MemInv s) (hs1 : MemInv s1) :
    NextInv (concludeIssue s s1 k g act n) := by
  unfold concludeIssue
  split
  · next e => exact takeFault_memInv (ExcInv.error e (numApply_memInv h hs1))
  · next e => exact countLanes_memInv (ExcInv.ok e (numApply_memInv h hs1))

theorem memSide_memInv {s t : State} {k : Nat} (ht : MemInv t) : MemInv (memSide s t k) := by
  unfold memSide
  extract_lets
  split <;> exact ht

theorem concludePaths_memInv {s s1 : State} {k : Nat} {g : Grp} {act : Mask} {n : Notes} (h : MemInv s) (hs1 : MemInv s1) :
    NextInv (concludePaths s s1 k g act n) := by
  unfold concludePaths
  split
  · next o _ e =>
      have ho : OutInv o := outInv_fst e (settlePaths_memInv hs1)
      split
      · exact memSide_memInv ho
      · exact takeFault_memInv (memSide_memInv ho)
      · exact concludeIssue_memInv h ho

theorem concludePark_memInv {s s1 : State} {k : Nat} {g : Grp} {act : Mask} {n : Notes} (h : MemInv s) (hs1 : MemInv s1) :
    NextInv (concludePark s s1 k g act n) := by
  unfold concludePark
  split
  · next o _ e =>
      have ho : OutInv o := outInv_fst e (settlePaths_memInv hs1)
      split
      · exact memSide_memInv ho
      · exact takeFault_memInv (memSide_memInv ho)
      split
      · next e1 => exact takeFault_memInv (ExcInv.error e1 (numApply_memInv h ho))
      split
      · next e2 => exact takeFault_memInv (ExcInv.error e2 (numApply_memInv h ho))
      · next e2 => exact countLanes_memInv (ExcInv.ok e2 (numApply_memInv h ho))

theorem conclude_memInv {k : Nat} {g : Grp} {how : How} {h1 : Hdr} {r : Res} (h : MemInv s) (hr : ResInv r) :
    NextInv (conclude s k g how h1 r) := by
  unfold conclude
  split
  · exact hr
  · exact takeFault_memInv hr
  · exact concludePark_memInv h hr
  · exact countLanes_memInv hr
  extract_lets
  split
  · exact concludePaths_memInv h hr
  · exact concludeIssue_memInv h hr

theorem issue_memInv {i : Instr} {how : How} {body : State → Nat → Grp → Env → Res}
    (hbody : ∀ u x1 x2 x3, MemInv u → ResInv (body u x1 x2 x3)) (h : MemInv s) :
    NextInv (issue i how body s) := by
  unfold issue
  split
  · trivial
  split
  · extract_lets
    split
    · exact conclude_memInv h (hbody _ _ _ _ h)
    · exact notReady_memInv h
  · trivial

theorem sendResult_memInv {k : Nat} {g : Grp} {lat : Lat} {slot : Option Nat} {ws : List RegW} (h : MemInv s) :
    MemInv (sendResult s k g lat slot ws) := by
  unfold sendResult
  split
  · exact h
  · split
    · next s1 e =>
        have hs1 : MemInv s1 := memInv_snd e h
        exact hs1
  · exact h

theorem acquireL1_memInv {k vf : Nat} {scope : Scope} (h : MemInv s) : MemInv (acquireL1 s k vf scope) := by
  unfold acquireL1
  split <;> exact h

theorem laneInsS_memInv {i : Instr} {h1 : Hdr} {lat : Lat} {f : State → Env → Except Nat LaneRes} (h : MemInv s) :
    NextInv (laneInsS i h1 lat f s) := by
  unfold laneInsS
  refine issue_memInv (fun _ _ _ _ hu => ?_) h
  split
  · exact hu
  · exact prfAdd_memInv (sendResult_memInv hu)

theorem laneIns_memInv {i : Instr} {h1 : Hdr} {lat : Lat} {f : Env → Except Nat LaneRes} (h : MemInv s) :
    NextInv (laneIns i h1 lat f s) := laneInsS_memInv h

/-! Barriers. -/

theorem endBarWaits_memInv {k i : Nat} {t : Nat → Bool} {val : Bool} (h : MemInv s) : MemInv (endBarWaits s k i t val) := by
  unfold endBarWaits
  split <;> exact h

theorem testBarWaits_memInv {core i : Nat} (h : MemInv s) : MemInv (testBarWaits s core i) := by
  unfold testBarWaits
  extract_lets
  exact memInv_foldl (fun _ _ hu => endBarWaits_memInv hu) h

theorem barEval_memInv {core i : Nat} (h : MemInv s) : MemInv (barEval s core i) := by
  unfold barEval
  extract_lets
  split <;> exact h

theorem flushBars_memInv (h : MemInv s) : MemInv (flushBars s) := memInv_foldl (fun _ _ hu => testBarWaits_memInv hu) h

theorem landSectors_memInv {core i cls n : Nat} (h : MemInv s) : OptInv (landSectors s core i cls n) := by
  unfold landSectors
  extract_lets
  split
  · exact h
  split
  · split <;> exact h
  split
  · trivial
  · exact barEval_memInv h

theorem barStore_memInv {core i : Nat} {w : W128} (h : MemInv s) : OptInv (barStore s core i w) := by
  unfold barStore
  split
  · trivial
  · exact h

/-! Memory instructions. -/

theorem glbTarget_memInv {k : Nat} {g : Grp} {mk : MKind} {ty : Ty} {size : Nat} {a : Int} (h : MemInv s) :
    MemInv (glbTarget s k g mk ty size a).1 := by
  unfold glbTarget
  split
  · exact h
  split
  · exact h
  extract_lets
  split
  · next e2 => exact XlInv.fault e2 (translateOnly_memInv h)
  · next s1 _ e2 =>
      have hs1 : MemInv s1 := XlInv.absent e2 (translateOnly_memInv h)
      split
      · split
        · next e4 => exact memInv_fst e4 (noteFault_memInv hs1)
      · exact hs1
  · next e2 => exact XlInv.ok e2 (translateOnly_memInv h)

theorem targets_memInv {s : State} {k : Nat} {g : Grp} {loc : Bool} {mk : MKind} {ty : Ty} {size : Nat} {x : List (Nat × Int)}
    (h : MemInv s) :
    MemInv (targets s k g loc mk ty size x).1 := by
  unfold targets
  split
  · exact h
  extract_lets r
  have hr : MemInv r.1 := by
    unfold r
    split
    · exact h
    · exact glbTarget_memInv h
  clear_value r
  split
  · exact hr
  split
  · next e => exact memInv_fst e (targets_memInv hr)
  · next e1 => exact memInv_fst e1 (targets_memInv hr)

theorem txStore_memInv {k : Nat} {cmp : Bool} {va pa n v : Nat} (h : MemInv s) : MemInv (txStore s k cmp va pa n v) := by
  unfold txStore
  split
  · exact h
  split
  · exact h
  split
  · exact h
  split <;> exact h

theorem l1Write_memInv {core vf pa n v : Nat} (h : MemInv s) : MemInv (l1Write s core vf pa n v) := by
  unfold l1Write
  split <;> exact h

theorem l1Touch_memInv {k vf : Nat} {ps : List Part} (h : MemInv s) : MemInv (l1Touch s k vf ps) := by
  unfold l1Touch
  refine memInv_foldl (fun _ _ hu => ?_) h
  split
  · split <;> exact hu
  · exact hu

theorem addAcc_memInv {k : Nat} {a : Acc} (h : MemInv s) : MemInv (addAcc s k a) := by
  unfold addAcc
  split
  · next s1 e =>
      have hs1 : MemInv s1 := memInv_snd e h
      exact hs1

theorem dirtyAll_memInv {k : Nat} {g : Grp} {ts : List (Nat × Nat × Tgt)} (h : MemInv s) : MemInv (dirtyAll s k g ts) := by
  unfold dirtyAll
  refine memInv_foldl (fun _ _ hu => ?_) h
  split
  · exact dirtyFor_memInv hu
  · exact hu

theorem memIssue_memInv {i : Instr} {w : MWord} {mk : MKind} {size : Nat} {how : How} {scalar : Bool}
    {body : State → Nat → Grp → Env → List (Nat × Nat × Tgt) → Notes → Res}
    (hbody : ∀ u k g e ts n, MemInv u → ResInv (body u k g e ts n)) (h : MemInv s) :
    NextInv (memIssue i w mk size how scalar body s) := by
  unfold memIssue
  refine issue_memInv (fun u k g e hu => ?_) h
  split
  · exact hu
  · split
    · exact hu
    · split
      · next s1 _ _ e2 => exact memInv_fst e2 (targets_memInv hu)
      · next s1 ts e2 =>
          have hs1 : MemInv s1 := memInv_fst e2 (targets_memInv hu)
          split
          · exact hs1
          · split
            · next t _ e3 =>
                have ht : MemInv t := ResInv.ok e3 (hbody _ _ _ _ _ _ hs1)
                exact ht
            · exact hbody _ _ _ _ _ _ hs1

theorem loadBody_memInv {kind : AccKind} {w : MWord} {size : Nat} {k : Nat} {g : Grp} {ts : List (Nat × Nat × Tgt)} {n : Notes}
    (h : MemInv s) :
    ResInv (loadBody kind w size s k g ts n) := by
  unfold loadBody
  extract_lets
  split
  · exact sendResult_memInv h
  split
  · exact h
  · exact addAcc_memInv (l1Touch_memInv h)

theorem execLd_memInv {w : MWord} (h : MemInv s) : NextInv (execLd w s) :=
  memIssue_memInv (fun _ _ _ _ _ _ hu => loadBody_memInv hu) h

theorem execLdx_memInv {w : MWord} (h : MemInv s) : NextInv (execLdx w s) :=
  memIssue_memInv (fun _ _ _ _ _ _ hu => loadBody_memInv hu) h

theorem putWr_memInv {k : Nat} {g : Grp} {tx : Option TxView} {x : Xl} {loc : Bool} {acc : State × List Part} {w : Wr}
    (hacc : MemInv acc.1) :
    MemInv (putWr k g tx x loc acc w).1 := by
  unfold putWr
  split
  · split
    · exact txStore_memInv hacc
    · exact hacc
  extract_lets
  split
  · exact l1Write_memInv hacc
  · exact hacc

theorem storeParts_memInv {k : Nat} {g : Grp} {f : Nat → Nat → Xl → List Wr} {keep : Nat → List (Nat × Nat)} {size : Nat}
    {ts : List (Nat × Nat × Tgt)} (h : MemInv s) :
    OptFstInv (storeParts s k g f keep size ts) := by
  unfold storeParts
  refine List.foldlRecOn (motive := OptFstInv) _ _ h (fun r hr x _ => ?_)
  cases r with
  | none => trivial
  | some acc =>
    have hacc : MemInv acc.1 := hr
    dsimp only [Option.bind_some]
    split
    · exact List.foldlRecOn (motive := fun r : State × List Part => MemInv r.1) _ _ hacc (fun _ hq _ _ => putWr_memInv hq)
    · refine map_optFstInv (barStore_memInv ?_)
      exact hacc
    · exact hacc
    · exact hacc

theorem storeBody_memInv {kind : AccKind} {w : MWord} {size : Nat} {f : Nat → Nat → Xl → List Wr}
    {keep : Nat → List (Nat × Nat)} {k : Nat} {g : Grp} {ts : List (Nat × Nat × Tgt)} {n : Notes} (h : MemInv s) :
    ResInv (storeBody kind w size f keep s k g ts n) := by
  unfold storeBody
  split
  · exact h
  extract_lets
  split
  · exact h
  · next s1 _ e1 =>
      have hs1 : MemInv s1 := OptFstInv.some e1 (storeParts_memInv (dirtyAll_memInv h))
      extract_lets s2
      have hs2 : MemInv s2 := memInv_ite hs1 hs1
      split
      · exact hs2
      · exact addAcc_memInv hs2

theorem execSt_memInv {w : MWord} (h : MemInv s) : NextInv (execSt w s) :=
  memIssue_memInv (fun _ _ _ _ _ _ hu => storeBody_memInv hu) h

theorem execStx_memInv {w : MWord} (h : MemInv s) : NextInv (execStx w s) :=
  memIssue_memInv (fun _ _ _ _ _ _ hu => storeBody_memInv hu) h

/-! Atomics, fences and transactions. -/

theorem viewAtomic_memInv {k : Nat} {tx : TxView} {key : KeyId} {cmp : Bool} {va pa size : Nat} {f : Nat → Nat} (h : MemInv s) :
    PumpInv (viewAtomic s k tx key cmp va pa size f) := by
  unfold viewAtomic
  split
  · exact h
  split
  · next s1 _ e1 =>
      have hs1 : MemInv s1 := PumpInv.done e1 (pumpRead_memInv h)
      extract_lets
      split
      extract_lets
      split
      · exact txStore_memInv hs1
      · exact hs1
  · exact pumpRead_memInv h

theorem atomParts_memInv {k : Nat} {g : Grp} {ty : Ty} {op : AOp} {size : Nat} {c e : Nat → Nat} {acc : APs}
    {tx : Nat × Nat × Tgt} (hacc : ApsInv acc) :
    ApsInv (atomParts k g ty op size c e acc tx) := by
  unfold atomParts
  split
  · split
    extract_lets
    split
    · split
      · split
        · next e2 => exact PumpInv.done e2 (viewAtomic_memInv hacc)
        · trivial
        · exact noteIntegrity_memInv hacc
      · exact hacc
    · exact hacc
    · exact hacc
  · exact hacc

theorem atomParts_foldl_memInv {k : Nat} {g : Grp} {ty : Ty} {op : AOp} {size : Nat} {c e : Nat → Nat}
    {ts us : List (Nat × Nat × Tgt)} (h : MemInv s) :
    ApsInv (us.foldl (atomParts k g ty op size c e) (.ok (dirtyAll s k g ts) [])) :=
  List.foldlRecOn _ _ (dirtyAll_memInv (s := s) h) (fun _ hr _ _ => atomParts_memInv hr)

theorem atomIssue_memInv {i : Instr} {w : MWord} {kind : AccKind} {op : AOp} (h : MemInv s) :
    NextInv (atomIssue i w kind op s) := by
  unfold atomIssue
  refine memIssue_memInv (fun u k g e ts n hu => ?_) h
  dsimp only
  split
  · exact hu
  split
  · exact hu
  · next e2 => exact memSide_memInv (ApsInv.fault e2 (atomParts_foldl_memInv hu))
  · next s1 ps e2 =>
      have hs1 : MemInv s1 := ApsInv.ok e2 (atomParts_foldl_memInv hu)
      split
      · split
        · exact hs1
        · exact sendResult_memInv hs1
      · refine addAcc_memInv ?_
        exact hs1

theorem execWaita_memInv {w : MWord} (h : MemInv s) : NextInv (execWaita w s) := by
  unfold execWaita
  refine memIssue_memInv (fun u k g e ts n hu => ?_) h
  extract_lets _ _ _ _ _ s1 _ _ s2
  have hs1 : MemInv s1 := by
    unfold s1
    refine memInv_foldl (fun v x hv => ?_) hu
    split <;> exact hv
  have hs2 : MemInv s2 := addAcc_memInv hs1
  split
  · exact hu
  split
  · exact hu
  split
  · exact hu
  · exact hs2

theorem execFence_memInv {w : RWord MemM} (h : MemInv s) : NextInv (execFence w s) := by
  unfold execFence
  refine issue_memInv (fun _ _ _ _ hu => ?_) h
  split
  · exact hu
  split
  · exact hu
  extract_lets s1
  have hs1 : MemInv s1 := memInv_ite hu hu
  split
  · exact acquireL1_memInv hs1
  · exact hs1

theorem onlyWalk_memInv {k : Nat} {g : Grp} {a : Int} (h : MemInv s) : MemInv (onlyWalk s k g a).1 := by
  unfold onlyWalk
  split
  · exact h
  split
  · exact h
  · next e1 => exact FilledInv.bad e1 (lookup_memInv h)
  · next e2 => exact FilledInv.leaf e2 (lookup_memInv h)

theorem cinvLines_memInv {s : State} {k : Nat} {g : Grp} {x : List (Nat × Int)} (h : MemInv s) :
    MemInv (cinvLines s k g x).1 := by
  unfold cinvLines
  split
  · exact h
  split
  · next e => exact memInv_fst e (onlyWalk_memInv h)
  · next e =>
      split
      · next e2 => exact memInv_fst e2 (cinvLines_memInv (memInv_fst e (onlyWalk_memInv h)))

theorem execCinv_memInv {w : MWord} (h : MemInv s) : NextInv (execCinv w s) := by
  unfold execCinv
  refine issue_memInv (fun _ _ _ _ hu => ?_) h
  split
  · exact hu
  split
  · split <;> exact hu
  split
  · exact hu
  split
  · split <;> exact hu
  split
  · next e4 => exact memInv_fst e4 (cinvLines_memInv hu)
  · next e4 => exact memInv_foldl (fun _ _ hu1 => hu1) (memInv_fst e4 (cinvLines_memInv hu))

theorem execCtag_memInv {w : MWord} (h : MemInv s) : NextInv (execCtag w s) :=
  memIssue_memInv (fun _ _ _ _ _ _ hu => sendResult_memInv hu) h

theorem l1Fill_memInv {core vf line : Nat} {data : BitVec 1024} (h : MemInv s) : MemInv (l1Fill s core vf line data) := by
  unfold l1Fill
  split <;> exact h

theorem prefOne_memInv {k : Nat} {g : Grp} {a : Int} (h : MemInv s) : MemInv (prefOne s k g a) := by
  unfold prefOne
  split
  · next s1 _ _ e =>
      have hs1 : MemInv s1 := memInv_fst e (glbTarget_memInv h)
      extract_lets
      split
      · split
        · exact addAcc_memInv hs1
        split
        · next e3 => exact l1Fill_memInv (PumpInv.done e3 (pumpRead_memInv hs1))
        · exact hs1
      · exact hs1
  · next e1 => exact memInv_fst e1 (glbTarget_memInv h)

theorem execPref_memInv {w : MWord} (h : MemInv s) : NextInv (execPref w s) := by
  unfold execPref
  refine issue_memInv (fun _ _ _ _ hu => ?_) h
  split
  · exact hu
  split
  · exact hu
  split
  · exact hu
  · exact memInv_foldl (fun _ _ hu1 => prefOne_memInv hu1) hu

theorem execCdrain_memInv {w : RWord MemM} (h : MemInv s) : NextInv (execCdrain w s) := by
  unfold execCdrain
  refine issue_memInv (fun _ _ _ _ hu => ?_) h
  split
  · exact hu
  split
  · exact hu
  extract_lets
  split
  · exact hu
  · exact addAcc_memInv hu

theorem txcResult_memInv {k : Nat} {e : Env} {d : Dst} {slot : Option Nat} {p : Bool} (h : MemInv s) :
    MemInv (txcResult s k e d slot p) := by
  unfold txcResult
  split
  · exact sendResult_memInv h
  · exact h

theorem execTxb_memInv {w : RWord MemM} (h : MemInv s) : NextInv (execTxb w s) := by
  unfold execTxb
  refine issue_memInv (fun _ _ _ _ hu => ?_) h
  split
  · exact hu
  split
  · exact hu
  extract_lets
  split
  · exact hu
  · exact acquireL1_memInv hu

theorem execTxc_memInv {w : RWord MemM} (h : MemInv s) : NextInv (execTxc w s) := by
  unfold execTxc
  refine issue_memInv (fun _ _ _ _ hu => ?_) h
  extract_lets
  split
  · exact sendResult_memInv hu
  split
  · exact hu
  split
  · exact txcResult_memInv hu
  split
  · exact txcResult_memInv hu
  split
  · exact txcResult_memInv hu
  split
  · exact txcResult_memInv hu
  split
  · exact txcResult_memInv hu
  · exact hu

theorem execTxa_memInv {w : RWord MemM} (h : MemInv s) : NextInv (execTxa w s) := by
  unfold execTxa
  refine issue_memInv (fun _ _ _ _ hu => ?_) h
  split
  · exact hu
  split <;> exact hu

theorem execSnappin_memInv {w : RWord MemM} (h : MemInv s) : NextInv (execSnappin w s) := by
  unfold execSnappin
  refine issue_memInv (fun _ _ _ _ hu => ?_) h
  extract_lets
  split
  · exact sendResult_memInv hu
  split
  · exact hu
  split
  · exact sendResult_memInv hu
  · exact sendResult_memInv hu
  · exact hu

theorem execSnaprel_memInv {w : RWord MemM} (h : MemInv s) : NextInv (execSnaprel w s) := by
  unfold execSnaprel
  refine issue_memInv (fun _ _ _ _ hu => ?_) h
  extract_lets
  split
  · exact hu
  split
  · exact hu
  split
  · exact hu
  split
  · split <;> exact hu
  · exact hu

/-! The start of groups. -/

theorem wakeSpawns_memInv {core : Nat} (h : MemInv s) : MemInv (wakeSpawns s core) := memInv_foldl (fun _ _ hu => hu) h

theorem placeBin_memInv {core bin : Nat} {slot : Option Nat} (h : MemInv s) : MemInv (placeBin s core bin slot) := by
  unfold placeBin
  split
  · exact h
  split
  · exact h
  split
  · extract_lets _ _ k
    split
    · next s1 e4 =>
        have hs1 : MemInv s1 := memInv_snd e4 h
        clear_value k
        split
        · exact h
        · exact wakeSpawns_memInv hs1
  · exact h

theorem fireBin_memInv {core bin : Nat} (h : MemInv s) : MemInv (fireBin s core bin) := placeBin_memInv h

theorem zeroRows_memInv {core row n : Nat} (h : MemInv s) : MemInv (zeroRows s core row n) := memClear_wf s.mem _ _ h

theorem freeQueues_memInv {core : Nat} {p : QSlot → Bool} (h : MemInv s) : MemInv (freeQueues s core p) :=
  memInv_foldl (fun _ _ hu => zeroRows_memInv hu) h

theorem endTeam_memInv {tk : Nat} (h : MemInv s) : MemInv (endTeam s tk) := by
  unfold endTeam
  split
  · exact h
  split
  · exact h
  extract_lets s0
  have hs0 : MemInv s0 := freeQueues_memInv h
  exact memInv_ite (zeroRows_memInv hs0) hs0

/-! Control and group instructions. -/

theorem raiseWord_memInv {cause : Nat} (h : MemInv s) : NextInv (raiseWord s cause) := by
  unfold raiseWord
  split
  · trivial
  split
  · trivial
  split
  · exact takeFault_memInv h
  · exact h

theorem execNop_memInv {w : RWord (BitVec 12)} (h : MemInv s) : NextInv (execNop w s) := issue_memInv (fun _ _ _ _ hu => hu) h

theorem execBra_memInv {w : IWord (BitVec 12)} (h : MemInv s) : NextInv (execBra w s) := by
  unfold execBra
  refine issue_memInv (fun _ _ _ _ hu => ?_) h
  extract_lets
  split
  · exact hu
  split
  · exact hu
  split <;> exact hu

theorem execBrd_memInv {w : IWord (BitVec 12)} (h : MemInv s) : NextInv (execBrd w s) := by
  unfold execBrd
  refine issue_memInv (fun _ _ _ _ hu => ?_) h
  extract_lets
  split
  · exact hu
  split <;> exact hu

theorem execBrx_memInv {w : RWord (BitVec 12)} (h : MemInv s) : NextInv (execBrx w s) := by
  unfold execBrx
  refine issue_memInv (fun _ _ _ _ hu => ?_) h
  split
  split
  · exact hu
  split <;> exact hu

theorem execJarm_memInv {w : IWord (BitVec 12)} (h : MemInv s) : NextInv (execJarm w s) := by
  unfold execJarm
  refine issue_memInv (fun _ _ _ _ hu => ?_) h
  extract_lets
  split
  · exact hu
  split
  · exact hu
  split
  · exact hu
  split
  · exact hu
  split
  · exact hu
  split <;> exact hu

theorem execJarr_memInv {w : RWord (BitVec 12)} (h : MemInv s) : NextInv (execJarr w s) := by
  unfold execJarr
  refine issue_memInv (fun _ _ _ _ hu => ?_) h
  extract_lets
  split
  · exact hu
  split <;> exact hu

theorem callTo_memInv {k : Nat} {g : Grp} {e : Env} {tg : List (Nat × Int)} {n : Notes} (h : MemInv s) :
    ResInv (callTo s k g e tg n) := by
  unfold callTo
  split
  · exact h
  split
  · exact h
  split
  · exact h
  extract_lets
  exact Out_toRes_memInv (Out_andThen_memInv (rasPush_memInv h) (fun _ hu => hu))

theorem execCall_memInv {w : IWord (BitVec 12)} (h : MemInv s) : NextInv (execCall w s) :=
  issue_memInv (fun _ _ _ _ hu => callTo_memInv hu) h

theorem execCallx_memInv {w : RWord (BitVec 12)} (h : MemInv s) : NextInv (execCallx w s) := by
  unfold execCallx
  refine issue_memInv (fun _ _ _ _ hu => ?_) h
  split
  exact callTo_memInv hu

theorem execRet_memInv {w : RWord (BitVec 12)} (h : MemInv s) : NextInv (execRet w s) := by
  unfold execRet
  refine issue_memInv (fun u k g e hu => ?_) h
  split
  · exact hu
  · split
    · exact hu
    · refine Out_toRes_memInv (Out_andThen_memInv (rasRefill_memInv hu) (fun u1 hu1 => ?_))
      split
      · exact hu1
      · split
        · exact hu1
        · refine @outInv_ite _ _ _ _ ?_ ?_
          · exact hu1
          · extract_lets arr rest g2
            exact outInv_ite hu1 hu1

theorem execEndI_memInv {w : RWord (BitVec 12)} (h : MemInv s) : NextInv (execEndI w s) := by
  unfold execEndI
  refine issue_memInv (fun _ _ _ _ hu => ?_) h
  split <;> exact hu

theorem execTrap_memInv {w : IWord (BitVec 12)} (h : MemInv s) : NextInv (execTrap w s) := by
  unfold execTrap
  refine issue_memInv (fun _ _ _ _ hu => ?_) h
  split <;> exact hu

theorem execBkpt_memInv {w : IWord (BitVec 12)} (h : MemInv s) : NextInv (execBkpt w s) := by
  unfold execBkpt
  refine issue_memInv (fun _ _ _ _ hu => ?_) h
  split
  · exact hu
  split
  · exact prfRecord_memInv hu
  · exact hu

theorem execBind_memInv {w : RWord (BitVec 12)} (h : MemInv s) : NextInv (execBind w s) := by
  unfold execBind
  refine issue_memInv (fun _ _ _ _ hu => ?_) h
  split
  · exact hu
  split
  · exact hu
  split
  · exact hu
  split
  · exact hu
  split
  · next o _ e4 =>
      have ho : OutInv o := outInv_fst e4 (loadNow_memInv hu)
      split
      · exact ho
      · exact ho
      split
      · exact acquireL1_memInv ho
      split
      · next s2 _ e6 =>
          have hs2 : MemInv s2 := XlInv.ok e6 (translate_memInv ho)
          exact hs2
      · next s2 _ e6 =>
          have hs2 : MemInv s2 := XlInv.fault e6 (translate_memInv ho)
          exact hs2
      · next s2 _ e6 =>
          have hs2 : MemInv s2 := XlInv.absent e6 (translate_memInv ho)
          exact hs2

theorem execSpawn_memInv {w : RWord (BitVec 12)} (h : MemInv s) : NextInv (execSpawn w s) := by
  unfold execSpawn
  refine issue_memInv (fun _ _ _ _ hu => ?_) h
  extract_lets
  split
  · split <;> exact hu
  split
  · exact hu
  split
  · exact hu
  split
  · exact hu
  split
  · exact hu
  extract_lets
  exact memInv_foldl (fun _ _ hu1 => fireBin_memInv hu1) hu

theorem execLaunch_memInv {w : RWord (BitVec 12)} (h : MemInv s) : NextInv (execLaunch w s) := by
  unfold execLaunch
  refine issue_memInv (fun _ _ _ _ hu => ?_) h
  split
  · exact hu
  extract_lets
  split
  · exact hu
  split
  · exact hu
  split
  · next o _ e3 =>
      have ho : OutInv o := outInv_fst e3 (loadNow_memInv hu)
      split
      · exact ho
      · exact ho
      split
      · next o1 _ e4 =>
          have ho1 : OutInv o1 := outInv_fst e4 (loadNow_memInv ho)
          split
          · exact ho1
          · exact ho1
          extract_lets
          split
          · next s3 e5 =>
              have hs3 : MemInv s3 := memInv_snd e5 ho1
              exact hs3

theorem execYield_memInv {w : RWord (BitVec 12)} (h : MemInv s) : NextInv (execYield w s) := by
  unfold execYield
  refine issue_memInv (fun _ _ _ _ hu => ?_) h
  split
  · exact hu
  split <;> exact hu

theorem execSleep_memInv {w : IWord (BitVec 12)} (h : MemInv s) : NextInv (execSleep w s) := by
  unfold execSleep
  refine issue_memInv (fun _ _ _ _ hu => ?_) h
  split <;> exact hu

theorem execMark_memInv {w : IWord (BitVec 12)} (h : MemInv s) : NextInv (execMark w s) := by
  unfold execMark
  refine issue_memInv (fun _ _ _ _ hu => ?_) h
  split
  · exact hu
  split
  · exact hu
  split
  · exact hu
  split <;> exact hu

theorem execWrem_memInv {w : RWord (BitVec 12)} (h : MemInv s) : NextInv (execWrem w s) := by
  unfold execWrem
  refine issue_memInv (fun _ _ _ _ hu => ?_) h
  split
  · exact hu
  split
  · exact hu
  split
  · exact hu
  split <;> exact hu

theorem execEmp_memInv {w : RWord (BitVec 12)} (h : MemInv s) : NextInv (execEmp w s) := by
  unfold execEmp
  refine issue_memInv (fun _ _ _ _ hu => ?_) h
  split <;> exact hu

theorem execWrsr_memInv {w : RWord (BitVec 12)} (h : MemInv s) : NextInv (execWrsr w s) := by
  unfold execWrsr
  refine issue_memInv (fun _ _ _ _ hu => ?_) h
  split
  · split
    exact hu
  · split <;> exact hu
  · exact hu

theorem execRdcnt_memInv {w : RWord (BitVec 12)} (h : MemInv s) : NextInv (execRdcnt w s) := by
  unfold execRdcnt
  refine issue_memInv (fun _ _ _ _ hu => ?_) h
  extract_lets
  split
  · split
    · exact hu
    · exact sendResult_memInv hu
  split
  · exact hu
  · exact sendResult_memInv hu

/-! Channels, batches and barrier instructions. -/

theorem instPut_memInv {ctx : Nat} {id : W64} {c : Cap} (h : MemInv s) : MemInv (instPut s ctx id c) := by
  unfold instPut
  split
  · exact h
  split <;> exact h

theorem wakeCap_memInv {id : W64} {c : Cap} (h : MemInv s) : MemInv (wakeCap s id c) := by
  unfold wakeCap
  split
  · split
    · split <;> exact h
    · exact h
  · exact h

theorem wakePush_memInv {ctx : Nat} {id : W64} (h : MemInv s) : MemInv (wakePush s ctx id) := by
  unfold wakePush
  split
  · exact wakeCap_memInv h
  · exact h

theorem wakePops_memInv {core q : Nat} (h : MemInv s) : MemInv (wakePops s core q) := by
  unfold wakePops
  split
  · exact h
  extract_lets s1
  have hs1 : MemInv s1 := memInv_foldl (fun _ _ hu => hu) h
  split
  · split
    · split <;> exact hs1
    · exact hs1
  · exact hs1

theorem capSet_memInv {g : Grp} {id : W64} {c : Cap} (h : MemInv s) : MemInv (capSet s g id c) := by
  unfold capSet
  split
  · exact instPut_memInv h
  · exact h

theorem sendMsgs_memInv {ms : List Msg} (h : MemInv s) : MemInv (sendMsgs s ms) := by
  unfold sendMsgs
  refine memInv_foldl (fun _ _ hu => ?_) h
  split
  · next s1 e =>
      have hs1 : MemInv s1 := memInv_snd e hu
      exact hs1

theorem idleVar_memInv {k : Nat} {g : Grp} {slot : Option Nat} (h : MemInv s) : ResInv (idleVar s k g slot) := sendResult_memInv h

theorem tagPush_memInv {k pc : Nat} {slot : Option Nat} (h : MemInv s) : MemInv (tagPush s k pc slot) := by
  unfold tagPush
  split <;> exact h

theorem pushSend_memInv {k : Nat} {g : Grp} {e : Env} {w : RWord (BitVec 12)} {id : W64} {c : Cap} {es : List (List Byte)}
    (h : MemInv s) :
    MemInv (pushSend s k g e w id c es) := by
  unfold pushSend
  extract_lets _ _ _ _ _ s4
  have hs4 : MemInv s4 := wakeCap_memInv (sendMsgs_memInv (capSet_memInv h))
  split
  · split
    · exact tagPush_memInv (sendResult_memInv hs4)
    · exact hs4
  · exact hs4

theorem execPush_memInv {w : RWord (BitVec 12)} (h : MemInv s) : NextInv (execPush w s) := by
  unfold execPush
  refine issue_memInv (fun _ _ _ _ hu => ?_) h
  split
  extract_lets
  split
  · exact idleVar_memInv hu
  split
  · exact hu
  split
  · exact hu
  split
  · exact hu
  split
  · exact hu
  split
  · exact pushSend_memInv hu
  split
  · exact sendResult_memInv hu
  · exact capSet_memInv hu

theorem queueRemove_memInv {core q : Nat} {x : QSlot} {n : Nat} (h : MemInv s) : MemInv (queueRemove s core q x n) :=
  sendMsgs_memInv h

theorem execPop_memInv {w : RWord (BitVec 12)} (h : MemInv s) : NextInv (execPop w s) := by
  unfold execPop
  refine issue_memInv (fun _ _ _ _ hu => ?_) h
  split
  extract_lets
  split
  · exact idleVar_memInv hu
  split
  · exact hu
  split
  · exact hu
  split
  · split
    · exact hu
    split
    · exact hu
    split
    · exact hu
    split
    · extract_lets _ _ _ s2
      have hs2 : MemInv s2 := memInv_ite (acquireL1_memInv hu) hu
      split
      · exact sendResult_memInv hs2
      · exact hs2
    split
    · exact sendResult_memInv hu
    · exact hu
  split
  · exact hu
  split
  · exact hu
  split
  · exact hu
  split
  · extract_lets _ _ s1 s2
    have hs1 : MemInv s1 := wakePops_memInv (queueRemove_memInv hu)
    have hs2 : MemInv s2 := memInv_ite (acquireL1_memInv hs1) hs1
    split
    · exact sendResult_memInv hs2
    · exact hs2
  split
  · exact sendResult_memInv hu
  · exact hu

theorem execCaprd_memInv {w : RWord (BitVec 12)} (h : MemInv s) : NextInv (execCaprd w s) := by
  unfold execCaprd
  refine issue_memInv (fun _ _ _ _ hu => ?_) h
  split
  exact sendResult_memInv hu

theorem onBar_memInv {w : RWord (BitVec 12)} {hi : Nat} {rel : Bool} {place : Option Nat} {idle : State → Nat → Grp → Res}
    {body : State → Nat → Grp → Env → Nat → Nat → Res} {k : Nat} {g : Grp} {e : Env}
    (hidle : ∀ u x1 x2, MemInv u → ResInv (idle u x1 x2))
    (hbody : ∀ u x1 x2 x3 x4 x5, MemInv u → ResInv (body u x1 x2 x3 x4 x5)) (h : MemInv s) :
    ResInv (onBar w hi rel place idle body s k g e) := by
  unfold onBar
  split
  · exact h
  split
  · exact hidle _ _ _ h
  split
  · exact h
  split
  · exact h
  split
  · exact hbody _ _ _ _ _ _ h
  split
  · split
    · exact h
    · exact hbody _ _ _ _ _ _ h
  · exact h

theorem execBinit_memInv {w : RWord (BitVec 12)} (h : MemInv s) : NextInv (execBinit w s) := by
  unfold execBinit
  refine issue_memInv (fun _ _ _ _ hu => ?_) h
  refine onBar_memInv (fun _ _ _ hu1 => hu1) (fun _ _ _ _ _ _ hu1 => ?_) hu
  split <;> exact hu1

theorem execBarrive_memInv {w : RWord (BitVec 12)} (h : MemInv s) : NextInv (execBarrive w s) := by
  unfold execBarrive
  refine issue_memInv (fun _ _ _ _ hu => ?_) h
  refine onBar_memInv (fun _ _ _ hu1 => hu1) (fun _ _ _ _ _ _ hu1 => ?_) hu
  extract_lets
  split
  · exact hu1
  · exact barEval_memInv hu1

theorem execBexpect_memInv {w : RWord (BitVec 12)} (h : MemInv s) : NextInv (execBexpect w s) := by
  unfold execBexpect
  refine issue_memInv (fun _ _ _ _ hu => ?_) h
  refine onBar_memInv (fun _ _ _ hu1 => hu1) (fun _ _ _ _ _ _ hu1 => ?_) hu
  extract_lets
  split
  · exact hu1
  split
  · exact hu1
  · exact barEval_memInv hu1

theorem execBwaitp_memInv {w : RWord (BitVec 12)} (h : MemInv s) : NextInv (execBwaitp w s) := by
  unfold execBwaitp
  extract_lets
  refine issue_memInv (fun _ _ _ _ hu => ?_) h
  refine onBar_memInv (fun _ _ _ hu1 => idleVar_memInv hu1) (fun _ _ _ _ _ _ hu1 => ?_) hu
  extract_lets
  split
  · exact sendResult_memInv hu1
  split
  · exact hu1
  split
  · exact sendResult_memInv hu1
  · exact hu1

theorem execBtest_memInv {w : RWord (BitVec 12)} (h : MemInv s) : NextInv (execBtest w s) := by
  unfold execBtest
  extract_lets
  refine issue_memInv (fun _ _ _ _ hu => ?_) h
  refine onBar_memInv (fun _ _ _ hu1 => sendResult_memInv hu1) (fun _ _ _ _ _ _ hu1 => ?_) hu
  split
  · exact sendResult_memInv hu1
  · exact hu1

theorem execBinval_memInv {w : RWord (BitVec 12)} (h : MemInv s) : NextInv (execBinval w s) := by
  unfold execBinval
  refine issue_memInv (fun _ _ _ _ hu => ?_) h
  refine onBar_memInv (fun _ _ _ hu1 => hu1) (fun _ _ _ _ _ _ hu1 => ?_) hu
  extract_lets
  exact memInv_foldl (fun _ _ hu2 => endBarWaits_memInv hu2) hu1

theorem execBclose_memInv {w : RWord (BitVec 12)} (h : MemInv s) : NextInv (execBclose w s) := by
  unfold execBclose
  refine issue_memInv (fun _ _ _ _ hu => ?_) h
  extract_lets
  split
  · exact sendResult_memInv hu
  split
  · exact hu
  · exact sendResult_memInv hu

theorem execBwait_memInv {w : RWord (BitVec 12)} (h : MemInv s) : NextInv (execBwait w s) := by
  unfold execBwait
  refine issue_memInv (fun _ _ _ _ hu => ?_) h
  extract_lets
  split
  · exact hu
  split
  · exact hu
  split
  · exact hu
  split <;> exact hu

theorem execBpoll_memInv {w : RWord (BitVec 12)} (h : MemInv s) : NextInv (execBpoll w s) := by
  unfold execBpoll
  refine issue_memInv (fun _ _ _ _ hu => ?_) h
  extract_lets
  split
  · exact hu
  split
  · exact hu
  · exact sendResult_memInv hu

theorem execQfence_memInv {w : RWord (BitVec 12)} (h : MemInv s) : NextInv (execQfence w s) := by
  unfold execQfence
  refine issue_memInv (fun _ _ _ _ hu => ?_) h
  split
  · exact hu
  split
  · exact hu
  split
  · next s1 e2 =>
      have hs1 : MemInv s1 := memInv_snd e2 hu
      extract_lets
      split <;> exact hs1

/-! Lane-crossing instructions. -/

theorem execRedi_memInv {w : RWord IntM} (h : MemInv s) : NextInv (execRedi w s) := by
  unfold execRedi
  refine issue_memInv (fun _ _ _ _ hu => ?_) h
  extract_lets
  split
  · exact hu
  · exact sendResult_memInv hu

theorem execScan_memInv {w : RWord IntM} (h : MemInv s) : NextInv (execScan w s) := by
  unfold execScan
  refine issue_memInv (fun _ _ _ _ hu => ?_) h
  extract_lets
  split
  · exact hu
  · exact sendResult_memInv hu

/-! Floating instructions. -/

theorem execFred_memInv {w : RWord FltM} (h : MemInv s) : NextInv (execFred w s) := by
  unfold execFred
  refine issue_memInv (fun _ _ _ _ hu => ?_) h
  extract_lets
  split
  · exact hu
  · exact prfAdd_memInv (sendResult_memInv hu)

/-! Engine instructions. -/

theorem putOp_memInv {k : Nat} {g : Grp} {i : Instr} {cls : Nat} {p : EngPlan} {bar : Option Nat} (h : MemInv s) :
    MemInv (putOp s k g i cls p bar) := by
  unfold putOp
  split
  · next s1 e =>
      have hs1 : MemInv s1 := memInv_snd e h
      exact prfAdd_memInv hs1

theorem planIssue_memInv {k : Nat} {g : Grp} {i : Instr} {cls : Nat} {bar : Option Nat} {p : EngPlan} (h : MemInv s) :
    ResInv (planIssue s k g i cls bar p) := by
  unfold planIssue
  split
  · exact h
  split
  · exact h
  split
  · exact h
  split
  · exact h
  · exact putOp_memInv h

theorem engBody_memInv {i : Instr} {cls : Nat} {c : Opnd} {pre : State → Grp → Env → Option Nat}
    {plan : State → Nat → Grp → Env → Except Nat EngPlan} {k : Nat} {g : Grp} {e : Env} (h : MemInv s) :
    ResInv (engBody i cls c pre plan s k g e) := by
  unfold engBody
  split
  · exact h
  split
  · exact h
  split
  · exact h
  split
  · exact h
  split
  · exact h
  · exact planIssue_memInv h

theorem execCpy_memInv {w : RWord (BitVec 12)} (h : MemInv s) : NextInv (execCpy w s) :=
  issue_memInv (fun _ _ _ _ hu => engBody_memInv hu) h

theorem execCpyT_memInv {w : RWord (BitVec 12)} (h : MemInv s) : NextInv (execCpyT w s) :=
  issue_memInv (fun _ _ _ _ hu => engBody_memInv hu) h

theorem execCpyCv_memInv {w : RWord (BitVec 12)} (h : MemInv s) : NextInv (execCpyCv w s) :=
  issue_memInv (fun _ _ _ _ hu => engBody_memInv hu) h

theorem execCpyMeta_memInv {w : RWord (BitVec 12)} (h : MemInv s) : NextInv (execCpyMeta w s) :=
  issue_memInv (fun _ _ _ _ hu => engBody_memInv hu) h

theorem execGather_memInv {w : RWord (BitVec 12)} (h : MemInv s) : NextInv (execGather w s) :=
  issue_memInv (fun _ _ _ _ hu => engBody_memInv hu) h

theorem execMzero_memInv {w : RWord (BitVec 12)} (h : MemInv s) : NextInv (execMzero w s) :=
  issue_memInv (fun _ _ _ _ hu => engBody_memInv hu) h

theorem execMloop_memInv {w : RWord (BitVec 12)} (h : MemInv s) : NextInv (execMloop w s) :=
  issue_memInv (fun _ _ _ _ hu => engBody_memInv hu) h

theorem execMloopSp_memInv {w : RWord (BitVec 12)} (h : MemInv s) : NextInv (execMloopSp w s) :=
  issue_memInv (fun _ _ _ _ hu => engBody_memInv hu) h

theorem execMacc_memInv {w : RWord (BitVec 12)} (h : MemInv s) : NextInv (execMacc w s) := by
  unfold execMacc
  refine issue_memInv (fun _ _ _ _ hu => ?_) h
  split
  · next s1 _ e =>
      have hs1 : MemInv s1 := ResInv.ok e (engBody_memInv hu)
      split <;> exact hs1
  · exact engBody_memInv hu

theorem execCbload_memInv {w : RWord (BitVec 12)} (h : MemInv s) : NextInv (execCbload w s) :=
  issue_memInv (fun _ _ _ _ hu => engBody_memInv hu) h

theorem execXfmJ_memInv {w : RWord (BitVec 12)} (h : MemInv s) : NextInv (execXfmJ w s) :=
  issue_memInv (fun _ _ _ _ hu => engBody_memInv hu) h

theorem execXfmR_memInv {w : RWord (BitVec 12)} (h : MemInv s) : NextInv (execXfmR w s) := by
  unfold execXfmR
  refine issue_memInv (fun _ _ _ _ hu => ?_) h
  extract_lets _ _ _ _ _ _ _ _ _ _ s1
  have hs1 : MemInv s1 := prfAdd_memInv hu
  split
  · exact hu
  split
  · exact hu
  split
  · exact hu
  split
  · exact hu
  split
  · exact sendResult_memInv hu
  split
  · exact hu
  split
  · exact hu
  split
  · exact hu
  · exact hu
  split
  · exact hs1
  · exact sendResult_memInv hs1

theorem decodeEnd_memInv {k : Nat} {g : Grp} {w : RWord (BitVec 12)} {span len cur count : Nat} {last err : Bool}
    {ws : List RegW} {rest : List Nat} (h : MemInv s) :
    ResInv (decodeEnd s k g w span len cur count last err ws rest) := sendResult_memInv h

theorem execDecode_memInv {w : RWord (BitVec 12)} (h : MemInv s) : NextInv (execDecode w s) := by
  unfold execDecode
  refine issue_memInv (fun _ _ _ _ hu => ?_) h
  extract_lets _ _ _ _ _ _ _ rest
  split
  split
  · exact hu
  split
  · exact sendResult_memInv hu
  split
  · exact hu
  split
  · exact hu
  split
  · exact hu
  split
  · exact hu
  extract_lets _ y
  clear_value rest
  split
  · exact decodeEnd_memInv hu
  split
  · exact hu
  clear_value y
  split
  · exact decodeEnd_memInv hu
  · exact decodeEnd_memInv hu
  extract_lets
  split
  · exact decodeEnd_memInv hu
  · exact hu

/-! Fetch. -/

theorem farText_memInv {g : Grp} {pa : Nat} (h : MemInv s) : MemInv (farText s g pa).1 := by
  unfold farText
  extract_lets n read
  have hread : ∀ u a m, MemInv u → PumpInv (read u a m) := fun _ _ _ hu => agentRead_memInv hu
  split
  · next e => exact PumpInv.stall e (hread _ _ _ h)
  · exact h
  · next s1 _ e =>
      have hs1 : MemInv s1 := PumpInv.done e (hread _ _ _ h)
      split
      · exact hs1
      · split
        · next e1 => exact PumpInv.stall e1 (hread _ _ _ hs1)
        · exact hs1
        · next s2 _ e1 =>
            have hs2 : MemInv s2 := PumpInv.done e1 (hread _ _ _ hs1)
            exact hs2

theorem fetchWord_memInv {k : Nat} {g : Grp} (h : MemInv s) : MemInv (fetchWord s k g).1 := by
  unfold fetchWord
  extract_lets
  split
  · exact h
  · next e => exact FilledInv.bad e (lookup_memInv h)
  · next s1 _ e1 =>
      have hs1 : MemInv s1 := FilledInv.leaf e1 (lookup_memInv h)
      extract_lets
      split
      · exact hs1
      split
      · exact farText_memInv hs1
      split
      · exact hs1
      · exact noteIntegrity_memInv hs1
      · exact noteIntegrity_memInv hs1

theorem fetch_memInv {k : Nat} {g : Grp} (h : MemInv s) : MemInv (fetch s k g).1 := by
  unfold fetch
  split
  · exact h
  split
  · next e1 => exact memInv_fst e1 (fetchWord_memInv h)
  split
  · exact h
  · exact fetchWord_memInv h

/-! The memory side's own steps. -/

theorem drainDone_memInv {id : Nat} (h : MemInv s) : MemInv (drainDone s id) := by
  unfold drainDone
  extract_lets
  exact memInv_foldl (fun _ _ hu => hu) h

theorem failAcc_memInv {id : Nat} {key : KeyId} {pa cause va : Nat} (h : MemInv s) : MemInv (failAcc s id key pa cause va) := by
  unfold failAcc
  split
  · exact h
  extract_lets _ _ _ _ s4
  have hs4 : MemInv s4 := drainDone_memInv h
  split
  · exact hs4
  split
  · exact haltKey_memInv hs4
  · exact haltRise_memInv hs4

theorem loadAt_memInv {id i : Nat} {a : Acc} {p : Part} (h : MemInv s) : MemInv (loadAt s id i a p) := by
  unfold loadAt
  extract_lets
  split
  · next s1 _ e =>
      have hs1 : MemInv s1 := PumpInv.done e (pumpRead_memInv h)
      extract_lets s2 s3
      have hs2 : MemInv s2 := memInv_ite (countRead_memInv hs1) hs1
      have hs3 : MemInv s3 := memInv_ite (l1Fill_memInv hs2) hs2
      exact hs3
  · next s1 _ e =>
      have hs1 : MemInv s1 := PumpInv.stall e (pumpRead_memInv h)
      exact hs1
  · exact failAcc_memInv h

theorem partsDone_memInv {id : Nat} {is : List Nat} (h : MemInv s) : MemInv (partsDone s id is) :=
  memInv_foldl (fun _ _ hu => hu) h

theorem partsHold_memInv {id : Nat} {is : List Nat} {h1 : Hold} (h : MemInv s) : MemInv (partsHold s id is h1) :=
  memInv_foldl (fun _ _ hu => hu) h

theorem storeAt_memInv {id : Nat} {a : Acc} {ps : Tab Part} (h : MemInv s) : MemInv (storeAt s id a ps) := by
  unfold storeAt
  split
  · exact h
  extract_lets
  split
  · next e => exact partsDone_memInv (countWrite_memInv (PumpInv.done e (pumpWrites_memInv h)))
  · next e => exact partsHold_memInv (PumpInv.stall e (pumpWrites_memInv h))
  · exact failAcc_memInv h

theorem atomView_memInv {v : TxView} {id : Nat} {a : Acc} {s : State} {x : Tab Part} (h : MemInv s) :
    MemInv (atomView v id a s x) := by
  unfold atomView
  split
  · exact h
  split
  · next s2 _ e =>
      have hs2 : MemInv s2 := PumpInv.stall e (viewAtomic_memInv h)
      exact hs2
  · exact failAcc_memInv h
  · next s2 _ e =>
      have hs2 : MemInv s2 := PumpInv.done e (viewAtomic_memInv h)
      exact atomView_memInv hs2

theorem atomAt_memInv {id : Nat} {a : Acc} {ps : Tab Part} (h : MemInv s) : MemInv (atomAt s id a ps) := by
  unfold atomAt
  split
  · exact h
  · split
    · exact elim_memInv h (fun _ _ => atomView_memInv h)
    · extract_lets is
      split
      · next e => exact partsHold_memInv (PumpInv.stall e (pumpRead_memInv h))
      · exact failAcc_memInv h
      · next s1 _ e =>
          have hs1 : MemInv s1 := PumpInv.done e (pumpRead_memInv h)
          split
          split
          · next e1 => exact partsHold_memInv (PumpInv.stall e1 (pumpWrite_memInv hs1))
          · exact failAcc_memInv h
          · next s2 _ e1 =>
              have hs2 : MemInv s2 := PumpInv.done e1 (pumpWrite_memInv hs1)
              refine partsDone_memInv (memInv_foldl (fun u r hu => ?_) (countWrite_memInv (pumpCount_memInv hs2)))
              exact hu

theorem onPart_memInv {acc part : Nat} {f : Acc → Part → State} (h : MemInv s) (hf : ∀ x0 x1, MemInv (f x0 x1)) :
    MemInv (onPart s acc part f) := by
  unfold onPart
  split
  · exact h
  split
  · exact h
  split
  · exact hf _ _
  · exact h

theorem execBankAccess_memInv {acc part : Nat} (h : MemInv s) : NextInv (execBankAccess acc part s) := by
  unfold execBankAccess
  refine event_memInv h ?_
  refine onPart_memInv h (fun _ _ => ?_)
  split
  case h_1 | h_2 =>
    split
    · exact h
    split
    · exact loadAt_memInv h
    split
    · exact storeAt_memInv h
    split
    · extract_lets
      split
      · exact h
      · exact atomAt_memInv h
    · exact h
  exact h

theorem pumpStore_memInv {acc line : Nat} {full : Bool} (h : MemInv s) : MemInv (pumpStore s acc line full) := by
  unfold pumpStore
  split
  · exact h
  extract_lets
  split
  · exact storeAt_memInv h
  · exact h

theorem execPumpFullWrite_memInv {acc line : Nat} (h : MemInv s) : NextInv (execPumpFullWrite acc line s) :=
  event_memInv h (pumpStore_memInv h)

theorem execPumpPartialWrite_memInv {acc line : Nat} (h : MemInv s) : NextInv (execPumpPartialWrite acc line s) :=
  event_memInv h (pumpStore_memInv h)

theorem execPumpRead_memInv {acc part : Nat} (h : MemInv s) : NextInv (execPumpRead acc part s) := by
  unfold execPumpRead
  refine event_memInv h ?_
  refine onPart_memInv h (fun _ _ => ?_)
  split
  · exact loadAt_memInv h
  · exact h

theorem execPumpAtomic_memInv {acc part : Nat} (h : MemInv s) : NextInv (execPumpAtomic acc part s) := by
  unfold execPumpAtomic
  refine event_memInv h ?_
  refine onPart_memInv h (fun _ _ => ?_)
  extract_lets
  split
  · exact atomAt_memInv h
  · exact h

theorem execReencryptComplete_memInv {grp : Nat} (h : MemInv s) : NextInv (execReencryptComplete grp s) :=
  event_memInv h (endReenc_memInv h)

theorem endFaultWait_memInv {k : Nat} (h : MemInv s) : MemInv (endFaultWait s k) := by
  unfold endFaultWait
  split
  · split <;> exact h
  · exact h

theorem respond_memInv {acc : Nat} (h : MemInv s) : MemInv (respond s acc) := by
  unfold respond
  split
  · exact h
  split
  case h_1 | h_2 | h_3 =>
    split
    · exact h
    extract_lets
    split
    · exact h
    extract_lets
    exact endFaultWait_memInv (memInv_ite (acquireL1_memInv h) h)
  · split <;> exact h
  · exact h

theorem execMemoryResponse_memInv {acc : Nat} (h : MemInv s) : NextInv (execMemoryResponse acc s) :=
  event_memInv h (respond_memInv h)

theorem storeAck_memInv {acc : Nat} (h : MemInv s) : MemInv (storeAck s acc) := by
  unfold storeAck
  split
  · exact h
  split
  · exact drainDone_memInv h
  · exact h

theorem execStoreAck_memInv {acc : Nat} (h : MemInv s) : NextInv (execStoreAck acc s) := event_memInv h (storeAck_memInv h)

theorem execWkeyLoad_memInv {slot : Nat} (h : MemInv s) : NextInv (execWkeyLoad slot s) := by
  unfold execWkeyLoad
  refine event_memInv h ?_
  split <;> exact h

theorem execWkeyRekey_memInv {slot : Nat} {x : List Nat} (h : MemInv s) : NextInv (execWkeyRekey slot x s) := by
  unfold execWkeyRekey
  refine event_memInv h ?_
  split <;> exact h

theorem execWkeyClear_memInv {slot : Nat} (h : MemInv s) : NextInv (execWkeyClear slot s) := by
  unfold execWkeyClear
  refine event_memInv h ?_
  split <;> exact h

theorem execRekeyLine_memInv {slot line : Nat} (h : MemInv s) : NextInv (execRekeyLine slot line s) := by
  unfold execRekeyLine
  refine event_memInv h ?_
  extract_lets
  split <;> exact h

theorem execSnapshotWaitEnd_memInv {acc : Nat} (h : MemInv s) : NextInv (execSnapshotWaitEnd acc s) := by
  unfold execSnapshotWaitEnd
  refine event_memInv h ?_
  split
  · exact h
  refine memInv_foldl (fun _ _ hu => ?_) h
  split
  · split
    · extract_lets t1
      have ht1 : MemInv t1 := loadAt_memInv hu
      split
      · exact pumpCount_memInv ht1
      · exact ht1
    split
    · exact atomAt_memInv hu
    · exact hu
  · split
    · exact loadAt_memInv hu
    · exact hu
  · exact hu

theorem execPoolWaitEnd_memInv {acc : Nat} (h : MemInv s) : NextInv (execPoolWaitEnd acc s) := by
  unfold execPoolWaitEnd
  refine event_memInv h ?_
  split
  · exact h
  split
  · exact h
  split
  · exact storeAt_memInv h
  split
  · exact atomAt_memInv h
  · exact h

theorem execPoolWaitTimeout_memInv {acc : Nat} (h : MemInv s) : NextInv (execPoolWaitTimeout acc s) := by
  unfold execPoolWaitTimeout
  refine event_memInv h ?_
  split
  · exact h
  split
  · exact h
  · exact failAcc_memInv h

theorem execWaitaRegister_memInv {acc part : Nat} (h : MemInv s) : NextInv (execWaitaRegister acc part s) := by
  unfold execWaitaRegister
  refine event_memInv h ?_
  refine onPart_memInv h (fun _ _ => ?_)
  split
  · exact h
  split
  · next s1 _ e1 =>
      have hs1 : MemInv s1 := PumpInv.stall e1 (pumpRead_memInv h)
      exact hs1
  · exact failAcc_memInv h
  · next s1 _ e1 =>
      have hs1 : MemInv s1 := PumpInv.done e1 (pumpRead_memInv h)
      extract_lets
      split
      · exact hs1
      split
      · exact hs1
      split <;> exact hs1

theorem execWaitaDeadline_memInv {acc part : Nat} (h : MemInv s) : NextInv (execWaitaDeadline acc part s) := by
  unfold execWaitaDeadline
  refine event_memInv h ?_
  split <;> exact h

theorem execWaitaWake_memInv {acc : Nat} (h : MemInv s) : NextInv (execWaitaWake acc s) := by
  unfold execWaitaWake
  refine event_memInv h ?_
  split
  · exact h
  split
  · exact h
  extract_lets
  split
  · exact h
  extract_lets
  exact endFaultWait_memInv (memInv_ite (acquireL1_memInv h) h)

/-! The walk units' own steps. -/

theorem execPageWalk_memInv {ctx die va : Nat} (h : MemInv s) : NextInv (execPageWalk ctx die va s) := by
  unfold execPageWalk
  refine event_memInv h ?_
  split
  · exact h
  split
  · next e2 => exact FilledInv.leaf e2 (walkFill_memInv h)
  · next e1 => exact FilledInv.bad e1 (walkFill_memInv h)
  · exact h

theorem execSetDirty_memInv {ctx va : Nat} (h : MemInv s) : NextInv (execSetDirty ctx va s) := by
  unfold execSetDirty
  refine event_memInv h ?_
  split
  · exact h
  split
  · split
    · exact setDirty_memInv h
    · exact h
  · exact h

theorem execFaultRecordWaitEnd_memInv {ctx : Nat} (h : MemInv s) : NextInv (execFaultRecordWaitEnd ctx s) := by
  unfold execFaultRecordWaitEnd
  refine event_memInv h ?_
  split
  · exact h
  split
  · exact h
  · next s2 e1 =>
      have hs2 : MemInv s2 := OptInv.some e1 (ringPush_memInv h)
      exact hs2

theorem replayWrite_memInv {id : Nat} {a : Acc} {g : Grp} {x : Xl} {h1 : Part} {ps : Tab Part} (h : MemInv s) :
    ReplayedInv (replayWrite s id a g x h1 ps) := by
  unfold replayWrite
  extract_lets _ _ put
  have hput : ∀ ws, ReplayedInv (put ws) := by
    intro ws
    unfold put
    extract_lets r t
    have hr : MemInv r.1 :=
      List.foldlRecOn (motive := fun r : State × List Part => MemInv r.1) _ _ h (fun _ hq _ _ => putWr_memInv hq)
    have ht : MemInv t := memInv_foldl (fun _ _ hu => memInv_ite hu hu) hr
    exact memInv_ite ht ht
  split
  · exact hput _
  · exact hput _
  · split <;> exact h
  · split <;> exact h

theorem replayThread_memInv {id : Nat} {a : Acc} {g : Grp} {h1 : Part} {ps : Tab Part} (h : MemInv s) :
    ReplayedInv (replayThread s id a g h1 ps) := by
  unfold replayThread
  extract_lets
  split
  · next e => exact XlInv.fault e (translateOnly_memInv h)
  · next s1 _ e =>
      have hs1 : MemInv s1 := XlInv.absent e (translateOnly_memInv h)
      split
      · split
        · next e2 => exact memInv_fst e2 (noteFault_memInv hs1)
      · exact hs1
  · next s1 _ e =>
      have hs1 : MemInv s1 := XlInv.ok e (translateOnly_memInv h)
      extract_lets s2
      have hs2 : MemInv s2 := memInv_ite (dirtyFor_memInv hs1) hs1
      split
      · exact hs2
      · exact replayWrite_memInv hs2

theorem replayAcc_memInv {sel : Hold → Bool} {n : Nat} {s : State} {n1 : Nat} (h : MemInv s) : MemInv (replayAcc sel n s n1) := by
  unfold replayAcc
  split
  · exact h
  split
  · exact h
  split
  · extract_lets
    split
    · next s2 _ e3 =>
        have hs2 : MemInv s2 := ReplayedInv.fault e3 (replayThread_memInv h)
        exact failAcc_memInv hs2
    · next s2 _ e3 =>
        have hs2 : MemInv s2 := ReplayedInv.ok e3 (replayThread_memInv h)
        exact replayAcc_memInv hs2
  · exact h

theorem ackEmpty_memInv {id : Nat} (h : MemInv s) : MemInv (ackEmpty s id) := by
  unfold ackEmpty
  split
  · split
    · exact storeAck_memInv h
    · exact h
  · exact h

theorem execFltreplayReplay_memInv {vf seq : Nat} (h : MemInv s) : NextInv (execFltreplayReplay vf seq s) := by
  unfold execFltreplayReplay
  refine event_memInv h ?_
  extract_lets
  exact memInv_foldl (fun _ _ hu => ackEmpty_memInv (replayAcc_memInv hu)) h

theorem execFltreplayCancel_memInv {vf seq : Nat} (h : MemInv s) : NextInv (execFltreplayCancel vf seq s) := by
  unfold execFltreplayCancel
  refine event_memInv h ?_
  extract_lets _ _ _ _ _ _ _ _ s3
  have hs3 : MemInv s3 := memInv_foldl (fun _ _ hu => haltRise_memInv hu) (memInv_foldl (fun _ _ hu => failAcc_memInv hu) h)
  exact memInv_foldl (fun _ _ hu => raiseGroup_memInv hu) (memInv_foldl (fun _ _ hu => haltRise_memInv hu) hs3)

theorem tlbinv_memInv {ctl : W64} {scope : Nat} (h : MemInv s) : MemInv (tlbinv s ctl scope) := by
  unfold tlbinv
  split <;> exact h

theorem execTlbinvRange_memInv {ctl : BitVec 64} (h : MemInv s) : NextInv (execTlbinvRange ctl s) :=
  event_memInv h (tlbinv_memInv h)

theorem execTlbinvVf_memInv {ctl : BitVec 64} (h : MemInv s) : NextInv (execTlbinvVf ctl s) := event_memInv h (tlbinv_memInv h)

theorem execTlbinvAll_memInv {ctl : BitVec 64} (h : MemInv s) : NextInv (execTlbinvAll ctl s) := event_memInv h (tlbinv_memInv h)

theorem execTlbinvText_memInv {ctl : BitVec 64} (h : MemInv s) : NextInv (execTlbinvText ctl s) :=
  event_memInv h (tlbinv_memInv h)

theorem execTlbinvComplete_memInv (h : MemInv s) : NextInv (execTlbinvComplete s) := by
  unfold execTlbinvComplete
  refine event_memInv h ?_
  split <;> exact h

/-! Engine operations as they run. -/

theorem onOp_memInv {id : Nat} {f : EngOp → State} (h : MemInv s) (hf : ∀ x0, MemInv (f x0)) : MemInv (onOp s id f) := by
  unfold onOp
  split
  · split
    · exact hf _
    · exact h
  · exact h

theorem opFail_memInv {id cause va : Nat} {key : KeyId} {pa : Nat} (h : MemInv s) : MemInv (opFail s id cause va key pa) := by
  unfold opFail
  split
  · exact h
  split
  · exact haltKey_memInv h
  · exact haltRise_memInv h

theorem stallKeep_memInv {s s1 : State} {held h1 : Hold} (h : MemInv s) : MemInv (stallKeep s s1 held h1) := by
  unfold stallKeep
  extract_lets
  split <;> exact h

theorem opEnd_memInv {id : Nat} {o : EngOp} {rd wr : Nat} {r : ER State} (h : MemInv s) (hr : OpInv r) :
    MemInv (opEnd s id o rd wr r) := by
  unfold opEnd
  split
  · exact hr
  · extract_lets h'
    clear_value h'
    split
    · split
      · exact opFail_memInv h
      · exact stallKeep_memInv h
    · exact stallKeep_memInv h
  · split
    · split
      · next s2 _ e1 =>
          have hs2 : MemInv s2 := memInv_fst e1 (noteFault_memInv hr)
          exact hs2
    · exact opFail_memInv hr
  · exact opFail_memInv hr

theorem glbXlate_memInv {ck : Nat} {a : Agent} {write : Bool} {u : NumxUse} {va n : Nat} (h : MemInv s) :
    ErInv (glbXlate s ck a write u va n) := by
  unfold glbXlate
  split
  · next s1 _ e =>
      have hs1 : MemInv s1 := XlInv.fault e (translate_memInv h)
      exact hs1
  · next s1 _ e =>
      have hs1 : MemInv s1 := XlInv.absent e (translate_memInv h)
      exact hs1
  · next s1 _ e =>
      have hs1 : MemInv s1 := XlInv.ok e (translate_memInv h)
      split <;> exact hs1

theorem engXlate_memInv {o : EngOp} {loc write : Bool} {u : NumxUse} {va n : Nat} (h : MemInv s) :
    ErInv (engXlate s o loc write u va n) := by
  unfold engXlate
  split
  · split
    · exact h
    split
    · exact h
    split <;> exact h
  · exact glbXlate_memInv h

theorem readRange_memInv {owner ck : Nat} {r : PRange} {snap : Option Nat} (h : MemInv s) :
    ErInv (readRange s owner ck r snap) := by
  unfold readRange
  extract_lets
  refine List.foldlRecOn (motive := ErInv) _ _ h (fun _ hr1 _ _ => ?_)
  refine ER_bind_memInv hr1 (fun _ _ hu => ?_)
  split
  · next e1 => exact countRead_memInv (PumpInv.done e1 (agentRead_memInv hu))
  · next e1 => exact PumpInv.stall e1 (agentRead_memInv hu)
  · exact hu

theorem writeRange_memInv {owner ck : Nat} {core : Option Nat} {r : PRange} {bs : List Byte} (h : MemInv s) :
    ErInv (writeRange s owner ck core r bs) := by
  unfold writeRange
  refine ER_bind_memInv ?_ (fun u _ hu => hu)
  refine List.foldlRecOn (motive := ErInv) _ _ h (fun q hq x _ => ER_bind_memInv hq (fun u y hu => ?_))
  split
  · next s1 _ e =>
      have hs1 : MemInv s1 := PumpInv.done e (agentWrite_memInv hu)
      exact countWrite_memInv (elim_memInv hs1 (fun _ _ => hs1))
  · next e => exact PumpInv.stall e (agentWrite_memInv hu)
  · exact hu

theorem engRead_memInv {o : EngOp} {loc layout : Bool} {snap : Option Nat} {va n : Nat} (h : MemInv s) :
    ErInv (engRead s o loc layout snap va n) := by
  unfold engRead
  refine List.foldlRecOn (motive := ErInv) _ _ h (fun _ hr _ _ => ?_)
  refine ER_bind_memInv hr (fun _ _ hu => ?_)
  exact ER_bind_memInv (engXlate_memInv hu) (fun _ _ hu1 => ER_bind_memInv (readRange_memInv hu1) (fun _ _ hu2 => hu2))

theorem engWrite_memInv {o : EngOp} {loc : Bool} {numx va n : Nat} {bs : List Byte} (h : MemInv s) :
    ErInv (engWrite s o loc numx va n bs) := by
  unfold engWrite
  refine ER_bind_memInv ?_ (fun _ _ hu => hu)
  refine List.foldlRecOn (motive := ErInv) _ _ h (fun _ hr _ _ => ?_)
  refine ER_bind_memInv hr (fun _ _ hu => ?_)
  exact ER_bind_memInv (engXlate_memInv hu) (fun _ _ hu1 => ER_bind_memInv (writeRange_memInv hu1) (fun _ _ hu2 => hu2))

theorem landTo_memInv {id : Nat} {o : EngOp} {n : Nat} (h : MemInv s) : OpInv (landTo s id o n) := by
  unfold landTo
  split
  · exact h
  split
  · exact h
  split
  · next e2 => exact OptInv.some e2 (landSectors_memInv h)
  · exact h

theorem unitDone_memInv {id : Nat} {o : EngOp} {sectors : Nat} (h : MemInv s) : OpInv (unitDone s id o sectors) := landTo_memInv h

theorem copyUnit_memInv {id : Nat} {o : EngOp} {f t : CopyEnd} {al sn dn : Nat}
    {conv : State → List Byte → Nat → Except Nat (State × List Byte)} {sectors : Nat} (h : MemInv s)
    (hconv : ∀ u bs n, MemInv u → ExcFstInv (conv u bs n)) :
    OpInv (copyUnit s id o f t al sn dn conv sectors) := by
  unfold copyUnit
  split
  · exact h
  · split
    · exact h
    · extract_lets off
      split
      · exact h
      · exact h
      · refine ER_bind_opInv (engRead_memInv h) (fun u x hu => ?_)
        extract_lets nx
        split
        · exact hu
        · split
          · exact hu
          · next t1 _ e =>
              have ht1 : MemInv t1 := ExcFstInv.ok e (hconv _ _ _ hu)
              exact ER_bind_opInv (engWrite_memInv ht1) (fun _ _ hv => unitDone_memInv hv)

theorem convElems_memInv {st dt : Ty} {pol n x : Nat} (h : MemInv s) : ExcFstInv (convElems s st dt pol n x) := by
  unfold convElems
  split
  · trivial
  extract_lets
  split <;> exact h

theorem copyStep_memInv {id : Nat} {o : EngOp} (h : MemInv s) : OpInv (copyStep s id o) := by
  unfold copyStep
  extract_lets
  split
  · extract_lets
    exact copyUnit_memInv h (fun _ _ _ hu => hu)
  · split
    exact copyUnit_memInv h (fun _ _ _ hu => hu)
  · split
    split
    exact copyUnit_memInv h (fun _ _ _ hu => convElems_memInv hu)
  · exact h

theorem gatherStep_memInv {id : Nat} {o : EngOp} (h : MemInv s) : OpInv (gatherStep s id o) := by
  unfold gatherStep
  extract_lets
  refine ER_bind_opInv (engRead_memInv h) (fun _ _ hu => ?_)
  extract_lets
  split
  · exact hu
  split
  · exact hu
  · exact ER_bind_opInv (readRange_memInv hu) (fun _ _ hu1 => unitDone_memInv hu1)

theorem opStart_memInv {id : Nat} {o : EngOp} (h : MemInv s) : MemInv (opStart s id o) := by
  unfold opStart
  extract_lets
  split
  case h_3 | h_4 =>
    split
    · split <;> exact h
    · exact h
  · exact h
  · exact opEnd_memInv h (ER_bind_opInv (engRead_memInv h) (fun _ _ hu => hu))
  · exact h

theorem execEngineOpStart_memInv {op : Nat} (h : MemInv s) : NextInv (execEngineOpStart op s) := by
  unfold execEngineOpStart
  refine event_memInv h ?_
  split
  · split
    · exact opStart_memInv h
    · exact h
  · exact h

theorem execEngineLineTransfer_memInv {op : Nat} (h : MemInv s) : NextInv (execEngineLineTransfer op s) := by
  unfold execEngineLineTransfer
  refine event_memInv h ?_
  refine onOp_memInv h (fun _ => ?_)
  split
  · exact opEnd_memInv h (copyStep_memInv h)
  · exact opEnd_memInv h (copyStep_memInv h)
  · exact opEnd_memInv h (copyStep_memInv h)
  · exact opEnd_memInv h (gatherStep_memInv h)
  · exact h

theorem execSparsityQueuePush_memInv {op : Nat} (h : MemInv s) : NextInv (execSparsityQueuePush op s) := by
  unfold execSparsityQueuePush
  refine event_memInv h ?_
  refine onOp_memInv h (fun _ => ?_)
  split
  · split
    · exact h
    extract_lets
    refine opEnd_memInv h ?_
    split
    · exact h
    · exact ER_bind_opInv (engRead_memInv h) (fun _ _ hu => hu)
  · exact h

theorem engRows_memInv {o : EngOp} {row : Int} {n : Nat} (h : MemInv s) : ErInv (engRows s o row n) := by
  unfold engRows
  split
  · exact h
  split
  · exact h
  · exact ER_bind_memInv (readRange_memInv h) (fun _ _ hu => hu)

theorem kStep_memInv {id : Nat} {o : EngOp} (h : MemInv s) : OpInv (kStep s id o) := by
  unfold kStep
  split
  extract_lets _ _ _ _ _ _ _ _ _ s2 _ ra
  have hs2 : MemInv s2 := memInv_ite h h
  have hra : ErInv ra := by
    unfold ra
    split
    · exact hs2
    · exact engRows_memInv hs2
  split
  · exact h
  split
  · exact hs2
  refine ER_bind_opInv hra (fun _ _ hu => ?_)
  refine ER_bind_opInv (engRows_memInv hu) (fun _ _ hu1 => ?_)
  extract_lets
  split
  · exact hu1
  · exact prfAdd_memInv hu1

theorem execMloopKStep_memInv {op : Nat} (h : MemInv s) : NextInv (execMloopKStep op s) := by
  unfold execMloopKStep
  refine event_memInv h ?_
  refine onOp_memInv h (fun _ => ?_)
  split
  · exact h
  split
  · split <;> exact h
  · exact opEnd_memInv h (kStep_memInv h)

theorem maccStep_memInv {id : Nat} {o : EngOp} {w : RWord (BitVec 12)} (h : MemInv s) : OpInv (maccStep s id o w) := by
  unfold maccStep
  extract_lets
  split
  · split
    · exact h
    split
    · exact h
    · exact ER_bind_opInv (engWrite_memInv h) (fun _ _ hu => hu)
  split
  · exact h
  extract_lets ws
  clear_value ws
  split <;> exact h

theorem execMaccReadout_memInv {op : Nat} (h : MemInv s) : NextInv (execMaccReadout op s) := by
  unfold execMaccReadout
  refine event_memInv h ?_
  refine onOp_memInv h (fun _ => ?_)
  split
  · exact opEnd_memInv h (maccStep_memInv h)
  · exact h

theorem jobDone_memInv {id : Nat} {o : EngOp} {prog out : Nat} (h : MemInv s) : OpInv (jobDone s id o prog out) :=
  ER_bind_opInv (engWrite_memInv h) (fun _ _ hu => landTo_memInv hu)

theorem srcByte_memInv {o : EngOp} {c : Card3} {p : Nat} (h : MemInv s) : ErInv (srcByte s o c p) := by
  unfold srcByte
  split
  · exact h
  · exact ER_bind_memInv (engRead_memInv h) (fun _ _ hu => hu)

theorem srcLeb_memInv {o : EngOp} {c : Card3} {n : Nat} {s : State} {n1 n2 n3 : Nat} (h : MemInv s) :
    ErInv (srcLeb o c n s n1 n2 n3) := by
  unfold srcLeb
  split
  · exact h
  refine ER_bind_memInv (srcByte_memInv h) (fun _ _ hu => ?_)
  extract_lets
  split
  · split <;> exact hu
  · exact srcLeb_memInv hu

theorem srcExt_memInv {o : EngOp} {c : Card3} {nib p : Nat} (h : MemInv s) : ErInv (srcExt s o c nib p) := by
  unfold srcExt
  split
  · exact srcLeb_memInv h
  · exact h

theorem lzStep_memInv {id : Nat} {o : EngOp} {c : Card3} (h : MemInv s) : OpInv (lzStep s id o c) := by
  unfold lzStep
  extract_lets
  refine ER_bind_opInv (srcByte_memInv h) (fun _ _ hu => ?_)
  refine ER_bind_opInv (srcExt_memInv hu) (fun _ _ hu1 => ?_)
  extract_lets
  split
  · exact hu1
  refine ER_bind_opInv (srcLeb_memInv hu1) (fun _ _ hu2 => ?_)
  refine ER_bind_opInv ?_ (fun _ _ hu3 => ?_)
  · split
    · exact hu2
    · exact srcExt_memInv hu2
  extract_lets
  split
  · exact hu3
  refine ER_bind_opInv (engRead_memInv hu3) (fun _ _ hu4 => ?_)
  refine ER_bind_opInv (engRead_memInv hu4) (fun _ _ hu5 => ?_)
  extract_lets
  refine ER_bind_opInv (engWrite_memInv hu5) (fun _ _ hu6 => ?_)
  split
  · exact jobDone_memInv hu6
  · exact hu6

theorem jobValues_memInv {o : EngOp} {c : Card3} {dt : Ty} {e0 n : Nat} (h : MemInv s) : ErInv (jobValues s o c dt e0 n) := by
  unfold jobValues
  extract_lets
  split
  · refine ER_bind_memInv (engRead_memInv h) (fun _ _ hu => ?_)
    split
    · exact hu
    · next e1 => exact ExcFstInv.ok e1 (convElems_memInv hu)
  refine ER_bind_memInv (engRead_memInv h) (fun _ _ hu => ?_)
  refine ER_bind_memInv (engRead_memInv hu) (fun _ _ hu1 => ?_)
  extract_lets
  split <;> exact hu1

theorem jobStep_memInv {id : Nat} {o : EngOp} {c : Card3} (h : MemInv s) : OpInv (jobStep s id o c) := by
  unfold jobStep
  extract_lets
  split
  · exact jobDone_memInv h
  split
  · exact h
  refine ER_bind_opInv (jobValues_memInv h) (fun _ _ hu => ?_)
  refine ER_bind_opInv (engWrite_memInv hu) (fun _ _ hu1 => ?_)
  split
  · exact jobDone_memInv hu1
  · exact hu1

theorem execXfmJobBlock_memInv {op : Nat} (h : MemInv s) : NextInv (execXfmJobBlock op s) := by
  unfold execXfmJobBlock
  refine event_memInv h ?_
  refine onOp_memInv h (fun _ => ?_)
  split
  · extract_lets
    refine opEnd_memInv h ?_
    split
    · exact h
    split
    · exact lzStep_memInv h
    · exact jobStep_memInv h
  · exact h

theorem wakeBatches_memInv {k cls : Nat} (h : MemInv s) : MemInv (wakeBatches s k cls) := by
  unfold wakeBatches
  split
  · exact h
  extract_lets
  split <;> exact h

theorem execEngineOpComplete_memInv {op : Nat} (h : MemInv s) : NextInv (execEngineOpComplete op s) := by
  unfold execEngineOpComplete
  refine event_memInv h ?_
  split
  · exact h
  split
  · exact h
  extract_lets
  exact endTeam_memInv (memInv_ite (wakeBatches_memInv h) h)

/-! The package as a whole. -/

theorem bootStep_memInv {a b : Boot} (h : MemInv s) : MemInv (bootStep s a b) := by
  unfold bootStep
  split <;> exact h

theorem execPowerGood_memInv (h : MemInv s) : NextInv (execPowerGood s) := by
  unfold execPowerGood
  refine event_memInv h ?_
  split
  · exact bootStep_memInv h
  · exact h

theorem execSelfTestDone_memInv {pass : Bool} {unit : Nat} (h : MemInv s) : NextInv (execSelfTestDone pass unit s) := by
  unfold execSelfTestDone
  refine event_memInv h ?_
  split
  · exact h
  split
  · extract_lets s1
    have hs1 : MemInv s1 := bootStep_memInv h
    split
    · exact hs1
    · exact memInv_foldl (fun _ _ hu => hu) hs1
  · exact h

theorem execImageReceived_memInv (h : MemInv s) : NextInv (execImageReceived s) := by
  unfold execImageReceived
  refine event_memInv h ?_
  split
  · exact bootStep_memInv h
  · exact h

theorem execImageVerified_memInv {image : FwImage} (h : MemInv s) : NextInv (execImageVerified image s) := by
  unfold execImageVerified
  refine event_memInv h ?_
  split
  · exact h
  split <;> exact h

theorem trip_memInv {d : Nat} (h : MemInv s) : MemInv (trip s d) := by
  unfold trip
  extract_lets
  split <;> exact memInv_foldl (fun _ _ hu => haltRise_memInv hu) h

theorem execThermalTrip_memInv {die temp : Nat} (h : MemInv s) : NextInv (execThermalTrip die temp s) := by
  unfold execThermalTrip
  split
  · exact h
  extract_lets
  split
  · exact h
  split
  · exact h
  · exact trip_memInv h

theorem execTripClear_memInv {die : Nat} (h : MemInv s) : NextInv (execTripClear die s) := by
  unfold execTripClear
  refine event_memInv h ?_
  split <;> exact h

theorem execFreeze_memInv (h : MemInv s) : NextInv (execFreeze s) := by
  unfold execFreeze
  split <;> exact h

theorem execThaw_memInv {gts : Nat} (h : MemInv s) : NextInv (execThaw gts s) := by
  unfold execThaw
  split
  · exact h
  extract_lets
  exact memInv_foldl (fun _ _ hu => trip_memInv hu) (memInv_foldl (fun _ _ hu => eventPush_memInv hu) h)

theorem execCoreFailure_memInv {core cause : Nat} (h : MemInv s) : NextInv (execCoreFailure core cause s) := by
  unfold execCoreFailure
  refine event_memInv h ?_
  split
  · exact h
  extract_lets
  exact memInv_foldl (fun _ _ hu => haltRise_memInv hu) h

theorem execSoftError_memInv {die : Nat} (h : MemInv s) : NextInv (execSoftError die s) := by
  unfold execSoftError
  refine event_memInv h ?_
  split <;> exact h

theorem execPatrolScrub_memInv {die line : Nat} {corrected : Bool} (h : MemInv s) :
    NextInv (execPatrolScrub die line corrected s) := by
  unfold execPatrolScrub
  refine event_memInv h ?_
  split
  · exact h
  split
  · exact h
  split <;> exact h

theorem execUncorrectableError_memInv {w : ErrWord} (h : MemInv s) : NextInv (execUncorrectableError w s) := by
  unfold execUncorrectableError
  refine event_memInv h ?_
  split
  · split
    · split <;> exact h
    · split <;> exact h
    · exact h
  · exact h
  · exact h
  · exact h

theorem execPackageReset_memInv (h : MemInv s) : NextInv (execPackageReset s) := memFilter_wf _ none s.mem h

theorem execStartGrant_memInv {die : Nat} (h : MemInv s) : NextInv (execStartGrant die s) := by
  unfold execStartGrant
  refine event_memInv h ?_
  split <;> exact h

theorem execVariableLatencyResult_memInv {grp res : Nat} (h : MemInv s) : NextInv (execVariableLatencyResult grp res s) := by
  unfold execVariableLatencyResult
  refine event_memInv h ?_
  split
  · exact h
  split <;> exact h

/-! Kernels, teams and grids. -/

theorem launchWrite_memInv {ck va : Nat} {bs : List Byte} (h : MemInv s) : OutInv (launchWrite s ck va bs) := by
  unfold launchWrite
  split
  · next s1 _ e =>
      have hs1 : MemInv s1 := XlInv.fault e (translate_memInv h)
      exact hs1
  · next s1 _ e =>
      have hs1 : MemInv s1 := XlInv.absent e (translate_memInv h)
      exact hs1
  · next s1 _ e =>
      have hs1 : MemInv s1 := XlInv.ok e (translate_memInv h)
      split
      · next s2 _ e1 =>
          have hs2 : MemInv s2 := PumpInv.done e1 (agentWrite_memInv hs1)
          exact countWrite_memInv hs2
      · next s2 _ e1 =>
          have hs2 : MemInv s2 := PumpInv.stall e1 (agentWrite_memInv hs1)
          split
          · exact hs2
          split <;> exact hs1
      · next s2 _ _ e2 =>
          have hs2 : MemInv s2 := PumpInv.stall e2 (agentWrite_memInv hs1)
          exact hs2
      · exact noteIntegrity_memInv hs1

theorem servePost_memInv {p : Posted} (h : MemInv s) : MemInv (servePost s p) := by
  unfold servePost
  split
  · next s1 _ _ _ e =>
      have hs1 : MemInv s1 := memInv_fst e (hostWrite_memInv h)
      extract_lets keep
      split
      · unfold keep
        split <;> exact hs1
      split
      · unfold keep
        split <;> exact hs1
      split
      · unfold keep
        split <;> exact h
      unfold keep
      split <;> exact h

theorem servePosted_memInv (h : MemInv s) : MemInv (servePosted s) := by
  unfold servePosted
  extract_lets
  split <;> exact memInv_foldl (fun _ _ hu => servePost_memInv hu) h

theorem launchWriteNow_memInv {ck va : Nat} {bs : List Byte} (h : MemInv s) : OutInv (launchWriteNow s ck va bs) := by
  unfold launchWriteNow
  split
  · next e => exact XlInv.fault e (translate_memInv h)
  · next e => exact XlInv.absent e (translate_memInv h)
  · next s1 _ e =>
      have hs1 : MemInv s1 := XlInv.ok e (translate_memInv h)
      split
      · exact hs1
      · exact servePost_memInv hs1

theorem launchRead_memInv {ck va n : Nat} (h : MemInv s) : OutInv (launchRead s ck va n).1 := by
  unfold launchRead
  split
  · next e => exact XlInv.fault e (translate_memInv h)
  · next e => exact XlInv.absent e (translate_memInv h)
  · next s1 _ e =>
      have hs1 : MemInv s1 := XlInv.ok e (translate_memInv h)
      split
      · next e1 => exact PumpInv.done e1 (agentRead_memInv hs1)
      · next e1 => exact PumpInv.stall e1 (agentRead_memInv hs1)
      · exact noteIntegrity_memInv hs1

theorem writeRecord_memInv {ck : Nat} {l ws : List W64} (h : MemInv s) : ExcInv (writeRecord s ck l ws) := by
  unfold writeRecord
  split
  · next e => exact OutInv.ok e (launchWrite_memInv h)
  · exact h
  · next e => exact haltRise_memInv (OutInv.fault e (launchWrite_memInv h))

theorem writeRecordNow_memInv {ck : Nat} {l ws : List W64} (h : MemInv s) : MemInv (writeRecordNow s ck l ws) := by
  unfold writeRecordNow
  split
  · next e => exact OutInv.ok e (launchWriteNow_memInv h)
  · next e => exact OutInv.wait e (launchWriteNow_memInv h)
  · next e => exact haltRise_memInv (OutInv.fault e (launchWriteNow_memInv h))

theorem drainDoneQ_memInv {q : Nat} (h : MemInv s) : MemInv (drainDoneQ s q) := by
  unfold drainDoneQ
  extract_lets
  split <;> exact h

theorem drainOf_memInv {wq : Option Nat} (h : MemInv s) : MemInv (drainOf s wq) := by
  unfold drainOf
  split
  · exact drainDoneQ_memInv h
  · exact h

theorem execGridAcceptance_memInv {req : Nat} (h : MemInv s) : NextInv (execGridAcceptance req s) := by
  unfold execGridAcceptance
  refine event_memInv h ?_
  split
  · exact h
  split
  · exact h
  extract_lets _ _ _ _ _ s2
  have hs2 : MemInv s2 := memInv_ite h h
  split
  · exact h
  split
  · split
    · next s3 e4 =>
        have hs3 : MemInv s3 := ExcInv.ok e4 (writeRecord_memInv h)
        exact drainOf_memInv hs3
    · exact h
  extract_lets
  split
  · next s3 e4 =>
      have hs3 : MemInv s3 := memInv_snd e4 hs2
      exact hs3

theorem reserveStart_memInv {core tk : Nat} {g : Grid} (h : MemInv s) : MemInv (reserveStart s core tk g) := by
  unfold reserveStart
  split <;> exact h

theorem placeGroups_memInv {part ck gk tk lin : Nat} {g : Grid} {base : Nat} {x : List (Nat × Nat)} {x1 : List Nat} {s : State}
    (h : MemInv s) :
    OptInv (placeGroups part ck gk tk lin g base x x1 s) := by
  unfold placeGroups
  split
  · exact h
  · extract_lets
    split
    · split
      · next s2 e1 =>
          have hs2 : MemInv s2 := memInv_snd e1 h
          exact placeGroups_memInv hs2
    · trivial
  · trivial

theorem execTeamPlacement_memInv {grid core : Nat} {slots : List Nat} {row bar : Nat} (h : MemInv s) :
    NextInv (execTeamPlacement grid core slots row bar s) := by
  unfold execTeamPlacement
  refine event_memInv h ?_
  split
  · exact h
  split
  · extract_lets
    split
    · exact h
    split
    · next s1 e4 =>
        have hs1 : MemInv s1 := memInv_snd e4 h
        split
        extract_lets _ s2
        have hs2 : MemInv s2 := hs1
        split
        · exact h
        · next s3 e6 =>
            have hs3 : MemInv s3 := OptInv.some e6 (placeGroups_memInv hs2)
            extract_lets s4
            have hs4 : MemInv s4 := hs3
            exact putBytes_memInv (reserveStart_memInv hs4)
  · exact h

theorem mapText_memInv {vf : Nat} {c : Ctx} {page : Nat} {ptes : List W64} (h : MemInv s) :
    MemInv (mapText s vf c page ptes) := by
  unfold mapText
  refine memInv_foldl (fun _ _ hu => ?_) h
  split
  · exact hostPut_memInv hu
  · exact hu

theorem objRemove_memInv {ck id : Nat} (h : MemInv s) : MemInv (objRemove s ck id) := by
  unfold objRemove
  split
  · exact h
  extract_lets
  exact mapText_memInv (memInv_foldl (fun _ _ hu => hostPut_memInv hu) h)

theorem objDrop_memInv {ck id : Nat} (h : MemInv s) : MemInv (objDrop s ck id) := by
  unfold objDrop
  split
  · exact objRemove_memInv h
  · exact h

theorem applyReloc_memInv {vf base : Nat} {frames datas : List Nat} {r : (Bool × Nat × Nat) × Nat} (h : MemInv s) :
    MemInv (applyReloc s vf base frames datas r) := by
  unfold applyReloc
  split
  exact hostPut_memInv h

theorem loadBytes_memInv {vf base : Nat} {file : List Byte} {frames datas : List Nat} (h : MemInv s) :
    MemInv (loadBytes s vf base file frames datas) := by
  unfold loadBytes
  extract_lets _ s2
  have hs2 : MemInv s2 := memInv_foldl (fun _ _ hu => hostPut_memInv hu) (memInv_foldl (fun _ _ hu => hostPut_memInv hu) h)
  exact memInv_foldl (fun _ _ hu => hostPut_memInv hu) (memInv_foldl (fun _ _ hu => applyReloc_memInv hu) hs2)

theorem execObjectLoad_memInv {ctx : Nat} {file : List (BitVec 8)} {id base : Nat} {frames : List Nat} (h : MemInv s) :
    NextInv (execObjectLoad ctx file id base frames s) := by
  unfold execObjectLoad
  refine event_memInv h ?_
  split
  · exact h
  extract_lets
  split
  · exact h
  split
  · exact h
  · exact mapText_memInv (loadBytes_memInv h)

theorem execObjectUnload_memInv {ctx id : Nat} (h : MemInv s) : NextInv (execObjectUnload ctx id s) :=
  event_memInv h (objDrop_memInv h)

theorem unpin_memInv {g : Grid} (h : MemInv s) : MemInv (unpin s g) := by
  unfold unpin
  split <;> exact h

theorem pushDone_memInv {g : Grid} (h : MemInv s) : MemInv (pushDone s g) := by
  unfold pushDone
  extract_lets
  split
  · exact h
  split
  · exact haltRise_memInv h
  split
  · exact haltRise_memInv h
  split
  · next s1 e4 =>
      have hs1 : MemInv s1 := memInv_snd e4 h
      split
      · split
        · exact haltRise_memInv h
        · exact sendMsgs_memInv hs1
      · exact sendMsgs_memInv hs1
      · exact haltRise_memInv h
      · exact haltRise_memInv h
      · exact haltRise_memInv h

theorem gridGone_memInv {gk : Nat} {g : Grid} (h : MemInv s) : MemInv (gridGone s gk g) :=
  pushDone_memInv (drainOf_memInv (objDrop_memInv (unpin_memInv h)))

theorem closeGrid_memInv {gk status cause : Nat} (h : MemInv s) : MemInv (closeGrid s gk status cause) := by
  unfold closeGrid
  split
  · exact h
  split
  · next e1 => exact gridGone_memInv (ExcInv.ok e1 (writeRecord_memInv h))
  · next e1 => exact ExcInv.error e1 (writeRecord_memInv h)

theorem closeGridNow_memInv {gk status cause : Nat} (h : MemInv s) : MemInv (closeGridNow s gk status cause) := by
  unfold closeGridNow
  split
  · exact h
  · exact gridGone_memInv (writeRecordNow_memInv h)

theorem execGridCompletion_memInv {grid : Nat} (h : MemInv s) : NextInv (execGridCompletion grid s) := by
  unfold execGridCompletion
  refine event_memInv h ?_
  split
  · exact h
  extract_lets
  split
  · exact h
  · exact closeGrid_memInv h

theorem execBindResolve_memInv {ctx pa : Nat} {target : Option Nat} (h : MemInv s) :
    NextInv (execBindResolve ctx pa target s) := by
  unfold execBindResolve
  refine event_memInv h ?_
  split
  · exact h
  extract_lets _ obj
  split
  · exact h
  clear_value obj
  split
  · extract_lets
    exact memInv_foldl (fun _ _ hu => acquireL1_memInv hu) (hostPut_memInv h)
  · exact memInv_foldl (fun _ _ hu => raiseGroup_memInv hu) h

/-! Contexts, saves and restores. -/

theorem execPartqEnable_memInv {part : Nat} {w : BitVec 64} (h : MemInv s) : NextInv (execPartqEnable part w s) := by
  unfold execPartqEnable
  refine event_memInv h ?_
  split <;> exact h

theorem execPartqDisable_memInv {part : Nat} {w : BitVec 64} (h : MemInv s) : NextInv (execPartqDisable part w s) := by
  unfold execPartqDisable
  refine event_memInv h ?_
  split <;> exact h

theorem execCtxCreate_memInv {vf : Nat} {cmd : BitVec 64} (h : MemInv s) : NextInv (execCtxCreate vf cmd s) := by
  unfold execCtxCreate
  refine event_memInv h ?_
  split
  · exact h
  extract_lets
  split
  · exact h
  split
  · exact h
  split
  · exact h
  extract_lets
  exact memInv_ite h h

theorem execTokenAccrual_memInv {vf : Nat} (h : MemInv s) : NextInv (execTokenAccrual vf s) := by
  unfold execTokenAccrual
  refine event_memInv h ?_
  split <;> exact h

theorem startVf_memInv {p v : Nat} (h : MemInv s) : MemInv (startVf s p v) := h

theorem accrueAll_memInv (h : MemInv s) : MemInv (accrueAll s) := memInv_foldl (fun _ _ hu => hu) h

theorem settlePart_memInv {p : Nat} (h : MemInv s) : MemInv (settlePart s p) := by
  unfold settlePart
  extract_lets s1
  have hs1 : MemInv s1 := by
    unfold s1
    split
    · split <;> exact h
    · exact h
  split
  · exact hs1
  split
  · exact startVf_memInv (accrueAll_memInv hs1)
  · exact hs1

theorem withdrawWaits_memInv {k : Nat} (h : MemInv s) : MemInv (withdrawWaits s k) := by
  unfold withdrawWaits
  split <;> exact h

theorem saveGroup_memInv {whole : Bool} {k : Nat} (h : MemInv s) : MemInv (saveGroup whole s k) := by
  unfold saveGroup
  extract_lets
  split
  · exact h
  extract_lets
  split
  · next s1 e1 =>
      have hs1 : MemInv s1 := memInv_snd e1 (withdrawWaits_memInv h)
      extract_lets
      exact memInv_ite hs1 hs1

theorem teamAway_memInv {tk : Nat} (h : MemInv s) : MemInv (teamAway s tk) := by
  unfold teamAway
  split
  · exact h
  · exact memClear_wf s.mem _ _ h

theorem takeBins_memInv {ck : Nat} {p : Bin → Bool} (h : MemInv s) : MemInv (takeBins s ck p) := by
  unfold takeBins
  refine memInv_foldl (fun _ _ hu => ?_) h
  extract_lets
  split
  · exact hu
  · exact wakeSpawns_memInv (memInv_foldl (fun _ _ hu1 => hu1) hu)

theorem saveCores_memInv {s0 : State} {ck : Nat} {c : Ctx} (hs0 : MemInv s0) : MemInv (saveCores s0 ck c) :=
  memFilter_wf _ none _ (takeBins_memInv hs0)

theorem saveContext_memInv {ck : Nat} {whole : Bool} (h : MemInv s) : MemInv (saveContext s ck whole) := by
  unfold saveContext
  extract_lets _ s2
  have hs2 : MemInv s2 := memInv_foldl (fun _ _ hu => teamAway_memInv hu) (memInv_foldl (fun _ _ hu => saveGroup_memInv hu) h)
  split
  · exact saveCores_memInv hs2
  · exact hs2

theorem teamBack_memInv {tk : Nat} (h : MemInv s) : MemInv (teamBack s tk) := by
  unfold teamBack
  split
  · exact h
  · split
    · exact h
    · extract_lets other
      split
      · split <;> exact h
      · exact memMerge_wf _ s.mem h

theorem parkRoute_memInv {k : Nat} {g : Grp} {d : Nat} (h : MemInv s) : MemInv (parkRoute s k g d) := by
  unfold parkRoute
  split <;> exact h

theorem resumeGroup_memInv {k : Nat} (h : MemInv s) : MemInv (resumeGroup s k) := by
  unfold resumeGroup
  split
  · exact h
  extract_lets s0 s1
  have hs0 : MemInv s0 := acquireL1_memInv h
  have hs1 : MemInv s1 := by
    unfold s1
    split
    · exact parkRoute_memInv hs0
    · exact hs0
  exact memInv_foldl (fun _ _ hu => ackEmpty_memInv (replayAcc_memInv hu)) hs1

theorem groupBack_memInv {ck : Nat} {away front : Bool} {ser : Nat} (h : MemInv s) : MemInv (groupBack ck away front s ser) := by
  unfold groupBack
  split
  · exact h
  extract_lets s1
  have hs1 : MemInv s1 := memInv_ite (teamBack_memInv h) h
  split
  · exact hs1
  split
  · exact hs1
  split <;> exact hs1

theorem placeSaved_memInv {ck : Nat} (h : MemInv s) : MemInv (placeSaved s ck) := by
  unfold placeSaved
  split
  · exact memInv_foldl (fun _ _ hu => groupBack_memInv hu) h
  · exact h

theorem restoreBins_memInv {ck : Nat} (h : MemInv s) : MemInv (restoreBins s ck) := by
  unfold restoreBins
  split
  · exact h
  refine memInv_foldl (fun _ _ hu => ?_) h
  extract_lets
  split <;> exact hu

theorem requeue_memInv {ck : Nat} (h : MemInv s) : MemInv (requeue s ck) := by
  unfold requeue
  split
  · split
    · exact restoreBins_memInv (memInv_foldl (fun _ _ hu => groupBack_memInv hu) h)
    · exact h
  · exact h

theorem execRestoreStart_memInv {part : Nat} (h : MemInv s) : NextInv (execRestoreStart part s) := by
  unfold execRestoreStart
  refine event_memInv h ?_
  split
  · exact h
  extract_lets s1
  have hs1 : MemInv s1 := settlePart_memInv h
  split
  · exact hs1
  extract_lets
  split
  · split
    · exact placeSaved_memInv hs1
    · exact hs1
  · exact hs1

theorem addAllow_memInv {ck : Nat} {id : W64} (h : MemInv s) : MemInv (addAllow s ck id) := by
  unfold addAllow
  split
  · exact h
  · exact wakePush_memInv (instPut_memInv h)

theorem restoreCores_memInv {ck : Nat} {c : Ctx} (h : MemInv s) : MemInv (restoreCores s ck c) := by
  refine memMerge_wf _ _ (memInv_foldl (fun u q hu => ?_) (memInv_foldl (fun u b hu => ?_) h))
  · exact hu
  · exact hu

theorem takeSession_memInv {ck : Nat} (h : MemInv s) : MemInv (takeSession s ck) := by
  unfold takeSession
  extract_lets
  split
  · exact h
  · exact eventPush_memInv h

theorem execRestoreComplete_memInv {part : Nat} (h : MemInv s) : NextInv (execRestoreComplete part s) := by
  unfold execRestoreComplete
  refine event_memInv h ?_
  split
  · exact h
  extract_lets _ s0
  have hs0 : MemInv s0 := placeSaved_memInv h
  split
  · exact h
  split
  · exact restoreBins_memInv h
  split
  · exact h
  split
  · exact hs0
  extract_lets s1 _ s3 s4
  have hs1 : MemInv s1 := restoreCores_memInv hs0
  have hs3 : MemInv s3 := memInv_foldl (fun _ _ hu => resumeGroup_memInv hu) hs1
  have hs4 : MemInv s4 := memInv_foldl (fun _ _ hu => addAllow_memInv hu) (requeue_memInv hs3)
  exact takeSession_memInv hs4

theorem offSlice_memInv {p v : Nat} (h : MemInv s) : MemInv (offSlice s p v) := by
  unfold offSlice
  extract_lets s1
  have hs1 : MemInv s1 := memInv_ite h h
  split
  · exact startVf_memInv hs1
  · exact hs1

theorem execSliceEnd_memInv {part : Nat} (h : MemInv s) : NextInv (execSliceEnd part s) := by
  unfold execSliceEnd
  refine event_memInv h ?_
  extract_lets _ _ s2
  have hs2 : MemInv s2 := accrueAll_memInv h
  split
  · exact h
  split
  · exact h
  extract_lets
  split
  · exact settlePart_memInv hs2
  split
  · split <;> exact hs2
  · split <;> exact hs2
  · exact offSlice_memInv (abandonRestore_memInv hs2)
  · exact offSlice_memInv hs2
  · exact offSlice_memInv hs2
  · exact hs2

theorem execSaveComplete_memInv {part : Nat} (h : MemInv s) : NextInv (execSaveComplete part s) := by
  unfold execSaveComplete
  refine event_memInv h ?_
  split
  · exact h
  extract_lets _ s1
  have hs1 : MemInv s1 := accrueAll_memInv (saveContext_memInv h)
  split
  · exact h
  split
  · exact h
  split
  · extract_lets s2
    have hs2 : MemInv s2 := accrueAll_memInv hs1
    split
    · split
      · exact startVf_memInv hs2
      · exact settlePart_memInv hs2
    · exact settlePart_memInv hs2
  · split
    · exact startVf_memInv hs1
    · exact settlePart_memInv hs1
  · exact settlePart_memInv hs1

theorem execCtxSwitch_memInv {vf : Nat} {cmd : BitVec 64} (h : MemInv s) : NextInv (execCtxSwitch vf cmd s) := by
  unfold execCtxSwitch
  refine event_memInv h ?_
  split
  · exact h
  extract_lets
  split
  · exact h
  split
  · exact h
  split
  · split
    · exact h
    split
    · exact h
    · exact settlePart_memInv h
  · exact settlePart_memInv h

theorem writeStops_memInv {ck : Nat} {c : Ctx} {h1 : Halt} (h : MemInv s) : MemInv (writeStops s ck c h1).1 := by
  unfold writeStops
  extract_lets
  exact memInv_foldl (fun _ _ hu => devWrite_memInv hu) (devWrite_memInv h)

theorem emptyCtx_memInv {ck : Nat} (h : MemInv s) : MemInv (emptyCtx s ck) := by
  unfold emptyCtx
  split
  · exact h
  extract_lets
  exact settlePart_memInv (memInv_foldl (fun _ _ hu => closeGridNow_memInv hu) h)

theorem tryHalted_memInv {p : Nat} (h : MemInv s) : MemInv (tryHalted s p) := by
  unfold tryHalted
  split
  · exact h
  split
  · exact h
  extract_lets
  split
  · exact h
  split
  · next e3 =>
      extract_lets _ s3
      have hs3 : MemInv s3 := eventPush_memInv (saveContext_memInv (memInv_fst e3 (writeStops_memInv h)))
      split
      · exact emptyCtx_memInv hs3
      · exact settlePart_memInv hs3

theorem execUnitStop_memInv {part : Nat} {unit : UnitId} (h : MemInv s) : NextInv (execUnitStop part unit s) := by
  unfold execUnitStop
  refine event_memInv h ?_
  split
  · exact h
  split
  · exact tryHalted_memInv h
  split
  · exact tryHalted_memInv h
  extract_lets
  split
  · exact tryHalted_memInv (withdrawWaits_memInv h)
  · exact tryHalted_memInv h

theorem execHaltLineRise_memInv {part cause : Nat} (h : MemInv s) : NextInv (execHaltLineRise part cause s) := by
  unfold execHaltLineRise
  refine event_memInv h ?_
  split
  · exact h
  extract_lets
  split
  · exact haltRise_memInv h
  · exact h

theorem execCtxHalt_memInv {vf : Nat} {cmd : BitVec 64} (h : MemInv s) : NextInv (execCtxHalt vf cmd s) := by
  unfold execCtxHalt
  refine event_memInv h ?_
  split
  · exact h
  extract_lets
  split
  · exact h
  split
  · exact h
  · exact settlePart_memInv (haltRise_memInv h)

theorem execCtxResume_memInv {vf : Nat} {cmd : BitVec 64} (h : MemInv s) : NextInv (execCtxResume vf cmd s) := by
  unfold execCtxResume
  refine event_memInv h ?_
  split
  · exact h
  extract_lets
  split
  · exact h
  split
  · exact settlePart_memInv (resumeCtx_memInv h)
  · exact h

theorem teardown_memInv {ck : Nat} (h : MemInv s) : MemInv (teardown s ck) := by
  unfold teardown
  split
  · exact h
  split
  · exact haltRise_memInv h
  · exact haltRise_memInv h
  · exact h
  · exact emptyCtx_memInv h

theorem execCtxTeardown_memInv {vf : Nat} {cmd : BitVec 64} (h : MemInv s) : NextInv (execCtxTeardown vf cmd s) := by
  unfold execCtxTeardown
  refine event_memInv h ?_
  split
  · exact h
  split
  · exact h
  · exact teardown_memInv h

theorem execVfKeyLoad_memInv {vf : Nat} (h : MemInv s) : NextInv (execVfKeyLoad vf s) := by
  unfold execVfKeyLoad
  refine event_memInv h ?_
  split <;> exact h

theorem execVfKeyClear_memInv {vf : Nat} (h : MemInv s) : NextInv (execVfKeyClear vf s) := by
  unfold execVfKeyClear
  refine event_memInv h ?_
  split <;> exact h

theorem execReclaim_memInv {part core : Nat} (h : MemInv s) : NextInv (execReclaim part core s) := by
  unfold execReclaim
  refine event_memInv h ?_
  extract_lets
  split
  · exact h
  extract_lets _ s1
  have hs1 : MemInv s1 := takeBins_memInv (memInv_foldl (fun _ _ hu => saveGroup_memInv hu) h)
  split
  · exact h
  · exact memInv_foldl (fun _ _ hu => teamAway_memInv hu) hs1

theorem requeueOne_memInv {ck : Nat} {sers : List Nat} {n n1 : Nat} {r : State × Nat} (hr : MemInv r.1) :
    OptFstInv (requeueOne ck sers n n1 r) := by
  unfold requeueOne
  split
  · exact hr
  extract_lets s11
  have hs11 : MemInv s11 := groupBack_memInv hr
  split
  · exact hs11
  split
  · exact hs11
  split
  · exact hs11
  split
  · exact requeueOne_memInv (saveGroup_memInv hs11)
  · trivial

theorem requeueAll_memInv {ck : Nat} {sers : List Nat} {r : State × Nat} (hr : MemInv r.1) :
    OptFstInv (requeueAll ck sers r) := by
  unfold requeueAll
  refine List.foldlRecOn (motive := OptFstInv) _ _ hr (fun q hq x _ => ?_)
  cases q with
  | none => trivial
  | some q => exact requeueOne_memInv hq

theorem execReclaimComplete_memInv {part : Nat} (h : MemInv s) : NextInv (execReclaimComplete part s) := by
  unfold execReclaimComplete
  refine event_memInv h ?_
  split
  · exact h
  extract_lets
  split
  · split
    · next e3 => exact eventPush_memInv (restoreBins_memInv (OptFstInv.some e3 (requeueAll_memInv h)))
    · exact h
  split
  · exact eventPush_memInv h
  · exact h

/-! Steps of groups that are no instruction. -/

theorem execGroupStateLoaded_memInv {grp : Nat} (h : MemInv s) : NextInv (execGroupStateLoaded grp s) := by
  unfold execGroupStateLoaded
  refine event_memInv h ?_
  split
  · extract_lets
    split
    · exact h
    split
    · exact resumeGroup_memInv h
    split <;> exact h
  · exact h

theorem selectPath_memInv {s s1 : State} {k : Nat} {g : Grp} (hs1 : MemInv s1) : MemInv (selectPath s s1 k g) := by
  unfold selectPath
  split
  · next s2 _ e =>
      have hs2 : MemInv s2 := OutInv.ok (congrArg Prod.fst e) (settlePaths_memInv hs1)
      split
      · next e1 => exact ExcInv.ok e1 (numApply_memInv hs1 hs2)
      · next e1 => exact raiseGroup_memInv (ExcInv.error e1 (numApply_memInv hs1 hs2))
  · next e => exact memSide_memInv (OutInv.wait (congrArg Prod.fst e) (settlePaths_memInv hs1))
  · next e => exact raiseGroup_memInv (memSide_memInv (OutInv.fault (congrArg Prod.fst e) (settlePaths_memInv hs1)))

theorem enterActive_memInv {s0 : State} {k : Nat} {g : Grp} (hs0 : MemInv s0) : MemInv (enterActive s0 k g) := by
  unfold enterActive
  extract_lets
  split
  · exact hs0
  · exact selectPath_memInv hs0

theorem execActiveSetEntry_memInv {sched : Nat} (h : MemInv s) : NextInv (execActiveSetEntry sched s) := by
  unfold execActiveSetEntry
  refine event_memInv h ?_
  split
  · split
    · split
      · exact enterActive_memInv h
      · exact h
    split
    · exact enterActive_memInv h
    · exact h
  · exact h

theorem evictFor_memInv {s : State} {sched n n1 : Nat} (h : MemInv s) : OptInv (evictFor s sched n n1) := by
  unfold evictFor
  split
  · split
    · exact h
    · trivial
  split
  · exact h
  split
  · split
    · exact evictFor_memInv h
    · trivial
  · trivial

theorem execFairnessEviction_memInv {sched : Nat} (h : MemInv s) : NextInv (execFairnessEviction sched s) := by
  unfold execFairnessEviction
  refine event_memInv h ?_
  extract_lets long first
  split
  · extract_lets n
    split
    · exact h
    · exact elim_memInv h (fun t e => enterActive_memInv (OptInv.some e (evictFor_memInv h)))
  · exact h

theorem execGroupFree_memInv {grp : Nat} (h : MemInv s) : NextInv (execGroupFree grp s) := by
  unfold execGroupFree
  refine event_memInv h ?_
  split
  · extract_lets
    split
    · exact h
    · exact requeue_memInv (endTeam_memInv h)
  · exact h

theorem execSpawnBinTimeout_memInv {core bin : Nat} (h : MemInv s) : NextInv (execSpawnBinTimeout core bin s) := by
  unfold execSpawnBinTimeout
  refine event_memInv h ?_
  split
  · split
    · exact fireBin_memInv h
    · exact h
  · exact h

theorem execSpawnBinPlace_memInv {core bin slot : Nat} (h : MemInv s) : NextInv (execSpawnBinPlace core bin slot s) := by
  unfold execSpawnBinPlace
  refine event_memInv h ?_
  split
  · split
    · exact placeBin_memInv h
    · exact h
  · exact h

theorem execSleepExpiry_memInv {grp : Nat} (h : MemInv s) : NextInv (execSleepExpiry grp s) := by
  unfold execSleepExpiry
  refine event_memInv h ?_
  split
  · extract_lets
    split <;> exact h
  · exact h

/-! Queues and media engines. -/

theorem execCapdataWrite_memInv {vf : Nat} {w : BitVec 64} (h : MemInv s) : NextInv (execCapdataWrite vf w s) := by
  unfold execCapdataWrite
  refine event_memInv h ?_
  extract_lets
  split
  · exact h
  split
  · exact h
  split
  · exact h
  extract_lets
  exact memInv_foldl (fun _ _ hu => wakePush_memInv hu) h

theorem execCqCreate_memInv {vf : Nat} {w : BitVec 64} (h : MemInv s) : NextInv (execCqCreate vf w s) := by
  unfold execCqCreate
  refine event_memInv h ?_
  split
  · exact h
  extract_lets
  split
  · exact h
  split
  · exact h
  split <;> exact h

theorem execCqDestroy_memInv {vf : Nat} {w : BitVec 64} (h : MemInv s) : NextInv (execCqDestroy vf w s) := by
  unfold execCqDestroy
  refine event_memInv h ?_
  split
  · exact h
  extract_lets
  split
  · exact h
  split
  · exact h
  split <;> exact h

theorem appendTo_memInv {core q ctx : Nat} {sender : W64} {bs : List Byte} {unit : Bool} (h : MemInv s) :
    AppendInv (appendTo s core q ctx sender bs unit) := by
  unfold appendTo
  split
  · exact h
  · extract_lets put s1 pa
    split
    · exact h
    · split
      · exact h
      · exact wakePops_memInv (memWrite_wf _ _ _ h)

theorem updSerial_memInv {ctx ser : Nat} {f : Grp → Grp} (h : MemInv s) : MemInv (updSerial s ctx ser f) := by
  unfold updSerial
  split <;> exact h

theorem pushDoneAt_memInv {ctx ser pc : Nat} {slot : Option Nat} (h : MemInv s) : MemInv (pushDoneAt s ctx ser pc slot) :=
  updSerial_memInv h

theorem pushFault_memInv {ctx k ser pc : Nat} {slot : Option Nat} {cause : Nat} (h : MemInv s) :
    MemInv (pushFault s ctx k ser pc slot cause) := by
  unfold pushFault
  extract_lets
  split <;> exact haltRise_memInv (pushDoneAt_memInv h)

theorem sendFree_memInv {ctx : Nat} {id : W64} (h : MemInv s) : MemInv (sendFree s ctx id) := sendMsgs_memInv h

theorem recordPush_memInv {q ctx : Nat} {sender : W64} {bs : List Byte} (h : MemInv s) :
    OptInv (recordPush s q ctx sender bs) := by
  unfold recordPush
  extract_lets
  split
  · trivial
  · exact devWrite_memInv h

theorem execQueueAppend_memInv {msg : Nat} (h : MemInv s) : NextInv (execQueueAppend msg s) := by
  unfold execQueueAppend
  refine event_memInv h ?_
  split
  · exact h
  extract_lets
  split
  · exact h
  split
  · split
    · exact h
    split
    · next e3 => exact pushDoneAt_memInv (AppendInv.ok e3 (appendTo_memInv h))
    · next e3 => exact pushFault_memInv (AppendInv.reject e3 (appendTo_memInv h))
  · split
    · next e2 => exact settlePart_memInv (pushDoneAt_memInv (OptInv.some e2 (recordPush_memInv h)))
    · exact pushFault_memInv h
  · extract_lets s2
    have hs2 : MemInv s2 := pushDoneAt_memInv h
    split
    · exact sendFree_memInv hs2
    · exact hs2
  · exact h

theorem freeArrives_memInv {ctx : Nat} {id : W64} (h : MemInv s) : MemInv (freeArrives s ctx id) := by
  unfold freeArrives
  split
  · exact h
  split
  · exact addAllow_memInv h
  · exact h

theorem execFreeCountReturn_memInv {msg : Nat} (h : MemInv s) : NextInv (execFreeCountReturn msg s) := by
  unfold execFreeCountReturn
  refine event_memInv h ?_
  split
  · split
    · exact h
    · exact freeArrives_memInv h
  · exact h

theorem settleWq_memInv {q : Nat} (h : MemInv s) : MemInv (settleWq s q) := by
  unfold settleWq
  split
  · exact settlePart_memInv h
  · exact h

theorem setTail_memInv {q tail : Nat} (h : MemInv s) : MemInv (setTail s q tail) := by
  unfold setTail
  split
  · exact h
  · exact settleWq_memInv h

theorem execWqdoor_memInv {vf : Nat} {w : BitVec 64} (h : MemInv s) : NextInv (execWqdoor vf w s) := by
  unfold execWqdoor
  refine event_memInv h ?_
  extract_lets
  split
  · exact h
  · exact setTail_memInv h

theorem execWqBind_memInv {q : Nat} {w : BitVec 64} (h : MemInv s) : NextInv (execWqBind q w s) := by
  unfold execWqBind
  refine event_memInv h ?_
  extract_lets
  split
  · exact h
  split <;> exact h

theorem wqMove_memInv {q : Nat} {from_ : List WqState} {new : WqState} (h : MemInv s) : MemInv (wqMove s q from_ new) := by
  unfold wqMove
  split <;> exact h

theorem execWqPause_memInv {q : Nat} (h : MemInv s) : NextInv (execWqPause q s) := event_memInv h (wqMove_memInv h)

theorem execWqResume_memInv {q : Nat} (h : MemInv s) : NextInv (execWqResume q s) :=
  event_memInv h (settleWq_memInv (wqMove_memInv h))

theorem execWqUnbind_memInv {q : Nat} (h : MemInv s) : NextInv (execWqUnbind q s) := event_memInv h (wqMove_memInv h)

theorem execWqDrain_memInv {q : Nat} (h : MemInv s) : NextInv (execWqDrain q s) := by
  unfold execWqDrain
  refine event_memInv h ?_
  extract_lets
  split
  · exact settleWq_memInv (drainDoneQ_memInv h)
  · exact h

theorem execWqClose_memInv {q : Nat} (h : MemInv s) : NextInv (execWqClose q s) := event_memInv h (wqMove_memInv h)

theorem headRecord_memInv {q : Nat} {w : Wq} (h : MemInv s) : MemInv (headRecord s q w).1 := by
  unfold headRecord
  split
  · next e => exact PumpInv.done e (agentRead_memInv h)
  · exact h
  · exact h

theorem wqError_memInv {q cause : Nat} (h : MemInv s) : MemInv (wqError s q cause) := h

theorem consume_memInv {q : Nat} (h : MemInv s) : MemInv (consume s q) := by
  unfold consume
  extract_lets
  split
  · exact sendFree_memInv h
  · exact h

theorem readLpb_memInv {ck va : Nat} (h : MemInv s) : OutInv (readLpb s ck va).1 := by
  unfold readLpb
  split
  · exact h
  split
  · next o _ e1 =>
      have ho : OutInv o := outInv_fst e1 (launchRead_memInv h)
      split
      · split
        · next e2 => exact outInv_fst e2 (launchRead_memInv ho)
      · exact ho

theorem execWqLaunchRecord_memInv {q : Nat} (h : MemInv s) : NextInv (execWqLaunchRecord q s) := by
  unfold execWqLaunchRecord
  refine event_memInv h ?_
  extract_lets
  split
  · exact h
  split
  · next s1 _ e1 =>
      have hs1 : MemInv s1 := memInv_fst e1 (headRecord_memInv h)
      split
      · exact hs1
      extract_lets
      split
      · next s2 _ e3 =>
          have hs2 : MemInv s2 := OutInv.ok (congrArg Prod.fst e3) (readLpb_memInv hs1)
          split
          · next s3 e4 =>
              have hs3 : MemInv s3 := memInv_snd e4 hs2
              exact drainDoneQ_memInv (consume_memInv hs3)
      · next s2 _ _ _ e3 =>
          have hs2 : MemInv s2 := OutInv.fault (congrArg Prod.fst e3) (readLpb_memInv hs1)
          exact wqError_memInv hs2
      · exact hs1
  · next s1 _ _ e2 =>
      have hs1 : MemInv s1 := memInv_fst e2 (headRecord_memInv h)
      exact hs1

theorem execWqSignalRecord_memInv {q : Nat} (h : MemInv s) : NextInv (execWqSignalRecord q s) := by
  unfold execWqSignalRecord
  refine event_memInv h ?_
  extract_lets
  split
  · exact h
  split
  · next s1 _ e1 =>
      have hs1 : MemInv s1 := memInv_fst e1 (headRecord_memInv h)
      split
      · exact hs1
      · exact consume_memInv hs1
  · next e2 => exact memInv_fst e2 (headRecord_memInv h)

theorem execSignalWrite_memInv {q : Nat} (h : MemInv s) : NextInv (execSignalWrite q s) := by
  unfold execSignalWrite
  refine event_memInv h ?_
  extract_lets
  split
  · exact h
  split
  · exact h
  split
  · exact drainDoneQ_memInv (haltRise_memInv h)
  split
  · next s1 e3 =>
      have hs1 : MemInv s1 := OutInv.ok e3 (launchWrite_memInv h)
      exact drainDoneQ_memInv hs1
  · exact h
  · next s1 _ _ e3 =>
      have hs1 : MemInv s1 := OutInv.fault e3 (launchWrite_memInv h)
      exact drainDoneQ_memInv (haltRise_memInv hs1)

theorem execMalformedRecord_memInv {q : Nat} (h : MemInv s) : NextInv (execMalformedRecord q s) := by
  unfold execMalformedRecord
  refine event_memInv h ?_
  extract_lets
  split
  · exact h
  split
  · next s1 _ e1 =>
      have hs1 : MemInv s1 := memInv_fst e1 (headRecord_memInv h)
      split
      · exact wqError_memInv hs1
      · exact hs1
  · next e1 => exact wqError_memInv (noteIntegrity_memInv (memInv_fst e1 (headRecord_memInv h)))
  · next e1 => exact memInv_fst e1 (headRecord_memInv h)

theorem mediaRecord_memInv {m ctx num code row : Nat} (h : MemInv s) : MemInv (mediaRecord s m ctx num code row) := by
  unfold mediaRecord
  extract_lets s1
  have hs1 : MemInv s1 := eventPush_memInv h
  split
  · exact hs1
  · exact prfAdd_memInv hs1

theorem takeCard_memInv {m op : Nat} {f : State → Card → Option Sess → State} (h : MemInv s)
    (hf : ∀ u x1 x2, MemInv u → MemInv (f u x1 x2)) :
    MemInv (takeCard s m op f) := by
  unfold takeCard
  extract_lets
  split
  · exact h
  split
  · exact h
  · exact hf _ _ _ (sendFree_memInv h)

theorem discardCard_memInv {m : Nat} {c : Card} (h : MemInv s) : MemInv (discardCard s m c) := mediaRecord_memInv h

theorem strayCard_memInv {m : Nat} {c : Card} {y : Option Sess} (h : MemInv s) : MemInv (strayCard s m c y) := by
  unfold strayCard
  split
  · exact discardCard_memInv h
  · exact h

theorem openSess_memInv {m : Nat} {enc : Bool} {c : Card} {y : Option Sess} (h : MemInv s) : MemInv (openSess s m enc c y) := by
  unfold openSess
  extract_lets
  split
  · exact strayCard_memInv h
  split
  · exact mediaRecord_memInv h
  · exact h

theorem execMediaOpenDec_memInv {eng : Nat} (h : MemInv s) : NextInv (execMediaOpenDec eng s) :=
  event_memInv h (takeCard_memInv h (fun _ _ _ hu => openSess_memInv hu))

theorem execMediaOpenEnc_memInv {eng : Nat} (h : MemInv s) : NextInv (execMediaOpenEnc eng s) :=
  event_memInv h (takeCard_memInv h (fun _ _ _ hu => openSess_memInv hu))

theorem execMediaFrame_memInv {eng : Nat} (h : MemInv s) : NextInv (execMediaFrame eng s) := by
  unfold execMediaFrame
  refine event_memInv h ?_
  refine takeCard_memInv h (fun _ _ _ hu => ?_)
  split
  · split
    · exact hu
    · exact strayCard_memInv hu
  · exact strayCard_memInv hu

theorem execMediaRowback_memInv {eng : Nat} (h : MemInv s) : NextInv (execMediaRowback eng s) := by
  unfold execMediaRowback
  refine event_memInv h ?_
  refine takeCard_memInv h (fun _ _ _ hu => ?_)
  split
  · split
    · exact hu
    · exact strayCard_memInv hu
  · exact strayCard_memInv hu

theorem execMediaClose_memInv {eng : Nat} (h : MemInv s) : NextInv (execMediaClose eng s) := by
  unfold execMediaClose
  refine event_memInv h ?_
  refine takeCard_memInv h (fun _ _ _ hu => ?_)
  split
  · split <;> exact hu
  · exact discardCard_memInv hu

theorem sessFail_memInv {m : Nat} {z : Sess} {code : Nat} (h : MemInv s) : MemInv (sessFail s m z code) := by
  unfold sessFail
  extract_lets
  split <;> exact mediaRecord_memInv h

theorem pushRow_memInv {m : Nat} {z : Sess} {addr stage : Nat} {next : Sess} (h : MemInv s) :
    MemInv (pushRow s m z addr stage next) := by
  unfold pushRow
  extract_lets
  split
  · exact sessFail_memInv h
  split
  · exact sessFail_memInv h
  extract_lets _ s1
  have hs1 : MemInv s1 := instPut_memInv h
  split
  · next e2 => exact sessFail_memInv (AppendInv.reject e2 (appendTo_memInv hs1))
  · next e2 =>
      extract_lets
      split <;> exact prfAdd_memInv (AppendInv.ok e2 (appendTo_memInv hs1))

theorem mediaAccess_memInv {m : Nat} {z : Sess} {a : MediaAcc} (h : MemInv s) : ErInv (mediaAccess s m z a) := by
  unfold mediaAccess
  split
  · refine List.foldlRecOn (motive := ErInv) _ _ h (fun _ hr _ _ => ?_)
    refine ER_bind_memInv hr (fun _ _ hu => ?_)
    exact ER_bind_memInv (glbXlate_memInv hu) (fun _ _ hu1 => ER_bind_memInv (readRange_memInv hu1) (fun _ _ hu2 => hu2))
  refine ER_bind_memInv ?_ (fun _ _ hu => hu)
  refine List.foldlRecOn (motive := ErInv) _ _ h (fun _ hr _ _ => ?_)
  refine ER_bind_memInv hr (fun _ _ hu => ?_)
  exact ER_bind_memInv (glbXlate_memInv hu) (fun _ _ hu1 => ER_bind_memInv (writeRange_memInv hu1) (fun _ _ hu2 => hu2))

theorem mediaFault_memInv {m : Nat} {z : Sess} {cause va : Nat} {key : KeyId} {pa : Nat} (h : MemInv s) :
    MemInv (mediaFault s m z cause va key pa) := by
  unfold mediaFault
  split
  · exact haltKey_memInv h
  · exact haltRise_memInv h

theorem rowEnd_memInv {m : Nat} {z : Sess} {r : ER Unit} {done : State → State} (h : MemInv s) (hr : ErInv r)
    (hdone : ∀ u, MemInv u → MemInv (done u)) :
    MemInv (rowEnd s m z r done) := by
  unfold rowEnd
  split
  · exact hdone _ hr
  · extract_lets h'
    clear_value h'
    split
    · split
      · exact mediaFault_memInv h
      · exact stallKeep_memInv h
    · exact stallKeep_memInv h
  · split
    · split
      · next s2 _ e1 =>
          have hs2 : MemInv s2 := memInv_fst e1 (noteFault_memInv hr)
          exact hs2
    · exact mediaFault_memInv hr
  · exact mediaFault_memInv hr

theorem rowResult_memInv {m : Nat} {z : Sess} {out : MediaRow} (h : MemInv s) : MemInv ((rowResult m z out).2 s) := by
  unfold rowResult
  split
  · exact pushRow_memInv h
  · exact pushRow_memInv h
  · exact pushRow_memInv h
  · dsimp only
    split
    · exact sessFail_memInv h
    · exact h

theorem execMediaRowDone_memInv {eng sess : Nat} {out : MediaRow} (h : MemInv s) : NextInv (execMediaRowDone eng sess out s) := by
  unfold execMediaRowDone
  refine event_memInv h ?_
  split
  · exact h
  · split
    · exact h
    · exact rowEnd_memInv h
        (List.foldlRecOn (motive := ErInv) _ _ h (fun r hr x _ => ER_bind_memInv hr (fun u _ hu => mediaAccess_memInv hu)))
        (fun u hu => rowResult_memInv hu)

theorem execBardropClear_memInv {core : Nat} (h : MemInv s) : NextInv (execBardropClear core s) := by
  unfold execBardropClear
  refine event_memInv h ?_
  split <;> exact h

/-! Links. -/

theorem sendOne_memInv {x : Nat × Nat} (h : MemInv s) : OptInv (sendOne s x) := by
  unfold sendOne
  refine bind_optInv (fun r _ => bind_optInv (fun l _ => ?_))
  split
  · trivial
  · exact prfAdd_memInv h

theorem sendAll_memInv {x : List ((Nat × Nat) × Bool)} {x1 : List (Nat × Nat)} {s : State} (h : MemInv s) :
    MemInv (sendAll x x1 s) := by
  unfold sendAll
  split
  · exact h
  split
  · exact sendAll_memInv h
  split
  · next e1 => exact sendAll_memInv (OptInv.some e1 (sendOne_memInv h))
  · exact sendAll_memInv h

theorem sendRemote_memInv (h : MemInv s) : MemInv (sendRemote s) := sendAll_memInv h

theorem wakeLinkPushes_memInv {was s : State} (h : MemInv s) : MemInv (wakeLinkPushes was s) := by
  unfold wakeLinkPushes
  refine memInv_foldl (fun _ _ hu => ?_) h
  split
  · split
    · exact wakePush_memInv hu
    · exact hu
  · exact hu

theorem parkRoutes_memInv {was s : State} (h : MemInv s) : MemInv (parkRoutes was s) := by
  unfold parkRoutes
  refine memInv_foldl (fun _ _ hu => ?_) h
  split
  · exact parkRoute_memInv hu
  · exact hu

theorem wakeRoutes_memInv (h : MemInv s) : MemInv (wakeRoutes s) := memInv_foldl (fun _ _ hu => hu) h

theorem routesMoved_memInv {was s : State} (h : MemInv s) : MemInv (routesMoved was s) := by
  unfold routesMoved
  extract_lets
  exact wakeLinkPushes_memInv (wakeRoutes_memInv (parkRoutes_memInv (sendRemote_memInv (memInv_ite h h))))

theorem moveLink_memInv {l : Nat} {f : Link → Link} (h : MemInv s) : MemInv (moveLink s l f) := routesMoved_memInv h

theorem peerChange_memInv {pkg : Nat} {up : List Nat} (h : MemInv s) : MemInv (peerChange s pkg up) := routesMoved_memInv h

theorem execLinkTrain_memInv {link : Nat} (h : MemInv s) : NextInv (execLinkTrain link s) := by
  unfold execLinkTrain
  refine event_memInv h ?_
  extract_lets
  split
  · exact moveLink_memInv h
  · exact h

theorem execLinkDrain_memInv {link : Nat} (h : MemInv s) : NextInv (execLinkDrain link s) := by
  unfold execLinkDrain
  refine event_memInv h ?_
  split
  · exact moveLink_memInv h
  · exact h

theorem execLinkDisable_memInv {link : Nat} (h : MemInv s) : NextInv (execLinkDisable link s) := by
  unfold execLinkDisable
  refine event_memInv h ?_
  split
  · exact moveLink_memInv h
  · exact h

theorem execErrcntClear_memInv {link : Nat} (h : MemInv s) : NextInv (execErrcntClear link s) := by
  unfold execErrcntClear
  refine event_memInv h ?_
  split <;> exact h

theorem execLinkTrained_memInv {link lanes peer : Nat} (h : MemInv s) : NextInv (execLinkTrained link lanes peer s) := by
  unfold execLinkTrained
  refine event_memInv h ?_
  split
  · exact h
  split <;> exact moveLink_memInv h

theorem execTrainingTimeout_memInv {link : Nat} (h : MemInv s) : NextInv (execTrainingTimeout link s) := by
  unfold execTrainingTimeout
  refine event_memInv h ?_
  extract_lets
  split
  · exact moveLink_memInv h
  · exact h

theorem execLaneLost_memInv {link left : Nat} (h : MemInv s) : NextInv (execLaneLost link left s) := by
  unfold execLaneLost
  refine event_memInv h ?_
  extract_lets
  split
  · exact h
  · exact moveLink_memInv h

theorem execPeerLost_memInv {link : Nat} (h : MemInv s) : NextInv (execPeerLost link s) := by
  unfold execPeerLost
  refine event_memInv h ?_
  split
  · exact moveLink_memInv h
  · exact h

theorem unsend_memInv {x : Nat × Nat} (h : MemInv s) : MemInv (unsend s x) := by
  unfold unsend
  extract_lets
  exact memInv_foldl (fun _ _ hu => moveLink_memInv hu) h

theorem farDone_memInv {acc part : Nat} (h : MemInv s) : MemInv (farDone s acc part) := unsend_memInv (partsDone_memInv h)

theorem msgGone_memInv {n : Nat} (h : MemInv s) : MemInv (msgGone s n) := by
  unfold msgGone
  split
  · exact pushDoneAt_memInv (unsend_memInv h)
  · exact unsend_memInv h
  · exact h

theorem linkPushFault_memInv {n cause : Nat} (h : MemInv s) : MemInv (linkPushFault s n cause) := by
  unfold linkPushFault
  split
  · exact pushFault_memInv (unsend_memInv h)
  · exact h

theorem farAnswered_memInv {n : Nat} {r : FarReq} {data : BitVec 1024} (h : MemInv s) : MemInv (farAnswered s n r data) := by
  unfold farAnswered
  refine unsend_memInv ?_
  split <;> exact h

theorem farRefused_memInv {n : Nat} {r : FarReq} {cause : Nat} (h : MemInv s) : MemInv (farRefused s n r cause) := by
  unfold farRefused
  split <;> exact unsend_memInv h

theorem execFlitAck_memInv {link acc part : Nat} (h : MemInv s) : NextInv (execFlitAck link acc part s) := by
  unfold execFlitAck
  refine event_memInv h ?_
  extract_lets s1
  have hs1 : MemInv s1 := sendRemote_memInv h
  split
  · exact hs1
  split
  · split
    · exact sendRemote_memInv (farDone_memInv hs1)
    · exact hs1
  · split
    · exact sendRemote_memInv (farAnswered_memInv hs1)
    · exact hs1
  · exact sendRemote_memInv (msgGone_memInv hs1)

theorem partAnswered_memInv {acc part : Nat} {a : Acc} {p : Part} {data : BitVec 1024} (h : MemInv s) :
    MemInv (partAnswered s acc part a p data) := by
  unfold partAnswered
  extract_lets
  exact farDone_memInv (memInv_ite (l1Fill_memInv h) h)

theorem farFault_memInv {key : KeyId} {pa cause : Nat} (h : MemInv s) : MemInv (farFault s key pa cause) := by
  unfold farFault
  split
  · exact haltKey_memInv h
  · exact h

theorem serveFlit_memInv {link : Nat} {flit : Flit} (h : MemInv s) : MemInv (serveFlit s link flit).1 := by
  unfold serveFlit
  extract_lets got serve
  have hgot : ∀ {u vf}, MemInv u → MemInv (got u vf) := fun hu => prfAdd_memInv hu
  have hserve : ∀ {key vf pa n f done}, PumpInv f → (∀ u d, MemInv u → MemInv (done u d).1) →
      MemInv (serve key vf pa n f done).1 := by
    intro key vf pa n f done hf hdone
    unfold serve
    split
    · exact hgot h
    · split
      · exact hdone _ _ hf
      · exact hf
      · exact hgot (farFault_memInv h)
  split
  · split
    · exact hgot h
    · split
      · exact hgot h
      · split
        · exact h
        · split
          · next e => exact hgot (AppendInv.ok e (appendTo_memInv h))
          · next e => exact hgot (AppendInv.reject e (appendTo_memInv h))
  · exact hserve (pumpRead_memInv h) (fun u _ hu => hgot (countRead_memInv hu))
  · exact hserve (pumpWrite_memInv h) (fun u _ hu => hgot (countWrite_memInv hu))
  · exact hserve (pumpRead_memInv h) (fun t _ ht =>
      hserve (pumpWrite_memInv ht) (fun u _ hu => hgot (countWrite_memInv (pumpCount_memInv hu))))
  · exact h

theorem serveAll_memInv {x : List (Nat × Nat × Flit)} {x1 : List (Bool × Nat)} {s : State} (h : MemInv s) :
    MemInv (serveAll x x1 s) := by
  unfold serveAll
  split
  · exact h
  split
  · exact serveAll_memInv h
  split
  · next s2 e1 =>
      have hs2 : MemInv s2 := memInv_fst e1 (serveFlit_memInv h)
      exact serveAll_memInv hs2
  · next s2 e1 =>
      have hs2 : MemInv s2 := memInv_fst e1 (serveFlit_memInv h)
      exact serveAll_memInv hs2

theorem serveInbox_memInv (h : MemInv s) : MemInv (serveInbox s) := serveAll_memInv h

theorem execFlitReceived_memInv {link : Nat} {flit : Flit} (h : MemInv s) : NextInv (execFlitReceived link flit s) := by
  unfold execFlitReceived
  refine event_memInv h ?_
  extract_lets _ s1
  have hs1 : MemInv s1 := sendRemote_memInv h
  split
  · exact h
  split
  · split
    · exact hs1
    split
    · split
      · split
        · exact hs1
        · exact sendRemote_memInv (prfAdd_memInv (partAnswered_memInv hs1))
      · exact hs1
    · split
      · exact hs1
      · exact sendRemote_memInv (prfAdd_memInv (farAnswered_memInv hs1))
    · exact hs1
  · split
    · split
      · extract_lets
        exact sendRemote_memInv (prfAdd_memInv (failAcc_memInv (memInv_foldl (fun _ _ hu => unsend_memInv hu) hs1)))
      · exact hs1
    · split
      · exact sendRemote_memInv (prfAdd_memInv (farRefused_memInv hs1))
      · exact hs1
    split
    · exact sendRemote_memInv (linkPushFault_memInv hs1)
    · exact hs1
  · split
    · exact prfAdd_memInv (freeArrives_memInv hs1)
    · exact hs1
  · exact serveInbox_memInv hs1

theorem execFlitCrcFail_memInv {link : Nat} {vfs : List Nat} (h : MemInv s) : NextInv (execFlitCrcFail link vfs s) := by
  unfold execFlitCrcFail
  refine event_memInv h ?_
  extract_lets
  split
  · exact h
  · exact moveLink_memInv (memInv_foldl (fun _ _ hu => prfAdd_memInv hu) h)

theorem routeFails_memInv {n : Nat} (h : MemInv s) : MemInv (routeFails s n) := by
  unfold routeFails
  split
  · split
    · exact failAcc_memInv h
    · exact h
  · split
    · exact farRefused_memInv h
    · exact h
  · split
    · split
      · exact haltRise_memInv h
      split
      · exact linkPushFault_memInv h
      · exact h
    · exact h
  split
  · extract_lets
    split
    · exact raiseGroup_memInv h
    · exact h
  · exact h

theorem execRouteTimeout_memInv {acc : Nat} (h : MemInv s) : NextInv (execRouteTimeout acc s) :=
  event_memInv h (routeFails_memInv h)

theorem execFunctionLevelReset_memInv {fn : Nat} (h : MemInv s) : NextInv (execFunctionLevelReset fn s) := by
  unfold execFunctionLevelReset
  refine event_memInv h ?_
  extract_lets
  split
  · exact h
  · exact memInv_foldl (fun _ _ hu => teardown_memInv hu) h

/-! Debug, profiling and registers. -/

theorem onSel_memInv {die : Nat} {f : Nat → Grp → Nat → State} (h : MemInv s) (hf : ∀ x0 x1 x2, MemInv (f x0 x1 x2)) :
    MemInv (onSel s die f) := by
  unfold onSel
  split
  · exact h
  split
  · exact h
  split
  · exact h
  split
  · exact hf _ _ _
  · exact h

theorem onStopped_memInv {die : Nat} {f : Nat → Grp → Nat → State} (h : MemInv s) (hf : ∀ x0 x1 x2, MemInv (f x0 x1 x2)) :
    MemInv (onStopped s die f) := by
  unfold onStopped
  refine onSel_memInv h (fun _ _ _ => ?_)
  split
  · exact hf _ _ _
  · exact h

theorem execDbgStop_memInv {die : Nat} (h : MemInv s) : NextInv (execDbgStop die s) := by
  unfold execDbgStop
  refine onSel_memInv h (fun _ _ _ => ?_)
  split
  · exact h
  split <;> exact h

theorem stopEnds_memInv {die st : Nat} (h : MemInv s) : MemInv (stopEnds s die st) := by
  unfold stopEnds
  split <;> exact h

theorem execDebugStopReached_memInv {grp : Nat} (h : MemInv s) : NextInv (execDebugStopReached grp s) := by
  unfold execDebugStopReached
  refine event_memInv h ?_
  extract_lets
  split
  · split
    · exact stopEnds_memInv h
    · exact h
  split
  · exact h
  split
  · exact stopEnds_memInv h
  · exact stopEnds_memInv (prfRecord_memInv h)

theorem execDbgResume_memInv {die : Nat} (h : MemInv s) : NextInv (execDbgResume die s) := onStopped_memInv h (fun _ _ _ => h)

theorem execDbgStep_memInv {die : Nat} (h : MemInv s) : NextInv (execDbgStep die s) := by
  unfold execDbgStep
  refine onStopped_memInv h (fun _ _ _ => ?_)
  extract_lets
  exact memInv_ite h (selectPath_memInv h)

theorem execDbgBken_memInv {die : Nat} (h : MemInv s) : NextInv (execDbgBken die s) := onSel_memInv h (fun _ _ _ => h)

theorem execDbgBkdis_memInv {die : Nat} (h : MemInv s) : NextInv (execDbgBkdis die s) := onSel_memInv h (fun _ _ _ => h)

theorem execDbgRead_memInv {die : Nat} (h : MemInv s) : NextInv (execDbgRead die s) := by
  unfold execDbgRead
  extract_lets
  split
  · exact h
  split
  · split
    · exact h
    split
    · exact h
    · split <;> exact h
    · exact h
  refine onStopped_memInv h (fun _ _ _ => ?_)
  split <;> exact h

theorem cancelCell_memInv {k : Nat} {c : Cell} (h : MemInv s) : MemInv (cancelCell s k c) := by
  unfold cancelCell
  split
  · exact h
  extract_lets _ _ _ _ _ _ _ _ _ _ _ s2
  have hs2 : MemInv s2 := by
    unfold s2
    refine memInv_foldl (fun _ _ hu => ?_) h
    split
    · extract_lets
      split <;> exact hu
    · exact hu
  refine memInv_foldl (fun _ _ hu => ?_) hs2
  extract_lets
  split <;> exact hu

theorem cancelReg_memInv {k : Nat} {g : Grp} {c : Cell} (h : MemInv s) : MemInv (cancelReg s k g c) :=
  memInv_foldl (fun _ _ hu => cancelCell_memInv hu) h

theorem execDbgWrite_memInv {die : Nat} {force : Bool} (h : MemInv s) : NextInv (execDbgWrite die force s) := by
  unfold execDbgWrite
  extract_lets
  refine onStopped_memInv h (fun _ _ _ => ?_)
  split
  · exact h
  · exact h
  · exact h
  · split <;> exact h
  · split <;> exact h
  · extract_lets
    split
    · exact h
    split
    · exact selectPath_memInv h
    · exact h
  extract_lets
  split
  · split
    · exact h
    split
    · split
      · exact endFaultWait_memInv (cancelReg_memInv h)
      · exact h
    · exact h
  split
  · exact h
  split
  · split
    · exact endFaultWait_memInv (cancelReg_memInv h)
    · exact h
  · exact h

theorem execDbgDrain_memInv {die : Nat} (h : MemInv s) : NextInv (execDbgDrain die s) := by
  unfold execDbgDrain
  extract_lets test
  split
  · exact onSel_memInv h (fun _ _ _ => h)
  split
  · split
    · split
      · unfold test
        extract_lets
        split <;> exact h
      · exact h
    · exact h
  refine onStopped_memInv h (fun _ _ _ => ?_)
  unfold test
  extract_lets
  split <;> exact h

theorem lockRecords_memInv {vf : Nat} (h : MemInv s) : MemInv (lockRecords s vf) :=
  memInv_foldl (fun _ _ hu => eventPush_memInv hu) h

theorem execPrfctlWrite_memInv {vf : Nat} {physical : Bool} {w : BitVec 64} (h : MemInv s) :
    NextInv (execPrfctlWrite vf physical w s) := by
  unfold execPrfctlWrite
  refine event_memInv h ?_
  split
  · exact h
  extract_lets
  split
  · exact lockRecords_memInv h
  · exact h

theorem execProfileSample_memInv {vf sched : Nat} (h : MemInv s) : NextInv (execProfileSample vf sched s) := by
  unfold execProfileSample
  refine event_memInv h ?_
  extract_lets
  split
  · exact h
  split
  · exact h
  · exact prfRecord_memInv h

theorem execPrfselWrite_memInv {vf i : Nat} {w : BitVec 64} (h : MemInv s) : NextInv (execPrfselWrite vf i w s) := by
  unfold execPrfselWrite
  refine event_memInv h ?_
  split <;> exact h

theorem execLcrctlWrite_memInv {vf : Nat} {w : BitVec 64} (h : MemInv s) : NextInv (execLcrctlWrite vf w s) := by
  unfold execLcrctlWrite
  refine event_memInv h ?_
  split <;> exact h

theorem execPrfcntLowRead_memInv {vf i : Nat} {physical : Bool} (h : MemInv s) : NextInv (execPrfcntLowRead vf i physical s) := by
  unfold execPrfcntLowRead
  refine event_memInv h ?_
  split
  · exact h
  extract_lets
  split <;> exact h

theorem idleLanes_memInv {vf k : Nat} {g : Grp} {n : Nat} (h : MemInv s) : MemInv (idleLanes s vf k g n) := prfAdd_memInv h

theorem idleSched_memInv {n : Nat} {sched : Nat} (h : MemInv s) : MemInv (idleSched n s sched) := by
  unfold idleSched
  extract_lets
  refine memInv_foldl (fun _ _ hu => ?_) h
  split
  · exact idleLanes_memInv hu
  · exact hu

theorem execIdleIssueCycle_memInv {sched : Nat} (h : MemInv s) : NextInv (execIdleIssueCycle sched s) := by
  unfold execIdleIssueCycle
  refine event_memInv h ?_
  split
  · exact idleSched_memInv h
  · exact h

theorem vfWrite_memInv {vf off : Nat} {physical : Bool} {w : W64} (h : MemInv s) : MemInv (vfWrite s vf off physical w) := by
  unfold vfWrite
  extract_lets
  split
  · split <;> exact h
  · exact h
  · exact h
  · exact h
  · exact h
  · exact h
  · exact h
  · exact h
  · exact h

theorem wqWrite_memInv {q off : Nat} {w : W64} (h : MemInv s) : MemInv (wqWrite s q off w) := by
  unfold wqWrite
  split
  · exact h
  · exact h
  · split
    · exact h
    · exact setTail_memInv h
  · exact h

theorem dbgRegWrite_memInv {die off : Nat} {w : W64} (h : MemInv s) : MemInv (dbgRegWrite s die off w) := by
  unfold dbgRegWrite
  split <;> exact h

theorem pkgWrite_memInv {off : Nat} {w : W64} (h : MemInv s) : MemInv (pkgWrite s off w) := by
  unfold pkgWrite
  split
  · exact h
  split
  · split <;> exact h
  split
  · exact h
  split
  · extract_lets
    split
    · split <;> exact h
    · exact h
    · exact h
  split
  · exact wqWrite_memInv h
  · exact h

theorem execRegisterWrite_memInv {sel offset : Nat} {physical : Bool} {w : BitVec 64} (h : MemInv s) :
    NextInv (execRegisterWrite sel offset physical w s) := by
  unfold execRegisterWrite
  split
  split
  · exact h
  split
  · split
    · exact dbgRegWrite_memInv h
    · exact h
  split
  · exact vfWrite_memInv h
  split
  · exact h
  split
  · exact h
  split
  · exact pkgWrite_memInv (dbgRegWrite_memInv h)
  · exact dbgRegWrite_memInv h

/-! Commits and versions. -/

theorem onPreparing_memInv {k : Nat} {f : Grp → Tx → State} (h : MemInv s) (hf : ∀ x0 x1, MemInv (f x0 x1)) :
    MemInv (onPreparing s k f) := by
  unfold onPreparing
  split
  · split
    · exact hf _ _
    · exact h
  · exact h

theorem execTxPrepare_memInv {grp pump : Nat} (h : MemInv s) : NextInv (execTxPrepare grp pump s) := by
  unfold execTxPrepare
  refine event_memInv h ?_
  refine onPreparing_memInv h (fun _ _ => ?_)
  split
  · exact h
  extract_lets
  split
  · exact prfAdd_memInv h
  split
  · split
    · exact prfAdd_memInv h
    · exact h
  · exact memInv_foldl (fun _ _ hu => hu) h

theorem execTxVote_memInv {grp pump : Nat} (h : MemInv s) : NextInv (execTxVote grp pump s) := by
  unfold execTxVote
  refine event_memInv h ?_
  refine onPreparing_memInv h (fun _ _ => ?_)
  split
  · exact h
  split
  · exact h
  extract_lets
  split
  · exact h
  split
  · exact h
  · exact memInv_foldl (fun _ _ hu => wakeWaits_memInv hu) h

theorem execTxCommitWrite_memInv {grp line : Nat} (h : MemInv s) : NextInv (execTxCommitWrite grp line s) := by
  unfold execTxCommitWrite
  refine event_memInv h ?_
  refine onPreparing_memInv h (fun _ _ => ?_)
  split
  · split
    · exact h
    extract_lets
    split
    · next e3 => exact countWrite_memInv (PumpInv.done e3 (pumpWrites_memInv h))
    · split <;> exact h
    split
    · exact haltKey_memInv h
    · exact haltRise_memInv h
  · exact h

theorem execTxCommitAck_memInv {grp pump : Nat} (h : MemInv s) : NextInv (execTxCommitAck grp pump s) := by
  unfold execTxCommitAck
  refine event_memInv h ?_
  refine onPreparing_memInv h (fun _ _ => ?_)
  split
  · exact h
  extract_lets
  split <;> exact h

theorem execLockRelease_memInv {grp : Nat} (h : MemInv s) : NextInv (execLockRelease grp s) := by
  unfold execLockRelease
  refine event_memInv h ?_
  extract_lets
  split
  · exact h
  · exact txUnlock_memInv h

theorem execLwmRecompute_memInv {die : Nat} (h : MemInv s) : NextInv (execLwmRecompute die s) := by
  unfold execLwmRecompute
  refine event_memInv h ?_
  split
  · exact h
  extract_lets
  exact memInv_foldl (fun _ _ hu => prfAdd_memInv (prfAdd_memInv (prfAdd_memInv hu))) h

/-! Every instruction and event. -/

theorem exec_memInv {i : Instr} (h : MemInv s) : NextInv (exec i s) := by
  cases i <;> dsimp only [exec]
  case rdem | rdsr | jrd | iadd | isub | imul | imad | imulw | imadw | imin | imax | iabs | ineg | shl | shr |
      rot | bop | bfe | bfi | popc | clz | brev | isetp | sel | mov | movi | movih | lea | plop | isad | idot |
      shfw | xlane | pcol | bsel | matchI | rdlane | wrlane | fadd | fsub | fmul | ffma | fdot | fmin | fmax |
      fsetp | fsel | fclass | fdiv | fsqrt | frcp | frsq | fexp2 | flog2 | fsin | fcos | ftanh | fcvt | f2i |
      i2f | frnd | fscale | digits | sibrd | sibwr | sibmed | sibmean | sibdiff | fsgn => exact laneIns_memInv h
  case aadd | amin | amax | aand | aor | axor | axch | acas | afadd | radd | rmin | rmax | rand | ror | rxor |
      rfadd => exact atomIssue_memInv h
  case ztrap | illegalOp | falloff | textFault => exact raiseWord_memInv h
  case nop => exact execNop_memInv h
  case bra => exact execBra_memInv h
  case brx => exact execBrx_memInv h
  case brd => exact execBrd_memInv h
  case jarm => exact execJarm_memInv h
  case jarr => exact execJarr_memInv h
  case call => exact execCall_memInv h
  case callx => exact execCallx_memInv h
  case ret => exact execRet_memInv h
  case endI => exact execEndI_memInv h
  case trap => exact execTrap_memInv h
  case bkpt => exact execBkpt_memInv h
  case bind => exact execBind_memInv h
  case spawn => exact execSpawn_memInv h
  case launch => exact execLaunch_memInv h
  case yield => exact execYield_memInv h
  case sleep => exact execSleep_memInv h
  case mark => exact execMark_memInv h
  case wrem => exact execWrem_memInv h
  case wrsr => exact execWrsr_memInv h
  case rdts => exact laneInsS_memInv h
  case rdcnt => exact execRdcnt_memInv h
  case emp => exact execEmp_memInv h
  case redi => exact execRedi_memInv h
  case scan => exact execScan_memInv h
  case fred => exact execFred_memInv h
  case ld => exact execLd_memInv h
  case st => exact execSt_memInv h
  case ldx => exact execLdx_memInv h
  case stx => exact execStx_memInv h
  case waita => exact execWaita_memInv h
  case fence => exact execFence_memInv h
  case cinv => exact execCinv_memInv h
  case ctag => exact execCtag_memInv h
  case pref => exact execPref_memInv h
  case txb => exact execTxb_memInv h
  case txc => exact execTxc_memInv h
  case txa => exact execTxa_memInv h
  case snappin => exact execSnappin_memInv h
  case snaprel => exact execSnaprel_memInv h
  case cdrain => exact execCdrain_memInv h
  case push => exact execPush_memInv h
  case pop => exact execPop_memInv h
  case caprd => exact execCaprd_memInv h
  case binit => exact execBinit_memInv h
  case barrive => exact execBarrive_memInv h
  case bexpect => exact execBexpect_memInv h
  case bwaitp => exact execBwaitp_memInv h
  case btest => exact execBtest_memInv h
  case binval => exact execBinval_memInv h
  case bclose => exact execBclose_memInv h
  case bwait => exact execBwait_memInv h
  case bpoll => exact execBpoll_memInv h
  case qfence => exact execQfence_memInv h
  case cpy => exact execCpy_memInv h
  case cpyT => exact execCpyT_memInv h
  case cpyCv => exact execCpyCv_memInv h
  case cpyMeta => exact execCpyMeta_memInv h
  case gather => exact execGather_memInv h
  case mzero => exact execMzero_memInv h
  case mloop => exact execMloop_memInv h
  case mloopSp => exact execMloopSp_memInv h
  case macc => exact execMacc_memInv h
  case cbload => exact execCbload_memInv h
  case xfmR => exact execXfmR_memInv h
  case xfmJ => exact execXfmJ_memInv h
  case decode => exact execDecode_memInv h
  case powerGood => exact execPowerGood_memInv h
  case selfTestDone => exact execSelfTestDone_memInv h
  case imageReceived => exact execImageReceived_memInv h
  case imageVerified => exact execImageVerified_memInv h
  case thermalTrip => exact execThermalTrip_memInv h
  case tripClear => exact execTripClear_memInv h
  case freeze => exact execFreeze_memInv h
  case thaw => exact execThaw_memInv h
  case coreFailure => exact execCoreFailure_memInv h
  case softError => exact execSoftError_memInv h
  case patrolScrub => exact execPatrolScrub_memInv h
  case uncorrectableError => exact execUncorrectableError_memInv h
  case startGrant => exact execStartGrant_memInv h
  case bankAccess => exact execBankAccess_memInv h
  case pumpFullWrite => exact execPumpFullWrite_memInv h
  case pumpPartialWrite => exact execPumpPartialWrite_memInv h
  case pumpRead => exact execPumpRead_memInv h
  case pumpAtomic => exact execPumpAtomic_memInv h
  case reencryptComplete => exact execReencryptComplete_memInv h
  case memoryResponse => exact execMemoryResponse_memInv h
  case storeAck => exact execStoreAck_memInv h
  case wkeyLoad => exact execWkeyLoad_memInv h
  case wkeyRekey => exact execWkeyRekey_memInv h
  case wkeyClear => exact execWkeyClear_memInv h
  case rekeyLine => exact execRekeyLine_memInv h
  case snapshotWaitEnd => exact execSnapshotWaitEnd_memInv h
  case txPrepare => exact execTxPrepare_memInv h
  case txVote => exact execTxVote_memInv h
  case txCommitWrite => exact execTxCommitWrite_memInv h
  case txCommitAck => exact execTxCommitAck_memInv h
  case lockRelease => exact execLockRelease_memInv h
  case lwmRecompute => exact execLwmRecompute_memInv h
  case poolWaitTimeout => exact execPoolWaitTimeout_memInv h
  case poolWaitEnd => exact execPoolWaitEnd_memInv h
  case pageWalk => exact execPageWalk_memInv h
  case setDirty => exact execSetDirty_memInv h
  case faultRecordWaitEnd => exact execFaultRecordWaitEnd_memInv h
  case fltreplayReplay => exact execFltreplayReplay_memInv h
  case fltreplayCancel => exact execFltreplayCancel_memInv h
  case tlbinvRange => exact execTlbinvRange_memInv h
  case tlbinvVf => exact execTlbinvVf_memInv h
  case tlbinvAll => exact execTlbinvAll_memInv h
  case tlbinvText => exact execTlbinvText_memInv h
  case tlbinvComplete => exact execTlbinvComplete_memInv h
  case partqEnable => exact execPartqEnable_memInv h
  case partqDisable => exact execPartqDisable_memInv h
  case ctxCreate => exact execCtxCreate_memInv h
  case ctxSwitch => exact execCtxSwitch_memInv h
  case ctxHalt => exact execCtxHalt_memInv h
  case ctxResume => exact execCtxResume_memInv h
  case ctxTeardown => exact execCtxTeardown_memInv h
  case restoreStart => exact execRestoreStart_memInv h
  case restoreComplete => exact execRestoreComplete_memInv h
  case sliceEnd => exact execSliceEnd_memInv h
  case saveComplete => exact execSaveComplete_memInv h
  case haltLineRise => exact execHaltLineRise_memInv h
  case unitStop => exact execUnitStop_memInv h
  case vfKeyLoad => exact execVfKeyLoad_memInv h
  case vfKeyClear => exact execVfKeyClear_memInv h
  case tokenAccrual => exact execTokenAccrual_memInv h
  case reclaim => exact execReclaim_memInv h
  case reclaimComplete => exact execReclaimComplete_memInv h
  case objectLoad => exact execObjectLoad_memInv h
  case objectUnload => exact execObjectUnload_memInv h
  case gridAcceptance => exact execGridAcceptance_memInv h
  case teamPlacement => exact execTeamPlacement_memInv h
  case gridCompletion => exact execGridCompletion_memInv h
  case bindResolve => exact execBindResolve_memInv h
  case groupStateLoaded => exact execGroupStateLoaded_memInv h
  case activeSetEntry => exact execActiveSetEntry_memInv h
  case fairnessEviction => exact execFairnessEviction_memInv h
  case groupFree => exact execGroupFree_memInv h
  case spawnBinTimeout => exact execSpawnBinTimeout_memInv h
  case spawnBinPlace => exact execSpawnBinPlace_memInv h
  case sleepExpiry => exact execSleepExpiry_memInv h
  case capdataWrite => exact execCapdataWrite_memInv h
  case cqCreate => exact execCqCreate_memInv h
  case cqDestroy => exact execCqDestroy_memInv h
  case queueAppend => exact execQueueAppend_memInv h
  case freeCountReturn => exact execFreeCountReturn_memInv h
  case wqdoor => exact execWqdoor_memInv h
  case wqBind => exact execWqBind_memInv h
  case wqPause => exact execWqPause_memInv h
  case wqResume => exact execWqResume_memInv h
  case wqDrain => exact execWqDrain_memInv h
  case wqClose => exact execWqClose_memInv h
  case wqUnbind => exact execWqUnbind_memInv h
  case wqLaunchRecord => exact execWqLaunchRecord_memInv h
  case wqSignalRecord => exact execWqSignalRecord_memInv h
  case signalWrite => exact execSignalWrite_memInv h
  case mediaOpenDec => exact execMediaOpenDec_memInv h
  case mediaOpenEnc => exact execMediaOpenEnc_memInv h
  case mediaFrame => exact execMediaFrame_memInv h
  case mediaRowback => exact execMediaRowback_memInv h
  case mediaClose => exact execMediaClose_memInv h
  case mediaRowDone => exact execMediaRowDone_memInv h
  case bardropClear => exact execBardropClear_memInv h
  case waitaRegister => exact execWaitaRegister_memInv h
  case waitaDeadline => exact execWaitaDeadline_memInv h
  case waitaWake => exact execWaitaWake_memInv h
  case linkTrain => exact execLinkTrain_memInv h
  case linkDrain => exact execLinkDrain_memInv h
  case linkDisable => exact execLinkDisable_memInv h
  case errcntClear => exact execErrcntClear_memInv h
  case linkTrained => exact execLinkTrained_memInv h
  case trainingTimeout => exact execTrainingTimeout_memInv h
  case laneLost => exact execLaneLost_memInv h
  case peerLost => exact execPeerLost_memInv h
  case flitReceived => exact execFlitReceived_memInv h
  case flitCrcFail => exact execFlitCrcFail_memInv h
  case flitAck => exact execFlitAck_memInv h
  case routeTimeout => exact execRouteTimeout_memInv h
  case functionLevelReset => exact execFunctionLevelReset_memInv h
  case engineOpStart => exact execEngineOpStart_memInv h
  case engineLineTransfer => exact execEngineLineTransfer_memInv h
  case sparsityQueuePush => exact execSparsityQueuePush_memInv h
  case mloopKStep => exact execMloopKStep_memInv h
  case maccReadout => exact execMaccReadout_memInv h
  case xfmJobBlock => exact execXfmJobBlock_memInv h
  case engineOpComplete => exact execEngineOpComplete_memInv h
  case dbgStop => exact execDbgStop_memInv h
  case debugStopReached => exact execDebugStopReached_memInv h
  case dbgResume => exact execDbgResume_memInv h
  case dbgStep => exact execDbgStep_memInv h
  case dbgRead => exact execDbgRead_memInv h
  case dbgWrite => exact execDbgWrite_memInv h
  case dbgDrain => exact execDbgDrain_memInv h
  case dbgBken => exact execDbgBken_memInv h
  case dbgBkdis => exact execDbgBkdis_memInv h
  case prfctlWrite => exact execPrfctlWrite_memInv h
  case profileSample => exact execProfileSample_memInv h
  case prfselWrite => exact execPrfselWrite_memInv h
  case lcrctlWrite => exact execLcrctlWrite_memInv h
  case prfcntLowRead => exact execPrfcntLowRead_memInv h
  case registerWrite => exact execRegisterWrite_memInv h
  case packageReset => exact execPackageReset_memInv h
  case malformedRecord => exact execMalformedRecord_memInv h
  case variableLatencyResult => exact execVariableLatencyResult_memInv h
  case idleIssueCycle => exact execIdleIssueCycle_memInv h

/-! What moves next. -/

theorem countHalted_memInv {n : Nat} (h : MemInv s) : MemInv (countHalted s n) := by
  refine memInv_foldl (fun u p hu => elim_memInv hu (fun x _ => ?_)) h
  exact hu

theorem countCycles_memInv {n : Nat} (h : MemInv s) : MemInv (countCycles s n) :=
  countHalted_memInv (memInv_foldl (fun _ _ hu => idleSched_memInv hu) h)

theorem tick_memInv (h : MemInv s) : MemInv (tick s) := by
  unfold tick
  split
  · exact h
  · exact takeRaised_memInv (growHalts_memInv (servePosted_memInv (flushBars_memInv (countCycles_memInv h))))

theorem hostWrites_memInv {pa : Nat} {key : KeyId} {ver cmp : Bool} {bytes : List Byte} (h : MemInv s) :
    MemInv (hostWrites s pa key ver cmp bytes) := servePost_memInv h

theorem entryTime_memInv {x : Choice} (h : MemInv s) : MemInv (entryTime s x) := by
  unfold entryTime
  split
  case h_2 | h_3 =>
    split
    · exact tick_memInv h
    · exact h
  · split
    · exact h
    · exact tick_memInv h
  · exact tick_memInv h

theorem takeChoice_memInv (h : MemInv s) : MemInv (takeChoice s).2 := by
  unfold takeChoice
  split <;> exact h

theorem idleFor_memInv {n : Nat} (h : MemInv s) : MemInv (idleFor s n) := by
  unfold idleFor
  split
  · exact h
  · exact countCycles_memInv h

theorem setL1rows_memInv {n : Nat} (h : MemInv s) : MemInv (setL1rows s n) := by
  unfold setL1rows
  split <;> exact h

/-! The step. -/

theorem stepIssue_memInv {sched : Nat} (h : MemInv s) : NextInv (stepIssue s sched) := by
  unfold stepIssue
  split
  · exact h
  split
  · exact h
  split
  · next s1 _ e2 =>
      have hs1 : MemInv s1 := memInv_fst e2 (fetch_memInv h)
      exact takeFault_memInv hs1
  · next s1 e2 =>
      have hs1 : MemInv s1 := memInv_fst e2 (fetch_memInv h)
      exact hs1
  · next s1 _ e2 =>
      have hs1 : MemInv s1 := memInv_fst e2 (fetch_memInv h)
      exact exec_memInv hs1

theorem stepInput_memInv {x : Choice} (h : MemInv s) : MemInv (stepInput s x) := by
  unfold stepInput
  split
  · exact hostWrites_memInv h
  · exact idleFor_memInv h
  · exact h
  · exact h
  · exact setL1rows_memInv h
  · exact h
  · exact peerChange_memInv h
  · exact serveInbox_memInv h
  · exact h
  · exact h
  · exact h
  · exact h

theorem stepChoice_memInv {c : Choice} (h : MemInv s) : NextInv (stepChoice s c) := by
  unfold stepChoice
  split
  · exact h
  split
  case h_3 | h_4 | h_5 =>
    split
    · exact h
    · exact exec_memInv h
  · exact stepIssue_memInv h
  · exact stepIssue_memInv h
  · exact h
  split
  · exact h
  · exact stepInput_memInv h

/-- What the model may do of its own accord keeps the form of memory. -/
def ActInv (f : Act) : Prop := ∀ s, MemInv s → NextInv (f s)

theorem schedActs_memInv (sched : Nat) : ∀ f ∈ schedActs sched, ActInv f := by
  simp only [schedActs, List.forall_mem_cons]
  exact ⟨fun _ h => execActiveSetEntry_memInv h, fun _ h => execFairnessEviction_memInv h,
    fun _ h => execIdleIssueCycle_memInv h, nofun⟩

theorem opActs_memInv (x : Nat × EngOp) : ∀ f ∈ opActs x, ActInv f := by
  simp only [opActs, List.forall_mem_cons]
  exact ⟨fun _ h => execEngineOpStart_memInv h, fun _ h => execEngineLineTransfer_memInv h,
    fun _ h => execSparsityQueuePush_memInv h, fun _ h => execMloopKStep_memInv h, fun _ h => execMaccReadout_memInv h,
    fun _ h => execXfmJobBlock_memInv h,
    fun _ h => execEngineOpComplete_memInv h, nofun⟩

theorem msgActs_memInv (x : Nat × Msg) : ∀ f ∈ msgActs x, ActInv f := by
  unfold msgActs
  split
  · simp only [List.forall_mem_cons]
    exact ⟨fun _ h => execFreeCountReturn_memInv h, fun _ h => execRouteTimeout_memInv h, nofun⟩
  · exact List.forall_mem_singleton.2 fun _ h => execRouteTimeout_memInv h
  · exact List.forall_mem_singleton.2 fun _ h => execQueueAppend_memInv h

theorem binActs_memInv (s : State) (core : Nat) (x : Nat × Bin) : ∀ f ∈ binActs s core x, ActInv f := by
  unfold binActs
  extract_lets part
  split
  · split
    · exact List.forall_mem_singleton.2 fun _ h => execSpawnBinPlace_memInv h
    · nofun
  · exact List.forall_mem_singleton.2 fun _ h => execSpawnBinTimeout_memInv h

theorem autoPlace_memInv (s : State) (p ck core : Nat) : ∀ f ∈ autoPlace s p ck core, ActInv f := by
  unfold autoPlace
  split
  · nofun
  · extract_lets nb rows clash
    split
    · exact List.forall_mem_singleton.2 fun _ h => execTeamPlacement_memInv h
    · nofun

theorem partActs_memInv (s : State) (p : Nat) (x : Part48) : ∀ f ∈ partActs s p x, ActInv f := by
  unfold partActs
  simp only [List.forall_mem_append, List.forall_mem_cons]
  refine ⟨⟨⟨⟨fun _ h => execRestoreStart_memInv h, fun _ h => execRestoreComplete_memInv h, fun _ h => execSliceEnd_memInv h,
    fun _ h => execSaveComplete_memInv h, fun _ h => execReclaimComplete_memInv h, nofun⟩, ?_⟩, ?_⟩, ?_⟩
  · exact List.forall_mem_map.2 fun _ _ _ h => execReclaim_memInv h
  · split
    · exact List.forall_mem_map.2 fun _ _ _ h => execUnitStop_memInv h
    · nofun
  · split
    · split
      · exact autoPlace_memInv s p _ _
      · nofun
    · nofun

theorem grpActs_memInv (x : Nat × Grp) : ∀ f ∈ grpActs x, ActInv f := by
  unfold grpActs
  dsimp only
  simp only [List.forall_mem_append]
  refine ⟨⟨⟨⟨?_, ?_⟩, ?_⟩, ?_⟩, ?_⟩
  · split
    · exact List.forall_mem_singleton.2 fun _ h => execGroupStateLoaded_memInv h
    · exact List.forall_mem_singleton.2 fun _ h => execGroupFree_memInv h
    · exact List.forall_mem_singleton.2 fun _ h => execSleepExpiry_memInv h
  · exact List.forall_mem_map.2 fun _ _ _ h => execVariableLatencyResult_memInv h
  · split
    · simp only [List.forall_mem_append, List.forall_mem_flatten, List.forall_mem_map, List.forall_mem_cons]
      exact ⟨fun _ _ => ⟨fun _ h => execTxPrepare_memInv h, fun _ h => execTxVote_memInv h,
          fun _ h => execTxCommitAck_memInv h, nofun⟩,
        fun _ _ _ h => execTxCommitWrite_memInv h⟩
    · exact List.forall_mem_singleton.2 fun _ h => execLockRelease_memInv h
  · split
    · exact List.forall_mem_singleton.2 fun _ h => execRouteTimeout_memInv h
    · nofun
  · split
    · exact List.forall_mem_singleton.2 fun _ h => execDebugStopReached_memInv h
    · nofun

theorem accActs_memInv (x : Nat × Acc) : ∀ f ∈ accActs x, ActInv f := by
  unfold accActs
  dsimp only
  simp only [List.forall_mem_append, List.forall_mem_flatten, List.forall_mem_map, List.forall_mem_cons]
  refine ⟨fun p _ => ?_, fun _ h => execMemoryResponse_memInv h, fun _ h => execStoreAck_memInv h, fun _ h => execWaitaWake_memInv h,
    fun _ h => execSnapshotWaitEnd_memInv h, fun _ h => execPoolWaitEnd_memInv h, fun _ h => execPoolWaitTimeout_memInv h, nofun⟩
  have hroute : ActInv (execRouteTimeout x.1) := fun _ h => execRouteTimeout_memInv h
  have hbank : ActInv (execBankAccess x.1 p.1) := fun _ h => execBankAccess_memInv h
  split
  · exact List.forall_mem_singleton.2 hroute
  · exact List.forall_mem_cons.2 ⟨hbank, List.forall_mem_singleton.2 hroute⟩
  · split
    · exact List.forall_mem_cons.2 ⟨fun _ h => execWaitaRegister_memInv h,
        List.forall_mem_singleton.2 fun _ h => execWaitaDeadline_memInv h⟩
    · split
      · split
        · exact List.forall_mem_cons.2 ⟨fun _ h => execPumpFullWrite_memInv h,
            List.forall_mem_singleton.2 fun _ h => execPumpPartialWrite_memInv h⟩
        · split
          · exact List.forall_mem_singleton.2 fun _ h => execPumpAtomic_memInv h
          · exact List.forall_mem_singleton.2 fun _ h => execPumpRead_memInv h
      · exact List.forall_mem_singleton.2 hbank

theorem acts_memInv (s : State) (scheds : List Nat) : ∀ f ∈ acts s scheds, ActInv f := by
  unfold acts
  simp only [List.forall_mem_append, List.forall_mem_flatten, List.forall_mem_map, and_assoc]
  refine ⟨?_, ?_, ?_, ?_, ?_, ?_, ?_, ?_, ?_, ?_, ?_, ?_, ?_, ?_, ?_, ?_, ?_, ?_, ?_, ?_, ?_⟩
  · exact fun x _ => schedActs_memInv x
  · exact fun x _ => grpActs_memInv x
  · exact fun x _ => accActs_memInv x
  · exact fun x _ => opActs_memInv x
  · exact fun x _ => msgActs_memInv x
  · exact fun _ _ _ h => execGridAcceptance_memInv h
  · exact fun _ _ _ h => execGridCompletion_memInv h
  · exact fun p _ => partActs_memInv s p.1 p.2
  · simp only [List.forall_mem_cons]
    exact fun _ _ => ⟨fun _ h => execWqLaunchRecord_memInv h, fun _ h => execWqSignalRecord_memInv h,
      fun _ h => execSignalWrite_memInv h, fun _ h => execMalformedRecord_memInv h, nofun⟩
  · simp only [List.forall_mem_cons]
    exact fun _ _ => ⟨fun _ h => execMediaOpenDec_memInv h, fun _ h => execMediaOpenEnc_memInv h, fun _ h => execMediaFrame_memInv h,
      fun _ h => execMediaRowback_memInv h, fun _ h => execMediaClose_memInv h, nofun⟩
  · exact fun c _ x _ => binActs_memInv s c.1 x
  · exact fun _ _ _ h => execFaultRecordWaitEnd_memInv h
  · exact fun _ _ _ h => execReencryptComplete_memInv h
  · simp only [List.forall_mem_cons]
    exact fun _ _ => ⟨fun _ h => execStartGrant_memInv h, fun _ h => execLwmRecompute_memInv h, nofun⟩
  · exact fun _ _ _ h => execDbgDrain_memInv h
  · split
    · nofun
    · exact List.forall_mem_map.2 fun _ _ _ h => execStartGrant_memInv h
  · exact fun _ _ _ h => execTrainingTimeout_memInv h
  · exact fun _ _ _ h => execRouteTimeout_memInv h
  · split
    · nofun
    · exact List.forall_mem_singleton.2 fun _ h => event_memInv h (serveInbox_memInv h)
  · exact fun _ _ _ _ _ h => execProfileSample_memInv h
  · split
    · exact List.forall_mem_singleton.2 fun _ h => execTlbinvComplete_memInv h
    · nofun

theorem autoTurn_memInv {f : Act} (e : autoTurn s = .inr f) : ActInv f := by
  unfold autoTurn at e
  extract_lets scheds cs at e
  cases hq : cs[s.cycle % cs.length]? with
  | none =>
    rw [hq] at e
    cases e
    exact fun _ h => idleFor_memInv h
  | some a =>
    rw [hq, Option.getD_some] at e
    subst e
    have hmem : Sum.inr f ∈ cs := List.mem_of_getElem? hq
    have hf : f ∈ acts s scheds := by simpa [cs] using hmem
    exact acts_memInv s scheds f hf

theorem stepAuto_memInv (h : MemInv s) : NextInv (stepAuto s) := by
  unfold stepAuto
  split
  · exact stepIssue_memInv h
  · next f e => exact autoTurn_memInv e s h

theorem step_memInv (h : MemInv s) : NextInv (step s) := by
  unfold step
  split
  · next e => exact stepChoice_memInv (entryTime_memInv (memInv_snd e (takeChoice_memInv h)))
  · next e => exact stepAuto_memInv (tick_memInv (memInv_snd e (takeChoice_memInv h)))

end

/-- Settles O58: memory's form goes through every function that `step` calls, from the writes of memory's bytes up. -/
theorem stepKeepsMemoryForm : Obligations.StepKeepsMemoryForm := by
  unfold Obligations.StepKeepsMemoryForm
  intro s t h e
  have hn : NextInv (step s) := step_memInv h
  rwa [e] at hn

end Sys2Proof.Proofs.Memory

namespace Sys2Proof.Proofs.Batches

open Sys2Proof Sys2Proof.Machine Sys2Proof.Claims

/-! Issues that move paths (R225 to R228), where what is parked stays on chip. -/

/-- A group keeps its lanes and its context. -/
structure SameShape (g h : Grp) : Prop where
  paired : h.paired = g.paired
  triplex : h.triplex = g.triplex
  ctx : h.ctx = g.ctx

theorem SameShape.trans {a b c : Grp} (h1 : SameShape a b) (h2 : SameShape b c) : SameShape a c :=
  ⟨h2.paired.trans h1.paired, h2.triplex.trans h1.triplex, h2.ctx.trans h1.ctx⟩

theorem SameShape.of_shape {g h : Grp} (e : h.paired = g.paired ∧ h.triplex = g.triplex ∧ h.ctx = g.ctx) : SameShape g h := ⟨e.1, e.2.1, e.2.2⟩

theorem settle_shape (g : Grp) (since n : Nat) : SameShape g (settle g since n).1 :=
  .of_shape (pr_shape (settle_rest n g since))

theorem parkRunning_shape (g : Grp) (kind : PathKind) (since : Nat) : SameShape g (parkRunning g kind since) :=
  .of_shape (pr_shape (parkRunning_rest g kind since))

theorem hints_shape (c : Nat) (g : Grp) (h : Hdr) : SameShape g (hints c g h) := by
  obtain ⟨_, _, _, _, _, _, _, _, _, e⟩ := hints_rest c g h
  rw [e]
  exact ⟨rfl, rfl, rfl⟩

theorem sends_shape (g : Grp) (n : Nat) (slot : Option Nat) (ws : List RegW) : SameShape g (sends g n slot ws) := by
  cases slot <;> exact ⟨rfl, rfl, rfl⟩

/-- Completions and selection of paths leave the settled group. -/
theorem settlePaths_onChip {s : State} {k : Nat} {G : Grp} (hc : onChip (settle G s.cycle settleFuel).1 = true) :
    settlePaths (setGroup s k G) k = (.ok (setGroup s k (settle G s.cycle settleFuel).1), (settle G s.cycle settleFuel).2) := by
  have hset : setGroup (setGroup s k G) k (settle G s.cycle settleFuel).1 = setGroup s k (settle G s.cycle settleFuel).1 := by
    simp only [setGroup, tabPut_put]
  simp only [settlePaths, setGroup_groups, tabGet_put_same, setGroup_cycle, hset]
  rw [balance_onChip (g := (settle G s.cycle settleFuel).1) (by simp) hc]

/-- A wait that notes no cause of its own ends as any issue whose paths settled. -/
theorem concludePark_nil {s s1 t : State} {k : Nat} {ev : List (Nat × Mask)} (g : Grp) (act : Mask)
    (h : settlePaths (updGroup s1 k fun g => { g with step := false }) k = (.ok t, ev)) :
    concludePark s s1 k g act Notes.nil = concludeIssue s t k g act { Notes.nil with lost := ev } := by
  have hn : ({ Notes.nil with lost := Notes.nil.lost ++ ev } : Notes) = { Notes.nil with lost := ev } := rfl
  simp only [concludePark, h, concludeIssue, hn]
  cases numApply s t k g.pc { Notes.nil with lost := ev } <;> rfl

/-- The end of an issue whose paths settled: the group is the settled one, and nothing else has changed since the instruction's
own effect. -/
theorem concludeIssue_settled {s base : State} {k : Nat} {g H : Grp} (hn : noHalt g = true) (hsh : SameShape g H) (act : Mask) (n : Notes) :
    ∃ t, concludeIssue (setGroup s k g) (setGroup base k H) k g act n = .next t ∧ Done base t k g H n := by
  obtain ⟨t, ht, hdn⟩ := concludeIssue_done (s0 := setGroup s k g) (s1 := setGroup base k H) (k := k) (g := g) (g1 := H) (by simp) (by simp)
    hsh.paired hsh.triplex hsh.ctx hn act n
  exact ⟨t, ht, done_of hdn rfl (fun j hj => by simp [tabGet_put_other _ _ (Ne.symm hj)]) fun _ => rfl⟩

/-- The instruction sets its own PC and counts its own slot, and its paths stay on chip. -/
theorem ownDone {i : Instr} {h : Hdr} {s base : State} {k : Nat} {g G : Grp} {body} {f : Fields}
    (hd : headOf i s = some (k, g)) (hf : fields i = some f) (hh : f.hdr = h) (hn : noHalt g = true)
    (he : exec i s = issue i howWait body s)
    (hb : body (setGroup s k g) k g (envOf s g h) = .ok (setGroup (setGroup base k g) k G) Notes.nil)
    (hcy : base.cycle = s.cycle) (hsh : SameShape g G) : OwnDone i h s base k g G Notes.nil := by
  subst hh
  intro hc
  have hset : updGroup (setGroup (setGroup base k g) k G) k (afterIssue (setGroup s k g) howWait f.hdr) =
      setGroup base k (hints s.cycle G f.hdr) := by
    simp only [updGroup, setGroup, tabPut_put, tabUpd_put]
    rfl
  have hsettled : settle (hints s.cycle G f.hdr) base.cycle settleFuel = settledOwn s G f.hdr := by rw [hcy]; rfl
  obtain ⟨t, ht, hdn⟩ := concludeIssue_settled (s := s) (base := base) (k := k) hn
    (hsh.trans ((hints_shape s.cycle G f.hdr).trans (settle_shape _ s.cycle settleFuel))) (activeMask g f.hdr)
    { Notes.nil with lost := Notes.nil.lost ++ (settledOwn s G f.hdr).2 }
  refine ⟨t, ?_, hdn⟩
  rw [he, issue_head hd hf, hb]
  simp only [conclude, hset, show howWait.paths = true from rfl, if_true, concludePaths]
  rw [settlePaths_onChip (by rw [hsettled]; exact hc), hsettled]
  exact ht

/-- The running path waits at its instruction, and its paths stay on chip. -/
theorem parks {i : Instr} {h : Hdr} {s : State} {k : Nat} {g G : Grp} {how : How} {body} {f : Fields}
    (hd : headOf i s = some (k, g)) (hf : fields i = some f) (hh : f.hdr = h) (hn : noHalt g = true)
    (he : exec i s = issue i how body s)
    (hb : body (setGroup s k g) k g (envOf s g h) = .park (setGroup (setGroup s k g) k G) Notes.nil) (hsh : SameShape g G) :
    Parks i s s k g G := by
  subst hh
  intro hc
  have hset : updGroup (setGroup (setGroup s k g) k G) k (fun g => { g with step := false }) = setGroup s k { G with step := false } := by
    simp only [updGroup, setGroup, tabPut_put, tabUpd_put]
  have hstep : SameShape g { G with step := false } := ⟨hsh.paired, hsh.triplex, hsh.ctx⟩
  obtain ⟨t, ht, hdn⟩ := concludeIssue_settled (s := s) (base := s) (k := k) hn
    (hstep.trans (settle_shape { G with step := false } s.cycle settleFuel)) (activeMask g f.hdr)
    { Notes.nil with lost := (settle { G with step := false } s.cycle settleFuel).2 }
  refine ⟨t, ?_, hdn⟩
  rw [he, issue_head hd hf, hb]
  simp only [conclude]
  rw [concludePark_nil g _ (by rw [hset]; exact settlePaths_onChip hc)]
  exact ht

/-- The instruction counts its own slot and goes on to the next one, with a fixed-latency result on its way (R231). -/
theorem sendsDone {i : Instr} {h : Hdr} {s : State} {k n : Nat} {g : Grp} {ws : List RegW} {body} {f : Fields}
    (hd : headOf i s = some (k, g)) (hf : fields i = some f) (hh : f.hdr = h) (hn : noHalt g = true)
    (he : exec i s = issue i ⟨false, true, false⟩ body s)
    (hb : body (setGroup s k g) k g (envOf s g h) = .ok (sendResult (setGroup s k g) k g (.fix n) (hdrSlot h) ws) Notes.nil) :
    ∃ t, exec i s = .next t ∧ Done s t k g (goesOn s (sends g n (hdrSlot h) ws) h) Notes.nil := by
  subst hh
  obtain ⟨hp, ht, hc⟩ := sends_shape g n (hdrSlot f.hdr) ws
  obtain ⟨t, hx, hdn⟩ := issue_done (how := ⟨false, true, false⟩) (G := sends g n (hdrSlot f.hdr) ws) hd hf hn rfl hb (tabGet_put_same _ _ _) hp ht hc
  refine ⟨t, he.trans hx, done_of hdn ?_ (fun j hj => ?_) fun _ => rfl⟩
  · simp only [sendResult, setGroup, tabPut_put]
  · simp [sendResult, tabGet_put_other _ _ (Ne.symm hj)]

/-- The instruction goes on to the next one, from what its own effect leaves beside its group. -/
theorem plainDone {i : Instr} {h : Hdr} {s base : State} {k : Nat} {g G : Grp} {body} {f : Fields}
    (hd : headOf i s = some (k, g)) (hf : fields i = some f) (hh : f.hdr = h) (hn : noHalt g = true)
    (he : exec i s = issue i howPlain body s)
    (hb : body (setGroup s k g) k g (envOf s g h) = .ok (setGroup (setGroup base k g) k G) Notes.nil) (hsh : SameShape g G) :
    ∃ t, exec i s = .next t ∧ Done base t k g (goesOn s (marksSlot s G h) h) Notes.nil := by
  subst hh
  obtain ⟨t, ht, hdn⟩ := issue_done (how := howPlain) (G := G) hd hf hn rfl hb (by simp) hsh.paired hsh.triplex hsh.ctx
  have hafter : afterIssue s howPlain f.hdr G = goesOn s (marksSlot s G f.hdr) f.hdr := by
    unfold afterIssue goesOn marksSlot
    simp only [howPlain, Bool.false_eq_true, if_false]
    cases hdrSlot f.hdr <;> rfl
  rw [hafter] at hdn
  refine ⟨t, he.trans ht, done_of hdn rfl (fun j hj => ?_) fun _ => rfl⟩
  simp [tabGet_put_other _ _ (Ne.symm hj)]

/-- The instruction does not issue now. -/
theorem holds {i : Instr} {h : Hdr} {s : State} {k : Nat} {g : Grp} {how : How} {body} {f : Fields}
    (hd : headOf i s = some (k, g)) (hf : fields i = some f) (hh : f.hdr = h) (he : exec i s = issue i how body s)
    (hb : body (setGroup s k g) k g (envOf s g h) = .wait (setGroup s k g)) : Holds i s k (setGroup s k g) := by
  subst hh
  rw [Holds, he, issue_head hd hf, hb]
  rfl

/-! Batches (R254, R388). -/

theorem wrS_one (r n : Nat) : wrS r 1 n = [⟨.s r, BitVec.ofNat 64 n⟩] := by
  have hmod : BitVec.ofNat 64 (n % 2 ^ 64) = BitVec.ofNat 64 n := BitVec.eq_of_toNat_eq (by simp)
  simpa [wrS] using hmod

theorem parkOn_head (s : State) (k : Nat) (g : Grp) (r : Reason) (w : WaitOn) :
    parkOn (setGroup s k g) k r w = setGroup (setGroup s k g) k (parkRunning g (.waiting r w) s.cycle) := by
  simp only [parkOn, updGroup, setGroup, tabUpd_put, tabPut_put]

/-- A batch is complete where no incomplete one has its number. -/
theorem batchDone_eq_all (b : Batches) (n : Nat) : batchDone b n = b.closed.all fun x => x.1 != n := by
  rw [batchDone, List.not_any_eq_all_not]
  rfl

theorem batchDone_iff (b : Batches) (n : Nat) : batchDone b n = true ↔ ∀ x ∈ b.closed, x.1 ≠ n := by
  simp [batchDone_eq_all]

/-- An incomplete batch has been closed. -/
theorem batchClosed_of_not_done {b : Batches} {n : Nat} (h : batchDone b n = false) : batchClosed b n = true := by
  have hany : b.closed.any (fun x => x.1 == n) = true := by simpa only [batchDone, Bool.not_eq_false'] using h
  simp only [batchClosed, hany, Bool.true_or]

/-- BCLOSE, BWAIT and BPOLL: each branch of R388 is one of the ends of an issue above. -/
theorem batchRules_holds (w : RWord (BitVec 12)) : batchRules w := by
  refine ⟨fun _ s k g hd hn => ?bclose, fun _ s k g hd hn => ?bwait, fun _ s k g hd hn => ?bpoll⟩
  case bclose =>
    have he := execBclose.eq_1 w s
    refine ⟨fun hact => ?_, fun hact hfull => ?_, fun hact hroom r hr => ?_⟩
    · refine ownDone hd rfl rfl hn he ?_ rfl (.trans ?_ (sends_shape (advance s g) 4 (hdrSlot w.hdr) []))
      · simp only [hact, if_true]
        rfl
      · exact ⟨rfl, rfl, rfl⟩
    · refine parks hd rfl rfl hn he ?_ (parkRunning_shape g _ _)
      simp only [hact, hfull, if_false, if_true, parkOn_head]
    · refine ownDone hd rfl rfl hn he ?_ rfl (.trans ?_ (sends_shape _ 4 (hdrSlot w.hdr) _))
      · simp only [hact, Nat.not_le.mpr hroom, if_false, hr, wrS_one]
        rfl
      · exact ⟨rfl, rfl, rfl⟩
  case bwait =>
    have he := execBwait.eq_1 w s
    refine ⟨fun hcnt => ?_, fun n hcnt => ⟨fun hact => ?_, fun hact hopen => ?_, fun hact hclosed hdone => ?_, fun hact hwait => ?_⟩⟩
    · refine traps hd rfl rfl he ?_
      simp only [hcnt]
    · refine pathDone hd rfl rfl hn he ?_ rfl rfl rfl rfl
      simp only [hcnt, hact, if_true]
      rfl
    · refine traps hd rfl rfl he ?_
      simp only [hcnt, hact, hopen, Bool.not_false, if_false, if_true]
    · refine pathDone hd rfl rfl hn he ?_ rfl rfl rfl rfl
      simp only [hcnt, hact, hclosed, (batchDone_iff _ n).mpr hdone, Bool.not_true, Bool.false_eq_true, if_false, if_true]
      rfl
    · obtain ⟨hp, ht, hc⟩ := parkRunning_shape g (.waiting .batch (.batch (w.m.toNat % 4) n)) s.cycle
      have hnot : batchDone (batchesOf g (w.m.toNat % 4)) n = false := by
        obtain ⟨x, hx, hxn⟩ := hwait
        exact Bool.eq_false_iff.mpr fun h => (batchDone_iff _ n).mp h x hx hxn
      have hclosed := batchClosed_of_not_done hnot
      refine pathDone hd rfl rfl hn he ?_ rfl hp ht hc
      simp only [hcnt, hact, hclosed, hnot, Bool.not_true, Bool.false_eq_true, if_false, parkOn_head]
  case bpoll =>
    have he := execBpoll.eq_1 w s
    refine ⟨fun hcnt => ?_, fun n hcnt => ⟨fun hact hopen => ?_, fun hok => ?_⟩⟩
    · refine traps hd rfl rfl he ?_
      simp only [hcnt]
    · refine traps hd rfl rfl he ?_
      simp only [hcnt, hact, hopen, Bool.not_false, ne_eq, not_false_eq_true, and_self, if_true]
    · have hgo : ¬ ((envOf s g w.hdr).act ≠ 0 ∧ (!batchClosed (batchesOf g (w.m.toNat % 4)) n) = true) := by
        rintro ⟨hact, hopen⟩
        rcases hok with h | h
        · exact hact h
        · rw [h] at hopen
          cases hopen
      refine sendsDone hd rfl rfl hn he ?_
      simp only [hcnt, if_neg hgo, batchDone_eq_all]

/-- A new marker stays where an operation of its core, in a queue of its mask, is not complete. -/
theorem markerHolds_new {s t : State} (hops : t.ops = s.ops) (hctxs : t.ctxs = s.ctxs) (w : RWord (BitVec 12)) (k : Nat) (g : Grp) :
    markerHolds t s.serial (markerOp (.qfence w) k g) = s.ops.any fun x =>
      x.2.core == coreOf k && opLive s x.2 && decide (x.1 < s.serial) && decide (x.2.cls < 4) && w.m.getLsbD x.2.cls := by
  simp only [markerHolds, coreOps, opLive, List.any_filter, markerOp, markerMask, Bool.and_assoc, hops, hctxs]

/-- QFENCE: its marker enters the queues where it has something to wait for. -/
theorem qfenceRule_holds (w : RWord (BitVec 12)) : qfenceRule w := by
  intro _ s k g hd hn
  have he := execQfence.eq_1 w s
  refine ⟨fun hact => ?_, fun hact hheld => ?_, fun hact hfree => ?_⟩
  · refine plainDone hd rfl rfl hn he ?_ ⟨rfl, rfl, rfl⟩
    simp only [hact, if_true, setGroup, tabPut_put]
  · refine holds hd rfl rfl he ?_
    simp only [hact, hheld, if_false, if_true]
  · refine plainDone hd rfl rfl hn he ?_ ⟨rfl, rfl, rfl⟩
    have hmark := markerHolds_new (s := s) (t := updGroup { setGroup s k g with serial := s.serial + 1 } k unmark) rfl rfl w k g
    simp only [hact, hfree, if_false, Bool.false_eq_true, fresh_fst, fresh_snd, setGroup_serial, hmark]
    split
    all_goals simp only [updGroup, setGroup, tabUpd_put, tabPut_put]

/-- Settles O24: every branch of R388 and R389 puts the instruction's effect into one of the ends that an issue can have. -/
theorem batchInstructionEffects : Obligations.BatchInstructionEffects := by
  unfold Obligations.BatchInstructionEffects
  exact fun w => ⟨batchRules_holds w, qfenceRule_holds w⟩

end Sys2Proof.Proofs.Batches

namespace Sys2Proof.Proofs.Engines

open Sys2Proof Sys2Proof.Machine Sys2Proof.Claims
open Sys2Proof.Proofs.Device Sys2Proof.Proofs.Memory

/-! What the reads and writes of an engine leave: the operations and the contexts are as they were (R391, R392). -/

/-- The operations and the contexts are as they were. -/
structure Kept (s t : State) : Prop where
  ops : t.ops = s.ops
  ctxs : t.ctxs = s.ctxs

theorem Kept.refl (s : State) : Kept s s := ⟨rfl, rfl⟩

theorem Kept.trans {s t u : State} (h1 : Kept s t) (h2 : Kept t u) : Kept s u := ⟨h2.ops.trans h1.ops, h2.ctxs.trans h1.ctxs⟩

theorem Kept.of_wrote {s t : State} (h : DeviceWrote s t) : Kept s t := ⟨by rw [h.same], by rw [h.same]⟩

theorem Kept.of_counted {s t : State} (h : Counted s t) : Kept s t := ⟨by rw [h.same], by rw [h.same]⟩

/-- What an access that succeeds leaves. -/
def ErKept {α : Type} (s : State) : ER α → Prop
  | .ok t _ => Kept s t
  | _ => True

def PumpKept (s : State) : PumpRes → Prop
  | .done t _ => Kept s t
  | _ => True

def XlKept (s : State) : XRes → Prop
  | .ok t _ => Kept s t
  | _ => True

def FilledKept (s : State) : Filled → Prop
  | .leaf t _ => Kept s t
  | _ => True

theorem ErKept.bind {α β : Type} {s : State} {r : ER α} {f : State → α → ER β} (hr : ErKept s r)
    (hf : ∀ t x, Kept s t → ErKept s (f t x)) : ErKept s (r.bind f) := by
  cases r with
  | ok t x => exact hf t x hr
  | stall | absent | fail => trivial

theorem ErKept.ok {α : Type} {s t : State} {x : α} (h : Kept s t) : ErKept s (ER.ok t x) := h

theorem ErKept.trans {α : Type} {s t : State} {r : ER α} (h : Kept s t) (hr : ErKept t r) : ErKept s r := by
  cases r with
  | ok u x => exact h.trans hr
  | stall | absent | fail => trivial

/-- A fold over the pieces of a range keeps what each piece keeps. -/
theorem ErKept.foldl {α β : Type} {s : State} {f : ER α → β → ER α} {r : ER α} (hr : ErKept s r)
    (hf : ∀ r b, ErKept s r → ErKept s (f r b)) (l : List β) : ErKept s (l.foldl f r) :=
  List.foldlRecOn (motive := ErKept s) l f hr fun r hr b _ => hf r b hr

theorem newVersion_kept {s t : State} {k : KeyId} {line stamp : Nat} (h : newVersion s k line stamp = some t) : Kept s t := by
  unfold newVersion at h
  dsimp only at h
  split at h
  · cases h
  · cases h
    exact ⟨rfl, rfl⟩

theorem pumpWrites_kept (s : State) (key : KeyId) (ver cmp : Bool) (pa : Nat) (ps : Pieces) (own st : Option Nat) :
    PumpKept s (pumpWrites s key ver cmp pa ps own st) := by
  have hclear : ∀ (c : Bool) (u : State) (a n : Nat), Kept u (if c then u else clearPoison u a n) := by
    intro c u a n
    split <;> exact ⟨rfl, rfl⟩
  have hplain : Kept s (let s1 := putPieces s ps
      wakePieces (if piecesMask (pa / 128) ps = BitVec.allOnes 128 then clearPoison s1 (128 * (pa / 128)) 128 else s1) ps) := by
    refine ((Kept.of_wrote (putPieces_wrote ps s)).trans ?_).trans (.of_wrote (wakePieces_wrote ps _))
    split <;> exact ⟨rfl, rfl⟩
  unfold pumpWrites
  split
  · exact hplain
  · exact hplain
  · exact hplain
  · extract_lets line l partly _ s1
    split
    · trivial
    split
    · trivial
    split
    · trivial
    split
    · trivial
    split
    · trivial
    split
    · trivial
    have hversion : ∀ s2, s1 = some s2 → Kept s s2 := by
      intro s2 h2
      unfold s1 at h2
      split at h2
      · exact newVersion_kept h2
      · cases h2
        exact .refl s
    clear_value s1
    cases s1 with
    | none => trivial
    | some s2 =>
      refine (hversion s2 rfl).trans (.trans ?_ (.of_wrote (wakePieces_wrote ps _)))
      refine .trans (.trans ?_ (hclear partly _ _ _)) (.of_wrote (sealLine_wrote _ _ _ _ _))
      refine .trans ?_ (.of_wrote (putPieces_wrote ps _))
      split <;> exact ⟨rfl, rfl⟩
  · trivial

theorem farAsk_kept (s : State) (owner ck : Nat) (key : KeyId) (cmp : Bool) (pa n : Nat) (data : Option Nat) (keep : Bool) :
    PumpKept s (farAsk s owner ck key cmp pa n data keep) := by
  unfold farAsk
  split
  · split
    · trivial
    · cases keep <;> exact ⟨rfl, rfl⟩
    · trivial
  · trivial

theorem pumpRead_kept (s : State) (key : KeyId) (ver : Bool) (snap : Option Nat) (pa n : Nat) :
    PumpKept s (pumpRead s key ver snap pa n) := by
  have hhome : ∀ v, PumpKept s (if poisoned s pa n then PumpRes.fault fcUncorrectable else .done s v) := by
    intro v
    split
    · trivial
    · exact .refl s
  unfold pumpRead
  split
  · exact hhome _
  · exact hhome _
  · exact hhome _
  · dsimp only
    split
    · trivial
    split
    · trivial
    split
    · split
      · trivial
      split
      · trivial
      split
      · exact hhome _
      split
      · trivial
      split
      · trivial
      · exact .refl s
    · exact hhome _
  · trivial

theorem agentRead_kept (s : State) (owner ck : Nat) (key : KeyId) (ver : Bool) (snap : Option Nat) (pa n : Nat) (keep : Bool) :
    PumpKept s (agentRead s owner ck key ver snap pa n keep) := by
  unfold agentRead
  split
  · exact farAsk_kept ..
  · exact pumpRead_kept ..

theorem agentWrite_kept (s : State) (owner ck : Nat) (key : KeyId) (ver cmp : Bool) (pa : Nat) (bs : List Byte) (keep : Bool) :
    PumpKept s (agentWrite s owner ck key ver cmp pa bs keep) := by
  unfold agentWrite
  split
  · exact farAsk_kept ..
  · exact pumpWrites_kept ..

/-- Translation writes page table bits and fills TLBs (R168, R170). -/
theorem tlbFill_kept (s : State) (a : Agent) (e : TlbEnt) : Kept s (tlbFill s a e) := by
  unfold tlbFill
  split <;> exact ⟨rfl, rfl⟩

theorem walkKeep_kept (s : State) (die vf : Nat) (text : Bool) (va : Nat) (path : List (Nat × W64)) :
    Kept s (walkKeep s die vf text va path) := ⟨rfl, rfl⟩

theorem walkFill_kept (s : State) (ck : Nat) (a : Agent) (text : Bool) (va : Nat) (set : W64) :
    FilledKept s (walkFill s ck a text va set) := by
  unfold walkFill
  split
  · trivial
  · trivial
  · next p addr b path _ =>
    refine .trans (t := if p ||| set ||| 0x400#64 = p then s else pteSet s ck addr (p ||| set ||| 0x400#64)) ?_
      ((walkKeep_kept ..).trans (tlbFill_kept ..))
    split
    · exact .refl s
    · exact .of_wrote (devWrite_wrote ..)

theorem lookup_kept (s : State) (ck : Nat) (a : Agent) (text write : Bool) (va : Nat) : FilledKept s (lookup s ck a text write va) := by
  unfold lookup
  split
  · split
    · exact walkFill_kept ..
    · show Kept s _
      split
      · exact .refl s
      · exact tlbFill_kept ..
  · exact walkFill_kept ..

theorem dirtyFor_kept (s : State) (ck : Nat) (a : Agent) (va : Nat) : Kept s (dirtyFor s ck a va) := by
  have hset : Kept s (setDirty s ck a va) := by
    have h := walkFill_kept s ck a false va 0x800
    unfold setDirty
    split
    · next e => rwa [e] at h
    · exact .refl s
  unfold dirtyFor
  split
  · split
    · exact .refl s
    · exact hset
  · exact hset

theorem translate_kept (s : State) (ck : Nat) (a : Agent) (va : Nat) (u : Use) : XlKept s (Machine.translate s ck a va u) := by
  have honly : XlKept s (translateOnly s ck a va u) := by
    have h := lookup_kept s ck a false u.write va
    unfold translateOnly
    split
    · trivial
    split
    · trivial
    split
    · trivial
    · trivial
    · next e =>
      rw [e] at h
      split
      · trivial
      · exact h
  unfold Machine.translate
  split
  · next e =>
    rw [e] at honly
    refine Kept.trans honly ?_
    split
    · exact dirtyFor_kept ..
    · exact .refl _
  · exact honly

theorem engXlate_kept (s : State) (o : EngOp) (loc write : Bool) (u : NumxUse) (va n : Nat) :
    ErKept s (engXlate s o loc write u va n) := by
  unfold engXlate
  split
  · split
    · trivial
    split
    · trivial
    split
    · exact .ok (.refl s)
    · trivial
  · have h := translate_kept s o.ctx o.core va ⟨!write, write, u, n, 3 * n⟩
    unfold glbXlate
    split
    · trivial
    · trivial
    · next e =>
      rw [e] at h
      split <;> exact h

theorem readRange_kept (s : State) (owner ck : Nat) (r : PRange) (snap : Option Nat) : ErKept s (readRange s owner ck r snap) := by
  unfold readRange
  refine .foldl (.ok (.refl s)) (fun q p hq => hq.bind fun u bs hu => ?_) _
  have h := agentRead_kept u owner ck r.key r.ver snap p.1 p.2 true
  split
  · next e =>
    rw [e] at h
    exact (hu.trans h).trans (.of_counted (countRead_counted ..))
  · trivial
  · trivial

theorem writeRange_kept (s : State) (owner ck : Nat) (core : Option Nat) (r : PRange) (bs : List Byte) :
    ErKept s (writeRange s owner ck core r bs) := by
  unfold writeRange
  refine .bind (.foldl (.ok (.refl s)) (fun q p hq => hq.bind fun u bs hu => ?_) _) fun _ _ h => h
  have h := agentWrite_kept u owner ck r.key r.ver r.cmp p.1 (bs.take p.2) true
  split
  · next e =>
    rw [e] at h
    refine (hu.trans h).trans (.trans ?_ (.of_counted (countWrite_counted ..)))
    cases core <;> exact ⟨rfl, rfl⟩
  · trivial
  · trivial

theorem engRead_kept (s : State) (o : EngOp) (loc layout : Bool) (snap : Option Nat) (va n : Nat) :
    ErKept s (engRead s o loc layout snap va n) := by
  unfold engRead
  refine .foldl (.ok (.refl s)) (fun q p hq => hq.bind fun t x ht => .trans ht ?_) _
  exact (engXlate_kept ..).bind fun u r hu => .bind (.trans hu (readRange_kept ..)) fun _ _ hv => hv

theorem engWrite_kept (s : State) (o : EngOp) (loc : Bool) (numx va n : Nat) (bs : List Byte) :
    ErKept s (engWrite s o loc numx va n bs) := by
  unfold engWrite
  refine .bind (.foldl (.ok (.refl s)) (fun q p hq => hq.bind fun t x ht => .trans ht ?_) _) fun _ _ h => h
  exact (engXlate_kept ..).bind fun u r hu => .bind (.trans hu (writeRange_kept ..)) fun _ _ hv => hv

theorem engRows_kept (s : State) (o : EngOp) (row : Int) (n : Nat) : ErKept s (engRows s o row n) := by
  unfold engRows
  split
  · trivial
  split
  · trivial
  · exact .bind (readRange_kept ..) fun _ _ h => h

theorem convElems_kept {s t : State} {st dt : Ty} {pol n x : Nat} {bs : List Byte} (h : convElems s st dt pol n x = .ok (t, bs)) :
    Kept s t := by
  unfold convElems at h
  split at h
  · cases h
  · dsimp only at h
    split at h <;> cases h <;> exact ⟨rfl, rfl⟩

theorem jobValues_kept (s : State) (o : EngOp) (c : Card3) (dt : Ty) (e0 n : Nat) : ErKept s (jobValues s o c dt e0 n) := by
  unfold jobValues
  dsimp only
  split
  · refine .bind (engRead_kept ..) fun t x ht => ?_
    split
    · trivial
    · next e => exact ht.trans (convElems_kept e)
  · refine .bind (engRead_kept ..) fun t x ht => .bind (.trans ht (engRead_kept ..)) fun u y hu => ?_
    split
    · trivial
    · exact hu

/-! Barrier words (R260), and the sectors that land on them (R262, R268, R270). -/

/-- The fields of a barrier are in the ranges of its word. -/
structure BarFits (b : Bar) : Prop where
  phase : b.phase < 16
  arrPend : b.arrPend < 2 ^ 16
  arrInit : b.arrInit < 2 ^ 16
  low : -(2 ^ 23) ≤ b.sec
  high : b.sec < 2 ^ 23
  cts : b.cts < 2 ^ 32

theorem barOf_fits (w : W128) : BarFits (barOf w) := by
  have hsec : ∀ x < 2 ^ 24, -(2 ^ 23) ≤ toInt 24 x ∧ toInt 24 x < 2 ^ 23 := by
    intro x hx
    unfold toInt
    split <;> omega
  obtain ⟨hlow, hhigh⟩ := hsec _ (Nat.mod_lt (w.toNat / 2 ^ 40) (by decide))
  exact ⟨Nat.mod_lt _ (by decide), Nat.mod_lt _ (by decide), Nat.mod_lt _ (by decide), hlow, hhigh, Nat.mod_lt _ (by decide)⟩

theorem toInt_wrapInt {x : Int} (hl : -(2 ^ 23) ≤ x) (hh : x < 2 ^ 23) : toInt 24 (wrapInt 24 x) = x := by
  unfold toInt wrapInt
  split <;> omega

/-- The two flags of a barrier's word. -/
theorem barFlags (v i : Bool) : ∃ f < 4, (if v then 16 else 0) + (if i then 32 else 0) = f * 2 ^ 4 ∧ (f % 2 == 1) = v ∧ (f / 2 == 1) = i := by
  cases v <;> cases i
  · exact ⟨0, by decide⟩
  · exact ⟨2, by decide⟩
  · exact ⟨1, by decide⟩
  · exact ⟨3, by decide⟩

/-- A barrier whose fields fit is what its word holds. -/
theorem barOf_barWord {b : Bar} (h : BarFits b) : barOf (barWord b) = b := by
  obtain ⟨ph, v, i, p, n, q, c⟩ := b
  obtain ⟨h1, h2, h3, h4, h5, h6⟩ := h
  have hw : wrapInt 24 q < 2 ^ 24 := by unfold wrapInt; omega
  have hq := toInt_wrapInt h4 h5
  obtain ⟨f, hf, hflags, hv, hi⟩ := barFlags v i
  simp only [barWord, barOf, BitVec.toNat_ofNat] at *
  generalize wrapInt 24 q = y at *
  have e : (ph % 16 + (if v = true then 16 else 0) + (if i = true then 32 else 0) + p % 2 ^ 16 * 2 ^ 8 + n % 2 ^ 16 * 2 ^ 24 + y * 2 ^ 40 +
      c % 2 ^ 32 * 2 ^ 96) % 2 ^ 128 = ph + f * 2 ^ 4 + p * 2 ^ 8 + n * 2 ^ 24 + y * 2 ^ 40 + c * 2 ^ 96 := by
    rw [Nat.add_assoc (ph % 16), hflags]
    omega
  rw [e, Bar.mk.injEq, ← hv, ← hi, ← hq]
  refine ⟨by omega, ?_, ?_, by omega, by omega, congrArg (toInt 24) (by omega), by omega⟩
  · congr 1
    omega
  · congr 1
    omega

/-- What an evaluation makes of a barrier's new counts (R262). -/
def evaluated (z : Bar) (gts : Nat) : Bar :=
  if z.arrPend = 0 ∧ z.sec = 0 then { z with phase := (z.phase + 1) % 16, arrPend := z.arrInit, cts := gts % 2 ^ 32 } else z

/-- A barrier's new counts are written and evaluated: its core's word alone changes, and its waits may be due. -/
theorem barEval_barPut (s : State) (core i : Nat) {z : Bar} (h : BarFits z) :
    ∃ due, barEval (barPut s core i z) core i =
      { updCore s core (fun c => { c with bars := tabPut c.bars i (barWord (evaluated z s.gts)) }) with barDue := due } := by
  have hget : barGet (barPut s core i z) core i = z := by
    simp only [barGet, barPut, getCore_updCore, if_true, tabGetD_put, barOf_barWord h]
  unfold barEval evaluated
  simp only [hget]
  split
  · refine ⟨(barPut s core i z).barDue ++ [(core, i)], ?_⟩
    simp only [barPut, updCore, getCore, tabGetD_put, if_true, tabPut_put]
    rfl
  · exact ⟨_, rfl⟩

theorem getCore_barNote (s : State) (core i rank k : Nat) : getCore (barNote s core i rank) k = getCore s k := rfl

/-- Sectors that land on a barrier that was not invalidated leave its counts, and an evaluation follows (R262). -/
theorem landSectors_valid {s : State} {core i d : Nat} (cls : Nat) (hd : d ≠ 0) (hv : (barGet s core i).valid = true)
    (hlow : -(2 ^ 23) ≤ (barGet s core i).sec - d) :
    ∃ evs due, landSectors s core i cls d = some
      { updCore s core (fun c => { c with
          bars := tabPut c.bars i (barWord (evaluated { barGet s core i with sec := (barGet s core i).sec - d } s.gts)) }) with
        barEvents := evs, barDue := due } := by
  have hfit : BarFits { barGet s core i with sec := (barGet s core i).sec - d } := by
    obtain ⟨h1, h2, h3, -, h5, h6⟩ := barOf_fits (tabGetD (getCore s core).bars i 0)
    exact ⟨h1, h2, h3, hlow, lt_of_le_of_lt (Int.sub_le_self _ (Int.natCast_nonneg d)) h5, h6⟩
  obtain ⟨due, hdue⟩ := barEval_barPut (barNote s core i (rkSectors + cls)) core i hfit
  refine ⟨(barNote s core i (rkSectors + cls)).barEvents, due, ?_⟩
  unfold landSectors
  dsimp only
  rw [if_neg hd, if_neg (by simp [hv]), if_neg (not_lt.mpr hlow), hdue]
  rfl

/-- Sectors that would take SEC_PEND below its range do not land (R262). -/
theorem landSectors_passes {s : State} {core i d : Nat} (cls : Nat) (hd : d ≠ 0) (hv : (barGet s core i).valid = true)
    (hlow : (barGet s core i).sec - d < -(2 ^ 23)) : landSectors s core i cls d = none := by
  simp only [landSectors, hd, hv, hlow, if_false, if_true, Bool.not_true, Bool.false_eq_true]

/-- Sectors that find a barrier INVAL grow BARDROP (R268, R270). -/
theorem landSectors_late {s : State} {core i d : Nat} (cls : Nat) (hd : d ≠ 0) (hv : (barGet s core i).valid = false) :
    landSectors s core i cls d = some (if (barGet s core i).inval then
      updCore (barNote s core i (rkSectors + cls)) core (fun c => { c with bardrop := sat32 (c.bardrop + d) })
      else barNote s core i (rkSectors + cls)) := by
  simp only [landSectors, hd, hv, if_false, if_true, Bool.not_false]
  split <;> rfl

/-! The end of an attempt at one unit (R172, R391, R392). -/

/-- An attempt whose accesses were done leaves what they and the unit leave, without the answers that its engine kept. -/
theorem opEnd_ok (s v t : State) (id rd wr : Nat) (o : EngOp) :
    opEnd s id o rd wr (.ok v t) = dropFars t (engOwner o) o.ctx := rfl

theorem getCore_of_cores {s t : State} {core : Nat} {x : Core} (h : t.cores = tabPut s.cores core x) : getCore t core = x := by
  rw [getCore, h, tabGetD_put, if_pos rfl]

/-- An attempt that has to wait changes no memory, and only its operation's wait. -/
theorem opEnd_stall_no {s v : State} {id rd wr : Nat} {o : EngOp} (h : o.held = .no) :
    (opEnd s id o rd wr (.stall v .no)).mem = s.mem ∧ tabGet (opEnd s id o rd wr (.stall v .no)).ops id = some o := by
  have hk : ({ o with held := .no } : EngOp) = o := by rw [← h]
  simp only [opEnd, keepHold, putEng, hk, h, tabGet_put_same, and_true]
  rfl

/-- A failure halts the RUNNING context of its operation with its cause (R392). -/
theorem opEnd_error {s v : State} {id rd wr cause va : Nat} {o o' : EngOp} {c : Ctx} (hop : tabGet v.ops id = some o')
    (hc : tabGet v.ctxs o'.ctx = some c) (hs : c.state = .running) (hi : cause ≠ fcIntegrity) :
    (opEnd s id o rd wr (.error v cause va)).mem = v.mem ∧
      ∃ y, tabGet (opEnd s id o rd wr (.error v cause va)).ctxs o'.ctx = some y ∧ y.state = .halting ∧ y.cause = cause := by
  obtain ⟨hline, hmark⟩ := haltRise_running hc (.inl hs) cause (opUnit o') o'.gid va true
  have hend : opEnd s id o rd wr (.error v cause va) = haltRise v o'.ctx cause (opUnit o') o'.gid va true := by
    simp only [opEnd, ER.error, opFail, hop, if_neg hi]
  rw [hend]
  refine ⟨hline.mem, ?_⟩
  have hm := hmark o'.ctx
  rw [if_pos rfl] at hm
  obtain ⟨y, hy, e⟩ := Option.map_eq_some_iff.mp hm
  exact ⟨y, hy, (Prod.mk.inj e).1, (Prod.mk.inj e).2⟩

/-- The sectors of an operation that names a barrier reach it where nothing that comes after them has in this cycle (R264). -/
theorem landTo_of_some {s t : State} {id n b : Nat} {o : EngOp} (hb : o.bar = some b) (ht : barTurn s o.core b (rkSectors + o.cls) = true)
    (hl : landSectors (putEng s id { o with counted := n }) o.core b o.cls (n - o.counted) = some t) : landTo s id o n = .ok s t := by
  unfold landTo
  split
  · next h =>
    rw [hb] at h
    cases h
  · next b' h =>
    obtain rfl : b' = b := Option.some.inj (h.symm.trans hb)
    rw [if_neg (by rw [ht]; simp), hl]

theorem landTo_of_none {s : State} {id n b : Nat} {o : EngOp} (hb : o.bar = some b) (ht : barTurn s o.core b (rkSectors + o.cls) = true)
    (hl : landSectors (putEng s id { o with counted := n }) o.core b o.cls (n - o.counted) = none) :
    landTo s id o n = .error s fcEngineError 0 := by
  unfold landTo
  split
  · next h =>
    rw [hb] at h
    cases h
  · next b' h =>
    obtain rfl : b' = b := Option.some.inj (h.symm.trans hb)
    rw [if_neg (by rw [ht]; simp), hl]

/-- What a unit leaves as its sectors are about to land: its accesses' state, with the operation and its context still there. -/
structure UnitAt (u v : State) (id : Nat) (o : EngOp) : Prop where
  same : v = { u with ctxs := v.ctxs }
  op : tabGet u.ops id = some o
  ctx : ctxMark v o.ctx = ctxMark u o.ctx

theorem UnitAt.refl {u : State} {id : Nat} {o : EngOp} (h : tabGet u.ops id = some o) : UnitAt u u id o := ⟨rfl, h, rfl⟩

/-- Sectors land as R262 and R268 say where the attempt at a unit ends with their landing. -/
theorem lands_of_landTo {i : Instr} {s u v : State} {id m rd wr p q : Nat} {o next : EngOp} (hat : UnitAt u v id o)
    (hn : next = { o with prog := p, total := q, held := .no })
    (he : s.pkg.frozen = false → exec i s = .next (opEnd s id o rd wr (landTo v id next m))) : Lands i s u id o next m := by
  obtain ⟨hv, hop, hctx⟩ := hat
  obtain ⟨hbar, hcore, hcls, hcounted, hheld⟩ :
      next.bar = o.bar ∧ next.core = o.core ∧ next.cls = o.cls ∧ next.counted = o.counted ∧ next.held = .no := by
    rw [hn]
    exact ⟨rfl, rfl, rfl, rfl, rfl⟩
  clear hn
  have hmem : v.mem = u.mem := by rw [hv]
  have hcores : ∀ x, getCore (putEng v id x) o.core = getCore u o.core := fun x => by rw [hv]; rfl
  have hturn : ∀ b, barTurn v next.core b (rkSectors + next.cls) = barTurn u o.core b o.cls := by
    intro b
    rw [hv, hcore, hcls, Nat.zero_add]
    rfl
  have hget : ∀ b x, barGet (putEng v id x) o.core b = barGet u o.core b := fun b x => by rw [hv]; rfl
  have hgts : ∀ x, (putEng v id x).gts = u.gts := fun x => by rw [hv]; rfl
  refine ⟨fun hb hf => ⟨_, he hf, ?none⟩, fun b hb => ⟨fun hm hf => ⟨_, he hf, ?counted⟩, fun hm ht => ⟨fun hval hlow hf => ⟨_, he hf, ?valid⟩,
    fun hval hlow c hc hs hf => ⟨_, he hf, ?passes⟩, fun hval hf => ⟨_, he hf, ?late⟩⟩, fun hm ht hno hf => ⟨_, he hf, ?turn⟩⟩⟩
  all_goals rw [← hbar] at hb
  case none =>
    simp only [landTo, hb]
    exact ⟨hmem, tabGet_put_same ..⟩
  case counted =>
    have hland : landTo v id next m = .ok v (putEng v id { next with counted := m }) := by
      rw [← hcounted] at hm
      simp only [landTo, hb, not_lt.mpr hm, Nat.sub_eq_zero_of_le hm, landSectors, decide_false, Bool.false_and, Bool.false_eq_true,
        if_false, if_true]
    rw [hland]
    exact ⟨⟨hmem, tabGet_put_same ..⟩, congrArg Core.bars (hcores next), congrArg Core.bardrop (hcores next)⟩
  case valid =>
    obtain ⟨evs, due, hl⟩ := landSectors_valid (s := putEng v id { next with counted := m }) (core := o.core) next.cls
      (Nat.sub_ne_zero_of_lt hm) ((congrArg Bar.valid (hget b _)).trans hval) (by rw [hget]; exact hlow)
    rw [← hcore, ← hcounted] at hl
    rw [landTo_of_some hb ((hturn b).trans ht) hl, opEnd_ok, hcore, hcounted, hget]
    refine ⟨⟨hmem, tabGet_put_same ..⟩, ?_⟩
    rw [getCore_of_cores (s := v) rfl, hcores]
    refine ⟨rfl, fun j hj => tabGet_put_other _ _ (Ne.symm hj), ?_⟩
    exact (tabGet_put_same ..).trans (by rw [hgts]; rfl)
  case passes =>
    have hl := landSectors_passes (s := putEng v id { next with counted := m }) (core := o.core) next.cls
      (Nat.sub_ne_zero_of_lt hm) ((congrArg Bar.valid (hget b _)).trans hval) (by rw [hget]; exact hlow)
    rw [← hcore, ← hcounted] at hl
    rw [landTo_of_none hb ((hturn b).trans ht) hl]
    have hmark : ctxMark v o.ctx = some (c.state, c.cause) := hctx.trans (by rw [ctxMark, hc, Option.map_some])
    obtain ⟨y, hy, e⟩ := Option.map_eq_some_iff.mp hmark
    refine (opEnd_error (o' := o) ?_ hy ((Prod.mk.inj e).1.trans hs) (by decide)).2
    rw [hv]
    exact hop
  case late =>
    have hl := landSectors_late (s := putEng v id { next with counted := m }) (core := o.core) next.cls
      (Nat.sub_ne_zero_of_lt hm) ((congrArg Bar.valid (hget b _)).trans hval)
    rw [← hcore, ← hcounted] at hl
    rw [landTo_of_some hb ((hturn b).trans ht) hl, opEnd_ok, hcore, hcounted, hget]
    cases (barGet u o.core b).inval with
    | false => exact ⟨⟨hmem, tabGet_put_same ..⟩, congrArg Core.bars (hcores next), congrArg Core.bardrop (hcores next)⟩
    | true =>
      refine ⟨⟨hmem, tabGet_put_same ..⟩, ?_⟩
      rw [if_pos rfl, if_pos rfl, getCore_of_cores (s := v) rfl, getCore_barNote, hcores]
      exact ⟨rfl, rfl⟩
  case turn =>
    have hwait : landTo v id next m = .stall v .no := by
      rw [← hcounted] at hm
      simp only [landTo, hb, hturn, ht, hm, hheld, decide_true, Bool.not_false, Bool.and_self, if_true]
    rw [hwait]
    exact opEnd_stall_no hno

/-! Copies and gathers (R391, R394, R395, R397), and the sparsity queue (R255, R396). -/

/-- An access that succeeded goes on. -/
theorem bind_ok {α β : Type} (s : State) (x : α) (f : State → α → ER β) : (ER.ok s x).bind f = f s x := rfl

theorem onOp_runs {s : State} {id : Nat} {o : EngOp} (h : OpRuns s id o) (f : EngOp → State) : onOp s id f = f o := by
  obtain ⟨hop, hstarted, hprog, hstop, hheld, hfirst⟩ := h
  simp only [onOp, hop, hstarted, hprog, hstop, hheld, hfirst, decide_true, Bool.not_false, Bool.and_self, if_true]

theorem unitLands_of_unitDone {i : Instr} {s u v : State} {id rd wr n : Nat} {o : EngOp} (hat : UnitAt u v id o)
    (he : s.pkg.frozen = false → exec i s = .next (opEnd s id o rd wr (unitDone v id o n))) : UnitLands i s u id o n :=
  lands_of_landTo hat rfl he

/-- A unit of a copy whose addresses are in order, whose source pages have one layout and whose reads and writes go through. -/
theorem copyUnit_done {s u u1 t0 : State} {id al sn dn a b x sectors : Nat} {o : EngOp} {f t : CopyEnd}
    {conv : State → List Byte → Nat → Except Nat (State × List Byte)} {bs bs1 : List Byte} {ls : List Nat}
    (ha : rowAligned al f.base f.i f.stride = true) (hb : rowAligned al t.base t.i t.stride = true)
    (hva : rowVa f.loc f.base f.i f.stride = some a) (hvb : rowVa t.loc t.base t.i t.stride = some b)
    (hr : engRead s o f.loc true o.snap a sn = .ok u (bs, x :: ls)) (hls : ∀ y ∈ ls, y = x)
    (hc : conv u bs (if x = 1 then 3 else 1) = .ok (u1, bs1)) (hw : engWrite u1 o t.loc x b dn bs1 = .ok t0 ()) :
    copyUnit s id o f t al sn dn conv sectors = unitDone t0 id o sectors := by
  have hone : (x :: ls).any (· != (x :: ls).headD 0) = false := by simpa using hls
  replace hc : conv u bs (if (x :: ls).headD 0 = 1 then 3 else 1) = .ok (u1, bs1) := hc
  replace hw : engWrite u1 o t.loc ((x :: ls).headD 0) b dn bs1 = .ok t0 () := hw
  simp only [copyUnit, ha, hb, hva, hvb, hr, bind_ok, hone, hc, hw, Bool.not_true, Bool.false_eq_true, if_false]

/-- The state after a unit's read and write still holds the operation. -/
theorem unitAt_of_kept {s u t0 : State} {id : Nat} {o : EngOp} (h : OpRuns s id o) (hr : Kept s u) (hw : Kept u t0) : UnitAt t0 t0 id o :=
  .refl ((congrArg (tabGet · id) (hr.trans hw).ops).trans h.1)

theorem kept_of_read {s u : State} {o : EngOp} {loc layout : Bool} {snap : Option Nat} {va n : Nat} {x : List Byte × List Nat}
    (h : engRead s o loc layout snap va n = .ok u x) : Kept s u := by
  have hk := engRead_kept s o loc layout snap va n
  rwa [h] at hk

theorem kept_of_write {s u : State} {o : EngOp} {loc : Bool} {numx va n : Nat} {bs : List Byte} {x : Unit}
    (h : engWrite s o loc numx va n bs = .ok u x) : Kept s u := by
  have hk := engWrite_kept s o loc numx va n bs
  rwa [h] at hk

theorem kept_of_range {s u : State} {owner ck : Nat} {r : PRange} {snap : Option Nat} {bs : List Byte}
    (h : readRange s owner ck r snap = .ok u bs) : Kept s u := by
  have hk := readRange_kept s owner ck r snap
  rwa [h] at hk

/-- A row's address is aligned where it is a multiple. -/
theorem rowAligned_of_rowVa {loc : Bool} {al base i a : Nat} {stride : Int} (h : rowVa loc base i stride = some a) (ha : a % al = 0) :
    rowAligned al base i stride = true := by
  unfold rowVa at h
  dsimp only at h
  split at h
  · cases h
  · next hpos =>
    obtain ⟨hnn, -⟩ := not_or.mp hpos
    obtain ⟨n, hn⟩ := Int.eq_ofNat_of_zero_le (not_lt.mp hnn)
    rw [hn, Int.toNat_natCast] at h
    obtain rfl := Option.some.inj h
    rw [rowAligned, beq_iff_eq, hn]
    exact_mod_cast ha

theorem exec_copy {s : State} {id : Nat} {o : EngOp} (h : OpRuns s id o)
    (hi : (∃ w, o.i = .cpy w) ∨ (∃ w, o.i = .cpyT w) ∨ ∃ w, o.i = .cpyCv w) (hf : s.pkg.frozen = false) :
    exec (.engineLineTransfer id) s = .next (opEnd s id o 3 4 (copyStep s id o)) := by
  refine (event_running hf).trans ?_
  rw [onOp_runs h]
  rcases hi with ⟨w, hi⟩ | ⟨w, hi⟩ | ⟨w, hi⟩ <;> rw [hi]

/-- A bit of a modifier as the model reads it. -/
theorem bit_eq_getLsbD (m : BitVec 12) (i : Nat) : (m.toNat / 2 ^ i % 2 == 1) = m.getLsbD i := by
  rw [BitVec.getLsbD, Nat.testBit_eq_decide_div_mod_eq]
  rfl

theorem getD_map_toNat (l : List W128) (i : Nat) : (l.map (·.toNat)).getD i 0 = (l.getD i 0).toNat := by
  exact List.getD_map l 0 BitVec.toNat

/-- An address that a thread names is a row of its own. -/
theorem rowVa_zero {loc : Bool} {a : Nat} (h : loc = true ∨ a < 2 ^ 55) : rowVa loc a 0 0 = some a := by
  have hnot : ¬ ((a : Int) < 0 ∨ (!loc && decide ((2 ^ 55 : Int) ≤ a)) = true) := by
    rintro (hneg | hout)
    · omega
    · simp only [Bool.and_eq_true, Bool.not_eq_true', decide_eq_true_eq] at hout
      rcases h with h | h
      · rw [h] at hout
        exact absurd hout.1 (by decide)
      · omega
  simp only [rowVa, Nat.cast_zero, Int.zero_mul, Int.add_zero]
  rw [if_neg hnot, Int.toNat_natCast]

/-- Converted elements that fill whole bytes (R395). -/
theorem convElems_whole (s : State) {st dt : Ty} {pol n x : Nat} {ys : List Nat}
    (h : allCvt ((List.range n).map fun i => convert st dt pol .ne (elem st.bits i x)) = some ys) (hb : n * dt.bits % 8 = 0) :
    convElems s st dt pol n x = .ok (s, leBytes (Machine.pack dt.bits ys) (n * dt.bits / 8)) := by
  simp only [convElems, h, hb, if_true]

/-- The core's part of a context after a change of it, and its other fields. -/
theorem tabGet_updCoreCtx {s : State} {ck : Nat} {c : Ctx} (h : tabGet s.ctxs ck = some c) (core : Nat) (f : CoreCtx → CoreCtx) :
    ∃ y, tabGet (updCoreCtx s ck core f).ctxs ck = some y ∧ getCoreCtx y core = f (getCoreCtx c core) := by
  refine ⟨_, by rw [updCoreCtx, updCtx_ctxs, tabGet_upd, if_pos rfl, h, Option.map_some], ?_⟩
  rw [getCoreCtx, tabGetD_put, if_pos rfl]

/-- A unit that changes its core's part of the context as it is done. -/
theorem unitAt_updCoreCtx {u : State} {id : Nat} {o : EngOp} (h : tabGet u.ops id = some o) (core : Nat) (f : CoreCtx → CoreCtx) :
    UnitAt u (updCoreCtx u o.ctx core f) id o :=
  ⟨rfl, h, ctxMark_updCtx _ _ _ _ (fun _ => rfl) fun _ => rfl⟩

theorem opCore_of {s : State} {o : EngOp} {c : Ctx} (h : tabGet s.ctxs o.ctx = some c) : opCore s o = getCoreCtx c o.core := by
  rw [opCore, h]
  rfl

/-- The core's part of a context after a unit of a GATHER has put its row into the latch (R397). -/
def latched (o : EngOp) (row : List Byte) (c : CoreCtx) : CoreCtx :=
  { c with latch := latchPut (latchBytesOf c) o.prog row (o.prog + 1 == o.total) }

/-- The core's part of a context after an entry has entered its sparsity queue (R255). -/
def pushed (bs : List Byte) (c : CoreCtx) : CoreCtx := { c with sparse := c.sparse ++ [BitVec.ofNat 1024 (leNat bs)] }

/-- A row put into the latch is read there (R397). -/
theorem latched_row {o : EngOp} (row : List Byte) (c : CoreCtx) (hj : o.prog < 64) :
    ((latched o row c).latch.drop (128 * o.prog)).take row.length = row := by
  have hlen : ((latchBytesOf c).take (128 * o.prog)).length = 128 * o.prog := by
    rw [List.length_take, latchBytesOf, List.length_append, List.length_replicate]
    omega
  have hlatch : (latched o row c).latch = latchPut (latchBytesOf c) o.prog row (o.prog + 1 == o.total) := rfl
  rw [hlatch, latchPut, List.append_assoc, List.drop_append_of_le_length (by omega), List.drop_eq_nil_of_le (by omega), List.nil_append,
    List.take_append_of_le_length (Nat.le_refl _), List.take_length]

theorem exec_gather {s : State} {id : Nat} {o : EngOp} {w : RWord (BitVec 12)} (h : OpRuns s id o) (hi : o.i = .gather w)
    (hf : s.pkg.frozen = false) : exec (.engineLineTransfer id) s = .next (opEnd s id o 3 4 (gatherStep s id o)) := by
  refine (event_running hf).trans ?_
  rw [onOp_runs h, hi]

/-- A row of a GATHER whose list entry names a row of the team's, and whose reads go through. -/
theorem gatherStep_done {s u t0 : State} (id : Nat) {o : EngOp} {tm : Team} {bs row : List Byte} {ls : List Nat}
    (hr : engRead s o true false none ((o.vals.getD 0 0).toNat + 2 * o.prog) 2 = .ok u (bs, ls)) (htm : tabGet u.teams o.team = some tm)
    (hok : teamRowOk u o.team tm (leNat bs) = true)
    (hrange : readRange u (engOwner o) o.ctx ⟨locAddr u tm (128 * leNat bs), 128, .vf (ctxVf o.ctx), false, false, 0, 128 * leNat bs⟩ none =
      .ok t0 row) :
    gatherStep s id o = unitDone (updCoreCtx t0 o.ctx o.core (latched o row)) id o (4 * (o.prog + 1)) := by
  simp only [gatherStep, hr, bind_ok, htm, hok, hrange, Bool.not_true, Bool.false_eq_true, if_false]
  rfl

/-- ENGINE_LINE_TRANSFER of a CPY, CPY.T, CPY.CV and GATHER, and SPARSITY_QUEUE_PUSH of a CPY.META. -/
theorem opMoves_holds (s : State) (id : Nat) : opMoves s id := by
  intro o c h hctx v
  refine ⟨fun w hi => ?cpy, fun w hi src dst rows n ds ss hd a b hva hvb ha hb u bs x ls t0 hr hls hw => ?cpyT,
    fun w hi src dst rows n ds ss hd a b dt st hty hva hvb hwhole u bs ls ys t0 hr hls hcv hw => ?cpyCv,
    fun hrow w hi u bs ls tm row t0 hr htm hok hrange => ?gather, fun w hi => ?push⟩
  case cpy =>
    intro n a b sl dl hsl hdl ha hb u bs x ls t0 hr hls hw
    refine unitLands_of_unitDone (rd := 3) (wr := 4) (unitAt_of_kept h (kept_of_read hr) (kept_of_write hw)) fun hf => ?_
    rw [exec_copy h (.inl ⟨w, hi⟩) hf]
    have hl : (w.m.toNat / 8 % 2 == 1) = sl := bit_eq_getLsbD w.m 3
    have hd : (w.m.toNat / 4 % 2 == 1) = dl := bit_eq_getLsbD w.m 2
    have hcopy : copyStep s id o = unitDone t0 id o (n * (o.prog + 1) / 32) := by
      simp only [copyStep, hi, getD_map_toNat, hl, hd]
      exact copyUnit_done (rowAligned_of_rowVa (rowVa_zero hsl) ha) (rowAligned_of_rowVa (rowVa_zero hdl) hb) (rowVa_zero hsl) (rowVa_zero hdl)
        hr hls rfl hw
    rw [hcopy]
  case cpyT =>
    refine unitLands_of_unitDone (rd := 3) (wr := 4) (unitAt_of_kept h (kept_of_read hr) (kept_of_write hw)) fun hf => ?_
    rw [exec_copy h (.inr (.inl ⟨w, hi⟩)) hf]
    have hcopy : copyStep s id o = unitDone t0 id o (n * (o.prog + 1) / 32) := by
      simp only [copyStep, hi, hd]
      exact copyUnit_done (rowAligned_of_rowVa hva ha) (rowAligned_of_rowVa hvb hb) hva hvb hr hls rfl hw
    rw [hcopy]
  case cpyCv =>
    refine unitLands_of_unitDone (rd := 3) (wr := 4) (unitAt_of_kept h (kept_of_read hr) (kept_of_write hw)) fun hf => ?_
    rw [exec_copy h (.inr (.inr ⟨w, hi⟩)) hf]
    have hconv : convElems u st dt (v 4) (1 * n) (leNat bs) = .ok (u, leBytes (Machine.pack dt.bits ys) (n * dt.bits / 8)) := by
      rw [Nat.one_mul]
      exact convElems_whole u hcv hwhole
    have hcopy : copyStep s id o = unitDone t0 id o (packBytes dt n * (o.prog + 1) / 32) := by
      simp only [copyStep, hi, hd, hty, getD_map_toNat]
      exact copyUnit_done (rowAligned_of_rowVa hva (Nat.mod_one _)) (rowAligned_of_rowVa hvb (Nat.mod_one _)) hva hvb hr hls hconv hw
    rw [hcopy]
  case gather =>
    have hkept := (kept_of_read hr).trans (kept_of_range hrange)
    have hop : tabGet t0.ops id = some o := (congrArg (tabGet · id) hkept.ops).trans h.1
    have hc : tabGet t0.ctxs o.ctx = some c := (congrArg (tabGet · o.ctx) hkept.ctxs).trans hctx
    have hgather := gatherStep_done id hr htm hok hrange
    refine ⟨unitLands_of_unitDone (rd := 3) (wr := 4) (unitAt_updCoreCtx hop o.core (latched o row)) fun hf => ?_, fun hb hf => ?_⟩
    · rw [exec_gather h hi hf, hgather]
    · obtain ⟨y, hy, hlatch⟩ := tabGet_updCoreCtx hc o.core (latched o row)
      refine ⟨_, exec_gather h hi hf, y, ?_, ?_⟩
      · rw [hgather]
        simp only [unitDone, landTo, opStep, hb]
        exact hy
      · rw [hlatch]
        exact latched_row row _ hrow
  case push =>
    have hpush : ∀ t, (64 ≤ (getCoreCtx c o.core).sparse.length → t = s) → ((getCoreCtx c o.core).sparse.length < 64 → t = opEnd s id o 3 4 (
          if v 0 % 128 ≠ 0 then .error s fcMisalign (v 0)
          else (engRead s o (w.m.getLsbD 0) false o.snap (v 0 + 128 * o.prog) 128).bind fun u x =>
            .ok u (putEng (updCoreCtx u o.ctx o.core (pushed x.1)) id (opStep o)))) →
        Acts (.sparsityQueuePush id) s t := by
      intro t hfull hroom hf
      refine (event_running hf).trans ?_
      rw [onOp_runs h, hi]
      simp only [opCore_of hctx]
      split
      · next hlen => rw [hfull hlen]
      · next hlen => rw [hroom (Nat.not_le.mp hlen)]; rfl
    refine ⟨fun hfull => hpush s (fun _ => rfl) fun hroom => absurd hfull (Nat.not_le.mpr hroom), fun hroom hal u bs ls hr hf => ?_⟩
    have hc : tabGet u.ctxs o.ctx = some c := (congrArg (tabGet · o.ctx) (kept_of_read hr).ctxs).trans hctx
    obtain ⟨y, hy, hsparse⟩ := tabGet_updCoreCtx hc o.core (pushed bs)
    refine ⟨_, hpush _ (fun hfull => absurd hfull (Nat.not_le.mpr hroom)) (fun _ => rfl) hf, ?_⟩
    rw [if_neg (not_not.mpr hal), hr]
    exact ⟨tabGet_put_same .., rfl, y, hy, congrArg CoreCtx.sparse hsparse⟩

/-! Starts (R19, R390, R401). -/

/-- The tiles that a clear leaves (R87, R401). -/
theorem tileClear_tiles (c : CoreCtx) (acc : Nat) (triplex : Bool) (k : Nat) :
    tabGet (tileClear c acc triplex).tiles k =
      if k / 12288 = acc ∧ (triplex = true ∨ k % 12288 < 4096) then none else tabGet c.tiles k := by
  rw [tileClear, tabGet_filter fun x => x / 12288 != acc || (!triplex && decide (4096 ≤ x % 12288))]
  by_cases hacc : k / 12288 = acc <;> cases triplex <;> by_cases hk : k % 12288 < 4096 <;> simp [hacc, hk, Nat.not_le.mpr, not_lt.mp]

theorem exec_start {s : State} {id : Nat} {o : EngOp} (hop : tabGet s.ops id = some o) (hnew : o.started = false) (hcls : o.cls < 4)
    (hstop : opStopped s o = false) (hfirst : opFirst s id o = true) : Acts (.engineOpStart id) s (opStart s id o) := by
  intro hf
  refine (event_running hf).trans ?_
  simp only [hop, hnew, hcls, hstop, hfirst, decide_true, Bool.not_false, Bool.and_self, if_true]

/-- The operation of an instruction that neither starts nor completes at once runs (R390). -/
def isPlainOp : Instr → Bool
  | .cpy _ | .cpyMeta _ | .gather _ | .macc _ | .cpyT _ | .cpyCv _ | .xfmJ _ => true
  | _ => false

theorem opStart_plain {s : State} {id : Nat} {o : EngOp} (h : isPlainOp o.i = true) :
    opStart s id o = putEng s id { o with started := true } := by
  unfold opStart
  dsimp only
  split <;> simp_all [isPlainOp]

/-- An MLOOP asks for its start where the sequencer is idle, but not while its context's halt line is up (R19, R21). -/
theorem opStart_mloop {s : State} {id : Nat} {o : EngOp} {c : Ctx} (hctx : tabGet s.ctxs o.ctx = some c) (h : isMloop o = true) :
    opStart s id o = if seqIdle s o.core && !o.granted then
      (if c.state = .halting then s else putEng s id { o with startReq := true }) else putEng s id { o with started := true } := by
  have hbar : (startBarred s o = true) = (c.state = .halting) := by
    simp [startBarred, hctx]
  unfold opStart
  dsimp only
  split <;> simp_all [isMloop]

theorem opStart_mzero {s : State} {id : Nat} {o : EngOp} {w : RWord (BitVec 12)} (hi : o.i = .mzero w) :
    opStart s id o = putEng (updCoreCtx s o.ctx o.core fun c => tileClear c (o.vals.getD 0 0).toNat (o.vals.getD 1 0 == 1)) id
      (opStep { o with started := true }) := by
  cases o
  cases hi
  rfl

theorem opStart_cbload {s u : State} {id : Nat} {o : EngOp} {w : RWord (BitVec 12)} {bs : List Byte} {ls : List Nat} (hi : o.i = .cbload w)
    (hr : engRead s o true false none (o.vals.getD 0 0).toNat 1024 = .ok u (bs, ls)) :
    opStart s id o = dropFars (putEng (updCoreCtx u o.ctx o.core fun c => { c with codebook := codeTable bs }) id
      (opStep { o with started := true })) (engOwner o) o.ctx := by
  cases o
  cases hi
  rw [opStart, hr, bind_ok, opEnd_ok]

theorem opStarts_holds (s : State) (id : Nat) : opStarts s id := by
  intro o c hop hctx hnew hcls hstop hfirst runs v
  have hstart := exec_start hop hnew hcls hstop hfirst
  refine ⟨fun w hi => ?copy, fun w hi => ?rows, fun w hi => ?mloop, fun w hi hf => ?mzero, fun w u bs ls hi hr hf => ?cbload⟩
  case copy =>
    rwa [opStart_plain (by rcases hi with hi | hi | hi | hi <;> rw [hi] <;> rfl)] at hstart
  case rows =>
    rwa [opStart_plain (by rcases hi with hi | hi | hi <;> rw [hi] <;> rfl)] at hstart
  case mloop =>
    rwa [opStart_mloop hctx (by rcases hi with hi | hi <;> rw [isMloop, hi])] at hstart
  case mzero =>
    obtain ⟨y, hy, hcore⟩ := tabGet_updCoreCtx hctx o.core fun c => tileClear c (v 0) (o.vals.getD 1 0 == 1)
    rw [opStart_mzero hi] at hstart
    refine ⟨_, hstart hf, tabGet_put_same .., rfl, y, hy, ?_, fun k => ?_⟩
    · rw [hcore, tileClear, tabGetD, tabGet_del, if_pos rfl, Option.getD_none]
    · rw [hcore, tileClear_tiles]
      simp only [beq_iff_eq]
  case cbload =>
    have hc : tabGet u.ctxs o.ctx = some c := (congrArg (tabGet · o.ctx) (kept_of_read hr).ctxs).trans hctx
    obtain ⟨y, hy, hcore⟩ := tabGet_updCoreCtx hc o.core fun c => { c with codebook := codeTable bs }
    rw [opStart_cbload hi hr] at hstart
    exact ⟨_, hstart hf, tabGet_put_same .., rfl, y, hy, congrArg CoreCtx.codebook hcore⟩

/-! K steps (R19, R85, R400). -/

theorem kept_of_rows {s u : State} {o : EngOp} {row : Int} {n : Nat} {x : List Byte × List Nat} (h : engRows s o row n = .ok u x) : Kept s u := by
  have hk := engRows_kept s o row n
  rwa [h] at hk

theorem kept_of_values {s u : State} {o : EngOp} {k : Card3} {dt : Ty} {e0 n : Nat} {bs : List Byte}
    (h : jobValues s o k dt e0 n = .ok u bs) : Kept s u := by
  have hk := jobValues_kept s o k dt e0 n
  rwa [h] at hk

/-- The step that a dense operation is at: the steps that its group has summed, and those whose words it keeps (R400). -/
def denseStep (o : EngOp) (fmt : Nat) : Nat := o.prog + o.work.length / stepWords fmt false

/-- The words that a dense step's blocks add to those of its group. -/
def denseWork (o : EngOp) (fmt : Nat) (a b : List Byte) : List W128 :=
  o.work ++ toWords (aWords fmt) a ++ toWords (bBytes fmt false / 16) b

/-- The step is not the last of its accumulation group, nor of its operation (R398). -/
def groupGoesOn (o : EngOp) (fmt : Nat) : Prop := (denseStep o fmt + 1) % groupSteps fmt false ≠ 0 ∧ denseStep o fmt + 1 ≠ o.total

/-- The matrix sequencer of a core has run a step now (R19). -/
def sequenced (s : State) (core : Nat) : State := updCore s core fun c => { c with lastK := some s.cycle }

/-- The state once the sums of an operation's group have been added to its tile. -/
def summed (s : State) (o : EngOp) (sd : List StepData) (tri : Bool) (seed : W64) (lin n : Nat) : State :=
  prfAdd (updCoreCtx (sequenced s o.core) o.ctx o.core fun c => addGroup c (o.vals.getD 0 0).toNat sd tri seed lin)
    (ctxVf o.ctx) 0 (o.core / 64) (o.core % 64) 6 n

section Dense

variable {s u t0 : State} {id : Nat} {o : EngOp} {w : RWord (BitVec 12)} {a b : List Byte} {l1 l2 : List Nat}
  (hi : o.i = .mloop w) (hlatch : w.m.getLsbD 4 = false)
  (ha : engRows (putEng s id o) o (blockRow (o.vals.getD 1 0).toNat (denseStep o (w.m.toNat % 16))) (aBytes (w.m.toNat % 16)) = .ok u (a, l1))
  (hb : engRows u o (blockRow (o.vals.getD 2 0).toNat (denseStep o (w.m.toNat % 16))) (bBytes (w.m.toNat % 16) false) = .ok t0 (b, l2))

include hi hlatch ha hb

/-- A dense step whose blocks are read from rows keeps its words, until its group ends; the step that ends it adds the group's sums to
the tile. -/
theorem kStep_dense :
    (groupGoesOn o (w.m.toNat % 16) → ∃ x, kStep s id o = .ok x (putEng (sequenced t0 o.core) id
      { o with work := denseWork o (w.m.toNat % 16) a b, granted := false, held := .no })) ∧
    (¬ groupGoesOn o (w.m.toNat % 16) → ∃ x sd tri seed lin n, kStep s id o = .ok x (putEng (summed t0 o sd tri seed lin n) id
      { o with work := [], entries := [], granted := false, held := .no, prog := denseStep o (w.m.toNat % 16) + 1 })) := by
  have hform : mloopForm o = (w.m.toNat % 16, false, w.m.getLsbD 4) := by rw [mloopForm, hi]
  unfold denseStep at ha hb
  unfold kStep groupGoesOn denseStep
  simp only [hform, hlatch, Bool.not_false, if_true, Bool.false_and, Bool.false_eq_true, if_false, Option.toList_none, List.all_nil,
    Bool.not_true, ha, hb, bind_ok]
  refine ⟨fun h => ?_, fun h => ?_⟩
  · rw [if_pos h]
    exact ⟨_, rfl⟩
  · rw [if_neg h]
    exact ⟨_, _, _, _, _, _, rfl⟩

end Dense

theorem addGroup_gcount (c : CoreCtx) (acc : Nat) (sd : List StepData) (tri : Bool) (seed : W64) (lin : Nat) :
    tabGetD (addGroup c acc sd tri seed lin).gcount acc 0 = tabGetD c.gcount acc 0 + 1 := by
  simp only [addGroup, tabGetD_put, if_true]

/-- The group's sums leave memory and the operations as they were, and the tile has one group more. -/
theorem summed_rest {s : State} {o : EngOp} {c : Ctx} (hc : tabGet s.ctxs o.ctx = some c) (sd : List StepData) (tri : Bool) (seed : W64) (lin n : Nat) :
    (summed s o sd tri seed lin n).mem = s.mem ∧ ∃ y, tabGet (summed s o sd tri seed lin n).ctxs o.ctx = some y ∧
      tabGetD (getCoreCtx y o.core).gcount (o.vals.getD 0 0).toNat 0 = tabGetD (getCoreCtx c o.core).gcount (o.vals.getD 0 0).toNat 0 + 1 := by
  obtain ⟨y, hy, hcore⟩ := tabGet_updCoreCtx (s := sequenced s o.core) hc o.core fun c => addGroup c (o.vals.getD 0 0).toNat sd tri seed lin
  have hsame := (prfAdd_counted (updCoreCtx (sequenced s o.core) o.ctx o.core fun c => addGroup c (o.vals.getD 0 0).toNat sd tri seed lin)
    (ctxVf o.ctx) 0 (o.core / 64) (o.core % 64) 6 n).same
  refine ⟨by rw [summed, hsame]; rfl, y, by rw [summed, hsame]; exact hy, ?_⟩
  rw [hcore, addGroup_gcount]

theorem exec_kStep {s : State} {id : Nat} {o : EngOp} {c : Ctx} {w : RWord (BitVec 12)} (h : OpRuns s id o) (hctx : tabGet s.ctxs o.ctx = some c)
    (hi : o.i = .mloop w) : Acts (.mloopKStep id) s (if seqIdle s o.core && !o.granted then
      (if c.state = .halting then s else putEng s id { o with startReq := true }) else opEnd s id o 3 4 (kStep s id o)) := by
  intro hf
  have hbar : (startBarred s o = true) = (c.state = .halting) := by
    simp [startBarred, hctx]
  refine (event_running hf).trans ?_
  rw [onOp_runs h]
  simp only [show isMloop o = true by rw [isMloop, hi], hbar, Bool.not_true, Bool.false_eq_true, if_false]

/-! Read-outs (R402). -/

/-- Every write is of a v register. -/
def AllV (ws : List RegW) : Prop := ∀ x ∈ ws, ∃ r l, x.cell = .v r l

theorem AllV.append {xs ys : List RegW} (hx : AllV xs) (hy : AllV ys) : AllV (xs ++ ys) := fun z hz =>
  (List.mem_append.mp hz).elim (hx z) (hy z)

theorem wrV_allV (r lane n x : Nat) : AllV (wrV r lane n x) := by
  intro z hz
  obtain ⟨k, -, rfl⟩ := List.mem_map.mp hz
  exact ⟨_, _, rfl⟩

theorem maccThread_allV {g : Grp} {c : CoreCtx} {o : EngOp} {w : RWord (BitVec 12)} {t : Nat} {ws : List RegW}
    (h : maccThread g c o w t = some ws) : AllV ws := by
  suffices hall : ∀ xs, maccThread g c o w t = some xs → AllV xs from hall ws h
  unfold maccThread
  refine List.foldlRecOn (motive := fun r : Option (List RegW) => ∀ xs, r = some xs → AllV xs) _ _ ?_ fun r hr lk _ xs hx => ?_
  · intro xs hx
    cases hx
    exact fun _ hz => absurd hz List.not_mem_nil
  · split at hx
    · next ws1 ys hy =>
      cases hx
      obtain ⟨zs, -, rfl⟩ := Option.map_eq_some_iff.mp hy
      exact (hr ws1 rfl).append (wrV_allV _ _ _ _)
    · cases hx

/-- Writes of v registers leave the PC, the Active lanes, the s registers and the slots. -/
theorem putCells_allV {ws : List RegW} (h : AllV ws) (g : Grp) : ∃ v o, putCells g ws = { g with v := v, poison := o } := by
  induction ws generalizing g with
  | nil => exact ⟨_, _, rfl⟩
  | cons x ws ih =>
    obtain ⟨r, l, hcell⟩ := h x List.mem_cons_self
    have hput : putCell g x = { g with v := tabPut g.v (r * 96 + l) (x.val.setWidth 32), poison := g.poison.filter (· != x.cell) } := by
      rw [putCell, hcell]
    obtain ⟨v, o, e⟩ := ih (fun y hy => h y (List.mem_cons_of_mem x hy)) (putCell g x)
    exact ⟨v, o, by rw [putCells, List.foldl_cons, ← putCells, e, hput]⟩

theorem maccStep_registers {s : State} (id : Nat) {o : EngOp} {c : Ctx} {g : Grp} {w : RWord (BitVec 12)} (hctx : tabGet s.ctxs o.ctx = some c)
    (hform : w.m.getLsbD 5 = false) (hg : tabGet s.groups o.grp = some g) (hser : g.serial = o.gser) (hcan : o.cancel = [])
    (hall : ∀ j, j < nThreads g → o.threads.getLsbD j = true → ∃ ws, maccThread g (getCoreCtx c o.core) o w j = some ws) :
    ∃ ws, AllV ws ∧ maccStep s id o w =
      .ok s (putEng (setGroup s o.grp (slotFree (landCells g ws) o.slot)) id (opStep { o with slot := none })) := by
  have hfil : (tabGet s.groups o.grp).filter (fun g => g.serial == o.gser) = some g := by
    rw [hg, Option.filter_some_pos (by simp [hser])]
  unfold maccStep
  simp only [hform, hfil, opCore_of hctx, Bool.false_eq_true, if_false]
  generalize hwrites : List.foldl _ _ _ = r
  obtain ⟨ws, rfl, hv⟩ : ∃ ws, r = some ws ∧ AllV ws := by
    rw [← hwrites]
    refine List.foldlRecOn (motive := fun r : Option (List RegW) => ∃ ws, r = some ws ∧ AllV ws) _ _ ⟨[], rfl, nofun⟩ fun r hr t ht => ?_
    obtain ⟨xs, rfl, hx⟩ := hr
    obtain ⟨hlt, hact⟩ := List.mem_filter.mp ht
    obtain ⟨ys, hy⟩ := hall t (List.mem_range.mp hlt) hact
    rw [hy]
    exact ⟨_, rfl, hx.append (maccThread_allV hy)⟩
  refine ⟨ws, hv, ?_⟩
  simp only [hcan, List.contains_nil, Bool.not_false, List.filter_true]

theorem exec_macc {s : State} {id : Nat} {o : EngOp} {w : RWord (BitVec 12)} (h : OpRuns s id o) (hi : o.i = .macc w) :
    Acts (.maccReadout id) s (opEnd s id o 3 4 (maccStep s id o w)) := by
  intro hf
  refine (event_running hf).trans ?_
  rw [onOp_runs h, hi]

/-- A row of the memory form, where no element of the tile raises CONV. -/
theorem maccStep_memory {s t0 : State} (id : Nat) {o : EngOp} {c : Ctx} {w : RWord (BitVec 12)} {row : List Byte}
    (hctx : tabGet s.ctxs o.ctx = some c) (hform : w.m.getLsbD 5 = true)
    (hall : ∀ r, r < 64 → ∃ x, maccRow (getCoreCtx c o.core) (o.vals.getD 0 0).toNat (maccTy w.m) (o.vals.getD 2 0).toNat (w.m.getLsbD 6)
      ((o.vals.getD 3 0).toNat != 1) r = some x)
    (hrow : maccRow (getCoreCtx c o.core) (o.vals.getD 0 0).toNat (maccTy w.m) (o.vals.getD 2 0).toNat (w.m.getLsbD 6)
      ((o.vals.getD 3 0).toNat != 1) o.prog = some row)
    (hw : engWrite s o true 0 (bits (o.vals.getD 1 0).toNat 23 0 + o.prog * bits (o.vals.getD 1 0).toNat 47 32) row.length row = .ok t0 ()) :
    maccStep s id o w = .ok t0 (putEng t0 id (opStep o)) := by
  have hconv : ((List.range 64).any fun r => (maccRow (getCoreCtx c o.core) (o.vals.getD 0 0).toNat (maccTy w.m) (o.vals.getD 2 0).toNat
      (w.m.getLsbD 6) ((o.vals.getD 3 0).toNat != 1) r).isNone) = false := by
    refine List.any_eq_false.mpr fun r hr => ?_
    obtain ⟨x, hx⟩ := hall r (List.mem_range.mp hr)
    rw [hx]
    exact Bool.false_ne_true
  unfold maccStep
  simp only [hform, opCore_of hctx, if_true, hconv, Bool.and_false, Bool.false_eq_true, if_false, hrow, hw, bind_ok]

/-! Jobs (R404). -/

/-- A block of 128 bytes holds an element. -/
theorem per_pos (t : Ty) : 0 < 1024 / t.bits := by cases t <;> decide

/-- A block of a conversion job, full of elements, whose reads and writes go through. -/
theorem jobStep_block {s u t0 : State} (id : Nat) {o : EngOp} {k : Card3} {bs : List Byte} (hop : k.op = 2)
    (hlen : o.prog * (1024 / (k.dty.getD .f32).bits) + 1024 / (k.dty.getD .f32).bits ≤ k.len)
    (hcap : packBytes (k.dty.getD .f32) (o.prog * (1024 / (k.dty.getD .f32).bits) + 1024 / (k.dty.getD .f32).bits) ≤ k.cap)
    (hval : jobValues s o k (k.dty.getD .f32) (o.prog * (1024 / (k.dty.getD .f32).bits)) (1024 / (k.dty.getD .f32).bits) = .ok u bs)
    (hw : engWrite u o k.dl 0 (k.dst + 128 * o.prog) bs.length bs = .ok t0 ()) :
    jobStep s id o k = if o.prog * (1024 / (k.dty.getD .f32).bits) + 1024 / (k.dty.getD .f32).bits = k.len then
      jobDone t0 id o (o.prog + 1) (packBytes (k.dty.getD .f32) k.len) else .ok t0 (putEng t0 id (opStep o)) := by
  have hpos := per_pos (k.dty.getD .f32)
  have hmin : min (1024 / (k.dty.getD .f32).bits) (k.len - o.prog * (1024 / (k.dty.getD .f32).bits)) = 1024 / (k.dty.getD .f32).bits :=
    min_eq_left (by omega)
  unfold jobStep
  simp only [hop, show ¬ (2 : Nat) = 3 by decide, show k.len ≠ 0 by omega, hmin, not_lt.mpr hcap, hval, hw, bind_ok, if_false]

theorem exec_job {s : State} {id : Nat} {o : EngOp} {w : RWord (BitVec 12)} (h : OpRuns s id o) (hi : o.i = .xfmJ w) :
    Acts (.xfmJobBlock id) s (opEnd s id o 5 6 (
      if !cardOk (cardOf (o.vals.map (·.toNat))) then .error s fcEngineError 0
      else if (cardOf (o.vals.map (·.toNat))).op = 1 then lzStep s id o (cardOf (o.vals.map (·.toNat)))
      else jobStep s id o (cardOf (o.vals.map (·.toNat))))) := by
  intro hf
  refine (event_running hf).trans ?_
  rw [onOp_runs h, hi]

/-- MLOOP_K_STEP, MACC_READOUT and XFM_JOB_BLOCK. -/
theorem opComputes_holds (s : State) (id : Nat) : opComputes s id := by
  intro o c h hctx v
  refine ⟨fun w hi => ?mloop, fun w g hi hform hg hser hcan hall => ?registers, fun w row t0 hi hform => ?memory, fun w hi => ?job⟩
  case mloop =>
    have hstep := exec_kStep h hctx hi
    refine ⟨fun hidle hno => ?_, fun hgo hlatch u a l1 t0 b l2 ha hb => ?_⟩
    · rwa [if_pos (by rw [hidle, hno]; rfl)] at hstep
    · have hnot : (seqIdle s o.core && !o.granted) = false := by
        rcases hgo with h | h <;> simp [h]
      rw [hnot] at hstep
      have hc : tabGet t0.ctxs o.ctx = some c :=
        (congrArg (tabGet · o.ctx) ((kept_of_rows ha).trans (kept_of_rows hb)).ctxs).trans hctx
      refine ⟨fun hmod htot hf => ?_, fun hend hf => ?_⟩
      · obtain ⟨x, hk⟩ := (kStep_dense hi hlatch ha hb).1 ⟨hmod, htot⟩
        rw [hk] at hstep
        refine ⟨_, hstep hf, rfl, tabGet_put_same .., ?_⟩
        rw [opEnd_ok, getCore_of_cores (s := t0) rfl]
      · obtain ⟨x, sd, tri, seed, lin, n, hk⟩ := (kStep_dense hi hlatch ha hb).2 fun hgo => hend.elim hgo.1 hgo.2
        obtain ⟨hmem, y, hy, hcount⟩ := summed_rest hc sd tri seed lin n
        rw [hk] at hstep
        exact ⟨_, hstep hf, hmem, tabGet_put_same .., y, hy, hcount⟩
  case registers =>
    obtain ⟨ws, hv, hstep⟩ := maccStep_registers id hctx hform hg hser hcan hall
    have hexec := exec_macc h hi
    rw [hstep] at hexec
    obtain ⟨x, p, hland⟩ := putCells_allV hv { g with pend := g.pend.map fun p => { p with writes := p.writes.filterMap (overtaken ws) } }
    intro hf
    refine ⟨_, hexec hf, rfl, tabGet_put_same .., _, tabGet_put_same .., ?_⟩
    rw [landCells, hland]
    cases o.slot <;> exact ⟨rfl, rfl, rfl, rfl⟩
  case memory =>
    intro bytes hall hrow hw hf
    have hexec := exec_macc h hi
    rw [maccStep_memory id hctx hform hall hrow hw] at hexec
    exact ⟨_, hexec hf, rfl, tabGet_put_same ..⟩
  case job =>
    intro k per
    have hexec := exec_job h hi
    refine ⟨fun hbad hs hf => ⟨_, hexec hf, ?bad⟩, fun hok hop hmore hcap u bs t0 hval hw hf => ⟨_, hexec hf, ?block⟩,
      fun hok hop hlast hcap u bs t0 t1 hval hw hres => ?last⟩
    case bad =>
      rw [if_pos (by rw [Bool.not_eq_true', ← hbad])]
      exact opEnd_error h.1 hctx hs (by decide)
    case block =>
      rw [if_neg (by simp [k, hok]), if_neg (by simp [k, hop]), jobStep_block id hop hmore.le hcap hval hw, if_neg hmore.ne]
      exact ⟨rfl, tabGet_put_same ..⟩
    case last =>
      have hkept := (kept_of_values hval).trans ((kept_of_write hw).trans (kept_of_write hres))
      refine lands_of_landTo (rd := 5) (wr := 6) (.refl ((congrArg (tabGet · id) hkept.ops).trans h.1)) rfl fun hf => (hexec hf).trans ?_
      rw [if_neg (by simp [k, hok]), if_neg (by simp [k, hop]), jobStep_block id hop hlast.le (by rw [hlast]; exact hcap) hval hw,
        if_pos hlast, jobDone, hres, bind_ok]

/-! Completion (R221, R254). -/

/-- What the end of a team leaves (R221). -/
structure TeamKept (s t : State) : Prop where
  ops : t.ops = s.ops
  groups : t.groups = s.groups

theorem freeQueues_kept (s : State) (core : Nat) (p : QSlot → Bool) : TeamKept s (freeQueues s core p) :=
  List.foldlRecOn _ _ (motive := TeamKept s) ⟨rfl, rfl⟩ fun _ hu _ _ => ⟨hu.ops, hu.groups⟩

theorem endTeam_kept (s : State) (tk : Nat) : TeamKept s (endTeam s tk) := by
  unfold endTeam
  split
  · exact ⟨rfl, rfl⟩
  · next t _ =>
    obtain ⟨hops, hgroups⟩ := freeQueues_kept s t.core fun q => q.team == some tk
    split
    · exact ⟨rfl, rfl⟩
    · constructor
      · dsimp only
        split <;> exact hops
      · dsimp only
        split <;> exact hgroups

/-- A key that a table does not have stays absent as entries leave the table. -/
theorem tabGet_filter_none {α : Type} {t : Tab α} {k : Nat} (p : Nat × α → Bool) (h : tabGet t k = none) : tabGet (t.filter p) k = none := by
  induction t with
  | nil => rfl
  | cons x t ih =>
    obtain ⟨j, y⟩ := x
    rw [tabGet_cons] at h
    by_cases hj : j = k
    · simp [hj] at h
    · rw [if_neg hj] at h
      rw [List.filter_cons]
      split
      · rw [tabGet_cons, if_neg hj, ih h]
      · exact ih h

/-- A path that waited for something past its instruction, as it is woken (R220). -/
def pathPast (s : State) (ctx : Nat) (q : Path) : Path :=
  { q with kind := .runnable, pc := q.pc + 1, fall := fallsOff s ctx q.pc, bump := q.bump + 1 }

/-- What the wakings of paths leave of a group (R220). -/
structure GroupWoken (g h : Grp) : Prop where
  em : h.em = g.em
  v : h.v = g.v
  s : h.s = g.s
  batches : h.batches = g.batches
  runnable : ∀ q ∈ g.paths, q.kind = .runnable → q ∈ h.paths

/-- A group whose paths have been woken has its registers, and its woken paths are runnable. -/
theorem wakePath_group {s : State} {k : Nat} {g : Grp} (hg : tabGet s.groups k = some g) (p : WaitOn → Bool) (done : Bool) :
    ∃ h, tabGet (wakePath s k p done).groups k = some h ∧ GroupWoken g h ∧
      (done = true → ∀ q ∈ g.paths, ∀ r w, q.kind = .waiting r w → p w = true → pathPast s g.ctx q ∈ h.paths) := by
  unfold wakePath
  extract_lets hit f
  rw [updGroup_groups, tabGet_upd, if_pos rfl, hg]
  refine ⟨_, rfl, ?_⟩
  beta_reduce
  split
  · refine ⟨⟨rfl, rfl, rfl, rfl, fun q hq hk => List.mem_map.mpr ⟨q, hq, ?_⟩⟩, fun hd q hq r w hk hp => List.mem_map.mpr ⟨q, hq, ?_⟩⟩
    · have hno : hit q = false := by simp only [hit, hk]
      simp only [f, hno, Bool.false_eq_true, if_false]
    · have hyes : hit q = true := by simp only [hit, hk, hp]
      simp only [f, hyes, hd, if_true, pathPast]
  · next hnone =>
    refine ⟨⟨rfl, rfl, rfl, rfl, fun q hq _ => hq⟩, fun _ q hq r w hk hp => absurd ?_ hnone⟩
    exact List.any_eq_true.mpr ⟨q, List.mem_append_right _ hq, by simp only [hit, hk, hp]⟩

/-- The paths that wait for a batch that is complete go on (R254, R388). -/
theorem wakeBatches_group {s : State} {k cls : Nat} {g : Grp} (hg : tabGet s.groups k = some g) :
    ∃ h, tabGet (wakeBatches s k cls).groups k = some h ∧ h.em = g.em ∧ h.v = g.v ∧ h.s = g.s ∧ h.batches = g.batches ∧
      ∀ q ∈ g.paths, ∀ r n, q.kind = .waiting r (.batch cls n) → batchDone (batchesOf g cls) n = true → pathPast s g.ctx q ∈ h.paths := by
  simp only [wakeBatches, hg]
  obtain ⟨h, hh, hw, hpast⟩ := wakePath_group hg
    (fun w => match w with | .batch c n => c == cls && batchDone (batchesOf g cls) n | _ => false) true
  have hwoken : ∀ q ∈ g.paths, ∀ r n, q.kind = .waiting r (.batch cls n) → batchDone (batchesOf g cls) n = true →
      pathPast s g.ctx q ∈ h.paths := fun q hq r n hk hd => hpast rfl q hq r _ hk (by simp [hd])
  split
  · obtain ⟨h2, hh2, hw2, -⟩ := wakePath_group hh (· == .batchFull cls) false
    exact ⟨h2, hh2, hw2.em.trans hw.em, hw2.v.trans hw.v, hw2.s.trans hw.s, hw2.batches.trans hw.batches,
      fun q hq r n hk hd => hw2.runnable _ (hwoken q hq r n hk hd) rfl⟩
  · exact ⟨h, hh, hw.em, hw.v, hw.s, hw.batches, hwoken⟩

theorem wakeBatches_ops (s : State) (k cls : Nat) : (wakeBatches s k cls).ops = s.ops := by
  unfold wakeBatches
  dsimp only
  split
  · rfl
  · split <;> rfl

/-- The batches that are left once those at the front have completed (R254). -/
theorem pruneGo_subset (done : Nat) (l : List (Nat × List Nat)) : (pruneGo done l).2 ⊆ l := by
  induction l generalizing done with
  | nil => exact List.Subset.refl _
  | cons x l ih =>
    obtain ⟨n, os⟩ := x
    rw [pruneGo]
    split
    · exact List.subset_cons_of_subset _ (ih n)
    · exact List.Subset.refl _

/-- An operation that has left the batches is in none of them (R254). -/
theorem batchesDrop_gone (b : Batches) (id : Nat) :
    id ∉ (batchesDrop b id).openOps ∧ (∀ x ∈ (batchesDrop b id).closed, id ∉ x.2) ∧ (batchesDrop b id).next = b.next := by
  refine ⟨fun h => ?_, fun x hx h => ?_, rfl⟩
  · simp [batchesDrop, pruneBatches] at h
  · obtain ⟨y, -, rfl⟩ := List.mem_map.mp (pruneGo_subset _ _ hx)
    simp at h

/-- The group of an operation once the operation has left its batches (R254). -/
def leftBatches (o : EngOp) (id : Nat) (g : Grp) : Grp := { g with batches := tabPut g.batches o.cls (batchesDrop (batchesOf g o.cls) id) }

theorem batchesOf_leftBatches (o : EngOp) (id : Nat) (g : Grp) : batchesOf (leftBatches o id g) o.cls = batchesDrop (batchesOf g o.cls) id := by
  rw [batchesOf, leftBatches, tabGetD_put, if_pos rfl]

/-- ENGINE_OP_COMPLETE. -/
theorem opEnds_holds (s : State) (id : Nat) : opEnds s id := by
  intro o hop
  refine ⟨fun hmore hf => ?_, fun hst htot hstop hf => ⟨_, event_running hf, ?_⟩⟩
  · refine (event_running hf).trans ?_
    simp only [hop, Nat.not_le.mpr hmore, decide_false, Bool.and_false, Bool.false_and, Bool.not_false, if_true]
  · simp only [hop, hst, htot, hstop, decide_true, Bool.not_false, Bool.and_self, Bool.not_true, Bool.false_eq_true, if_false]
    generalize hs2 : updGroup _ _ _ = s2
    generalize hs3 : (if ((tabGet s2.groups o.grp).any fun g => g.serial == o.gser) = true then wakeBatches s2 o.grp o.cls else s2) = s3
    obtain ⟨hops, hgroups⟩ := endTeam_kept (dropMarkers s3 o.core) o.team
    rw [hops, hgroups]
    refine ⟨tabGet_filter_none _ ?_, fun g hg hser => ?_⟩
    · have hsame : s3.ops = s2.ops := by
        rw [← hs3]
        split
        · exact wakeBatches_ops ..
        · rfl
      rw [hsame, ← hs2, updGroup_ops, tabGet_del, if_pos rfl]
    · have hleft : tabGet s2.groups o.grp = some (leftBatches o id g) := by
        rw [← hs2, updGroup_groups, tabGet_upd, if_pos rfl, hg, Option.map_some, if_pos (by simp [hser])]
        rfl
      have hwake : s3 = wakeBatches s2 o.grp o.cls := by
        rw [← hs3, hleft, if_pos (by simp [leftBatches, hser])]
      obtain ⟨h, hh, hem, hv, hsr, hbat, hpast⟩ := wakeBatches_group (cls := o.cls) hleft
      have hb : batchesOf h o.cls = batchesDrop (batchesOf g o.cls) id := by
        rw [batchesOf, hbat, ← batchesOf, batchesOf_leftBatches]
      have hctxs : ∀ pc, fallsOff s2 g.ctx pc = fallsOff s g.ctx pc := fun pc => by rw [← hs2]; rfl
      obtain ⟨hopen, hclosed, hnext⟩ := batchesDrop_gone (batchesOf g o.cls) id
      refine ⟨h, by rw [hwake]; exact hh, hem, hv, hsr, ?_⟩
      simp only [hb]
      refine ⟨hopen, hclosed, hnext, fun q hq r n hk hd => ?_⟩
      rw [← batchesOf_leftBatches] at hd
      rw [← hctxs]
      exact hpast q hq r n hk hd

/-- Settles O50: an operation's attempts are evaluated through what its reads and writes leave (`Kept`), its sectors land through
`lands_of_landTo`, and a completed operation leaves its batches and wakes its group's paths. Copies of whole units and the time of a
version pool's wait are the model's (log 39). -/
theorem engineOperationSteps : Obligations.EngineOperationSteps := by
  unfold Obligations.EngineOperationSteps
  exact fun s id => ⟨opStarts_holds s id, opMoves_holds s id, opComputes_holds s id, opEnds_holds s id⟩

end Sys2Proof.Proofs.Engines

namespace Sys2Proof.Proofs.Commits

open Sys2Proof Sys2Proof.Machine Sys2Proof.Claims Sys2Proof.Proofs.Device Sys2Proof.Proofs.Memory

/-! A group that prepares a commit, and what its votes and its end change (R149, R152, R154). -/

/-- A step of a group that prepares a commit is run on its transaction. -/
theorem onPreparing_of {s : State} {k : Nat} {g : Grp} {x : Tx} (h : Preparing s k g x) (f : Grp → Tx → State) :
    onPreparing s k f = f g x := by
  obtain ⟨hg, rfl, hst⟩ := h
  simp only [onPreparing, hg, hst, if_true]

theorem putTx_of {s : State} {k : Nat} {g : Grp} (h : tabGet s.groups k = some g) (y : Tx) :
    putTx s k y = setGroup s k { g with tx := y } := by
  simp only [putTx, updGroup, setGroup, tabUpd_some h]

/-- A transaction put in its group's place changes that group alone. -/
theorem onlyTx_putTx {s u : State} {k : Nat} {g : Grp} (hg : tabGet u.groups k = some g) (hmem : u.mem = s.mem) (y : Tx) :
    OnlyTx s (putTx u k y) k g y := by
  rw [putTx_of hg]
  exact ⟨tabGet_put_same _ _ _, hmem⟩

/-- Profiling counts change no transaction. -/
theorem onlyTx_counted {s t u : State} {k : Nat} {g : Grp} {y : Tx} (h : OnlyTx s t k g y) (hc : Counted t u) : OnlyTx s u k g y := by
  obtain ⟨hgroup, hmem⟩ := h
  exact ⟨by rw [hc.same]; exact hgroup, by rw [hc.same]; exact hmem⟩

/-! Maxima over a list, as the proposals and the commit stamp are computed (R152, R154). -/

theorem le_foldl_max {α : Type} (f : α → Nat) (l : List α) (a : Nat) :
    a ≤ l.foldl (fun n x => max n (f x)) a ∧ ∀ x ∈ l, f x ≤ l.foldl (fun n x => max n (f x)) a := by
  induction l generalizing a with
  | nil => exact ⟨le_refl a, fun x hx => absurd hx List.not_mem_nil⟩
  | cons y l ih =>
    obtain ⟨hstart, hall⟩ := ih (max a (f y))
    refine ⟨(le_max_left a (f y)).trans hstart, fun x hx => ?_⟩
    rcases List.mem_cons.mp hx with rfl | hx
    · exact (le_max_right a (f x)).trans hstart
    · exact hall x hx

/-- The maximum is what it starts from or one of the values. -/
theorem foldl_max_eq {α : Type} (f : α → Nat) (l : List α) (a : Nat) :
    l.foldl (fun n x => max n (f x)) a = a ∨ ∃ x ∈ l, f x = l.foldl (fun n x => max n (f x)) a := by
  induction l generalizing a with
  | nil => exact .inl rfl
  | cons y l ih =>
    rcases ih (max a (f y)) with h | ⟨x, hx, h⟩
    · rcases max_choice a (f y) with hm | hm
      · exact .inl (by rw [List.foldl_cons, h, hm])
      · exact .inr ⟨y, List.mem_cons_self, by rw [List.foldl_cons, h, hm]⟩
    · exact .inr ⟨x, List.mem_cons_of_mem _ hx, h⟩

/-! TX_PREPARE: the locks (R152). -/

/-- A line that one of the buffer's entries names is locked, and no other line changes. -/
theorem lineOf_lockLines (k ts : Nat) (ls : List TxLine) (s : State) (n : Nat) :
    lineOf (ls.foldl (lockLine k ts) s) n = if (∃ l ∈ ls, l.line = n) then { lineOf s n with lock := some (k, ts) } else lineOf s n := by
  induction ls generalizing s with
  | nil => simp only [List.foldl_nil, List.not_mem_nil, false_and, exists_false, if_false]
  | cons l ls ih =>
    have hone : lineOf (lockLine k ts s l) n = if l.line = n then { lineOf s n with lock := some (k, ts) } else lineOf s n := by
      rw [lineOf, lockLine, tabGetD_put]
      split
      · next h => rw [h]
      · rfl
    rw [List.foldl_cons, ih, hone]
    by_cases hl : l.line = n <;> by_cases hls : ∃ l ∈ ls, l.line = n <;> simp [hl, hls]

theorem lockLines_rest (k ts : Nat) (ls : List TxLine) (s : State) :
    ls.foldl (lockLine k ts) s = { s with lines := { s.lines with lines := (ls.foldl (lockLine k ts) s).lines.lines } } := by
  induction ls generalizing s with
  | nil => rfl
  | cons l ls ih => exact (ih _).trans rfl

/-- The proposal of R152 is above the clock and above every line's newest stamp. -/
theorem proposal_above (s : State) (ls : List TxLine) :
    s.gts ≤ max s.gts (ls.foldl (fun n l => max n (lineOf s l.line).stamp) 0 + 1) ∧
      ∀ l ∈ ls, (lineOf s l.line).stamp < max s.gts (ls.foldl (fun n l => max n (lineOf s l.line).stamp) 0 + 1) := by
  refine ⟨le_max_left _ _, fun l hl => lt_of_lt_of_le (Nat.lt_succ_of_le ?_) (le_max_right _ _)⟩
  exact (le_foldl_max (fun l : TxLine => (lineOf s l.line).stamp) ls 0).2 l hl

/-- What a pump that a prepare has reached comes to (R152, R157). -/
theorem exec_txPrepare {s : State} {k p : Nat} {g : Grp} {x : Tx} (hf : s.pkg.frozen = false) (h : Preparing s k g x)
    (hasked : x.asked.contains p = true) (hsent : tabGet x.sent p = none) (hstamp : x.stamp = none) :
    exec (.txPrepare k p) s = .next (
      let no := fun c => prfAdd (putTx s k { x with sent := tabPut x.sent p (.no c) }) (ctxVf g.ctx) 1 (p / 16) (p % 16) 6 1
      let ls := pumpLines x p
      if ls.any (lineConflict s x.ts) then no 1
      else if !recordsFree s (p / 16) ls then (if x.since + 65536 ≤ s.cycle then no 4 else s)
      else putTx (updDie (ls.foldl (lockLine k x.ts) s) (p / 16) fun d => { d with poolUsed := d.poolUsed + ls.length }) k
        { x with sent := tabPut x.sent p (.yes (max s.gts (ls.foldl (fun n l => max n (lineOf s l.line).stamp) 0 + 1))) }) := by
  refine (event_running hf).trans (congrArg _ ?_)
  rw [onPreparing_of h]
  simp only [hasked, hsent, hstamp, Option.isSome_none, Bool.not_true, Bool.or_self, Bool.false_eq_true, if_false]

/-- A vote against the commit changes the transaction alone. -/
theorem votesNo {s : State} {k : Nat} {g : Grp} (hg : tabGet s.groups k = some g) (y : Tx) (vf kind die inst ev n : Nat) :
    OnlyTx s (prfAdd (putTx s k y) vf kind die inst ev n) k g y ∧ (prfAdd (putTx s k y) vf kind die inst ev n).lines = s.lines := by
  have hc := prfAdd_counted (putTx s k y) vf kind die inst ev n
  refine ⟨onlyTx_counted (onlyTx_putTx hg rfl y) hc, ?_⟩
  rw [hc.same]
  rfl

theorem prepares_holds (s : State) (k p : Nat) : prepares s k p := by
  intro g x h hasked hsent hstamp ls bad
  have hls : pumpLines x p = ls := rfl
  have hbad : ls.any (lineConflict s x.ts) = bad := rfl
  have hg := h.1
  refine ⟨fun hb hf => ⟨_, exec_txPrepare hf h hasked hsent hstamp, ?_⟩, fun hb hr hold hf => ⟨_, exec_txPrepare hf h hasked hsent hstamp, ?_⟩,
    fun hb hr hnew hf => ?_, fun hb hr hf => ⟨_, exec_txPrepare hf h hasked hsent hstamp, ?_⟩⟩
  · simp only [hls, hbad, hb, if_true]
    exact votesNo hg _ _ _ _ _ _ _
  · simp only [hls, hbad, hb, hr, hold, Bool.not_false, Bool.false_eq_true, if_true, if_false]
    exact votesNo hg _ _ _ _ _ _ _
  · rw [exec_txPrepare hf h hasked hsent hstamp]
    simp only [hls, hbad, hb, hr, Nat.not_le.mpr hnew, Bool.not_false, Bool.false_eq_true, if_true, if_false]
  · simp only [hls, hbad, hb, hr, Bool.not_true, Bool.false_eq_true, if_false]
    have hrest := lockLines_rest k x.ts ls s
    obtain ⟨hclock, habove⟩ := proposal_above s ls
    refine ⟨_, onlyTx_putTx (by rw [updDie_groups, hrest]; exact hg) (by rw [updDie_mem, hrest]) _, hclock, ?_, fun l hl => ⟨habove l hl, ?_⟩,
      fun n hn => ?_⟩
    · refine (congrArg Die.poolUsed (getDie_updDie (ls.foldl (lockLine k x.ts) s) (p / 16) (p / 16)
        fun d => { d with poolUsed := d.poolUsed + ls.length })).trans ?_
      rw [if_pos rfl, hrest]
      rfl
    · exact (lineOf_lockLines k x.ts ls s l.line).trans (if_pos ⟨l, hl, rfl⟩)
    · exact (lineOf_lockLines k x.ts ls s n).trans (if_neg fun ⟨l, hl, he⟩ => hn l hl he)

/-! TX_VOTE and the end of a TXC (R149, R154). -/

/-- Writes of one value to threads of a predicate change predicates alone: a bit that had the value has it still, and every
thread named has it. -/
theorem putCells_pred (r : Nat) (b : Bool) (ts : List Nat) (g : Grp) :
    ∃ p o, putCells g (ts.map fun t => ⟨.p r t, if b then 1 else 0⟩) = { g with p := p, poison := o } ∧
      (∀ i, tabGet g.p i = some b → tabGet p i = some b) ∧ (r ≠ 7 → ∀ t ∈ ts, tabGet p (r * 96 + t) = some b) := by
  induction ts generalizing g with
  | nil => exact ⟨g.p, g.poison, rfl, fun _ h => h, fun _ t ht => absurd ht List.not_mem_nil⟩
  | cons t ts ih =>
    obtain ⟨q, o', hput, hkeep, hset⟩ : ∃ q o', putCell g ⟨.p r t, if b then 1 else 0⟩ = { g with p := q, poison := o' } ∧
        (∀ i, tabGet g.p i = some b → tabGet q i = some b) ∧ (r ≠ 7 → tabGet q (r * 96 + t) = some b) := by
      have hbit : (if b then 1 else 0 : W64).getLsbD 0 = b := by cases b <;> rfl
      by_cases hr : r = 7
      · exact ⟨g.p, _, by simp only [putCell, hr, if_true]; rfl, fun _ h => h, fun h => absurd hr h⟩
      · refine ⟨_, _, by simp only [putCell, hr, if_false, hbit]; rfl, fun i h => ?_, fun _ => tabGet_put_same _ _ _⟩
        rw [tabGet_put]
        split
        · rfl
        · exact h
    obtain ⟨p, o, hall, hkeep', hset'⟩ := ih { g with p := q, poison := o' }
    refine ⟨p, o, ?_, fun i h => hkeep' i (hkeep i h), fun hr u hu => ?_⟩
    · show putCells (putCell g _) _ = _
      rw [hput, hall]
    · rcases List.mem_cons.mp hu with rfl | hu
      · exact hkeep' _ (hset hr)
      · exact hset' hr u hu

/-- The writes of the predicate of a TXC that completes (R149). -/
def txcWrites (g : Grp) (b : Bool) : List RegW :=
  match g.tx.pdst with
  | some r => ((List.range (nThreads g)).filter g.tx.threads.getLsbD).map fun t => ⟨.p r t, if b then 1 else 0⟩
  | none => []

theorem finishTxc_of {s : State} {k : Nat} {g : Grp} (h : tabGet s.groups k = some g) (c : Nat) (b : Bool) :
    finishTxc s k c b = setGroup s k { slotFree (landCells g (txcWrites g b)) g.tx.slot with tx := txEnd g.tx c } := by
  simp only [finishTxc, updGroup, setGroup, tabUpd_some h]
  rfl

/-- What landing the predicate of a TXC leaves. -/
theorem landCells_txcWrites (g : Grp) (b : Bool) : ∃ p o q,
    landCells g (txcWrites g b) = { g with p := p, poison := o, pend := q } ∧
    ∀ r j, g.tx.pdst = some r → r ≠ 7 → j < nThreads g → g.tx.threads.getLsbD j = true → tabGet p (r * 96 + j) = some b := by
  cases hp : g.tx.pdst with
  | none => exact ⟨g.p, g.poison, _, by rw [txcWrites, hp]; rfl, fun r j h => by cases h⟩
  | some r =>
    have hws : txcWrites g b = ((List.range (nThreads g)).filter g.tx.threads.getLsbD).map fun t => ⟨.p r t, if b then 1 else 0⟩ := by
      rw [txcWrites, hp]
    obtain ⟨p, o, hput, -, hset⟩ := putCells_pred r b ((List.range (nThreads g)).filter g.tx.threads.getLsbD)
      { g with pend := g.pend.map fun p => { p with writes := p.writes.filterMap (overtaken (txcWrites g b)) } }
    rw [← hws] at hput
    refine ⟨p, o, _, hput, fun r' j hr h7 hj ht => ?_⟩
    obtain rfl := Option.some.inj hr
    exact hset h7 j (List.mem_filter.mpr ⟨List.mem_range.mpr hj, ht⟩)

theorem finishTxc_ends {s : State} {k : Nat} {g : Grp} (h : tabGet s.groups k = some g) (c : Nat) (b : Bool) :
    TxEnds s (finishTxc s k c b) k g c b := by
  obtain ⟨p, o, q, hland, hset⟩ := landCells_txcWrites g b
  rw [finishTxc_of h, hland]
  cases hs : g.tx.slot <;>
    exact ⟨_, rfl, rfl, rfl, rfl, rfl, rfl, rfl, rfl, by rw [hs]; rfl, fun r j hr h7 _ hj ht => hset r j hr h7 hj ht⟩

/-- The commit stamp that a core computes from the votes (R154). -/
def commitStamp (vs : Tab Vote) : Nat := vs.foldl (fun n v => match v.2 with | .yes x => max n x | .no _ => n) 0

/-- What a vote comes to that reaches its core (R149, R154). -/
theorem exec_txVote {s : State} {k p : Nat} {g : Grp} {x : Tx} {v : Vote} (hf : s.pkg.frozen = false) (h : Preparing s k g x)
    (hsent : tabGet x.sent p = some v) (hvotes : tabGet x.votes p = none) (hstamp : x.stamp = none) :
    exec (.txVote k p) s = .next (
      let vs := tabPut x.votes p v
      if vs.length < x.asked.length then putTx s k { x with votes := vs }
      else
        match noCause vs with
        | some c => finishTxc s k c false
        | none => x.lines.foldl (fun u l => wakeWaits u (128 * l.line) 128) (putTx s k { x with
            votes := vs, stamp := some (commitStamp vs),
            towrite := x.lines.map (·.line) })) := by
  refine (event_running hf).trans (congrArg _ ?_)
  rw [onPreparing_of h]
  simp only [hsent, hvotes, hstamp, Option.isSome_none, Bool.or_self, Bool.false_eq_true, if_false]
  rfl

theorem noCause_conflict {vs : Tab Vote} (h : ∃ y ∈ vs, y.2 = .no 1) : noCause vs = some 1 := by
  obtain ⟨y, hy, hv⟩ := h
  exact if_pos (List.any_eq_true.mpr ⟨y, hy, by rw [hv]; rfl⟩)

theorem noCause_pool {vs : Tab Vote} (h1 : ∀ y ∈ vs, y.2 ≠ .no 1) (h : ∃ y ∈ vs, ∃ c, y.2 = .no c) : noCause vs = some 4 := by
  obtain ⟨y, hy, c, hv⟩ := h
  refine (if_neg ?_).trans (if_pos (List.any_eq_true.mpr ⟨y, hy, by rw [hv]⟩))
  rw [List.any_eq_true]
  exact fun ⟨z, hz, he⟩ => h1 z hz (beq_iff_eq.mp he)

theorem noCause_none {vs : Tab Vote} (h : ∀ y ∈ vs, ∃ n, y.2 = .yes n) : noCause vs = none := by
  refine (if_neg ?_).trans (if_neg ?_) <;> rw [List.any_eq_true] <;> rintro ⟨z, hz, he⟩ <;> obtain ⟨n, hn⟩ := h z hz <;> rw [hn] at he <;> cases he

/-- The stamp that a vote proposes. -/
def proposed : Vote → Nat
  | .yes n => n
  | .no _ => 0

/-- The commit stamp is the largest proposal (R154). -/
theorem commitStamp_largest {vs : Tab Vote} (hne : vs ≠ []) (h : ∀ y ∈ vs, ∃ n, y.2 = .yes n) :
    (∃ y ∈ vs, y.2 = .yes (commitStamp vs)) ∧
      ∀ y ∈ vs, ∀ m, y.2 = .yes m → m ≤ commitStamp vs := by
  have hfold : commitStamp vs = vs.foldl (fun n v => max n (proposed v.2)) 0 := by
    unfold commitStamp
    congr 1
    funext n v
    cases v.2 <;> simp [proposed]
  have hyes : ∀ y ∈ vs, y.2 = .yes (proposed y.2) := fun y hy => by
    obtain ⟨n, hn⟩ := h y hy
    rw [hn, proposed]
  have hle := (le_foldl_max (fun v : Nat × Vote => proposed v.2) vs 0).2
  rw [hfold]
  refine ⟨?_, fun y hy m hm => ?_⟩
  · obtain ⟨y, hy⟩ := List.exists_mem_of_ne_nil vs hne
    rcases foldl_max_eq (fun v : Nat × Vote => proposed v.2) vs 0 with h0 | ⟨z, hz, hmax⟩
    · have hy0 := hle y hy
      rw [h0] at hy0 ⊢
      exact ⟨y, hy, (hyes y hy).trans (by rw [Nat.le_zero.mp hy0])⟩
    · exact ⟨z, hz, (hyes z hz).trans (by rw [hmax])⟩
  · have hm' := hle y hy
    rwa [hm] at hm'

theorem tabPut_ne_nil {α : Type} (t : Tab α) (i : Nat) (x : α) : tabPut t i x ≠ [] := fun h => by
  have hget := tabGet_put_same t i x
  rw [h] at hget
  cases hget

theorem votes_holds (s : State) (k p : Nat) : votes s k p := by
  intro g x v h hsent hvotes hstamp vs
  have hvs : tabPut x.votes p v = vs := rfl
  have hg := h.1
  refine ⟨fun hmore hf => ⟨_, exec_txVote hf h hsent hvotes hstamp, ?_⟩, fun hlast hno hf => ⟨_, exec_txVote hf h hsent hvotes hstamp, ?_⟩,
    fun hlast h1 hno hf => ⟨_, exec_txVote hf h hsent hvotes hstamp, ?_⟩, fun hlast hyes hf => ⟨_, exec_txVote hf h hsent hvotes hstamp, ?_⟩⟩
  · simp only [hvs, hmore, if_true]
    exact ⟨onlyTx_putTx hg rfl _, rfl⟩
  · simp only [hvs, Nat.not_lt.mpr hlast, if_false, noCause_conflict hno]
    exact finishTxc_ends hg 1 false
  · simp only [hvs, Nat.not_lt.mpr hlast, if_false, noCause_pool h1 hno]
    exact finishTxc_ends hg 4 false
  · simp only [hvs, Nat.not_lt.mpr hlast, if_false, noCause_none hyes]
    obtain ⟨hone, hall⟩ := commitStamp_largest (tabPut_ne_nil x.votes p v) hyes
    refine ⟨_, ?_, ?_, hone, hall⟩
    · rw [(Woken.foldl (fun u (l : TxLine) => wakeWaits_woken u (128 * l.line) 128) x.lines _).same]
      exact onlyTx_putTx hg rfl _
    · rw [(Woken.foldl (fun u (l : TxLine) => wakeWaits_woken u (128 * l.line) 128) x.lines _).same]
      rfl

/-- Settles O35: a prepare ends in a vote against it, a wait, or locks with a proposal above them; the votes are folded to a cause,
or to the largest proposal. When a commit is decided is log entry 32. -/
theorem commitVoteSteps : Obligations.CommitVoteSteps := by
  unfold Obligations.CommitVoteSteps
  exact fun s k p => ⟨prepares_holds s k p, votes_holds s k p⟩

end Sys2Proof.Proofs.Commits

namespace Sys2Proof.Proofs.Versions

open Sys2Proof Sys2Proof.Machine Sys2Proof.Claims Sys2Proof.Proofs.Memory

/-! A write to a line of a VER page at its home (R107, R139 to R141). -/

/-- A line whose newest version has become a version record, at the stamp of its new one (R141). -/
def versionedLine (s : State) (key : KeyId) (line stamp : Nat) : Line :=
  { lineOf s line with
    older := (lineOf s line).older ++
      [⟨(lineOf s line).stamp, lineData s line, recordSeal s (line / 2 ^ 32 % 8) key (lineData s line), 0⟩]
    stamp := stamp }

/-- The state with such a line, and one record of its die's pool more in use. -/
def versioned (s : State) (key : KeyId) (line stamp : Nat) : State :=
  updDie { s with lines := { s.lines with lines := tabPut s.lines.lines line (versionedLine s key line stamp) } } (line / 2 ^ 32 % 8)
    fun d => { d with poolUsed := d.poolUsed + 1, records := d.records + 1 }

theorem lineOf_versioned (s : State) (key : KeyId) (line stamp : Nat) :
    lineOf (versioned s key line stamp) line = versionedLine s key line stamp := by
  rw [lineOf, versioned, updDie_lines, tabGetD_put, if_pos rfl]

/-- A line that is clear to a reader is read as it stands. -/
theorem lineView_clear {s : State} {line : Nat} {key : KeyId} (h : lineClear s line key = true) : lineView s line key = lineData s line := by
  unfold lineClear at h
  unfold lineView
  cases hs : (lineOf s line).sealed with
  | none => rfl
  | some e =>
    rw [hs] at h
    exact if_pos h

/-- A line that is not poisoned has no poisoned word. -/
theorem clean_words {s : State} {line : Nat} (h : poisoned s (128 * line) 128 = false) {i : Nat} (hi : i < 32) :
    s.lines.poison.contains (32 * line + i) = false := by
  rw [Bool.eq_false_iff, ne_eq, List.contains_iff_mem]
  intro hmem
  have hno := List.any_eq_false.mp h _ hmem
  simp only [Bool.and_eq_true, decide_eq_true_eq] at hno
  omega

/-- Where a record can be had, the newest version of a clear line becomes it (R141, R157). -/
theorem newVersion_free {s : State} {line : Nat} {key : KeyId} (hclear : lineClear s line key = true)
    (hpoison : poisoned s (128 * line) 128 = false) (hrec : recordFree s line = true) (stamp : Nat) :
    newVersion s key line stamp = some (versioned s key line stamp) := by
  simp only [recordFree, Bool.and_eq_true, decide_eq_true_eq] at hrec
  obtain ⟨hroom, hpool⟩ := hrec
  have hbad : (List.range 32).foldl (fun n i => if s.lines.poison.contains (32 * line + i) then n + 2 ^ i else n) 0 = 0 := by
    rw [List.foldl_ext _ (fun n _ => n) 0 fun n i hi => if_neg (by rw [clean_words hpoison (List.mem_range.mp hi)]; exact Bool.false_ne_true)]
    exact List.foldl_fixed _
  simp only [newVersion, ge_iff_le, Nat.not_le.mpr hroom, Nat.not_le.mpr hpool, decide_false, Bool.or_self, Bool.false_eq_true, if_false,
    lineView_clear hclear, hbad]
  rfl

/-- A write at its home to a VER line that passes its checks, is not locked and finds a record (R107, R140, R141). -/
theorem pumpWrites_version {s : State} {key : KeyId} {pa d o : Nat} (hp : placeOf s.pkg.id pa = .well d o) (h : LineFree s (pa / 128) key)
    (hlock : (lineOf s (pa / 128)).lock = none) (hrec : recordFree s (pa / 128) = true) (cmp : Bool) (ps : Pieces) (own st : Option Nat) :
    pumpWrites s key true cmp pa ps own st = .done (wakePieces (sealLine (piecesIn (versioned s key (pa / 128)
      (st.getD (max s.gts ((lineOf s (pa / 128)).stamp + 1)))) (pa / 128) ps) (pa / 128) key cmp false) ps) 0 := by
  have hminor : ¬ 127 ≤ (lineOf s (pa / 128)).minor := by have := h.minor; omega
  simp only [pumpWrites, hp, h.rekey, h.reenc, h.sealed, h.clear, h.poison, hminor, hlock, piecesIn, newVersion_free h.clear h.poison hrec,
    Option.isSome_none, Option.any_none, Bool.or_self, Bool.not_true, Bool.and_false, Bool.false_eq_true, if_false, if_true, ge_iff_le,
    decide_false]
  by_cases hm : piecesMask (pa / 128) ps = BitVec.allOnes 128 <;> simp [hm]

theorem putPieces_mem (s : State) (ps : Pieces) : (putPieces s ps).mem = ps.foldl (fun m p => memWrite m p.1 p.2) s.mem := by
  induction ps generalizing s with
  | nil => rfl
  | cons p ps ih => exact ih _

/-- What a line's versions and lock are once it is sealed anew. -/
theorem lineOf_sealLine (s : State) (line : Nat) (key : KeyId) (cmp bad : Bool) : ∃ tag minor sl,
    lineOf (sealLine s line key cmp bad) line = { lineOf s line with tag := tag, minor := minor, sealed := sl, bad := bad } := by
  have hget : lineOf (sealLine s line key cmp bad) line = tabGetD (sealLine s line key cmp bad).lines.lines line Line.reset := rfl
  rw [hget, sealLine, tabGetD_put, if_pos rfl]
  exact ⟨_, _, _, rfl⟩

theorem sealLine_mem (s : State) (line : Nat) (key : KeyId) (cmp bad : Bool) : (sealLine s line key cmp bad).mem = s.mem := rfl

/-- Pieces have been written to a line as its version at a stamp. -/
structure VersionWritten (s t : State) (key : KeyId) (line stamp : Nat) (ps : Pieces) : Prop where
  line : ∃ tag minor sl, lineOf t line = { versionedLine s key line stamp with tag := tag, minor := minor, sealed := sl, bad := false }
  mem : t.mem = (putPieces s ps).mem
  rest : t = { s with mem := t.mem, lines := t.lines, dies := t.dies }

theorem versionWritten (s : State) (key : KeyId) (line stamp : Nat) (ps : Pieces) (cmp : Bool) :
    VersionWritten s (sealLine (piecesIn (versioned s key line stamp) line ps) line key cmp false) key line stamp ps := by
  have hin := piecesIn_rest (versioned s key line stamp) line ps
  have hline : lineOf (piecesIn (versioned s key line stamp) line ps) line = versionedLine s key line stamp := by
    rw [← lineOf_versioned, lineOf, hin]
    rfl
  refine ⟨?_, ?_, ?_⟩
  · rw [← hline]
    exact lineOf_sealLine ..
  · rw [sealLine_mem, piecesIn_mem, putPieces_mem, putPieces_mem]
    rfl
  · rw [(sealLine_wrote _ _ _ _ _).same, hin]
    rfl

theorem VersionWritten.versions {s t u : State} {key : KeyId} {line stamp : Nat} {ps : Pieces} (h : VersionWritten s t key line stamp ps)
    (hl : u.lines = t.lines) : (lineOf u line).stamp = stamp ∧ (lineOf u line).lock = (lineOf s line).lock ∧
      (lineOf u line).older = (versionedLine s key line stamp).older := by
  obtain ⟨tag, minor, sl, e⟩ := h.line
  have hu : lineOf u line = lineOf t line := by rw [lineOf, hl]; rfl
  rw [hu, e]
  exact ⟨rfl, rfl, rfl⟩

end Sys2Proof.Proofs.Versions

namespace Sys2Proof.Proofs.CommitWrites

open Sys2Proof Sys2Proof.Machine Sys2Proof.Claims Sys2Proof.Proofs.Device Sys2Proof.Proofs.Memory Sys2Proof.Proofs.Versions
  Sys2Proof.Proofs.Commits

/-! TX_COMMIT_WRITE (R154). -/

/-- The line with its lock and its reserved record given up is read and written as before. -/
theorem lineOf_freeLine (s : State) (n : Nat) : lineOf (freeLine s n) n = { lineOf s n with lock := none } := by
  have hget : lineOf (freeLine s n) n = tabGetD (freeLine s n).lines.lines n Line.reset := rfl
  rw [hget, freeLine, tabGetD_put, if_pos rfl]
  rfl

theorem keyVal_freeLine (s : State) (n : Nat) (key : KeyId) : keyVal (freeLine s n) key = keyVal s key := by cases key <;> rfl

theorem sealNow_freeLine (s : State) (n : Nat) (key : KeyId) : sealNow (freeLine s n) n key = sealNow s n key := by
  rw [sealNow, lineOf_freeLine, keyVal_freeLine]
  rfl

theorem treeOk_freeLine (s : State) (n : Nat) (key : KeyId) : treeOk (freeLine s n) n key = treeOk s n key := by
  have hnow : ∀ lv, nodeNow (freeLine s n) key n lv = nodeNow s key n lv := fun lv => by
    rw [nodeNow, keyVal_freeLine]
    rfl
  unfold treeOk
  simp only [hnow]
  rfl

theorem recordSeal_freeLine (s : State) (n : Nat) (key : KeyId) (x : BitVec 1024) :
    recordSeal (freeLine s n) (n / 2 ^ 32 % 8) key x = recordSeal s (n / 2 ^ 32 % 8) key x := by
  have hdie : (getDie (freeLine s n) (n / 2 ^ 32 % 8)).records = (getDie s (n / 2 ^ 32 % 8)).records :=
    (congrArg Die.records (getDie_updDie s _ _ fun d => { d with poolUsed := d.poolUsed - 1 })).trans (by rw [if_pos rfl])
  rw [recordSeal, hdie, keyVal_freeLine]
  rfl

/-- A line that passes its checks passes them once its own lock is given up. -/
theorem lineFree_freeLine {s : State} {n v : Nat} (hreenc : tabGet s.lines.reenc (groupOf n) = none) (hclear : lineClear s n (.vf v) = true)
    (hseal : sealOk s n (.vf v) = true) (hpoison : poisoned s (128 * n) 128 = false) (hminor : (lineOf s n).minor < 127) :
    LineFree (freeLine s n) n (.vf v) := by
  refine ⟨rfl, hreenc, ?_, ?_, ?_, ?_, hpoison⟩
  · rw [← hclear, lineClear, lineClear, lineOf_freeLine, sealNow_freeLine]
  · have hdata : lineData (freeLine s n) n = lineData s n := rfl
    rw [← hseal, sealOk, sealOk, lineOf_freeLine, sealNow_freeLine, treeOk_freeLine, hdata]
  · rw [lineOf_freeLine]
    exact hminor
  · rw [commitLine, lineOf_freeLine]

/-- Bytes of memory after single bytes of a line have been written. -/
theorem memByte_bytePieces (base : Nat) (f : Nat → Byte) (is : List Nat) (m : Mem) (h : Memory.wf m = true) (a : Nat) :
    memByte ((is.map fun i => (base + i, [f i])).foldl (fun m (p : Nat × List Byte) => memWrite m p.1 p.2) m) a =
      if base ≤ a ∧ a - base ∈ is then f (a - base) else memByte m a := by
  induction is generalizing m with
  | nil => simp only [List.map_nil, List.foldl_nil, List.not_mem_nil, and_false, if_false]
  | cons i is ih =>
    rw [List.map_cons, List.foldl_cons, ih _ (memWrite_wf _ _ _ h), memWrite_read _ _ _ _ h]
    by_cases hi : a = base + i
    · subst hi
      simp
    · have hni : base ≤ a → a - base ≠ i := by omega
      rw [if_neg (c := base + i ≤ a ∧ _) (by rw [List.length_singleton]; omega)]
      by_cases hb : base ≤ a
      · simp [hb, hni hb]
      · simp [hb]

/-- A commit's write puts the masked bytes of its buffered line in their places, and no other byte. -/
theorem memByte_txPieces {s t : State} {l : TxLine} (h : t.mem = (putPieces s (txPieces l)).mem) (hs : MemInv s) :
    (∀ a, a < 128 → memByte t.mem (128 * l.line + a) =
      if l.mask.getLsbD a then BitVec.ofNat 8 (l.data.toNat / 2 ^ (8 * a)) else memByte s.mem (128 * l.line + a)) ∧
    ∀ a, a < 128 * l.line ∨ 128 * l.line + 128 ≤ a → memByte t.mem a = memByte s.mem a := by
  have hbyte := memByte_bytePieces (128 * l.line) (fun i => BitVec.ofNat 8 (l.data.toNat / 2 ^ (8 * i)))
    ((List.range 128).filter l.mask.getLsbD) s.mem hs
  rw [putPieces_mem, txPieces] at h
  rw [h]
  refine ⟨fun a ha => ?_, fun a ha => ?_⟩
  · rw [hbyte, Nat.add_sub_cancel_left]
    simp [ha]
  · rw [hbyte, if_neg]
    rw [List.mem_filter, List.mem_range]
    omega

/-- What a commit's write of a line comes to whose record can be had. -/
theorem exec_txCommitWrite {s t : State} {k n st data : Nat} {g : Grp} {x : Tx} {l : TxLine} (hf : s.pkg.frozen = false)
    (h : Preparing s k g x) (hstamp : x.stamp = some st) (hl : x.lines.find? (fun l => l.line == n) = some l)
    (htodo : x.towrite.contains n = true)
    (hw : pumpWrites (freeLine s n) (.vf (ctxVf g.ctx)) true l.cmp (128 * n) (txPieces l) none (some st) = .done t data) :
    exec (.txCommitWrite k n) s = .next (putTx (countWrite s t (ctxVf g.ctx) (128 * n) l.cmp true (l.mask != BitVec.allOnes 128)) k
      { x with towrite := x.towrite.filter (· != n) }) := by
  refine (event_running hf).trans (congrArg _ ?_)
  rw [onPreparing_of h]
  simp only [hstamp, hl, htodo, hw, Bool.not_true, Bool.false_eq_true, if_false]

theorem commitWrite_holds {s : State} {k n st d o : Nat} {g : Grp} {x : Tx} {l : TxLine} (h : Preparing s k g x) (hstamp : x.stamp = some st)
    (hl : x.lines.find? (fun l => l.line == n) = some l) (htodo : x.towrite.contains n = true)
    (hp : placeOf s.pkg.id (128 * n) = .well d o) (hfree : LineFree (freeLine s n) n (.vf (ctxVf g.ctx)))
    (hrec : recordFree (freeLine s n) n = true) : Leaves (.txCommitWrite k n) s fun t =>
      tabGet t.groups k = some { g with tx := { x with towrite := x.towrite.filter (· != n) } } ∧
      (lineOf t n).stamp = st ∧ (lineOf t n).lock = none ∧
      (lineOf t n).older = (lineOf s n).older ++
        [⟨(lineOf s n).stamp, lineData s n, recordSeal s (n / 2 ^ 32 % 8) (.vf (ctxVf g.ctx)) (lineData s n), 0⟩] ∧
      (MemInv s → (∀ a, a < 128 → memByte t.mem (128 * n + a) =
        if l.mask.getLsbD a then BitVec.ofNat 8 (l.data.toNat / 2 ^ (8 * a)) else memByte s.mem (128 * n + a)) ∧
      ∀ a, a < 128 * n ∨ 128 * n + 128 ≤ a → memByte t.mem a = memByte s.mem a) := by
  intro hf
  have hline : l.line = n := by simpa using List.find?_some hl
  have hn : 128 * n / 128 = n := Nat.mul_div_cancel_left n (by decide)
  have hlock : (lineOf (freeLine s n) n).lock = none := by rw [lineOf_freeLine]
  have hw := pumpWrites_version (s := freeLine s n) (pa := 128 * n) hp (by rw [hn]; exact hfree) (by rw [hn]; exact hlock)
    (by rw [hn]; exact hrec) l.cmp (txPieces l) none (some st)
  rw [hn, Option.getD_some] at hw
  have hv := versionWritten (freeLine s n) (.vf (ctxVf g.ctx)) n st (txPieces l) l.cmp
  refine ⟨_, exec_txCommitWrite hf h hstamp hl htodo hw, ?_⟩
  generalize sealLine _ n (.vf (ctxVf g.ctx)) l.cmp false = u at hv
  have hfol := (wakePieces_woken u (txPieces l)).followed.trans
    (countWrite_counted s (wakePieces u (txPieces l)) (ctxVf g.ctx) (128 * n) l.cmp true (l.mask != BitVec.allOnes 128)).followed
  generalize countWrite s _ _ _ _ _ _ = w at hfol
  have hgroups : w.groups = s.groups := hfol.groups.trans (by rw [hv.rest]; rfl)
  rw [putTx_of (g := g) (by rw [hgroups]; exact h.1)]
  obtain ⟨hst, hlk, hold⟩ := hv.versions (u := setGroup w k { g with tx := { x with towrite := x.towrite.filter (· != n) } }) hfol.lines
  refine ⟨tabGet_put_same _ _ _, hst, hlk.trans hlock, ?_, fun hs => ?_⟩
  · rw [hold, versionedLine, lineOf_freeLine, recordSeal_freeLine]
    rfl
  · subst hline
    exact memByte_txPieces (s := s) (hfol.mem.trans (hv.mem.trans (by rw [putPieces_mem, putPieces_mem]; rfl))) hs

/-! TX_COMMIT_ACK and LOCK_RELEASE (R149, R153, R154). -/

theorem exec_txCommitAck {s : State} {k n : Nat} {g : Grp} {x : Tx} (hf : s.pkg.frozen = false) (h : Preparing s k g x)
    (hstamp : x.stamp.isSome = true) (hasked : x.asked.contains n = true) (hnew : x.acked.contains n = false)
    (hdone : (x.towrite.any fun l => pumpOf (128 * l) == n) = false) :
    exec (.txCommitAck k n) s = .next (
      if x.acked.length + 1 < x.asked.length then putTx s k { x with acked := x.acked ++ [n] } else finishTxc s k 0 true) := by
  refine (event_running hf).trans (congrArg _ ?_)
  rw [onPreparing_of h]
  have hno : x.stamp.isNone = false := by rw [Option.isNone_eq_false_iff]; exact hstamp
  simp only [hno, hasked, hnew, hdone, Bool.not_true, Bool.or_self, Bool.false_eq_true, if_false, List.length_append, List.length_singleton]

/-- A transaction's locks go, and with each a record of its die; nothing else of the lines changes (R153). -/
theorem txUnlock_lines (s : State) (k : Nat) :
    txUnlock s k = { s with lines := { s.lines with lines := (txUnlock s k).lines.lines }, dies := (txUnlock s k).dies } ∧
    (txUnlock s k).lines.lines = tabMap s.lines.lines fun _ l => if l.lock.any (fun x => x.1 == k) then { l with lock := none } else l := by
  have hdies : ∀ (ls : List Nat) (t : State), ∃ ds,
      ls.foldl (fun t l => updDie t (l / 2 ^ 32 % 8) fun d => { d with poolUsed := d.poolUsed - 1 }) t = { t with dies := ds } := by
    intro ls
    induction ls with
    | nil => exact fun t => ⟨t.dies, rfl⟩
    | cons l ls ih => exact fun t => (ih _).imp fun ds e => e
  obtain ⟨ds, e⟩ := hdies (tabKeys s.lines.lines fun _ l => l.lock.any fun x => x.1 == k) s
  rw [txUnlock, e]
  exact ⟨rfl, rfl⟩

theorem exec_lockRelease {s : State} {k : Nat} (hf : s.pkg.frozen = false)
    (h : ∀ g, tabGet s.groups k = some g → g.tx.state ≠ .preparing) : exec (.lockRelease k) s = .next (txUnlock s k) := by
  refine (event_running hf).trans (congrArg _ (if_neg ?_))
  rw [Option.any_eq_true]
  exact fun ⟨g, hg, hst⟩ => h g hg (beq_iff_eq.mp hst)

theorem commits_holds (s : State) (k n : Nat) : commits s k n := by
  refine ⟨fun g x l st d o h hstamp hl htodo hp hreenc hclear hseal hpoison hminor hrec =>
      commitWrite_holds h hstamp hl htodo hp (lineFree_freeLine hreenc hclear hseal hpoison hminor) hrec,
    fun g x h hstamp hasked hnew hdone => ⟨fun hmore hf => ⟨_, exec_txCommitAck hf h hstamp hasked hnew hdone, ?_⟩,
      fun hlast hf => ⟨_, exec_txCommitAck hf h hstamp hasked hnew hdone, ?_⟩⟩,
    fun h hf => ⟨_, exec_lockRelease hf h, ?_⟩⟩
  · rw [if_pos hmore]
    exact onlyTx_putTx h.1 rfl _
  · rw [if_neg (Nat.not_lt.mpr hlast)]
    exact finishTxc_ends h.1 0 true
  · obtain ⟨hrest, hlines⟩ := txUnlock_lines s k
    refine ⟨hrest, fun m l hl => ?_⟩
    rw [hlines, tabGet_map, hl, Option.map_some]
    obtain ⟨tag, minor, stamp, older, lock, sl, bad⟩ := l
    cases lock with
    | none => rfl
    | some y => by_cases hy : y.1 = k <;> simp [hy]

/-! LWM_RECOMPUTE (R155, R156). -/

/-- Of a line's older versions those stay whose next newer version lies above the mark: each is paired with the stamp of the
next (R156). -/
theorem keepVersions_zip (lwm newest : Nat) (vs : List Version) :
    keepVersions lwm newest vs = ((vs.zip ((vs.map (·.stamp)).tail ++ [newest])).filter fun v => decide (lwm < v.2)).map (·.1) := by
  induction vs with
  | nil => rfl
  | cons v vs ih =>
    cases vs with
    | nil => by_cases h : newest ≤ lwm <;> simp [keepVersions, h, Nat.not_lt.mpr, Nat.not_le.mp]
    | cons w vs =>
      rw [keepVersions, ih]
      by_cases h : w.stamp ≤ lwm <;> simp [h, Nat.not_lt.mpr, Nat.not_le.mp]

/-- A line of the die with its reclaimable versions gone. -/
def reclaimed (lwm : Nat) (l : Line) : Line := { l with older := keepVersions lwm l.stamp l.older }

/-- Recomputing a die's mark changes its lines, the die and profiling counts. -/
theorem exec_lwmRecompute {s : State} {d : Nat} (hf : s.pkg.frozen = false) (hd : d < 8) : ∃ t count, exec (.lwmRecompute d) s = .next t ∧
    Counted (updDie { s with lines := { s.lines with
        lines := tabMap s.lines.lines fun n l => if n / 2 ^ 32 % 8 == d then reclaimed (lowWater s) l else l } } d
      fun x => { x with lwm := lowWater s, poolUsed := x.poolUsed - count }) t := by
  have hcounts : ∀ (vfs : List Nat) (n : Nat) (u : State), Counted u
      (vfs.foldl (fun t vf => prfAdd (prfAdd (prfAdd t vf 5 d 0 0 n) vf 5 d 0 1 1) vf 5 d 0 2 1) u) := by
    intro vfs n
    induction vfs with
    | nil => exact .refl
    | cons vf vfs ih =>
      exact fun u => (((prfAdd_counted ..).trans (prfAdd_counted ..)).trans (prfAdd_counted ..)).trans (ih _)
  exact ⟨_, _, (event_running hf).trans (congrArg _ (if_neg (Nat.not_le.mpr hd))), hcounts _ _ _⟩

theorem reclaimed_reset (lwm : Nat) : reclaimed lwm Line.reset = Line.reset := rfl

theorem recomputes_holds (s : State) (d : Nat) : recomputes s d := by
  intro hd hf
  obtain ⟨t, count, hx, hc⟩ := exec_lwmRecompute hf hd
  have hlines : t.lines.lines = tabMap s.lines.lines fun n l => if n / 2 ^ 32 % 8 == d then reclaimed (lowWater s) l else l := by
    rw [hc.same]
    rfl
  have hline : ∀ n, lineOf t n = if n / 2 ^ 32 % 8 = d then reclaimed (lowWater s) (lineOf s n) else lineOf s n := fun n => by
    rw [lineOf, tabGetD, hlines, tabGet_map, lineOf, tabGetD]
    cases tabGet s.lines.lines n with
    | none => simp [reclaimed_reset]
    | some l => simp
  refine ⟨t, hx, ?_, by rw [hc.same]; rfl, by rw [hc.same]; rfl, fun n hn => ?_, fun n hn => ?_⟩
  · rw [hc.same]
    exact (congrArg Die.lwm (getDie_updDie _ d d fun x => { x with lwm := lowWater s, poolUsed := x.poolUsed - count })).trans
      (by rw [if_pos rfl])
  · rw [hline, if_pos hn]
    exact ⟨rfl, keepVersions_zip ..⟩
  · rw [hline, if_neg hn]

/-- Settles O36: a committed line is free of its own lock when it is written, so that its write finds every check passed; of each
line the versions stay that `keepVersions` keeps. -/
theorem commitWriteSteps : Obligations.CommitWriteSteps := by
  unfold Obligations.CommitWriteSteps
  exact fun s k n d => ⟨commits_holds s k n, recomputes_holds s d⟩

end Sys2Proof.Proofs.CommitWrites

namespace Sys2Proof.Proofs.Waits

open Sys2Proof Sys2Proof.Machine Sys2Proof.Claims Sys2Proof.Proofs.Device Sys2Proof.Proofs.Memory Sys2Proof.Proofs.Engines
  Sys2Proof.Proofs.Versions

/-! Values of a home's words fit their size. -/

theorem overlayBytes_lt (size m d v : Nat) : overlayBytes size m d v < 2 ^ (8 * size) := by
  unfold overlayBytes
  induction size with
  | zero => exact Nat.one_pos
  | succ n ih =>
    have hpow : 2 ^ (8 * (n + 1)) = 2 ^ (8 * n) * 256 := by rw [Nat.mul_succ, Nat.pow_add]
    have hbyte : (if m / 2 ^ n % 2 = 1 then d / 2 ^ (8 * n) % 256 else v / 2 ^ (8 * n) % 256) ≤ 255 := by split <;> omega
    rw [List.range_succ, List.foldl_append, List.foldl_cons, List.foldl_nil, hpow]
    have := Nat.mul_le_mul_right (2 ^ (8 * n)) hbyte
    omega

theorem viewNat_lt (s : State) (key : KeyId) (pa n : Nat) : viewNat s key pa n < 2 ^ (8 * n) := by
  unfold viewNat
  split
  · exact memNat_lt ..
  · exact Nat.mod_lt _ (Nat.two_pow_pos _)

theorem curNat_lt (s : State) (key : KeyId) (pa n : Nat) : curNat s key pa n < 2 ^ (8 * n) := by
  unfold curNat
  split
  · exact overlayBytes_lt ..
  · exact viewNat_lt ..

/-- A value of up to 16 bytes is the part's result as it is. -/
theorem toNat_ofNat_of_size {v n : Nat} (h : v < 2 ^ (8 * n)) (hn : n ≤ 16) : (BitVec.ofNat 128 v).toNat = v := by
  rw [BitVec.toNat_ofNat, Nat.mod_eq_of_lt (lt_of_lt_of_le h (Nat.pow_le_pow_right (by decide) (by omega)))]

/-! Wait tables (R271, R272, R372). -/

/-- The parts that name a word end with its value and a status. -/
theorem waitEnds_partDone {s : State} {acc part pa v code n : Nat} {a : Acc} {p : Part} (ha : tabGet s.accs acc = some a)
    (hp : tabGet a.parts part = some p) (hpa : p.pa = pa) (hd : p.done = false) (hh : p.hold = .no) (hv : v < 2 ^ (8 * n)) (hn : n ≤ 16)
    (hcode : code < 3) : WaitEnds (partDone s acc pa (BitVec.ofNat 128 v) code) acc part v code := by
  refine ⟨_, _, by rw [partDone, tabGet_upd, if_pos rfl, ha, Option.map_some], by rw [tabGet_map, hp, Option.map_some], ?_⟩
  have hhit : (p.pa == pa && !p.done && p.hold == .no) = true := by rw [hpa, hd, hh]; simp
  simp only [hhit, if_true]
  exact ⟨trivial, toNat_ofNat_of_size hv hn, toNat_ofNat_of_size (n := 1) (by omega) (by decide)⟩

/-- What a registration comes to (R271, R372). -/
theorem exec_waitaRegister {s : State} {acc part : Nat} {a : Acc} {p : Part} (hf : s.pkg.frozen = false) (h : Due s acc part a p)
    (hk : a.kind = .waita) (hh : p.hold = .no) (hopen : Open s p) (hnew : ∀ w ∈ s.waits, w.acc ≠ acc) :
    exec (.waitaRegister acc part) s = .next (
      let w := waitEntry s acc part a p
      let s2 := setPart s acc part p
      let answer := fun code => partDone s2 acc p.pa (BitVec.ofNat 128 (memNat s.mem p.pa p.size)) code
      if waitHolds s w then answer waWoken
      else if p.data2.toNat / 2 ^ 32 % 2 ^ 32 = 0 then answer waTimeout
      else if waitRoom p.home ≤ s.waits.countP (fun x => x.home == waitHome p.home) then answer waFull
      else { s2 with waits := s2.waits ++ [w] }) := by
  have hfirst : (s.waits.any fun w => w.acc == acc && w.pa == p.pa) = false := by
    rw [List.any_eq_false]
    intro w hw
    simp [hnew w hw]
  have hno : ({ p with hold := .no } : Part) = p := by rw [← hh]
  have hbits : bits p.data2.toNat 63 32 = p.data2.toNat / 2 ^ 32 % 2 ^ 32 := rfl
  refine (event_running hf).trans (congrArg _ ?_)
  rw [onPart_due h]
  simp only [hk, hfirst, pumpRead_open hopen.2, hno, hbits, bne_self_eq_false, Bool.or_self, Bool.false_eq_true, if_false]
  rfl

theorem register_holds {s : State} {acc part : Nat} {a : Acc} {p : Part} (h : Due s acc part a p) (hk : a.kind = .waita) (hh : p.hold = .no)
    (hopen : Open s p) (hsize : p.size ≤ 8) (hnew : ∀ w ∈ s.waits, w.acc ≠ acc) :
    let w := waitEntry s acc part a p
    let v := memNat s.mem p.pa p.size
    Leaves (.waitaRegister acc part) s fun t => t.mem = s.mem ∧ t.groups = s.groups ∧
      if waitHolds s w then WaitEnds t acc part v waWoken ∧ t.waits = s.waits
      else if p.data2.toNat / 2 ^ 32 % 2 ^ 32 = 0 then WaitEnds t acc part v waTimeout ∧ t.waits = s.waits
      else if waitRoom p.home ≤ s.waits.countP (fun x => x.home == waitHome p.home) then WaitEnds t acc part v waFull ∧ t.waits = s.waits
      else t.waits = s.waits ++ [w] := by
  intro w v hf
  refine ⟨_, exec_waitaRegister hf h hk hh hopen hnew, ?_⟩
  obtain ⟨ha, hp, hpend, -, -⟩ := h
  have hd : p.done = false := by
    simp only [partPending, Bool.and_eq_true, Bool.not_eq_true'] at hpend
    exact hpend.1
  have hends : ∀ code < 3, WaitEnds (partDone (setPart s acc part p) acc p.pa (BitVec.ofNat 128 v) code) acc part v code := fun code hcode =>
    waitEnds_partDone (setPart_get ha part p) (tabGet_put_same _ _ _) rfl hd hh (memNat_lt ..) (by omega) hcode
  dsimp only
  split_ifs
  · exact ⟨rfl, rfl, hends waWoken (by decide), rfl⟩
  · exact ⟨rfl, rfl, hends waTimeout (by decide), rfl⟩
  · exact ⟨rfl, rfl, hends waFull (by decide), rfl⟩
  · exact ⟨rfl, rfl, rfl⟩

/-- The one entry of a part whose deadline has passed is the one that a deadline finds. -/
theorem find_deadline {s : State} {acc part : Nat} {w : WaitEnt} (hw : w ∈ s.waits) (hacc : w.acc = acc) (hpart : w.part = part)
    (hdue : w.deadline ≤ s.gts) (hone : ∀ x ∈ s.waits, x.acc = acc → x.part = part → x = w) :
    s.waits.find? (fun w => w.acc == acc && w.part == part && decide (w.deadline ≤ s.gts)) = some w := by
  cases hfind : s.waits.find? (fun w => w.acc == acc && w.part == part && decide (w.deadline ≤ s.gts)) with
  | none => simpa [hacc, hpart, hdue] using List.find?_eq_none.mp hfind w hw
  | some x =>
    have hx := List.find?_some hfind
    simp only [Bool.and_eq_true, beq_iff_eq] at hx
    obtain ⟨⟨hxa, hxp⟩, -⟩ := hx
    rw [hone x (List.mem_of_find?_eq_some hfind) hxa hxp]

theorem deadline_holds {s : State} {acc part : Nat} {w : WaitEnt} {a : Acc} {p : Part} (hw : w ∈ s.waits) (hacc : w.acc = acc)
    (hpart : w.part = part) (hdue : w.deadline ≤ s.gts) (hone : ∀ x ∈ s.waits, x.acc = acc → x.part = part → x = w)
    (ha : tabGet s.accs acc = some a) (hp : tabGet a.parts part = some p) (hpa : p.pa = w.pa) (hd : p.done = false) (hh : p.hold = .no)
    (hsize : w.size ≤ 8) : Leaves (.waitaDeadline acc part) s fun t =>
      WaitEnds t acc part (curNat s p.key w.pa w.size) waTimeout ∧ t.mem = s.mem ∧ t.groups = s.groups ∧ w ∉ t.waits := by
  intro hf
  have hval : waitVal s w = curNat s p.key w.pa w.size := by
    rw [waitVal, hacc, hpart, ha, Option.bind_some, hp]
    rfl
  have hx : exec (.waitaDeadline acc part) s = .next (partDone { s with waits := s.waits.filter (fun x => x != w) } acc w.pa
      (BitVec.ofNat 128 (curNat s p.key w.pa w.size)) waTimeout) := by
    refine (event_running hf).trans (congrArg _ ?_)
    simp only [find_deadline hw hacc hpart hdue hone, hval]
  refine ⟨_, hx, waitEnds_partDone (by exact ha) hp hpa hd hh (curNat_lt ..) (by omega) (by decide), rfl, rfl, fun hmem => ?_⟩
  exact bne_iff_ne.mp (List.mem_filter.mp (show w ∈ s.waits.filter (fun x => x != w) from hmem)).2 rfl

/-- A group in WAIT one of whose paths is woken is READY (R220). -/
theorem wakePath_ready {s : State} {k : Nat} {g : Grp} (hg : tabGet s.groups k = some g) (hst : g.state = .wait) {p : WaitOn → Bool} (done : Bool)
    {q : Path} (hq : q ∈ g.paths) {r : Reason} {w : WaitOn} (hk : q.kind = .waiting r w) (hp : p w = true) :
    ∃ h, tabGet (wakePath s k p done).groups k = some h ∧ h.state = .ready := by
  unfold wakePath
  extract_lets hit f
  have hany : (allPaths g).any hit = true := List.any_eq_true.mpr ⟨q, List.mem_append_right _ hq, by simp only [hit, hk, hp]⟩
  rw [updGroup_groups, tabGet_upd, if_pos rfl, hg, Option.map_some]
  refine ⟨_, rfl, ?_⟩
  simp only [hany, hst, if_true]

/-- Whatever is woken, a group that was in WAIT is in WAIT or READY. -/
theorem wakePath_notFaultWait {s : State} {k : Nat} {g h : Grp} (hg : tabGet s.groups k = some g) (hst : g.state = .wait) {p : WaitOn → Bool}
    {done : Bool} (hh : tabGet (wakePath s k p done).groups k = some h) : h.state ≠ .faultWait := by
  unfold wakePath at hh
  extract_lets hit f at hh
  rw [updGroup_groups, tabGet_upd, if_pos rfl, hg, Option.map_some] at hh
  obtain rfl := Option.some.inj hh
  split
  · simp
  · simp [hst]

theorem endFaultWait_of_not {s : State} {k : Nat} {g : Grp} (hg : tabGet s.groups k = some g) (h : g.state ≠ .faultWait) :
    endFaultWait s k = s := by
  simp only [endFaultWait, hg, h, false_and, if_false]

/-- The group of a WAITA whose results have landed. -/
def answered (g : Grp) (a : Acc) : Grp :=
  slotFree (landCells g (((a.parts.map fun p => waitWrites g a p.2).flatten).filter fun w => !a.cancel.contains w.cell)) a.slot

theorem answered_rest (g : Grp) (a : Acc) : (answered g a).state = g.state ∧ (answered g a).paths = g.paths ∧ (answered g a).ctx = g.ctx := by
  unfold answered
  obtain ⟨v, x, p, o, q, e⟩ := landCells_rest g (((a.parts.map fun p => waitWrites g a p.2).flatten).filter fun w => !a.cancel.contains w.cell)
  obtain ⟨b, e'⟩ := slotFree_rest (landCells g (((a.parts.map fun p => waitWrites g a p.2).flatten).filter fun w => !a.cancel.contains w.cell)) a.slot
  rw [e', e]
  exact ⟨rfl, rfl, rfl⟩

theorem wake_holds {s : State} {acc : Nat} {a : Acc} {g : Grp} (ha : tabGet s.accs acc = some a) (hk : a.kind = .waita)
    (hall : a.parts.all (·.2.done) = true) (hg : tabGet s.groups a.grp = some g) (hser : g.serial = a.gser) (hacq : a.acq = false)
    (hst : g.state = .wait) : Leaves (.waitaWake acc) s fun t => tabGet t.accs acc = none ∧ t.mem = s.mem ∧
      ∃ h, tabGet t.groups a.grp = some h ∧
        ∀ q ∈ g.paths, (q.kind = .waiting .address (.address acc) →
          h.state = .ready ∧ { q with kind := .runnable, pc := q.pc + 1, fall := fallsOff s g.ctx q.pc, bump := q.bump + 1 } ∈ h.paths) := by
  intro hf
  have hx : exec (.waitaWake acc) s = .next (endFaultWait
      (wakePath (setGroup { s with accs := tabDel s.accs acc } a.grp (answered g a)) a.grp (· == .address acc) true) a.grp) := by
    have hgrp : accGroup { s with accs := tabDel s.accs acc } a = some g := by simp [accGroup, hg, hser]
    refine (event_running hf).trans (congrArg _ ?_)
    simp only [ha, hk, allDone, hall, hgrp, hacq, bne_self_eq_false, Bool.not_true, Bool.or_self, Bool.false_and, Bool.false_eq_true, if_false]
    rfl
  obtain ⟨hstate, hpaths, hctx⟩ := answered_rest g a
  have hset : tabGet (setGroup { s with accs := tabDel s.accs acc } a.grp (answered g a)).groups a.grp = some (answered g a) :=
    tabGet_put_same _ _ _
  obtain ⟨h, hh, -, hpast⟩ := wakePath_group hset (· == .address acc) true
  rw [endFaultWait_of_not hh (wakePath_notFaultWait hset (hstate.trans hst) hh)] at hx
  refine ⟨_, hx, ?_, rfl, h, hh, fun q hq hkind => ?_⟩
  · exact (tabGet_del s.accs acc acc).trans (if_pos rfl)
  · rw [← hpaths] at hq
    obtain ⟨h', hh', hready⟩ := wakePath_ready hset (hstate.trans hst) (p := (· == .address acc)) true hq hkind (beq_self_eq_true _)
    rw [hh] at hh'
    obtain rfl := Option.some.inj hh'
    have hin := hpast rfl q hq _ _ hkind (beq_self_eq_true _)
    rw [hctx] at hin
    exact ⟨hready, hin⟩

theorem waitSteps_holds (s : State) (acc part : Nat) : waitSteps s acc part :=
  ⟨fun _ _ h hk hh hopen hsize hnew => register_holds h hk hh hopen hsize hnew,
   fun _ _ _ hw hacc hpart hdue hone ha hp hpa hd hh hsize => deadline_holds hw hacc hpart hdue hone ha hp hpa hd hh hsize,
   fun _ _ ha hk hall hg hser hacq hst => wake_holds ha hk hall hg hser hacq hst⟩

end Sys2Proof.Proofs.Waits

namespace Sys2Proof.Proofs.HeldAccesses

open Sys2Proof Sys2Proof.Machine Sys2Proof.Claims Sys2Proof.Proofs.Device Sys2Proof.Proofs.Memory Sys2Proof.Proofs.Versions
  Sys2Proof.Proofs.Waits

/-! Accesses of one part that wait at their pump for a stamp (R143). -/

/-- The bytes of a clear line that a snapshot read at a stamp returns (R142). -/
def snapValue (s : State) (pa n c : Nat) : Nat :=
  match versionAt s (pa / 128) c with
  | none => memNat s.mem pa n
  | some v => v.data.toNat / 2 ^ (8 * (pa % 128)) % 2 ^ (8 * n)

theorem snapValue_lt (s : State) (pa n c : Nat) : snapValue s pa n c < 2 ^ (8 * n) := by
  unfold snapValue
  split
  · exact memNat_lt ..
  · exact Nat.mod_lt _ (Nat.two_pow_pos _)

/-- A snapshot read of a line that is not locked is answered once the clock has passed its stamp, from the version that it
names (R142, R143). -/
theorem pumpRead_snapshot {s : State} {key : KeyId} {pa n c d o : Nat} (hp : placeOf s.pkg.id pa = .well d o) (hrekey : rekeying s key = false)
    (hclear : lineClear s (pa / 128) key = true) (hseal : sealOk s (pa / 128) key = true) (hpoison : poisoned s pa n = false)
    (hlock : (lineOf s (pa / 128)).lock = none) (hpast : c + 8 < s.gts)
    (hver : ∀ v, versionAt s (pa / 128) c = some v → versionOk s (pa / 128) key v = true ∧ v.poison = 0) :
    pumpRead s key true (some c) pa n = .done s (snapValue s pa n c) := by
  simp only [pumpRead, snapValue, hp, hrekey, hseal, hlock, Nat.not_le.mpr hpast, Option.any_none, Bool.not_true, Bool.false_eq_true, if_false]
  cases hv : versionAt s (pa / 128) c with
  | none => simp only [hpoison, viewNat, hclear, Bool.false_eq_true, if_false, if_true]
  | some v =>
    obtain ⟨hok, hclean⟩ := hver v hv
    simp [hok, hclean]

/-- Until then it waits. -/
theorem pumpRead_early {s : State} {key : KeyId} {pa n c d o : Nat} (hp : placeOf s.pkg.id pa = .well d o) (hrekey : rekeying s key = false)
    (hseal : sealOk s (pa / 128) key = true) (hearly : s.gts ≤ c + 8) : pumpRead s key true (some c) pa n = .stall s (.snap s.cycle) := by
  simp only [pumpRead, hp, hrekey, hseal, hearly, Bool.not_true, Bool.false_eq_true, if_false, if_true]

/-- A load's part whose home answers is performed with the answer. -/
theorem loadAt_answered {s : State} {acc part v : Nat} {a : Acc} {p : Part} (ha : tabGet s.accs acc = some a)
    (hr : pumpRead s p.key p.ver a.snap p.pa p.size = .done s v) (hv : v < 2 ^ (8 * p.size)) (hsize : p.size ≤ 16) (hdata : p.data2.toNat < 4) :
    PartDone (loadAt s acc part a p) acc part (some v) ∧ (loadAt s acc part a p).mem = s.mem ∧ (loadAt s acc part a p).groups = s.groups := by
  have hval : overlayBytes p.size (p.data2.toNat / 4) p.data.toNat v = v := by
    rw [Nat.div_eq_of_lt hdata, overlayBytes_zero, Nat.mod_eq_of_lt hv]
  have hcount : ∀ b : Bool, Counted s (if b then countRead s (ctxVf a.ctx) p.pa p.cmp else s) := fun b => by
    split
    · exact countRead_counted ..
    · exact .refl s
  have hfill : ∀ (b : Bool) (t : State) (x : BitVec 1024), ∃ c,
      (if b then l1Fill t a.core (ctxVf a.ctx) (p.pa / 128) x else t) = { t with cores := c } := fun b t x => by
    split
    · exact ⟨_, l1Fill_rest ..⟩
    · exact ⟨t.cores, rfl⟩
  simp only [loadAt, hr, hval]
  obtain ⟨c, hc⟩ := hfill _ _ _
  rw [hc, (hcount _).same]
  refine ⟨⟨_, _, setPart_get (by exact ha) _ _, tabGet_put_same _ _ _, rfl, rfl, ?_⟩, rfl, rfl⟩
  rintro x ⟨⟩
  exact toNat_ofNat_of_size hv hsize

theorem loadAt_stalled {s : State} {acc part : Nat} {a : Acc} {p : Part} {h : Hold} (hr : pumpRead s p.key p.ver a.snap p.pa p.size = .stall s h)
    (hh : keepHold p.hold h = p.hold) : loadAt s acc part a p = setPart s acc part p := by
  simp only [loadAt, hr, hh]

theorem partDone_counted {t u : State} {acc part : Nat} {r : Option Nat} (h : PartDone t acc part r) (hc : Counted t u) : PartDone u acc part r := by
  rw [hc.same]
  exact h

/-- What the end of a snapshot wait comes to for an access of one part: an attempt to read, and profiling counts. -/
theorem exec_snapshotWaitEnd {s : State} {acc part c : Nat} {a : Acc} {p : Part} (hf : s.pkg.frozen = false) (ha : tabGet s.accs acc = some a)
    (hparts : a.parts = [(part, p)]) (hd : p.done = false) (hh : p.hold = .snap c) (hk : isLoad a.kind = true) :
    ∃ t, exec (.snapshotWaitEnd acc) s = .next t ∧ Counted (loadAt s acc part a p) t := by
  have hpend : partPending p = true := by rw [partPending, hd, hh]; rfl
  refine ⟨_, event_running hf, ?_⟩
  simp only [ha, hparts, List.foldl_cons, List.foldl_nil, hh, hk, hpend, Bool.and_self, if_true]
  split
  · exact pumpCount_counted ..
  · exact .refl _

/-! Stores that wait for a version record (R157). -/

theorem poolParts_one {a : Acc} {part c : Nat} {p : Part} (hparts : a.parts = [(part, p)]) (hd : p.done = false) (hh : p.hold = .pool c) :
    poolParts a = [(part, p)] := by
  simp [poolParts, hparts, hd, hh]

theorem lineGroup_one {a : Acc} {part : Nat} {p : Part} (hparts : a.parts = [(part, p)]) (hpend : partPending p = true) :
    lineGroup a (p.pa / 128) = [(part, p)] := by
  simp [lineGroup, hparts, hpend]

/-- A waiting store that can have its record writes its bytes as the line's new version (R141, R157). -/
theorem storeAt_version {s : State} {acc part d o : Nat} {a : Acc} {p : Part} (ha : tabGet s.accs acc = some a)
    (hp : tabGet a.parts part = some p) (hver : p.ver = true) (hwell : placeOf s.pkg.id p.pa = .well d o) (hfree : LineFree s (p.pa / 128) p.key)
    (hlock : (lineOf s (p.pa / 128)).lock = none) (hrec : recordFree s (p.pa / 128) = true) :
    PartDone (storeAt s acc a [(part, p)]) acc part none ∧ Wrote s (storeAt s acc a [(part, p)]) p.pa p.size p.data.toNat ∧
      (storeAt s acc a [(part, p)]).groups = s.groups ∧ (lineOf (storeAt s acc a [(part, p)]) (p.pa / 128)).older =
        (lineOf s (p.pa / 128)).older ++ [⟨(lineOf s (p.pa / 128)).stamp, lineData s (p.pa / 128),
          recordSeal s (p.pa / 128 / 2 ^ 32 % 8) p.key (lineData s (p.pa / 128)), 0⟩] := by
  have hw := pumpWrites_version hwell hfree hlock hrec p.cmp (groupPieces [(part, p)]) none none
  rw [← hver] at hw
  obtain ⟨hfol, hdone⟩ := storeAt_done (a := a) (acc := acc) hw
  have hv := versionWritten s p.key (p.pa / 128) (Option.getD none (max s.gts ((lineOf s (p.pa / 128)).stamp + 1))) (groupPieces [(part, p)]) p.cmp
  obtain ⟨-, -, hold⟩ := hv.versions hfol.lines
  refine ⟨hdone _ List.mem_cons_self ?_, wrote_of_mem (hfol.mem.trans hv.mem), hfol.groups.trans ?_, hold⟩
  · rw [hv.rest]
    exact ⟨a, p, ha, hp⟩
  · rw [hv.rest]

/-! The fault of a store that has waited too long (R157, R183). -/

/-- An access has ended, and neither memory nor a context has changed. -/
structure Dropped (s t : State) (acc : Nat) : Prop where
  gone : tabGet t.accs acc = none
  mem : t.mem = s.mem
  ctxs : t.ctxs = s.ctxs

theorem drainDone_dropped {s t : State} {acc : Nat} (h : Dropped s t acc) (id : Nat) : Dropped s (drainDone t id) acc := by
  unfold drainDone
  extract_lets t1
  have h1 : Dropped s t1 acc := by
    have hmap : t1.accs = tabMap t.accs fun _ (a : Acc) => if a.kind == .drain then { a with after := a.after.filter (· != id) } else a := rfl
    exact ⟨by rw [hmap, tabGet_map, h.gone, Option.map_none], h.mem, h.ctxs⟩
  generalize t1.accs.filter _ = l
  generalize t1 = u at h1 ⊢
  induction l generalizing u with
  | nil => exact h1
  | cons x l ih =>
    refine ih _ ⟨(tabGet_del ..).trans ?_, h1.mem, h1.ctxs⟩
    split
    · rfl
    · exact h1.gone

/-- The state once an access that is no prefetch has failed and its slot and paths are released, before the drains that wait for it (R362). -/
def accEnded (s : State) (acc : Nat) (a : Acc) : State :=
  wakePath (updAccGroup { s with accs := tabDel s.accs acc, waits := s.waits.filter fun w => w.acc != acc } a
    fun g => { slotFree g a.slot with faultPc := some a.pc }) a.grp (· == .address acc) false

theorem accEnded_dropped (s : State) (acc : Nat) (a : Acc) : Dropped s (accEnded s acc a) acc :=
  ⟨(tabGet_del s.accs acc acc).trans (if_pos rfl), rfl, rfl⟩

/-- An access of a group that fails for a cause that is not INTEGRITY ends, and its context's halt line rises (R362). -/
theorem failAcc_rises {s : State} {acc : Nat} {a : Acc} (ha : tabGet s.accs acc = some a) (hk : a.kind ≠ .pref) {cause : Nat}
    (hi : cause ≠ fcIntegrity) (key : KeyId) (pa va : Nat) : failAcc s acc key pa cause va =
      haltRise (drainDone (accEnded s acc a) acc) a.ctx cause (groupUnit a.grp) ((accGroup s a).elim 0 gidOf) va true := by
  simp only [failAcc, ha, hk, hi, if_false]
  rfl

theorem txHalts_accs (l : List Nat) (s : State) : (l.foldl txHalt s).accs = s.accs := by
  induction l generalizing s with
  | nil => rfl
  | cons k l ih =>
    obtain ⟨gs, ls, ds, e, -, -⟩ := txHalt_rest s k
    rw [List.foldl_cons, ih, e]

theorem withdrawHeld_gone {s : State} {acc : Nat} (h : tabGet s.accs acc = none) (ck : Nat) : tabGet (withdrawHeld s ck).accs acc = none := by
  have haccs : (withdrawHeld s ck).accs = tabMap s.accs fun _ a =>
      if a.ctx == ck then { a with parts := tabMap a.parts fun _ p => { p with hold := withdrawnPart s p } } else a := rfl
  rw [haccs, tabGet_map, h, Option.map_none]

/-- No access comes to be when a halt line rises. -/
theorem haltRise_gone {s : State} {ck acc : Nat} {c : Ctx} (hc : tabGet s.ctxs ck = some c) (hs : c.state = .running)
    (h : tabGet s.accs acc = none) (cause : Nat) (unit : UnitId) (gid addr : Nat) (own : Bool) :
    tabGet (haltRise s ck cause unit gid addr own).accs acc = none := by
  simp only [haltRise, hc, hs]
  rw [txHalts_accs]
  refine withdrawHeld_gone ?_ ck
  simp only [haltCause, updVf_accs, setCtx_accs, updPart_accs, h]

/-- The failure of an access halts its RUNNING context with the cause, and the access is gone (R183). -/
theorem failAcc_halts {s : State} {acc : Nat} {a : Acc} {x : Ctx} (ha : tabGet s.accs acc = some a) (hk : a.kind ≠ .pref) {cause : Nat}
    (hi : cause ≠ fcIntegrity) (hx : tabGet s.ctxs a.ctx = some x) (hs : x.state = .running) (key : KeyId) (pa va : Nat) :
    tabGet (failAcc s acc key pa cause va).accs acc = none ∧ (failAcc s acc key pa cause va).mem = s.mem ∧
      ∃ y, tabGet (failAcc s acc key pa cause va).ctxs a.ctx = some y ∧ y.state = .halting ∧ y.cause = cause := by
  have hdrop := drainDone_dropped (accEnded_dropped s acc a) acc
  have hxt : tabGet (drainDone (accEnded s acc a) acc).ctxs a.ctx = some x := by rw [hdrop.ctxs, hx]
  obtain ⟨hline, hmark⟩ := haltRise_running hxt (.inl hs) cause (groupUnit a.grp) ((accGroup s a).elim 0 gidOf) va true
  rw [failAcc_rises ha hk hi]
  refine ⟨haltRise_gone hxt hs hdrop.gone .., hline.mem.trans hdrop.mem, ?_⟩
  have hm := hmark a.ctx
  rw [if_pos rfl] at hm
  obtain ⟨y, hy, e⟩ := Option.map_eq_some_iff.mp hm
  exact ⟨y, hy, (Prod.mk.inj e).1, (Prod.mk.inj e).2⟩

theorem exec_poolWaitEnd {s : State} {acc part c : Nat} {a : Acc} {p : Part} (hf : s.pkg.frozen = false) (ha : tabGet s.accs acc = some a)
    (hparts : a.parts = [(part, p)]) (hd : p.done = false) (hh : p.hold = .pool c) (hk : isStore a.kind = true) :
    exec (.poolWaitEnd acc) s = .next (if recordFree s (p.pa / 128) then storeAt s acc a [(part, p)] else s) := by
  have hpend : partPending p = true := by rw [partPending, hd, hh]; rfl
  refine (event_running hf).trans (congrArg _ ?_)
  simp only [ha, poolParts_one hparts hd hh, List.find?_cons, List.find?_nil]
  cases recordFree s (p.pa / 128) with
  | false => rfl
  | true => simp only [hk, lineGroup_one hparts hpend, if_true]

theorem exec_poolWaitTimeout {s : State} {acc part c : Nat} {a : Acc} {p : Part} (hf : s.pkg.frozen = false) (ha : tabGet s.accs acc = some a)
    (hparts : a.parts = [(part, p)]) (hd : p.done = false) (hh : p.hold = .pool c) (hrec : recordFree s (p.pa / 128) = false)
    (hold : c + 65536 ≤ s.cycle) : exec (.poolWaitTimeout acc) s = .next (failAcc s acc p.key p.pa fcVersionPool p.va) := by
  refine (event_running hf).trans (congrArg _ ?_)
  simp only [ha, poolParts_one hparts hd hh, List.find?_cons, hrec, hh, hold, decide_true, Bool.not_false, Bool.and_self]

theorem holdSteps_holds (s : State) (acc part : Nat) : holdSteps s acc part := by
  intro a p c ha hparts hd hsize _ ⟨d, o, hwell⟩ hrekey hclear hseal hpoisonLine hpoison
  have hget : tabGet a.parts part = some p := by rw [hparts]; exact if_pos rfl
  refine ⟨fun n hh hk hsnap hver hdata hlock => ⟨fun hpast hok hf => ?_, fun hearly hf => ?_⟩,
    fun hh hk hver hlock hreenc hminor _ => ⟨fun hrec hf => ?_, fun hrec hf => ?_, fun hrec hold x hx hs hf => ?_⟩⟩
  · obtain ⟨t, hx, hc⟩ := exec_snapshotWaitEnd hf ha hparts hd hh hk
    have hread := pumpRead_snapshot hwell hrekey hclear hseal hpoison hlock hpast hok
    rw [← hver, ← hsnap] at hread
    obtain ⟨hdone, hmem, hgroups⟩ := loadAt_answered (part := part) ha hread (snapValue_lt ..) hsize hdata
    exact ⟨t, hx, by rw [hc.same]; exact hmem, by rw [hc.same]; exact hgroups, partDone_counted hdone hc⟩
  · obtain ⟨t, hx, hc⟩ := exec_snapshotWaitEnd hf ha hparts hd hh hk
    have hread := pumpRead_early (n := p.size) hwell hrekey hseal hearly
    rw [← hver, ← hsnap] at hread
    rw [loadAt_stalled hread (by rw [hh]; rfl)] at hc
    refine ⟨t, hx, by rw [hc.same]; rfl, by rw [hc.same]; rfl, { a with parts := tabPut a.parts part p }, by rw [hc.same]; exact setPart_get ha part p, ?_⟩
    rw [hparts]
    simp [tabPut]
  · refine ⟨_, exec_poolWaitEnd hf ha hparts hd hh hk, ?_⟩
    have hcommit : commitLine s (p.pa / 128) = none := by rw [commitLine, hlock]
    rw [if_pos hrec]
    exact storeAt_version ha hget hver hwell ⟨hrekey, hreenc, hclear, hseal, hminor, hcommit, hpoisonLine⟩ hlock hrec
  · rw [exec_poolWaitEnd hf ha hparts hd hh hk, hrec]
    rfl
  · have hpref : a.kind ≠ .pref := fun e => by rw [e] at hk; cases hk
    exact ⟨_, exec_poolWaitTimeout hf ha hparts hd hh hrec hold, failAcc_halts ha hpref (by decide) hx hs ..⟩

/-- Settles O34: a wait's word is read at an open place, and its status follows the order of R271 and R372; a held load or store
of one part tries again at its pump. The record's own counter is the model's (log 75). -/
theorem waitTableAndHeldAccesses : Obligations.WaitTableAndHeldAccesses := by
  unfold Obligations.WaitTableAndHeldAccesses
  exact fun s acc part => ⟨waitSteps_holds s acc part, holdSteps_holds s acc part⟩

end Sys2Proof.Proofs.HeldAccesses

namespace Sys2Proof.Proofs.Transactions

open Sys2Proof Sys2Proof.Machine Sys2Proof.Claims
open Sys2Proof.Proofs.Batches

/-! Issues of TXB, TXC, TXA, SNAPPIN and SNAPREL (R146, R147, R149, R375, R376): the ends they can have. -/

theorem slotUp_shape (g : Grp) (slot : Option Nat) : SameShape g (slotUp g slot) := by
  cases slot <;> exact ⟨rfl, rfl, rfl⟩

theorem awaits_shape (s : State) (g : Grp) (slot : Option Nat) (ws : List RegW) : SameShape g (awaits s g slot ws) := by
  obtain ⟨hp, ht, hc⟩ := slotUp_shape g slot
  exact ⟨hp, ht, hc⟩

/-- The instruction counts its own slot and goes on to the next one, from what its own effect leaves beside its group. -/
theorem countedDone {i : Instr} {h : Hdr} {s base : State} {k : Nat} {g G : Grp} {body} {f : Fields}
    (hd : headOf i s = some (k, g)) (hf : fields i = some f) (hh : f.hdr = h) (hn : noHalt g = true)
    (he : exec i s = issue i howMem body s)
    (hb : body (setGroup s k g) k g (envOf s g h) = .ok (setGroup (setGroup base k g) k G) Notes.nil) (hsh : SameShape g G) :
    ∃ t, exec i s = .next t ∧ Done base t k g (goesOn s G h) Notes.nil := by
  subst hh
  obtain ⟨hp, ht, hc⟩ := hsh
  obtain ⟨t, hx, hdn⟩ := issue_done (how := howMem) (G := G) hd hf hn rfl hb (tabGet_put_same _ _ _) hp ht hc
  refine ⟨t, he.trans hx, done_of hdn rfl (fun j hj => ?_) fun _ => rfl⟩
  simp [tabGet_put_other _ _ (Ne.symm hj)]

/-- A variable-latency result is named by the state's serial number (R232). -/
theorem sendResult_var {s base : State} {k : Nat} {g G : Grp} {slot : Option Nat} {ws : List RegW} (hser : base.serial = s.serial) :
    sendResult (setGroup base k g) k G .var slot ws =
      setGroup (setGroup { base with serial := s.serial + 1 } k g) k (awaits s G slot ws) := by
  simp only [sendResult, fresh_fst, fresh_snd, setGroup_serial, hser]
  rfl

/-- The instruction goes on to the next one, with a variable-latency result on its way. -/
theorem awaitsDone {i : Instr} {h : Hdr} {s base : State} {k : Nat} {g G : Grp} {ws : List RegW} {body} {f : Fields}
    (hd : headOf i s = some (k, g)) (hf : fields i = some f) (hh : f.hdr = h) (hn : noHalt g = true)
    (he : exec i s = issue i howMem body s)
    (hb : body (setGroup s k g) k g (envOf s g h) = .ok (sendResult (setGroup base k g) k G .var (hdrSlot h) ws) Notes.nil)
    (hser : base.serial = s.serial) (hsh : SameShape g G) :
    ∃ t, exec i s = .next t ∧ Done { base with serial := s.serial + 1 } t k g (goesOn s (awaits s G (hdrSlot h) ws) h) Notes.nil := by
  rw [sendResult_var hser] at hb
  exact countedDone hd hf hh hn he hb (hsh.trans (awaits_shape s G _ ws))

/-! The acquire of TXB (R96, R149). -/

/-- An acquire leaves no line of the VF in the core's L1, and changes no more of the cores. -/
theorem acquireL1_pkg_lines (s : State) (k vf : Nat) :
    OnlyL1 s (acquireL1 s k vf .pkg) k ∧ ∀ l ∈ (getCore (acquireL1 s k vf .pkg) (coreOf k)).l1, l.vf ≠ vf := by
  have hget : ∀ c, getCore (acquireL1 s k vf .pkg) c =
      if coreOf k = c then { getCore s (coreOf k) with l1 := (getCore s (coreOf k)).l1.filter fun l => l.vf != vf } else getCore s c :=
    fun c => getCore_updCore _ _ _ _
  refine ⟨⟨fun c hc => ?_, ?_⟩, fun l hl => ?_⟩
  · rw [hget, if_neg (Ne.symm hc)]
  · rw [hget, if_pos rfl]
  · rw [hget, if_pos rfl] at hl
    simpa using (List.mem_filter.mp hl).2

/-- The instruction goes on to the next one, and is an acquire at .pkg. -/
theorem acquireDone {i : Instr} {h : Hdr} {s : State} {k vf : Nat} {g G : Grp} {body} {f : Fields}
    (hd : headOf i s = some (k, g)) (hf : fields i = some f) (hh : f.hdr = h) (hn : noHalt g = true)
    (he : exec i s = issue i howPlain body s)
    (hb : body (setGroup s k g) k g (envOf s g h) = .ok (acquireL1 (setGroup (fresh (setGroup s k g)).2 k G) k vf .pkg) Notes.nil)
    (hsh : SameShape g G) :
    ∃ t, exec i s = .next t ∧ OnlyL1 s t k ∧ (∀ l ∈ (getCore t (coreOf k)).l1, l.vf ≠ vf) ∧
      Done { s with cores := t.cores, accs := noFills s (coreOf k) vf, serial := s.serial + 1 } t k g
        (goesOn s (marksSlot s G h) h) Notes.nil := by
  obtain ⟨t, ht, hdn⟩ := plainDone (base := acquireL1 (fresh s).2 k vf .pkg) hd hf hh hn he hb hsh
  have hcores : t.cores = (acquireL1 (fresh s).2 k vf .pkg).cores := by rw [hdn.rest.same]
  have hget : ∀ c, getCore t c = getCore (acquireL1 (fresh s).2 k vf .pkg) c := fun c => by simp only [getCore, hcores]
  obtain ⟨⟨hother, hown⟩, hlines⟩ := acquireL1_pkg_lines (fresh s).2 k vf
  refine ⟨t, ht, ⟨fun c hc => ?_, ?_⟩, ?_, ?_⟩
  · rw [hget]
    exact hother c hc
  · rw [hget]
    exact hown
  · rwa [hget]
  · rw [hcores]
    exact hdn

/-! Transactions (R149, R375). -/

theorem txDoom_open {x : Tx} (h : x.state = .open) (c : Nat) : txDoom x c = { x with state := .doomed, doom := c } := if_pos h

theorem txDoom_doomed {x : Tx} (h : x.state = .doomed) (c : Nat) : txDoom x c = x := if_neg (by simp [h])

/-- A TXC's predicate is a variable-latency result of its Active threads. -/
theorem txcResult_pred (s : State) (k : Nat) (g G : Grp) (e : Env) (i : BitVec 3) (slot : Option Nat) (p : Bool) :
    txcResult (setGroup (setGroup s k g) k G) k e (.p i) slot p =
      sendResult (setGroup s k g) k G .var slot ((activeThreads e).map fun j => ⟨.p i.toNat j, if p then 1 else 0⟩) := by
  simp only [txcResult, bitVal, sendResult, fresh_fst, fresh_snd, setGroup, tabGet_put_same, tabPut_put]

/-- A TXC that sends its predicate and leaves its transaction as `y`. -/
theorem txcDone {w : RWord MemM} {s : State} {k : Nat} {g : Grp} {y : Tx} {i : BitVec 3} {p : Bool} {body}
    (hd : headOf (.txc w) s = some (k, g)) (hn : noHalt g = true) (he : exec (.txc w) s = issue (.txc w) howMem body s) (hp : w.d = .p i)
    (hb : body (setGroup s k g) k g (envOf s g w.hdr) =
      .ok (txcResult (setGroup (setGroup s k g) k (unmark { g with tx := y })) k (envOf s g w.hdr) w.d (hdrSlot w.hdr) p) Notes.nil) :
    ∃ t, exec (.txc w) s = .next t ∧ Done { s with serial := s.serial + 1 } t k g
      (goesOn s (awaits s (unmark { g with tx := y }) (hdrSlot w.hdr)
        ((activeThreads (envOf s g w.hdr)).map fun j => ⟨.p i.toNat j, if p then 1 else 0⟩)) w.hdr) Notes.nil := by
  rw [hp, txcResult_pred] at hb
  exact awaitsDone hd rfl rfl hn he hb rfl ⟨rfl, rfl, rfl⟩

/-- TXB, TXC and TXA: each row of R149's table is one of the ends above. -/
theorem transactions_holds (w : RWord MemM) : transactions w := by
  refine ⟨fun _ s k g hd hn => ?txb, fun _ s k g hd hn => ?txc, fun _ s k g hd hn => ?txa⟩
  case txb =>
    have he := execTxb.eq_1 w s
    refine ⟨fun hact => ?_, fun hact hheld => ?_, fun hact hfree => ⟨fun hst => ?_, fun hst hdep => ?_, fun hst hdep => ?_,
      fun hst hdep hex => ?_, fun hst hdep hex => ?_⟩⟩
    · refine turns hd rfl rfl hn he ?_ rfl rfl rfl rfl
      simp only [hact, if_true, setGroup, tabPut_put]
    · refine holds hd rfl rfl he ?_
      simp only [hact, hheld, if_false, if_true]
    · refine acquireDone hd rfl rfl hn he ?_ ⟨rfl, rfl, rfl⟩
      simp only [hact, hfree, hst, reduceCtorEq, false_and, if_false, if_true, Bool.false_eq_true]
      rfl
    · have hopen : g.tx.state ≠ .none := by rcases hst with h | h <;> simp [h]
      refine acquireDone hd rfl rfl hn he ?_ ⟨rfl, rfl, rfl⟩
      simp only [hact, hfree, hopen, hdep, Nat.ne_of_lt hdep, false_and, and_false, if_false, if_true, Bool.false_eq_true]
    · refine acquireDone hd rfl rfl hn he ?_ ⟨rfl, rfl, rfl⟩
      simp only [hact, hfree, hst, Nat.not_lt.mpr hdep, txDoom_open hst, reduceCtorEq, false_and, if_false, Bool.false_eq_true]
    · refine acquireDone hd rfl rfl hn he ?_ ⟨rfl, rfl, rfl⟩
      simp only [hact, hfree, hst, hdep, Nat.ne_of_lt hex, txDoom_doomed hst, Nat.lt_irrefl, reduceCtorEq, and_false, if_false,
        Bool.false_eq_true]
    · refine traps hd rfl rfl he ?_
      simp only [hact, hfree, hst, hdep, hex, and_self, if_false, if_true, Bool.false_eq_true]
  case txc =>
    have he := execTxc.eq_1 w s
    refine ⟨fun hact hheld => ?_, fun hact hfree i hp => ⟨fun hst => ?_, fun hst hex => ?_, fun hst hdep => ?_, fun hst hex hdep => ?_,
      fun hst hdep hnil => ?_, fun hst hdep hlines => ?_⟩⟩
    · refine holds hd rfl rfl he ?_
      simp only [hact, hheld, if_false, if_true]
    · refine txcDone hd hn he hp ?_
      simp only [hact, hfree, hst, if_false, if_true, Bool.false_eq_true]
    · refine txcDone hd hn he hp ?_
      simp only [hact, hfree, hst, hex, reduceCtorEq, and_self, if_false, if_true, Bool.false_eq_true]
    · refine txcDone hd hn he hp ?_
      have hsome : g.tx.state ≠ .none := by rcases hst with h | ⟨h, _⟩ <;> simp [h]
      have hin : ¬ (g.tx.state = .doomed ∧ 0 < g.tx.excess) := by rcases hst with h | ⟨_, h⟩ <;> simp [h]
      simp only [hact, hfree, hsome, hin, hdep, if_false, if_true, Bool.false_eq_true]
    · refine txcDone hd hn he hp ?_
      simp only [hact, hfree, hst, hex, Nat.not_lt.mpr hdep, Nat.lt_irrefl, reduceCtorEq, and_false, if_false, if_true, Bool.false_eq_true]
      rfl
    · refine txcDone hd hn he hp ?_
      simp only [hact, hfree, hst, hnil, Nat.not_lt.mpr hdep, List.isEmpty_nil, reduceCtorEq, false_and, if_false, if_true, Bool.false_eq_true]
      rfl
    · have hsome : g.tx.lines.isEmpty = false := by simpa using hlines
      refine countedDone hd rfl rfl hn he ?_ (.trans ?_ (slotUp_shape _ _))
      · simp only [hact, hfree, hst, hp, hsome, Nat.not_lt.mpr hdep, reduceCtorEq, false_and, if_false, Bool.false_eq_true]
        rfl
      · exact ⟨rfl, rfl, rfl⟩
  case txa =>
    have he := execTxa.eq_1 w s
    refine ⟨fun hact => ?_, fun hact hheld => ?_, fun hact hfree hst => ?_, fun hact hfree hst => ?_⟩
    · refine turns hd rfl rfl hn he ?_ rfl rfl rfl rfl
      simp only [hact, if_true, setGroup, tabPut_put]
    · refine holds hd rfl rfl he ?_
      simp only [hact, hheld, if_false, if_true]
    · refine turns hd rfl rfl hn he ?_ rfl rfl rfl rfl
      simp only [hact, hfree, hst, if_false, if_true, Bool.false_eq_true]
    · refine turns hd rfl rfl hn he ?_ rfl rfl rfl rfl
      simp only [hact, hfree, hst, if_false, Bool.false_eq_true]
      rfl

/-! Pins (R146, R147, R376). -/

/-- SNAPPIN and SNAPREL: the lowest FREE pin is taken, and a pin that is HELD is given back. -/
theorem pins_holds (w : RWord MemM) : pins w := by
  refine ⟨fun _ s k g hd hn => ?snappin, fun _ s k g hd hn => ?snaprel⟩
  case snappin =>
    have he := execSnappin.eq_1 w s
    refine ⟨fun hact hheld => ?_, fun hact hfree i c hs hc => ⟨fun id hid => ?_, fun hnone => ?_⟩⟩
    · refine holds hd rfl rfl he ?_
      simp only [hact, hheld, if_false, if_true]
    · refine awaitsDone hd rfl rfl hn he ?_ rfl ⟨rfl, rfl, rfl⟩
      simp only [hact, hfree, hs, setGroup_ctxs, hc, Option.bind_some, hid, updCtx, tabUpd_some hc, if_false, Bool.false_eq_true]
      rfl
    · refine awaitsDone hd rfl rfl hn he ?_ rfl ⟨rfl, rfl, rfl⟩
      simp only [hact, hfree, hs, setGroup_ctxs, hc, Option.bind_some, hnone, if_false, Bool.false_eq_true]
      rfl
  case snaprel =>
    have he := execSnaprel.eq_1 w s
    refine ⟨fun hact hbig => ?_, fun hact hid hheld => ?_, fun hact hid hfree c hc => ⟨fun p hp hst => ?_, fun hnot => ?_⟩⟩
    · refine traps hd rfl rfl he ?_
      have hact' : ((envOf s g w.hdr).act != 0) = true := bne_iff_ne.mpr hact
      simp only [hact', hbig, decide_true, Bool.or_true, Bool.and_self, if_true]
    · refine holds hd rfl rfl he ?_
      simp only [hact, hheld, Nat.not_lt.mpr hid, decide_false, Bool.and_false, Bool.false_eq_true, if_false, if_true]
    · refine plainDone hd rfl rfl hn he ?_ ⟨rfl, rfl, rfl⟩
      simp only [hact, hfree, Nat.not_lt.mpr hid, setGroup_ctxs, hc, Option.bind_some, hp, hst, updCtx, tabUpd_some hc, decide_false,
        Bool.and_false, Bool.false_eq_true, if_false, ne_eq, not_true_eq_false]
      split
      all_goals simp only [setGroup, setCtx, tabPut_put]
    · refine traps hd rfl rfl he ?_
      simp only [hact, hfree, Nat.not_lt.mpr hid, setGroup_ctxs, hc, Option.bind_some, decide_false, Bool.and_false, Bool.false_eq_true,
        if_false]
      cases hp : tabGet c.pins (rdW (envOf s g w.hdr) .ui64 64 w.a 0) with
      | none => rfl
      | some p => simp only [ne_eq, hnot p hp, not_false_eq_true, if_true]

/-- Settles O21: every row of R149's table, and every outcome of a pin, puts its effect into one of the ends that an issue can have. -/
theorem transactionEffects : Obligations.TransactionEffects := by
  unfold Obligations.TransactionEffects
  exact fun w => ⟨transactions_holds w, pins_holds w⟩

end Sys2Proof.Proofs.Transactions

/-! # The end of a slice (R193 to R195)

A slice that ends while its context is being restored gives up the groups already placed. The clause says that every group of
another context stays, from every state; a table that lists a slot twice breaks it. -/

namespace Sys2Proof.Proofs.TimeSlices

open Sys2Proof Sys2Proof.Machine Sys2Proof.Claims Sys2Proof.Proofs.Device

/-- VF 0 runs on partition 0, its context 0 is being restored and its slice is over. Slot 0 is listed twice: a read finds the
group of context 1, and the list of the groups of context 0 names the slot for the second entry. -/
def groupTwice : State :=
  let g := newGroup 0 0 0 0 0 0 0 true false 256 0 0 0 [] 0 0 0 [] []
  { State.reset with
    gts3 := 3000
    parts := [(0, { Part48.reset with running := some 0 })]
    ctxs := [(0, { newCtx [] with state := .restoring })]
    groups := [(0, { g with ctx := 1 }), (0, g)] }

/-- The switch to context 0 clears away its entry of slot 0, and with it the group of context 1 that a read of the slot found. -/
theorem sliceEnd_groupTwice :
    ((leftState (exec (.sliceEnd 0) groupTwice)).map fun t => (tabGet t.groups 0).isNone) = some true := by decide +kernel

/-- Refutes O42: the groups of other contexts are kept only where each slot is listed once, and `slices` does not ask for that. -/
theorem not_timeSliceSteps : ¬ Obligations.TimeSliceSteps := by
  unfold Obligations.TimeSliceSteps
  intro h
  obtain ⟨hslices, -⟩ := h groupTwice 0 0
  obtain ⟨-, -, -, -, hrestoring, -⟩ := hslices (by decide) rfl _ rfl rfl
  obtain ⟨t, ht, -, -, -, hothers⟩ := hrestoring (by decide) rfl rfl
  have hgone := sliceEnd_groupTwice
  rw [ht, leftState, Option.map_some, hothers 0 _ rfl (by decide)] at hgone
  cases hgone

end Sys2Proof.Proofs.TimeSlices

/-! # The tables of groups, teams and contexts (R183, R209, R217)

Every table is a list of entries whose keys rise, so each group slot, team and context slot is listed once and in order. The
model writes the three tables by `tabPut`, `tabUpd`, `tabDel`, `tabMap` and by filters, each of which keeps that order, so `TabInv`
goes through every function that `step` calls: one lemma for each, in the order of the model. -/

namespace Sys2Proof.Claims

open Sys2Proof Sys2Proof.Machine

section

variable {α : Type} {t : Tab α}

theorem keysRise.filter {p : Nat × α → Bool} (h : keysRise t) : keysRise (t.filter p) := h.sublist (List.filter_sublist.map _)

theorem keysRise.map {f : Nat → α → α} (h : keysRise t) : keysRise (tabMap t f) := by
  simpa [keysRise, tabMap, Function.comp_def] using h

theorem keysRise.del {i : Nat} (h : keysRise t) : keysRise (tabDel t i) := by
  have hdel : tabDel t i = t.filter (fun e => e.1 ≠ i) := by
    induction t with
    | nil => rfl
    | cons e t ih => by_cases he : e.1 = i <;> simp [tabDel, he, ih (List.Pairwise.of_cons h)]
  rw [hdel]
  exact h.filter

/-- The keys of a table after a write: the key that was written beside those of before. -/
theorem mem_keys_tabPut {i j : Nat} {x : α} (h : j ∈ (tabPut t i x).map (·.1)) : j = i ∨ j ∈ t.map (·.1) := by
  induction t with
  | nil => simpa [tabPut] using h
  | cons e t ih =>
    simp only [tabPut] at h
    split at h <;> [skip; split at h] <;> simp only [List.map_cons, List.mem_cons] at h ⊢
    · exact h
    · tauto
    · exact h.elim (fun e => .inr (.inl e)) fun m => (ih m).imp_right .inr

theorem keysRise.put {i : Nat} {x : α} (h : keysRise t) : keysRise (tabPut t i x) := by
  induction t with
  | nil => exact List.pairwise_singleton _ _
  | cons e t ih =>
    obtain ⟨hlt, ht⟩ := List.pairwise_cons.mp h
    simp only [tabPut]
    split
    · next hi =>
      refine List.pairwise_cons.mpr ⟨fun j hj => ?_, h⟩
      rcases List.mem_cons.mp hj with rfl | hj
      · exact hi
      · exact hi.trans (hlt j hj)
    · split
      · next hi => exact List.pairwise_cons.mpr ⟨fun j hj => hi ▸ hlt j hj, ht⟩
      · refine List.pairwise_cons.mpr ⟨fun j hj => ?_, ih ht⟩
        rcases mem_keys_tabPut hj with rfl | hj
        · simp only; omega
        · exact hlt j hj

theorem keysRise.upd {i : Nat} {f : α → α} (h : keysRise t) : keysRise (tabUpd t i f) := by
  unfold tabUpd
  split
  · exact h.put
  · exact h

end

variable {s t : State}

theorem TabInv.groups (h : TabInv s) : keysRise s.groups := h.1
theorem TabInv.teams (h : TabInv s) : keysRise s.teams := h.2.1
theorem TabInv.ctxs (h : TabInv s) : keysRise s.ctxs := h.2.2

theorem tabInv_of (hg : keysRise t.groups) (ht : keysRise t.teams) (hc : keysRise t.ctxs) : TabInv t := ⟨hg, ht, hc⟩

/-- A state with the same three tables. -/
theorem TabInv.same (h : TabInv s) (e : (t.groups, t.teams, t.ctxs) = (s.groups, s.teams, s.ctxs) := by rfl) : TabInv t := by
  simp only [Prod.mk.injEq] at e
  obtain ⟨hg, ht, hc⟩ := e
  exact tabInv_of (hg ▸ h.groups) (ht ▸ h.teams) (hc ▸ h.ctxs)

theorem TabInv.fst {α : Type} {p : State × α} {x : α} (h : TabInv p.1) (e : p = (t, x)) : TabInv t := by
  subst e
  exact h

theorem TabInv.snd {α : Type} {p : α × State} {x : α} (h : TabInv p.2) (e : p = (x, t)) : TabInv t := by
  subst e
  exact h

end Sys2Proof.Claims

namespace Sys2Proof.Proofs.Tables

open Sys2Proof Sys2Proof.Machine Sys2Proof.Claims Sys2Proof.Proofs.Device

/-! `TabInv` of the state that an answer carries, for each kind of answer. -/

def OutTab : Out → Prop
  | .ok t | .fault t _ _ | .wait t => TabInv t

def PumpTab : PumpRes → Prop
  | .done t _ | .stall t _ => TabInv t
  | .fault _ => True

def FilledTab : Filled → Prop
  | .absent _ => True
  | .bad t _ | .leaf t _ => TabInv t

def XlTab : XRes → Prop
  | .ok t _ | .fault t _ | .absent t _ => TabInv t

def ErTab {α : Type} : ER α → Prop
  | .ok t _ | .stall t _ | .absent t _ _ _ | .fail t _ _ _ _ => TabInv t

/-- An engine operation's answer: the value of `.ok` is itself the state that is kept. -/
def OpTab : ER State → Prop
  | .ok _ t | .stall t _ | .absent t _ _ _ | .fail t _ _ _ _ => TabInv t

def AppendTab : Append → Prop
  | .ok t | .reject t => TabInv t

def ReplayedTab : Replayed → Prop
  | .ok t _ | .fault t _ => TabInv t

def ResTab : Res → Prop
  | .ok t _ | .fault t _ _ | .wait t | .park t _ | .unit t => TabInv t

def ApsTab : APs → Prop
  | .ok t _ | .fault t _ _ => TabInv t
  | .stall => True

def OptTab : Option State → Prop
  | some t => TabInv t
  | none => True

def OptFstTab {α : Type} : Option (State × α) → Prop
  | some t => TabInv t.1
  | none => True

def ExcTab : Except State State → Prop
  | .ok t | .error t => TabInv t

def ExcFstTab {ε α : Type} : Except ε (State × α) → Prop
  | .ok t => TabInv t.1
  | .error _ => True

def NextTab : Host.Outcome State Fault Refusal → Prop
  | .next t => TabInv t
  | _ => True

variable {s t : State}

theorem tabInv_foldl {α : Type} {f : State → α → State} {l : List α} (hf : ∀ u x, TabInv u → TabInv (f u x)) (h : TabInv s) :
    TabInv (l.foldl f s) :=
  List.foldlRecOn _ _ h (fun u hu x _ => hf u x hu)

theorem tabInv_ite {p : Prop} {_ : Decidable p} (h1 : TabInv s) (h2 : TabInv t) : TabInv (if p then s else t) := by
  split
  · exact h1
  · exact h2

/-! What a case of an answer says of its state. -/

theorem OutTab.ok {o : Out} (h : OutTab o) (e : o = .ok t) : TabInv t := by subst e; exact h
theorem OutTab.fault {o : Out} {c a : Nat} (h : OutTab o) (e : o = .fault t c a) : TabInv t := by subst e; exact h
theorem OutTab.wait {o : Out} (h : OutTab o) (e : o = .wait t) : TabInv t := by subst e; exact h
theorem PumpTab.done {r : PumpRes} {d : Nat} (h : PumpTab r) (e : r = .done t d) : TabInv t := by subst e; exact h
theorem PumpTab.stall {r : PumpRes} {x : Hold} (h : PumpTab r) (e : r = .stall t x) : TabInv t := by subst e; exact h
theorem FilledTab.bad {r : Filled} {c : Nat} (h : FilledTab r) (e : r = .bad t c) : TabInv t := by subst e; exact h
theorem FilledTab.leaf {r : Filled} {x : TlbEnt} (h : FilledTab r) (e : r = .leaf t x) : TabInv t := by subst e; exact h
theorem XlTab.ok {r : XRes} {x : Xl} (h : XlTab r) (e : r = .ok t x) : TabInv t := by subst e; exact h
theorem XlTab.fault {r : XRes} {c : Nat} (h : XlTab r) (e : r = .fault t c) : TabInv t := by subst e; exact h
theorem XlTab.absent {r : XRes} {l : Nat} (h : XlTab r) (e : r = .absent t l) : TabInv t := by subst e; exact h
theorem AppendTab.ok {r : Append} (h : AppendTab r) (e : r = .ok t) : TabInv t := by subst e; exact h
theorem AppendTab.reject {r : Append} (h : AppendTab r) (e : r = .reject t) : TabInv t := by subst e; exact h
theorem ReplayedTab.ok {r : Replayed} {ps : List Part} (h : ReplayedTab r) (e : r = .ok t ps) : TabInv t := by
  subst e
  exact h
theorem ReplayedTab.fault {r : Replayed} {c : Nat} (h : ReplayedTab r) (e : r = .fault t c) : TabInv t := by
  subst e
  exact h
theorem ResTab.ok {r : Res} {n : Notes} (h : ResTab r) (e : r = .ok t n) : TabInv t := by subst e; exact h
theorem ApsTab.ok {r : APs} {ps : List Part} (h : ApsTab r) (e : r = .ok t ps) : TabInv t := by subst e; exact h
theorem ApsTab.fault {r : APs} {c v : Nat} (h : ApsTab r) (e : r = .fault t c v) : TabInv t := by subst e; exact h
theorem OptTab.some {o : Option State} (h : OptTab o) (e : o = .some t) : TabInv t := by subst e; exact h
theorem OptFstTab.some {α : Type} {x : α} {o : Option (State × α)} (h : OptFstTab o) (e : o = .some (t, x)) : TabInv t := by
  subst e
  exact h
theorem ExcTab.ok {r : Except State State} (h : ExcTab r) (e : r = .ok t) : TabInv t := by subst e; exact h
theorem ExcTab.error {r : Except State State} (h : ExcTab r) (e : r = .error t) : TabInv t := by subst e; exact h
theorem ExcFstTab.ok {ε α : Type} {x : α} {r : Except ε (State × α)} (h : ExcFstTab r) (e : r = .ok (t, x)) : TabInv t := by
  subst e
  exact h
theorem OutTab.fst {α : Type} {p : Out × α} {o : Out} {x : α} (h : OutTab p.1) (e : p = (o, x)) : OutTab o := by
  subst e
  exact h

/-! The tables' own updates. -/

theorem setGroup_tabInv {k : Nat} {g : Grp} (h : TabInv s) : TabInv (setGroup s k g) := tabInv_of h.groups.put h.teams h.ctxs

theorem updGroup_tabInv {k : Nat} {f : Grp → Grp} (h : TabInv s) : TabInv (updGroup s k f) :=
  tabInv_of h.groups.upd h.teams h.ctxs

theorem setCtx_tabInv {k : Nat} {c : Ctx} (h : TabInv s) : TabInv (setCtx s k c) := tabInv_of h.groups h.teams h.ctxs.put

theorem updCtx_tabInv {k : Nat} {f : Ctx → Ctx} (h : TabInv s) : TabInv (updCtx s k f) := tabInv_of h.groups h.teams h.ctxs.upd

theorem keepFars_tabInv (h : TabInv s) (ht : TabInv t) : TabInv (keepFars s t) := tabInv_of h.groups h.teams ht.ctxs

theorem endYield_tabInv {n : Nat} (h : TabInv s) : TabInv (endYield s n) := by
  refine tabInv_of ?_ h.teams h.ctxs
  dsimp only [endYield]
  exact h.groups.map

theorem dropRecords_tabInv {vf : Nat} {seqs : List Nat} (h : TabInv s) : TabInv (dropRecords s vf seqs) := by
  refine tabInv_of h.groups h.teams ?_
  dsimp only [dropRecords]
  exact h.ctxs.map

theorem goOn_tabInv {k : Nat} {n : Notes} (h : TabInv s) : ResTab (goOn s k n) := updGroup_tabInv h

theorem resTab_ite {p : Prop} {_ : Decidable p} {r q : Res} (h1 : ResTab r) (h2 : ResTab q) : ResTab (if p then r else q) := by
  split
  · exact h1
  · exact h2

/-! The frames that the model's functions share. -/

theorem event_tabInv (h : TabInv s) (ht : TabInv t) : NextTab (event s t) := by
  unfold event
  split
  · exact h
  · exact ht

theorem putBytes_tabInv {a : Nat} {bs : List Byte} (h : TabInv s) : TabInv (putBytes s a bs) := h

theorem ER_bind_tabInv {α β : Type} {r : ER α} {f : State → α → ER β} (h : ErTab r) (hf : ∀ u x, TabInv u → ErTab (f u x)) :
    ErTab (r.bind f) := by
  cases r with
  | ok s x => exact hf s x h
  | stall | absent | fail => exact h

theorem ER_bind_opTab {α : Type} {r : ER α} {f : State → α → ER State} (h : ErTab r) (hf : ∀ u x, TabInv u → OpTab (f u x)) :
    OpTab (r.bind f) := by
  cases r with
  | ok s x => exact hf s x h
  | stall | absent | fail => exact h

theorem outTab_ite {p : Prop} {_ : Decidable p} {o q : Out} (h1 : OutTab o) (h2 : OutTab q) : OutTab (if p then o else q) := by
  split
  · exact h1
  · exact h2

theorem elim_tabInv {α : Type} {o : Option α} {f : α → State} (h : TabInv s) (hf : ∀ x, o = some x → TabInv (f x)) :
    TabInv (o.elim s f) := by
  cases o with
  | none => exact h
  | some x => exact hf x rfl

theorem map_optFstTab {α : Type} {o : Option State} {x : α} (h : OptTab o) : OptFstTab (o.map (fun u => (u, x))) := by
  cases o with
  | none => trivial
  | some u => exact h

theorem bind_optTab {α : Type} {o : Option α} {f : α → Option State} (hf : ∀ x, o = some x → OptTab (f x)) :
    OptTab (o.bind f) := by
  cases o with
  | none => trivial
  | some x => exact hf x rfl

/-! Homes of memory. -/

theorem wakeWaits_tabInv {pa n : Nat} (h : TabInv s) : TabInv (wakeWaits s pa n) := tabInv_foldl (fun _ _ hu => hu) h

theorem newVersion_tabInv {k : KeyId} {line stamp : Nat} (h : TabInv s) : OptTab (newVersion s k line stamp) := by
  fun_cases newVersion
  · exact trivial
  · exact h

theorem putPieces_tabInv {ps : Pieces} (h : TabInv s) : TabInv (putPieces s ps) :=
  tabInv_foldl (fun _ _ hu => putBytes_tabInv hu) h

theorem wakePieces_tabInv {ps : Pieces} (h : TabInv s) : TabInv (wakePieces s ps) :=
  tabInv_foldl (fun _ _ hu => wakeWaits_tabInv hu) h

theorem endReenc_tabInv {grp : Nat} (h : TabInv s) : TabInv (endReenc s grp) := by
  fun_cases endReenc
  all_goals exact h

theorem pumpWrites_tabInv {key : KeyId} {ver cmp : Bool} {pa : Nat} {ps : Pieces} {own stampAt : Option Nat} (h : TabInv s) :
    PumpTab (pumpWrites s key ver cmp pa ps own stampAt) := by
  unfold pumpWrites
  split
  case h_1 | h_2 | h_3 =>
    extract_lets s1
    have hs1 : TabInv s1 := putPieces_tabInv h
    exact wakePieces_tabInv (tabInv_ite hs1 hs1)
  · extract_lets _ _ _ _ s1
    have hs1 : OptTab s1 := by
      unfold s1
      split
      · exact newVersion_tabInv h
      · exact h
    split
    · exact h
    split
    · trivial
    split
    · trivial
    split
    · exact h
    split
    · trivial
    split
    · exact h
    clear_value s1
    split
    · exact h
    extract_lets s3 s4
    have hs3 : TabInv s3 := by
      unfold s3
      refine putPieces_tabInv ?_
      split
      · exact putBytes_tabInv hs1
      · exact hs1
    refine wakePieces_tabInv ?_
    unfold s4
    split <;> exact hs3
  · trivial

theorem pumpWrite_tabInv {key : KeyId} {ver cmp : Bool} {pa : Nat} {bs : List Byte} {own stampAt : Option Nat} (h : TabInv s) :
    PumpTab (pumpWrite s key ver cmp pa bs own stampAt) :=
  pumpWrites_tabInv h

theorem pumpRead_tabInv {key : KeyId} {ver : Bool} {snap : Option Nat} {pa n : Nat} (h : TabInv s) :
    PumpTab (pumpRead s key ver snap pa n) := by
  unfold pumpRead
  dsimp only
  repeat' split
  any_goals exact trivial
  all_goals exact h

theorem farAsk_tabInv {owner ck : Nat} {key : KeyId} {cmp : Bool} {pa n : Nat} {data : Option Nat} {keep : Bool} (h : TabInv s) :
    PumpTab (farAsk s owner ck key cmp pa n data keep) := by
  fun_cases farAsk
  · exact trivial
  · exact tabInv_ite h h
  · exact h
  · exact (h.snd ‹_›).same

theorem agentRead_tabInv {owner ck : Nat} {key : KeyId} {ver : Bool} {snap : Option Nat} {pa n : Nat} {keep : Bool}
    (h : TabInv s) :
    PumpTab (agentRead s owner ck key ver snap pa n keep) := by
  fun_cases agentRead
  · exact farAsk_tabInv h
  · exact pumpRead_tabInv h

theorem agentWrite_tabInv {owner ck : Nat} {key : KeyId} {ver cmp : Bool} {pa : Nat} {bs : List Byte} {keep : Bool}
    (h : TabInv s) :
    PumpTab (agentWrite s owner ck key ver cmp pa bs keep) := by
  fun_cases agentWrite
  · exact farAsk_tabInv h
  · exact pumpWrite_tabInv h

theorem noteIntegrity_tabInv {cause : Nat} {k : KeyId} {ck pa : Nat} (h : TabInv s) : TabInv (noteIntegrity s cause k ck pa) :=
  tabInv_ite h h

theorem devWrite_tabInv {ck pa : Nat} {bs : List Byte} (h : TabInv s) : TabInv (devWrite s ck pa bs) := by
  unfold devWrite
  refine tabInv_ite h ?_
  repeat' split
  · exact (pumpWrite_tabInv h).done ‹_›
  · exact h
  · exact (pumpWrite_tabInv (endReenc_tabInv ((pumpWrite_tabInv h).stall ‹_›))).done ‹_›
  · exact (pumpWrite_tabInv (endReenc_tabInv ((pumpWrite_tabInv h).stall ‹_›))).stall ‹_›
  · exact ((pumpWrite_tabInv h).stall ‹_›).same

theorem healLine_tabInv {line : Nat} {whole : Bool} (h : TabInv s) : TabInv (healLine s line whole) := tabInv_ite h h

theorem lineWrite_tabInv {k : KeyId} {ver cmp : Bool} {pa : Nat} {bs : List Byte} (h : TabInv s) :
    PumpTab (lineWrite s k ver cmp pa bs) := by
  fun_cases lineWrite
  · exact pumpWrite_tabInv (endReenc_tabInv ((pumpWrite_tabInv h).stall ‹_›))
  · exact (pumpWrite_tabInv h).stall ‹_›
  · exact pumpWrite_tabInv h

theorem hostWrite_tabInv {cmp : State → Nat → Bool} {n : Nat} {s : State} {x : KeyId} {x1 : Bool} {n1 : Nat} {x2 : List Byte}
    (h : TabInv s) :
    TabInv (hostWrite cmp n s x x1 n1 x2).1 := by
  fun_cases hostWrite
  any_goals exact h
  · exact hostWrite_tabInv h
  · exact hostWrite_tabInv h
  · exact hostWrite_tabInv h
  · exact hostWrite_tabInv (healLine_tabInv ((lineWrite_tabInv h).done ‹_›))
  · exact hostWrite_tabInv (tabInv_ite h h)
  · exact (lineWrite_tabInv h).stall ‹_›

theorem hostPut_tabInv {vf pa : Nat} {bs : List Byte} (h : TabInv s) : TabInv (hostPut s vf pa bs) := hostWrite_tabInv h

/-! Rings, records and halts. -/

theorem ringPush_tabInv {ck : Nat} {r : RingId} {rec : List W64} (h : TabInv s) : OptTab (ringPush s ck r rec) := by
  fun_cases ringPush
  any_goals exact trivial
  exact updCtx_tabInv (devWrite_tabInv h)

theorem eventPush_tabInv {ck kind sub a0 a1 : Nat} (h : TabInv s) : TabInv (eventPush s ck kind sub a0 a1) := by
  fun_cases eventPush
  · exact (ringPush_tabInv h).some ‹_›
  · exact updCtx_tabInv h

theorem prfAdd_tabInv {vf kind die inst event n : Nat} (h : TabInv s) : TabInv (prfAdd s vf kind die inst event n) :=
  tabInv_ite h (tabInv_ite h h)

theorem numPush_tabInv {k pc : Nat} {halted : Bool} {e : NumEv} (h : TabInv s) : TabInv (numPush s k pc halted e) := by
  fun_cases numPush
  any_goals exact h
  · exact prfAdd_tabInv ((ringPush_tabInv h).some ‹_›)
  · exact updGroup_tabInv h

theorem txUnlock_tabInv {k : Nat} (h : TabInv s) : TabInv (txUnlock s k) := tabInv_foldl (fun _ _ hu => hu) h

theorem txHalt_tabInv {k : Nat} (h : TabInv s) : TabInv (txHalt s k) := by
  fun_cases txHalt
  any_goals exact h
  · exact setGroup_tabInv h
  · exact txUnlock_tabInv (setGroup_tabInv h)

theorem growHalts_tabInv (h : TabInv s) : TabInv (growHalts s) := by
  unfold growHalts
  refine tabInv_foldl (fun _ _ hu => ?_) h
  repeat' split
  all_goals exact hu

theorem unplaceGroup_tabInv {k : Nat} (h : TabInv s) : TabInv (unplaceGroup s k) := by
  fun_cases unplaceGroup
  · exact h
  · exact updCtx_tabInv (tabInv_of h.groups.del h.teams.upd h.ctxs)

theorem abandonRestore_tabInv {ck : Nat} (h : TabInv s) : TabInv (abandonRestore s ck) :=
  tabInv_foldl (fun _ _ hu => unplaceGroup_tabInv hu) h

theorem withdrawHeld_tabInv {ck : Nat} (h : TabInv s) : TabInv (withdrawHeld s ck) := updCtx_tabInv h

theorem haltRise_tabInv {ck cause : Nat} {unit : UnitId} {gid addr : Nat} {own : Bool} (h : TabInv s) :
    TabInv (haltRise s ck cause unit gid addr own) := by
  unfold haltRise
  split
  · exact h
  extract_lets _ _ _ s1 s2 s3 s4 s41 _ s11 s12 s21
  have hs4 : TabInv s4 := setCtx_tabInv h
  have hs41 : TabInv s41 := setCtx_tabInv h
  have hs12 : TabInv s12 := updCtx_tabInv (tabInv_ite (abandonRestore_tabInv h) h)
  have hs21 : TabInv s21 := hs12
  split
  · exact tabInv_foldl (fun _ _ hu => txHalt_tabInv hu) (updCtx_tabInv hs4)
  · exact tabInv_foldl (fun _ _ hu => txHalt_tabInv hu) (withdrawHeld_tabInv hs41)
  · exact tabInv_ite (setCtx_tabInv h) h
  · exact eventPush_tabInv hs21
  · exact eventPush_tabInv hs21
  · exact eventPush_tabInv hs21
  · exact h
  · exact h

theorem haltKey_tabInv {key : KeyId} {unit : UnitId} {gid addr : Nat} (h : TabInv s) : TabInv (haltKey s key unit gid addr) :=
  tabInv_foldl (fun _ _ hu => haltRise_tabInv hu) h

theorem takeRaised_tabInv (h : TabInv s) : TabInv (takeRaised s) :=
  tabInv_foldl (fun _ _ hu => tabInv_ite (haltKey_tabInv hu) (haltRise_tabInv hu)) h

theorem raiseGroup_tabInv {k cause addr : Nat} (h : TabInv s) : TabInv (raiseGroup s k cause addr) := by
  fun_cases raiseGroup
  · exact h
  · exact haltRise_tabInv h

theorem resumeCtx_tabInv {ck : Nat} (h : TabInv s) : TabInv (resumeCtx s ck) := by
  fun_cases resumeCtx
  any_goals exact h
  exact eventPush_tabInv (setCtx_tabInv h)

/-! Address translation. -/

theorem tlbFill_tabInv {a : Agent} {e : TlbEnt} (h : TabInv s) : TabInv (tlbFill s a e) := tabInv_ite h h

theorem pteSet_tabInv {ck addr : Nat} {p : W64} (h : TabInv s) : TabInv (pteSet s ck addr p) := devWrite_tabInv h

theorem walkFill_tabInv {ck : Nat} {a : Agent} {text : Bool} {va : Nat} {set : W64} (h : TabInv s) :
    FilledTab (walkFill s ck a text va set) := by
  fun_cases walkFill
  · exact trivial
  · exact noteIntegrity_tabInv h
  · exact tlbFill_tabInv (tabInv_ite h (pteSet_tabInv h))

theorem lookup_tabInv {ck : Nat} {a : Agent} {text write : Bool} {va : Nat} (h : TabInv s) :
    FilledTab (lookup s ck a text write va) := by
  fun_cases lookup
  any_goals exact walkFill_tabInv h
  exact tabInv_ite h (tlbFill_tabInv h)

theorem setDirty_tabInv {ck : Nat} {a : Agent} {va : Nat} (h : TabInv s) : TabInv (setDirty s ck a va) := by
  fun_cases setDirty
  · exact (walkFill_tabInv h).leaf ‹_›
  · exact h

theorem translateOnly_tabInv {ck : Nat} {a : Agent} {va : Nat} {u : Use} (h : TabInv s) : XlTab (translateOnly s ck a va u) := by
  fun_cases translateOnly
  any_goals exact h
  any_goals exact (lookup_tabInv h).leaf ‹_›
  exact (lookup_tabInv h).bad ‹_›

theorem dirtyFor_tabInv {ck : Nat} {a : Agent} {va : Nat} (h : TabInv s) : TabInv (dirtyFor s ck a va) := by
  fun_cases dirtyFor
  any_goals exact setDirty_tabInv h
  exact h

theorem translate_tabInv {ck : Nat} {a : Agent} {va : Nat} {u : Use} (h : TabInv s) : XlTab (translate s ck a va u) := by
  fun_cases Machine.translate
  · exact tabInv_ite (dirtyFor_tabInv ((translateOnly_tabInv h).ok ‹_›)) ((translateOnly_tabInv h).ok ‹_›)
  · exact translateOnly_tabInv h

/-! Absent pages and the accesses of a group's instruction. -/

theorem noteFault_tabInv {ck va kind level gid die core : Nat} (h : TabInv s) :
    TabInv (noteFault s ck va kind level gid die core).1 := by
  unfold noteFault
  split
  · exact h
  split
  · exact h
  extract_lets _ _ _ s1
  have hs1 : TabInv s1 := h
  clear_value s1
  split
  · exact updCtx_tabInv ((ringPush_tabInv hs1).some ‹_›)
  · exact updCtx_tabInv hs1

theorem Out_andThen_tabInv {o : Out} {f : State → Out} (ho : OutTab o) (hf : ∀ u, TabInv u → OutTab (f u)) :
    OutTab (Out.andThen o f) := by
  fun_cases Out.andThen
  any_goals exact ho
  exact hf _ ho

theorem oneAbsent_tabInv {k : Nat} {g : Grp} {va kind level : Nat} (h : TabInv s) : OutTab (oneAbsent s k g va kind level) := by
  fun_cases oneAbsent
  · exact updGroup_tabInv ((noteFault_tabInv h).fst ‹_›)
  · exact h

theorem pumpCount_tabInv {vf pa ev n : Nat} (h : TabInv s) : TabInv (pumpCount s vf pa ev n) := tabInv_ite (prfAdd_tabInv h) h

theorem countRead_tabInv {vf pa : Nat} {cmp : Bool} (h : TabInv s) : TabInv (countRead s vf pa cmp) :=
  pumpCount_tabInv (pumpCount_tabInv (pumpCount_tabInv h))

theorem countWrite_tabInv {s0 s : State} {vf pa : Nat} {cmp ver partly : Bool} (h : TabInv s) :
    TabInv (countWrite s0 s vf pa cmp ver partly) :=
  pumpCount_tabInv (pumpCount_tabInv (pumpCount_tabInv (pumpCount_tabInv (pumpCount_tabInv h))))

theorem oneDone_tabInv {k : Nat} {g : Grp} (h : TabInv s) : TabInv (oneDone s k g) := tabInv_ite (updGroup_tabInv h) h

theorem storeNow_tabInv {k : Nat} {g : Grp} {va : Nat} {bs : List Byte} (h : TabInv s) : OutTab (storeNow s k g va bs) := by
  unfold storeNow
  refine outTab_ite h (outTab_ite h ?_)
  repeat' split
  any_goals exact (translate_tabInv h).ok ‹_›
  · exact (translate_tabInv h).fault ‹_›
  · exact oneAbsent_tabInv ((translate_tabInv h).absent ‹_›)
  · exact countWrite_tabInv (oneDone_tabInv ((agentWrite_tabInv ((translate_tabInv h).ok ‹_›)).done ‹_›))
  · exact updGroup_tabInv ((agentWrite_tabInv ((translate_tabInv h).ok ‹_›)).stall ‹_›)
  · exact updGroup_tabInv ((translate_tabInv h).ok ‹_›)
  · exact (agentWrite_tabInv ((translate_tabInv h).ok ‹_›)).stall ‹_›
  · exact noteIntegrity_tabInv ((translate_tabInv h).ok ‹_›)

theorem loadNow_tabInv {k : Nat} {g : Grp} {va n : Nat} {snap : Option Nat} (h : TabInv s) :
    OutTab (loadNow s k g va n snap).1 := by
  fun_cases loadNow
  any_goals exact h
  · exact (translate_tabInv h).fault ‹_›
  · exact oneAbsent_tabInv ((translate_tabInv h).absent ‹_›)
  · exact (translate_tabInv h).ok ‹_›
  · exact countRead_tabInv (oneDone_tabInv ((agentRead_tabInv ((translate_tabInv h).ok ‹_›)).done ‹_›))
  · exact (agentRead_tabInv ((translate_tabInv h).ok ‹_›)).stall ‹_›
  · exact noteIntegrity_tabInv ((translate_tabInv h).ok ‹_›)

/-! Paths and the return-address stack. -/

theorem prfRecord_tabInv {k kind arg : Nat} (h : TabInv s) : TabInv (prfRecord s k kind arg) := by
  fun_cases prfRecord
  any_goals exact h
  exact tabInv_foldl (fun _ _ hu => tabInv_ite hu (devWrite_tabInv hu)) h

theorem probeWalks_tabInv {k : Nat} {g : Grp} {vas : List Nat} (h : TabInv s) : TabInv (probeWalks s k g vas) := by
  unfold probeWalks
  refine tabInv_foldl (fun _ _ hu => ?_) h
  repeat' split
  · exact (translateOnly_tabInv hu).ok ‹_›
  · exact (translateOnly_tabInv hu).fault ‹_›
  · exact (translateOnly_tabInv hu).absent ‹_›

theorem storeAll_tabInv {s0 : State} {k : Nat} {g : Grp} {done : List Nat} {s : State} {x : List (Nat × List Byte)}
    (hs0 : TabInv s0) (h : TabInv s) :
    OutTab (storeAll s0 k g done s x) := by
  fun_cases storeAll
  · exact h
  · exact storeAll_tabInv hs0 ((storeNow_tabInv h).ok ‹_›)
  · exact storeNow_tabInv (probeWalks_tabInv hs0)

theorem spillAll_tabInv {k : Nat} (h : TabInv s) : OutTab (spillAll s k) := by
  fun_cases spillAll
  any_goals exact h
  exact Out_andThen_tabInv (storeAll_tabInv h h) (fun _ hu => updGroup_tabInv hu)

theorem refillPaths_tabInv {s : State} {k n : Nat} (h : TabInv s) : OutTab (refillPaths s k n) := by
  fun_cases refillPaths
  any_goals exact h
  exact Out_andThen_tabInv ((loadNow_tabInv h).fst ‹_›) (fun _ hu => refillPaths_tabInv (updGroup_tabInv hu))

theorem readRunning_tabInv {k : Nat} {g : Grp} (h : TabInv s) : OutTab (readRunning s k g) := by
  fun_cases readRunning
  · exact h
  · exact Out_andThen_tabInv ((loadNow_tabInv h).fst ‹_›) (fun _ hu => updGroup_tabInv hu)

theorem balance_tabInv {k n : Nat} (h : TabInv s) : OutTab (balance s k n) := by
  fun_cases balance
  · exact h
  · refine Out_andThen_tabInv ?_ (fun _ hu => spillAll_tabInv hu)
    exact Out_andThen_tabInv (readRunning_tabInv h) (fun _ hu => refillPaths_tabInv hu)

theorem rasPush_tabInv {k : Nat} {r : RasEnt} (h : TabInv s) : OutTab (rasPush s k r) := by
  fun_cases rasPush
  any_goals exact h
  exact setGroup_tabInv h

theorem rasRefill_tabInv {k : Nat} {em : Mask} (h : TabInv s) : OutTab (rasRefill s k em) := by
  fun_cases rasRefill
  any_goals exact h
  exact Out_andThen_tabInv ((loadNow_tabInv h).fst ‹_›) (fun _ hu => updGroup_tabInv hu)

/-! Issue. -/

theorem Out_toRes_tabInv {o : Out} {n : Notes} (ho : OutTab o) : ResTab (Out.toRes o n) := by
  fun_cases Out.toRes
  all_goals exact ho

theorem countLanes_tabInv {k : Nat} {g : Grp} {act : Mask} (h : TabInv s) : TabInv (countLanes s k g act) :=
  tabInv_foldl (fun _ _ hu => prfAdd_tabInv hu) h

theorem takeFault_tabInv {k cause addr : Nat} (h : TabInv s) : NextTab (takeFault s k cause addr) := raiseGroup_tabInv h

theorem numApply_tabInv {s0 s1 : State} {k pc : Nat} {n : Notes} (hs0 : TabInv s0) (hs1 : TabInv s1) :
    ExcTab (numApply s0 s1 k pc n) := by
  fun_cases numApply
  · exact tabInv_foldl (fun _ _ hu => numPush_tabInv hu) hs0
  · exact tabInv_foldl (fun _ _ hu => numPush_tabInv hu) (setGroup_tabInv hs1)
  · exact hs1

theorem notReady_tabInv {i : Instr} {k : Nat} {g : Grp} {x : Sig} {f : Fields} (h : TabInv s) :
    NextTab (notReady i s k g x f) := by
  fun_cases notReady
  any_goals exact h
  any_goals exact takeFault_tabInv h
  exact setGroup_tabInv h

theorem settlePaths_tabInv {k : Nat} (h : TabInv s) : OutTab (settlePaths s k).1 := by
  fun_cases settlePaths
  · exact balance_tabInv (setGroup_tabInv h)
  · exact h

theorem concludeIssue_tabInv {s s1 : State} {k : Nat} {g : Grp} {act : Mask} {n : Notes} (h : TabInv s) (hs1 : TabInv s1) :
    NextTab (concludeIssue s s1 k g act n) := by
  fun_cases concludeIssue
  · exact takeFault_tabInv ((numApply_tabInv h hs1).error ‹_›)
  · exact countLanes_tabInv ((numApply_tabInv h hs1).ok ‹_›)

theorem noAccess_tabInv {k : Nat} {slot : Option Nat} (h : TabInv s) : TabInv (noAccess s k slot) := updGroup_tabInv h

theorem memSide_tabInv {s t : State} {k : Nat} (h : TabInv s) (ht : TabInv t) : TabInv (memSide s t k) := by
  unfold memSide
  extract_lets s1
  have hs1 : TabInv s1 := tabInv_of h.groups h.teams ht.ctxs
  split
  · exact updGroup_tabInv hs1
  · exact hs1

theorem concludePaths_tabInv {s s1 : State} {k : Nat} {g : Grp} {act : Mask} {n : Notes} (h : TabInv s) (hs1 : TabInv s1) :
    NextTab (concludePaths s s1 k g act n) := by
  fun_cases concludePaths
  · exact memSide_tabInv h (((settlePaths_tabInv hs1).fst ‹_›).wait rfl)
  · exact takeFault_tabInv (memSide_tabInv h (((settlePaths_tabInv hs1).fst ‹_›).fault rfl))
  · exact concludeIssue_tabInv h (((settlePaths_tabInv hs1).fst ‹_›).ok rfl)

theorem concludePark_tabInv {s s1 : State} {k : Nat} {g : Grp} {act : Mask} {n : Notes} (h : TabInv s) (hs1 : TabInv s1) :
    NextTab (concludePark s s1 k g act n) := by
  unfold concludePark
  split
  next o _ e =>
    have ho : OutTab o := (settlePaths_tabInv (updGroup_tabInv hs1)).fst e
    split
    · exact memSide_tabInv h ho
    · exact takeFault_tabInv (memSide_tabInv h ho)
    split
    · exact takeFault_tabInv ((numApply_tabInv h ho).error ‹_›)
    split
    · exact takeFault_tabInv ((numApply_tabInv h ho).error ‹_›)
    · exact countLanes_tabInv ((numApply_tabInv h ho).ok ‹_›)

theorem conclude_tabInv {k : Nat} {g : Grp} {how : How} {h1 : Hdr} {r : Res} (h : TabInv s) (hr : ResTab r) :
    NextTab (conclude s k g how h1 r) := by
  fun_cases conclude
  · exact hr
  · exact takeFault_tabInv hr
  · exact concludePark_tabInv h hr
  · exact countLanes_tabInv (updGroup_tabInv hr)
  · exact concludePaths_tabInv h (updGroup_tabInv hr)
  · exact concludeIssue_tabInv h (updGroup_tabInv hr)

theorem issue_tabInv {i : Instr} {how : How} {body : State → Nat → Grp → Env → Res}
    (hbody : ∀ u x1 x2 x3, TabInv u → ResTab (body u x1 x2 x3)) (h : TabInv s) :
    NextTab (issue i how body s) := by
  fun_cases issue
  any_goals exact trivial
  · exact conclude_tabInv (setGroup_tabInv h) (hbody _ _ _ _ (setGroup_tabInv h))
  · exact notReady_tabInv (setGroup_tabInv h)

theorem sendResult_tabInv {k : Nat} {g : Grp} {lat : Lat} {slot : Option Nat} {ws : List RegW} (h : TabInv s) :
    TabInv (sendResult s k g lat slot ws) := by
  fun_cases sendResult
  · exact setGroup_tabInv h
  · exact setGroup_tabInv (h.snd ‹_›)
  · exact setGroup_tabInv h

theorem acquireL1_tabInv {k vf : Nat} {scope : Scope} (h : TabInv s) : TabInv (acquireL1 s k vf scope) := by
  fun_cases acquireL1
  all_goals exact h

theorem laneInsS_tabInv {i : Instr} {h1 : Hdr} {lat : Lat} {f : State → Env → Except Nat LaneRes} (h : TabInv s) :
    NextTab (laneInsS i h1 lat f s) := by
  unfold laneInsS
  refine issue_tabInv (fun _ _ _ _ hu => ?_) h
  dsimp only
  repeat' split
  · exact hu
  · exact prfAdd_tabInv (sendResult_tabInv hu)

theorem laneIns_tabInv {i : Instr} {h1 : Hdr} {lat : Lat} {f : Env → Except Nat LaneRes} (h : TabInv s) :
    NextTab (laneIns i h1 lat f s) :=
  laneInsS_tabInv h

/-! Barriers. -/

theorem endBarWaits_tabInv {k i : Nat} {t : Nat → Bool} {val : Bool} (h : TabInv s) : TabInv (endBarWaits s k i t val) := by
  fun_cases endBarWaits
  · exact h
  · exact updGroup_tabInv (setGroup_tabInv h)

theorem testBarWaits_tabInv {core i : Nat} (h : TabInv s) : TabInv (testBarWaits s core i) :=
  tabInv_foldl (fun _ _ hu => endBarWaits_tabInv hu) h

theorem barEval_tabInv {core i : Nat} (h : TabInv s) : TabInv (barEval s core i) := tabInv_ite h h

theorem flushBars_tabInv (h : TabInv s) : TabInv (flushBars s) := tabInv_foldl (fun _ _ hu => testBarWaits_tabInv hu) h

theorem landSectors_tabInv {core i cls n : Nat} (h : TabInv s) : OptTab (landSectors s core i cls n) := by
  fun_cases landSectors
  any_goals exact h
  · exact trivial
  · exact barEval_tabInv h

theorem barStore_tabInv {core i : Nat} {w : W128} (h : TabInv s) : OptTab (barStore s core i w) := by
  fun_cases barStore
  · exact trivial
  · exact h

/-! Memory instructions. -/

theorem glbTarget_tabInv {k : Nat} {g : Grp} {mk : MKind} {ty : Ty} {size : Nat} {a : Int} (h : TabInv s) :
    TabInv (glbTarget s k g mk ty size a).1 := by
  fun_cases glbTarget
  any_goals exact h
  · exact (translateOnly_tabInv h).fault ‹_›
  · exact (noteFault_tabInv ((translateOnly_tabInv h).absent ‹_›)).fst ‹_›
  · exact (translateOnly_tabInv h).absent ‹_›
  · exact (translateOnly_tabInv h).ok ‹_›

theorem targets_tabInv {s : State} {k : Nat} {g : Grp} {loc : Bool} {mk : MKind} {ty : Ty} {size : Nat} {x : List (Nat × Int)}
    (h : TabInv s) :
    TabInv (targets s k g loc mk ty size x).1 := by
  unfold targets
  split
  · exact h
  extract_lets r
  have hr : TabInv r.1 := by
    unfold r
    split
    · exact h
    · exact glbTarget_tabInv h
  clear_value r
  split
  · exact hr
  split
  · next e => exact (targets_tabInv hr).fst e
  · next e1 => exact (targets_tabInv hr).fst e1

theorem txStore_tabInv {k : Nat} {cmp : Bool} {va pa n v : Nat} (h : TabInv s) : TabInv (txStore s k cmp va pa n v) := by
  fun_cases txStore
  any_goals exact h
  all_goals exact setGroup_tabInv h

theorem l1Write_tabInv {core vf pa n v : Nat} (h : TabInv s) : TabInv (l1Write s core vf pa n v) := by
  fun_cases l1Write
  all_goals exact h

theorem l1Touch_tabInv {k vf : Nat} {ps : List Part} (h : TabInv s) : TabInv (l1Touch s k vf ps) := by
  unfold l1Touch
  refine tabInv_foldl (fun _ _ hu => tabInv_ite ?_ hu) h
  repeat' split
  all_goals exact hu

theorem addAcc_tabInv {k : Nat} {a : Acc} (h : TabInv s) : TabInv (addAcc s k a) := updGroup_tabInv h

theorem dirtyAll_tabInv {k : Nat} {g : Grp} {ts : List (Nat × Nat × Tgt)} (h : TabInv s) : TabInv (dirtyAll s k g ts) := by
  unfold dirtyAll
  refine tabInv_foldl (fun _ _ hu => ?_) h
  repeat' split
  · exact dirtyFor_tabInv hu
  · exact hu

theorem memIssue_tabInv {i : Instr} {w : MWord} {mk : MKind} {size : Nat} {how : How} {scalar : Bool}
    {body : State → Nat → Grp → Env → List (Nat × Nat × Tgt) → Notes → Res}
    (hbody : ∀ u k g e ts n, TabInv u → ResTab (body u k g e ts n)) (h : TabInv s) :
    NextTab (memIssue i w mk size how scalar body s) := by
  unfold memIssue
  refine issue_tabInv (fun _ _ _ _ hu => ?_) h
  repeat' split
  any_goals exact hu
  any_goals exact (targets_tabInv hu).fst ‹_›
  · exact updGroup_tabInv ((hbody _ _ _ _ _ _ ((targets_tabInv hu).fst ‹_›)).ok ‹_›)
  · exact hbody _ _ _ _ _ _ ((targets_tabInv hu).fst ‹_›)

theorem loadBody_tabInv {kind : AccKind} {w : MWord} {size : Nat} {k : Nat} {g : Grp} {ts : List (Nat × Nat × Tgt)} {n : Notes}
    (h : TabInv s) :
    ResTab (loadBody kind w size s k g ts n) := by
  fun_cases loadBody
  · exact sendResult_tabInv h
  · exact h
  · exact addAcc_tabInv (l1Touch_tabInv h)

theorem execLd_tabInv {w : MWord} (h : TabInv s) : NextTab (execLd w s) :=
  memIssue_tabInv (fun _ _ _ _ _ _ hu => loadBody_tabInv hu) h

theorem execLdx_tabInv {w : MWord} (h : TabInv s) : NextTab (execLdx w s) :=
  memIssue_tabInv (fun _ _ _ _ _ _ hu => loadBody_tabInv hu) h

theorem putWr_tabInv {k : Nat} {g : Grp} {tx : Option TxView} {x : Xl} {loc : Bool} {acc : State × List Part} {w : Wr}
    (hacc : TabInv acc.1) :
    TabInv (putWr k g tx x loc acc w).1 := by
  fun_cases putWr
  · exact tabInv_ite (txStore_tabInv hacc) hacc
  · exact tabInv_ite (l1Write_tabInv hacc) hacc

theorem storeParts_tabInv {k : Nat} {g : Grp} {f : Nat → Nat → Xl → List Wr} {keep : Nat → List (Nat × Nat)} {size : Nat}
    {ts : List (Nat × Nat × Tgt)} (h : TabInv s) :
    OptFstTab (storeParts s k g f keep size ts) := by
  unfold storeParts
  refine List.foldlRecOn (motive := OptFstTab) _ _ h (fun r hr x _ => ?_)
  cases r with
  | none => trivial
  | some acc =>
    have hacc : TabInv acc.1 := hr
    dsimp only [Option.bind_some]
    split
    · exact List.foldlRecOn (motive := fun r : State × List Part => TabInv r.1) _ _ hacc (fun _ hq _ _ => putWr_tabInv hq)
    · refine map_optFstTab (barStore_tabInv ?_)
      exact hacc
    · exact hacc
    · exact hacc

theorem storeBody_tabInv {kind : AccKind} {w : MWord} {size : Nat} {f : Nat → Nat → Xl → List Wr}
    {keep : Nat → List (Nat × Nat)} {k : Nat} {g : Grp} {ts : List (Nat × Nat × Tgt)} {n : Notes} (h : TabInv s) :
    ResTab (storeBody kind w size f keep s k g ts n) := by
  unfold storeBody
  split
  · exact h
  extract_lets
  split
  · exact h
  · next s1 _ e =>
    have hs1 : TabInv s1 := (storeParts_tabInv (dirtyAll_tabInv h)).some e
    extract_lets s2
    have hs2 : TabInv s2 := tabInv_ite (updGroup_tabInv hs1) hs1
    exact resTab_ite (noAccess_tabInv hs2) (addAcc_tabInv hs2)

theorem execSt_tabInv {w : MWord} (h : TabInv s) : NextTab (execSt w s) :=
  memIssue_tabInv (fun _ _ _ _ _ _ hu => storeBody_tabInv hu) h

theorem execStx_tabInv {w : MWord} (h : TabInv s) : NextTab (execStx w s) :=
  memIssue_tabInv (fun _ _ _ _ _ _ hu => storeBody_tabInv hu) h

/-! Atomics, fences and transactions. -/

theorem viewAtomic_tabInv {k : Nat} {tx : TxView} {key : KeyId} {cmp : Bool} {va pa size : Nat} {f : Nat → Nat} (h : TabInv s) :
    PumpTab (viewAtomic s k tx key cmp va pa size f) := by
  fun_cases viewAtomic
  · exact h
  · exact tabInv_ite (txStore_tabInv ((pumpRead_tabInv h).done ‹_›)) ((pumpRead_tabInv h).done ‹_›)
  · exact pumpRead_tabInv h

theorem atomParts_tabInv {k : Nat} {g : Grp} {ty : Ty} {op : AOp} {size : Nat} {c e : Nat → Nat} {acc : APs}
    {tx : Nat × Nat × Tgt} (hacc : ApsTab acc) :
    ApsTab (atomParts k g ty op size c e acc tx) := by
  fun_cases atomParts
  any_goals exact hacc
  · exact (viewAtomic_tabInv hacc).done ‹_›
  · exact trivial
  · exact noteIntegrity_tabInv hacc

theorem atomParts_foldl_tabInv {k : Nat} {g : Grp} {ty : Ty} {op : AOp} {size : Nat} {c e : Nat → Nat}
    {ts us : List (Nat × Nat × Tgt)} (h : TabInv s) :
    ApsTab (us.foldl (atomParts k g ty op size c e) (.ok (dirtyAll s k g ts) [])) := 
  List.foldlRecOn _ _ (dirtyAll_tabInv (s := s) h) (fun _ hr _ _ => atomParts_tabInv hr)

theorem atomIssue_tabInv {i : Instr} {w : MWord} {kind : AccKind} {op : AOp} (h : TabInv s) :
    NextTab (atomIssue i w kind op s) := by
  unfold atomIssue
  refine memIssue_tabInv (fun _ _ _ _ _ _ hu => ?_) h
  dsimp only
  split
  · exact hu
  split
  · exact hu
  · exact memSide_tabInv hu ((atomParts_foldl_tabInv hu).fault ‹_›)
  · next s1 ps e =>
    have hs1 : TabInv s1 := (atomParts_foldl_tabInv hu).ok e
    split
    · exact tabInv_ite (noAccess_tabInv hs1) (sendResult_tabInv hs1)
    · exact addAcc_tabInv (updGroup_tabInv hs1)

theorem execWaita_tabInv {w : MWord} (h : TabInv s) : NextTab (execWaita w s) := by
  unfold execWaita
  refine memIssue_tabInv (fun _ _ _ _ _ _ hu => ?_) h
  dsimp only
  repeat' split
  any_goals exact hu
  · exact updGroup_tabInv (updGroup_tabInv hu)
  · refine updGroup_tabInv (addAcc_tabInv (updGroup_tabInv (tabInv_foldl (fun _ _ hu => ?_) hu)))
    repeat' split
    all_goals exact hu

theorem execFence_tabInv {w : RWord MemM} (h : TabInv s) : NextTab (execFence w s) := by
  unfold execFence
  refine issue_tabInv (fun _ _ _ _ hu => ?_) h
  dsimp only
  repeat' split
  any_goals exact hu
  · exact acquireL1_tabInv (updGroup_tabInv hu)
  · exact acquireL1_tabInv hu
  · exact updGroup_tabInv hu

theorem onlyWalk_tabInv {k : Nat} {g : Grp} {a : Int} (h : TabInv s) : TabInv (onlyWalk s k g a).1 := by
  fun_cases onlyWalk
  any_goals exact h
  · exact (lookup_tabInv h).bad ‹_›
  · exact (lookup_tabInv h).leaf ‹_›

theorem cinvLines_tabInv {s : State} {k : Nat} {g : Grp} {x : List (Nat × Int)} (h : TabInv s) :
    TabInv (cinvLines s k g x).1 := by
  fun_cases cinvLines
  · exact h
  · exact (onlyWalk_tabInv h).fst ‹_›
  · exact (cinvLines_tabInv ((onlyWalk_tabInv h).fst ‹_›)).fst ‹_›

theorem execCinv_tabInv {w : MWord} (h : TabInv s) : NextTab (execCinv w s) := by
  unfold execCinv
  refine issue_tabInv (fun _ _ _ _ hu => ?_) h
  repeat' split
  any_goals exact hu
  · exact (cinvLines_tabInv hu).fst ‹_›
  · exact tabInv_foldl (fun _ _ hu => hu) ((cinvLines_tabInv hu).fst ‹_›)

theorem execCtag_tabInv {w : MWord} (h : TabInv s) : NextTab (execCtag w s) :=
  memIssue_tabInv (fun _ _ _ _ _ _ hu => sendResult_tabInv hu) h

theorem l1Fill_tabInv {core vf line : Nat} {data : BitVec 1024} (h : TabInv s) : TabInv (l1Fill s core vf line data) :=
  tabInv_ite h h

theorem prefOne_tabInv {k : Nat} {g : Grp} {a : Int} (h : TabInv s) : TabInv (prefOne s k g a) := by
  fun_cases prefOne
  any_goals exact (glbTarget_tabInv h).fst ‹_›
  · exact addAcc_tabInv ((glbTarget_tabInv h).fst ‹_›)
  · exact l1Fill_tabInv ((pumpRead_tabInv ((glbTarget_tabInv h).fst ‹_›)).done ‹_›)

theorem execPref_tabInv {w : MWord} (h : TabInv s) : NextTab (execPref w s) := by
  unfold execPref
  refine issue_tabInv (fun _ _ _ _ hu => ?_) h
  repeat' split
  any_goals exact hu
  exact tabInv_foldl (fun _ _ hu => prefOne_tabInv hu) hu

theorem execCdrain_tabInv {w : RWord MemM} (h : TabInv s) : NextTab (execCdrain w s) := by
  unfold execCdrain
  refine issue_tabInv (fun _ _ _ _ hu => ?_) h
  dsimp only
  repeat' split
  any_goals exact hu
  · exact updGroup_tabInv hu
  · exact addAcc_tabInv hu

theorem txcResult_tabInv {k : Nat} {e : Env} {d : Dst} {slot : Option Nat} {p : Bool} (h : TabInv s) :
    TabInv (txcResult s k e d slot p) := by
  fun_cases txcResult
  · exact sendResult_tabInv h
  · exact h

theorem execTxb_tabInv {w : RWord MemM} (h : TabInv s) : NextTab (execTxb w s) := by
  unfold execTxb
  refine issue_tabInv (fun _ _ _ _ hu => ?_) h
  dsimp only
  repeat' split
  any_goals exact hu
  all_goals exact acquireL1_tabInv (setGroup_tabInv hu)

theorem execTxc_tabInv {w : RWord MemM} (h : TabInv s) : NextTab (execTxc w s) := by
  unfold execTxc
  refine issue_tabInv (fun _ _ _ _ hu => ?_) h
  dsimp only
  repeat' split
  any_goals exact txcResult_tabInv (setGroup_tabInv hu)
  any_goals exact setGroup_tabInv hu
  exact hu

theorem execTxa_tabInv {w : RWord MemM} (h : TabInv s) : NextTab (execTxa w s) := by
  unfold execTxa
  refine issue_tabInv (fun _ _ _ _ hu => ?_) h
  repeat' split
  any_goals exact hu
  all_goals exact setGroup_tabInv hu

theorem execSnappin_tabInv {w : RWord MemM} (h : TabInv s) : NextTab (execSnappin w s) := by
  unfold execSnappin
  refine issue_tabInv (fun _ _ _ _ hu => ?_) h
  dsimp only
  repeat' split
  any_goals exact hu
  · exact sendResult_tabInv hu
  · exact sendResult_tabInv (updCtx_tabInv hu)
  · exact sendResult_tabInv hu

theorem execSnaprel_tabInv {w : RWord MemM} (h : TabInv s) : NextTab (execSnaprel w s) := by
  unfold execSnaprel
  refine issue_tabInv (fun _ _ _ _ hu => ?_) h
  dsimp only
  repeat' split
  any_goals exact hu
  all_goals exact updCtx_tabInv hu

/-! The start of groups. -/

theorem wakeSpawns_tabInv {core : Nat} (h : TabInv s) : TabInv (wakeSpawns s core) :=
  tabInv_foldl (fun _ _ hu => updGroup_tabInv hu) h

theorem placeBin_tabInv {core bin : Nat} {slot : Option Nat} (h : TabInv s) : TabInv (placeBin s core bin slot) := by
  fun_cases placeBin
  any_goals exact h
  next s1 _ s2 s3 s4 =>
    have hs2 : TabInv s2 := setGroup_tabInv (h.snd ‹_›)
    have hs4 : TabInv s4 := tabInv_of hs2.groups hs2.teams.put hs2.ctxs
    exact wakeSpawns_tabInv hs4

theorem fireBin_tabInv {core bin : Nat} (h : TabInv s) : TabInv (fireBin s core bin) := placeBin_tabInv h

theorem zeroRows_tabInv {core row n : Nat} (h : TabInv s) : TabInv (zeroRows s core row n) := h

theorem freeQueues_tabInv {core : Nat} {p : QSlot → Bool} (h : TabInv s) : TabInv (freeQueues s core p) := 
  tabInv_foldl (fun u x hu => zeroRows_tabInv (s := u) (core := core) (row := x.2.base) (n := queueRows x.2) hu) h

theorem endTeam_tabInv {tk : Nat} (h : TabInv s) : TabInv (endTeam s tk) := by
  fun_cases endTeam
  any_goals exact h
  next s0 s1 =>
    have hs0 : TabInv s0 := freeQueues_tabInv h
    have hs1 : TabInv s1 := tabInv_ite (zeroRows_tabInv hs0) hs0
    exact tabInv_of hs1.groups hs1.teams.del hs1.ctxs

/-! Control and group instructions. -/

theorem raiseWord_tabInv {cause : Nat} (h : TabInv s) : NextTab (raiseWord s cause) := by
  fun_cases raiseWord
  any_goals exact trivial
  · exact takeFault_tabInv h
  · exact h

theorem execNop_tabInv {w : RWord (BitVec 12)} (h : TabInv s) : NextTab (execNop w s) := issue_tabInv (fun _ _ _ _ hu => hu) h

theorem execBra_tabInv {w : IWord (BitVec 12)} (h : TabInv s) : NextTab (execBra w s) := by
  unfold execBra
  refine issue_tabInv (fun _ _ _ _ hu => ?_) h
  dsimp only
  repeat' split
  any_goals exact hu
  · exact updGroup_tabInv hu
  · exact setGroup_tabInv hu

theorem execBrd_tabInv {w : IWord (BitVec 12)} (h : TabInv s) : NextTab (execBrd w s) := by
  unfold execBrd
  refine issue_tabInv (fun _ _ _ _ hu => ?_) h
  dsimp only
  repeat' split
  · exact updGroup_tabInv hu
  · exact hu
  · exact setGroup_tabInv hu

theorem execBrx_tabInv {w : RWord (BitVec 12)} (h : TabInv s) : NextTab (execBrx w s) := by
  unfold execBrx
  refine issue_tabInv (fun _ _ _ _ hu => ?_) h
  repeat' split
  · exact updGroup_tabInv hu
  · exact hu
  · exact setGroup_tabInv hu

theorem execJarm_tabInv {w : IWord (BitVec 12)} (h : TabInv s) : NextTab (execJarm w s) := by
  unfold execJarm
  refine issue_tabInv (fun _ _ _ _ hu => ?_) h
  dsimp only
  repeat' split
  any_goals exact hu
  exact setGroup_tabInv hu

theorem execJarr_tabInv {w : RWord (BitVec 12)} (h : TabInv s) : NextTab (execJarr w s) := by
  unfold execJarr
  refine issue_tabInv (fun _ _ _ _ hu => ?_) h
  dsimp only
  repeat' split
  · exact updGroup_tabInv hu
  · exact hu
  · exact setGroup_tabInv hu

theorem callTo_tabInv {k : Nat} {g : Grp} {e : Env} {tg : List (Nat × Int)} {n : Notes} (h : TabInv s) :
    ResTab (callTo s k g e tg n) := by
  fun_cases callTo
  any_goals exact h
  · exact updGroup_tabInv h
  · exact Out_toRes_tabInv (Out_andThen_tabInv (rasPush_tabInv h) (fun _ hu => updGroup_tabInv hu))

theorem execCall_tabInv {w : IWord (BitVec 12)} (h : TabInv s) : NextTab (execCall w s) :=
  issue_tabInv (fun _ _ _ _ hu => callTo_tabInv hu) h

theorem execCallx_tabInv {w : RWord (BitVec 12)} (h : TabInv s) : NextTab (execCallx w s) :=
  issue_tabInv (fun _ _ _ _ hu => callTo_tabInv hu) h

theorem keepRas_tabInv {k : Nat} {g : Grp} (h : TabInv s) : TabInv (keepRas s k g) := updGroup_tabInv h

theorem execRet_tabInv {w : RWord (BitVec 12)} (h : TabInv s) : NextTab (execRet w s) := by
  unfold execRet
  refine issue_tabInv (fun _ _ _ _ hu => resTab_ite (goOn_tabInv hu) (resTab_ite hu ?_)) h
  refine Out_toRes_tabInv (Out_andThen_tabInv (rasRefill_tabInv hu) (fun _ hu1 => ?_))
  split
  · exact hu1
  split
  · exact keepRas_tabInv hu1
  refine @outTab_ite _ _ _ _ ?_ ?_
  · exact keepRas_tabInv hu1
  · exact outTab_ite (setGroup_tabInv hu1) (setGroup_tabInv hu1)

theorem execEndI_tabInv {w : RWord (BitVec 12)} (h : TabInv s) : NextTab (execEndI w s) := by
  unfold execEndI
  refine issue_tabInv (fun _ _ _ _ hu => ?_) h
  repeat' split
  · exact updGroup_tabInv hu
  · exact setGroup_tabInv hu

theorem execTrap_tabInv {w : IWord (BitVec 12)} (h : TabInv s) : NextTab (execTrap w s) := by
  unfold execTrap
  refine issue_tabInv (fun _ _ _ _ hu => ?_) h
  repeat' split
  all_goals exact hu

theorem execBkpt_tabInv {w : IWord (BitVec 12)} (h : TabInv s) : NextTab (execBkpt w s) := by
  unfold execBkpt
  refine issue_tabInv (fun _ _ _ _ hu => ?_) h
  dsimp only
  repeat' split
  · exact updGroup_tabInv hu
  · exact prfRecord_tabInv (setGroup_tabInv hu)
  · exact hu

theorem execBind_tabInv {w : RWord (BitVec 12)} (h : TabInv s) : NextTab (execBind w s) := by
  unfold execBind
  refine issue_tabInv (fun _ _ _ _ hu => ?_) h
  repeat' split
  any_goals exact hu
  · exact updGroup_tabInv hu
  · exact ((loadNow_tabInv hu).fst ‹_›).wait rfl
  · exact ((loadNow_tabInv hu).fst ‹_›).fault rfl
  · exact updGroup_tabInv (acquireL1_tabInv (((loadNow_tabInv hu).fst ‹_›).ok rfl))
  · exact updGroup_tabInv ((translate_tabInv (((loadNow_tabInv hu).fst ‹_›).ok rfl)).ok ‹_›)
  · exact (translate_tabInv (((loadNow_tabInv hu).fst ‹_›).ok rfl)).fault ‹_›
  · exact (translate_tabInv (((loadNow_tabInv hu).fst ‹_›).ok rfl)).absent ‹_›

theorem execSpawn_tabInv {w : RWord (BitVec 12)} (h : TabInv s) : NextTab (execSpawn w s) := by
  unfold execSpawn
  refine issue_tabInv (fun _ _ _ _ hu => ?_) h
  dsimp only
  repeat' split
  any_goals exact hu
  any_goals exact updGroup_tabInv hu
  exact tabInv_foldl (fun _ _ hu => fireBin_tabInv hu) (updGroup_tabInv hu)

theorem execLaunch_tabInv {w : RWord (BitVec 12)} (h : TabInv s) : NextTab (execLaunch w s) := by
  unfold execLaunch
  refine issue_tabInv (fun _ _ _ _ hu => ?_) h
  dsimp only
  repeat' split
  any_goals exact hu
  · exact (loadNow_tabInv hu).wait ‹_›
  · exact (loadNow_tabInv hu).fault ‹_›
  · exact (loadNow_tabInv ((loadNow_tabInv hu).ok ‹_›)).wait ‹_›
  · exact (loadNow_tabInv ((loadNow_tabInv hu).ok ‹_›)).fault ‹_›
  · exact updGroup_tabInv (((loadNow_tabInv ((loadNow_tabInv hu).ok ‹_›)).ok ‹_›).same)

theorem execYield_tabInv {w : RWord (BitVec 12)} (h : TabInv s) : NextTab (execYield w s) := by
  unfold execYield
  refine issue_tabInv (fun _ _ _ _ hu => ?_) h
  repeat' split
  any_goals exact setGroup_tabInv hu
  exact hu

theorem execSleep_tabInv {w : IWord (BitVec 12)} (h : TabInv s) : NextTab (execSleep w s) := by
  unfold execSleep
  refine issue_tabInv (fun _ _ _ _ hu => ?_) h
  repeat' split
  all_goals exact updGroup_tabInv hu

theorem execMark_tabInv {w : IWord (BitVec 12)} (h : TabInv s) : NextTab (execMark w s) := by
  unfold execMark
  refine issue_tabInv (fun _ _ _ _ hu => ?_) h
  repeat' split
  any_goals exact hu
  all_goals exact setGroup_tabInv hu

theorem execWrem_tabInv {w : RWord (BitVec 12)} (h : TabInv s) : NextTab (execWrem w s) := by
  unfold execWrem
  refine issue_tabInv (fun _ _ _ _ hu => ?_) h
  dsimp only
  repeat' split
  any_goals exact hu
  · exact updGroup_tabInv hu
  · exact setGroup_tabInv hu

theorem execEmp_tabInv {w : RWord (BitVec 12)} (h : TabInv s) : NextTab (execEmp w s) := by
  unfold execEmp
  refine issue_tabInv (fun _ _ _ _ hu => ?_) h
  dsimp only
  repeat' split
  · exact updGroup_tabInv hu
  · exact setGroup_tabInv hu

theorem execWrsr_tabInv {w : RWord (BitVec 12)} (h : TabInv s) : NextTab (execWrsr w s) := by
  unfold execWrsr
  refine issue_tabInv (fun _ _ _ _ hu => ?_) h
  dsimp only
  repeat' split
  any_goals exact setGroup_tabInv hu
  all_goals exact hu

theorem execRdcnt_tabInv {w : RWord (BitVec 12)} (h : TabInv s) : NextTab (execRdcnt w s) := by
  unfold execRdcnt
  refine issue_tabInv (fun _ _ _ _ hu => ?_) h
  dsimp only
  repeat' split
  any_goals exact hu
  all_goals exact sendResult_tabInv hu

/-! Channels, batches and barrier instructions. -/

theorem instPut_tabInv {ctx : Nat} {id : W64} {c : Cap} (h : TabInv s) : TabInv (instPut s ctx id c) := by
  unfold instPut
  refine tabInv_ite (updCtx_tabInv h) ?_
  repeat' split
  · exact tabInv_of h.groups h.teams.put h.ctxs
  · exact h

theorem wakeCap_tabInv {id : W64} {c : Cap} (h : TabInv s) : TabInv (wakeCap s id c) := by
  fun_cases wakeCap
  any_goals exact h
  exact updGroup_tabInv h

theorem wakePush_tabInv {ctx : Nat} {id : W64} (h : TabInv s) : TabInv (wakePush s ctx id) := by
  fun_cases wakePush
  · exact wakeCap_tabInv h
  · exact h

theorem wakePops_tabInv {core q : Nat} (h : TabInv s) : TabInv (wakePops s core q) := by
  fun_cases wakePops
  any_goals exact tabInv_foldl (fun _ _ hu => updGroup_tabInv hu) h
  · exact h
  · exact updGroup_tabInv (tabInv_foldl (fun _ _ hu => updGroup_tabInv hu) h)

theorem capSet_tabInv {g : Grp} {id : W64} {c : Cap} (h : TabInv s) : TabInv (capSet s g id c) :=
  tabInv_ite (instPut_tabInv h) (tabInv_of h.groups h.teams.upd h.ctxs)

theorem sendMsgs_tabInv {ms : List Msg} (h : TabInv s) : TabInv (sendMsgs s ms) := tabInv_foldl (fun _ _ hu => hu) h

theorem idleVar_tabInv {k : Nat} {g : Grp} {slot : Option Nat} (h : TabInv s) : ResTab (idleVar s k g slot) :=
  sendResult_tabInv h

theorem tagPush_tabInv {k pc : Nat} {slot : Option Nat} (h : TabInv s) : TabInv (tagPush s k pc slot) :=
  tabInv_ite h (updGroup_tabInv h)

theorem pushSend_tabInv {k : Nat} {g : Grp} {e : Env} {w : RWord (BitVec 12)} {id : W64} {c : Cap} {es : List (List Byte)}
    (h : TabInv s) :
    TabInv (pushSend s k g e w id c es) := by
  fun_cases pushSend
  any_goals exact wakeCap_tabInv (updGroup_tabInv (sendMsgs_tabInv (capSet_tabInv h)))
  exact tagPush_tabInv (sendResult_tabInv (wakeCap_tabInv (updGroup_tabInv (sendMsgs_tabInv (capSet_tabInv h)))))

theorem execPush_tabInv {w : RWord (BitVec 12)} (h : TabInv s) : NextTab (execPush w s) := by
  unfold execPush
  refine issue_tabInv (fun _ _ _ _ hu => ?_) h
  dsimp only
  repeat' split
  any_goals exact hu
  · exact idleVar_tabInv hu
  · exact pushSend_tabInv hu
  · exact sendResult_tabInv hu
  · exact updGroup_tabInv (capSet_tabInv hu)

theorem queueRemove_tabInv {core q : Nat} {x : QSlot} {n : Nat} (h : TabInv s) : TabInv (queueRemove s core q x n) :=
  sendMsgs_tabInv h

theorem execPop_tabInv {w : RWord (BitVec 12)} (h : TabInv s) : NextTab (execPop w s) := by
  unfold execPop
  refine issue_tabInv (fun _ _ _ _ hu => ?_) h
  split
  extract_lets
  refine resTab_ite (idleVar_tabInv hu) (resTab_ite hu (resTab_ite hu (resTab_ite hu ?_)))
  split
  · exact hu
  extract_lets _ _ s1 s2
  have hs1 : TabInv s1 := tabInv_ite hu (wakePops_tabInv (queueRemove_tabInv hu))
  have hs2 : TabInv s2 := tabInv_ite (acquireL1_tabInv hs1) hs1
  refine resTab_ite hu (resTab_ite ?_ (resTab_ite (sendResult_tabInv hu) (updGroup_tabInv (tabInv_ite hu hu))))
  split
  · exact sendResult_tabInv hs2
  · exact hs2

theorem execCaprd_tabInv {w : RWord (BitVec 12)} (h : TabInv s) : NextTab (execCaprd w s) :=
  issue_tabInv (fun _ _ _ _ hu => sendResult_tabInv hu) h

theorem onBar_tabInv {w : RWord (BitVec 12)} {hi : Nat} {rel : Bool} {place : Option Nat} {idle : State → Nat → Grp → Res}
    {body : State → Nat → Grp → Env → Nat → Nat → Res} {k : Nat} {g : Grp} {e : Env}
    (hidle : ∀ u x1 x2, TabInv u → ResTab (idle u x1 x2))
    (hbody : ∀ u x1 x2 x3 x4 x5, TabInv u → ResTab (body u x1 x2 x3 x4 x5)) (h : TabInv s) :
    ResTab (onBar w hi rel place idle body s k g e) := by
  fun_cases onBar
  any_goals exact h
  any_goals exact hbody _ _ _ _ _ _ h
  exact hidle _ _ _ h

theorem execBinit_tabInv {w : RWord (BitVec 12)} (h : TabInv s) : NextTab (execBinit w s) := by
  unfold execBinit
  refine issue_tabInv (fun _ _ _ _ hu => onBar_tabInv (fun _ _ _ hv => hv) (fun _ _ _ _ _ _ hv => ?_) hu) h
  repeat' split
  · exact hv
  · exact updGroup_tabInv hv

theorem execBarrive_tabInv {w : RWord (BitVec 12)} (h : TabInv s) : NextTab (execBarrive w s) := by
  unfold execBarrive
  refine issue_tabInv (fun _ _ _ _ hu => onBar_tabInv (fun _ _ _ hv => hv) (fun _ _ _ _ _ _ hv => ?_) hu) h
  dsimp only
  repeat' split
  · exact hv
  · exact barEval_tabInv (updGroup_tabInv hv)

theorem execBexpect_tabInv {w : RWord (BitVec 12)} (h : TabInv s) : NextTab (execBexpect w s) := by
  unfold execBexpect
  refine issue_tabInv (fun _ _ _ _ hu => onBar_tabInv (fun _ _ _ hv => hv) (fun _ _ _ _ _ _ hv => ?_) hu) h
  dsimp only
  repeat' split
  any_goals exact hv
  exact barEval_tabInv (updGroup_tabInv hv)

theorem execBwaitp_tabInv {w : RWord (BitVec 12)} (h : TabInv s) : NextTab (execBwaitp w s) := by
  unfold execBwaitp
  refine issue_tabInv (fun _ _ _ _ hu => onBar_tabInv (fun _ _ _ hv => idleVar_tabInv hv) (fun _ _ _ _ _ _ hv => ?_) hu) h
  dsimp only
  repeat' split
  any_goals exact sendResult_tabInv hv
  · exact hv
  · exact updGroup_tabInv (updGroup_tabInv hv)

theorem execBtest_tabInv {w : RWord (BitVec 12)} (h : TabInv s) : NextTab (execBtest w s) := by
  unfold execBtest
  refine issue_tabInv (fun _ _ _ _ hu => onBar_tabInv (fun _ _ _ hv => sendResult_tabInv hv) (fun _ _ _ _ _ _ hv => ?_) hu) h
  repeat' split
  · exact sendResult_tabInv hv
  · exact hv

theorem execBinval_tabInv {w : RWord (BitVec 12)} (h : TabInv s) : NextTab (execBinval w s) := 
  issue_tabInv (fun _ _ _ _ hu => onBar_tabInv (fun _ _ _ hv => hv)
    (fun _ _ _ _ _ _ hv => tabInv_foldl (fun _ _ hw => endBarWaits_tabInv hw) (updGroup_tabInv hv)) hu) h

theorem execBclose_tabInv {w : RWord (BitVec 12)} (h : TabInv s) : NextTab (execBclose w s) := by
  unfold execBclose
  refine issue_tabInv (fun _ _ _ _ hu => ?_) h
  dsimp only
  repeat' split
  any_goals exact sendResult_tabInv hu
  exact updGroup_tabInv hu

theorem execBwait_tabInv {w : RWord (BitVec 12)} (h : TabInv s) : NextTab (execBwait w s) := by
  unfold execBwait
  refine issue_tabInv (fun _ _ _ _ hu => ?_) h
  dsimp only
  repeat' split
  any_goals exact hu
  any_goals exact setGroup_tabInv hu
  exact updGroup_tabInv hu

theorem execBpoll_tabInv {w : RWord (BitVec 12)} (h : TabInv s) : NextTab (execBpoll w s) := by
  unfold execBpoll
  refine issue_tabInv (fun _ _ _ _ hu => ?_) h
  dsimp only
  repeat' split
  any_goals exact hu
  exact sendResult_tabInv hu

theorem execQfence_tabInv {w : RWord (BitVec 12)} (h : TabInv s) : NextTab (execQfence w s) := by
  unfold execQfence
  refine issue_tabInv (fun _ _ _ _ hu => ?_) h
  dsimp only
  repeat' split
  any_goals exact hu
  all_goals exact updGroup_tabInv hu

/-! Lane-crossing instructions. -/

theorem execRedi_tabInv {w : RWord IntM} (h : TabInv s) : NextTab (execRedi w s) := by
  unfold execRedi
  refine issue_tabInv (fun _ _ _ _ hu => ?_) h
  dsimp only
  repeat' split
  any_goals exact sendResult_tabInv hu
  exact setGroup_tabInv hu

theorem execScan_tabInv {w : RWord IntM} (h : TabInv s) : NextTab (execScan w s) := by
  unfold execScan
  refine issue_tabInv (fun _ _ _ _ hu => ?_) h
  dsimp only
  repeat' split
  all_goals exact setGroup_tabInv hu

/-! Floating instructions. -/

theorem execFred_tabInv {w : RWord FltM} (h : TabInv s) : NextTab (execFred w s) := by
  unfold execFred
  refine issue_tabInv (fun _ _ _ _ hu => ?_) h
  dsimp only
  repeat' split
  any_goals exact prfAdd_tabInv (sendResult_tabInv hu)
  exact setGroup_tabInv hu

/-! Engine instructions. -/

theorem putOp_tabInv {k : Nat} {g : Grp} {i : Instr} {cls : Nat} {p : EngPlan} {bar : Option Nat} (h : TabInv s) :
    TabInv (putOp s k g i cls p bar) :=
  prfAdd_tabInv (setGroup_tabInv h)

theorem planIssue_tabInv {k : Nat} {g : Grp} {i : Instr} {cls : Nat} {bar : Option Nat} {p : EngPlan} (h : TabInv s) :
    ResTab (planIssue s k g i cls bar p) := by
  fun_cases planIssue
  any_goals exact h
  exact putOp_tabInv h

theorem engBody_tabInv {i : Instr} {cls : Nat} {c : Opnd} {pre : State → Grp → Env → Option Nat}
    {plan : State → Nat → Grp → Env → Except Nat EngPlan} {k : Nat} {g : Grp} {e : Env} (h : TabInv s) :
    ResTab (engBody i cls c pre plan s k g e) := by
  fun_cases engBody
  any_goals exact h
  exact planIssue_tabInv h

theorem execCpy_tabInv {w : RWord (BitVec 12)} (h : TabInv s) : NextTab (execCpy w s) :=
  issue_tabInv (fun _ _ _ _ hu => engBody_tabInv hu) h

theorem execCpyT_tabInv {w : RWord (BitVec 12)} (h : TabInv s) : NextTab (execCpyT w s) :=
  issue_tabInv (fun _ _ _ _ hu => engBody_tabInv hu) h

theorem execCpyCv_tabInv {w : RWord (BitVec 12)} (h : TabInv s) : NextTab (execCpyCv w s) :=
  issue_tabInv (fun _ _ _ _ hu => engBody_tabInv hu) h

theorem execCpyMeta_tabInv {w : RWord (BitVec 12)} (h : TabInv s) : NextTab (execCpyMeta w s) :=
  issue_tabInv (fun _ _ _ _ hu => engBody_tabInv hu) h

theorem execGather_tabInv {w : RWord (BitVec 12)} (h : TabInv s) : NextTab (execGather w s) :=
  issue_tabInv (fun _ _ _ _ hu => engBody_tabInv hu) h

theorem execMzero_tabInv {w : RWord (BitVec 12)} (h : TabInv s) : NextTab (execMzero w s) :=
  issue_tabInv (fun _ _ _ _ hu => engBody_tabInv hu) h

theorem execMloop_tabInv {w : RWord (BitVec 12)} (h : TabInv s) : NextTab (execMloop w s) :=
  issue_tabInv (fun _ _ _ _ hu => engBody_tabInv hu) h

theorem execMloopSp_tabInv {w : RWord (BitVec 12)} (h : TabInv s) : NextTab (execMloopSp w s) :=
  issue_tabInv (fun _ _ _ _ hu => engBody_tabInv hu) h

theorem execMacc_tabInv {w : RWord (BitVec 12)} (h : TabInv s) : NextTab (execMacc w s) := by
  unfold execMacc
  refine issue_tabInv (fun _ _ _ _ hu => ?_) h
  repeat' split
  · exact updGroup_tabInv ((engBody_tabInv hu).ok ‹_›)
  · exact (engBody_tabInv hu).ok ‹_›
  · exact engBody_tabInv hu

theorem execCbload_tabInv {w : RWord (BitVec 12)} (h : TabInv s) : NextTab (execCbload w s) :=
  issue_tabInv (fun _ _ _ _ hu => engBody_tabInv hu) h

theorem execXfmJ_tabInv {w : RWord (BitVec 12)} (h : TabInv s) : NextTab (execXfmJ w s) :=
  issue_tabInv (fun _ _ _ _ hu => engBody_tabInv hu) h

theorem execXfmR_tabInv {w : RWord (BitVec 12)} (h : TabInv s) : NextTab (execXfmR w s) := by
  unfold execXfmR
  refine issue_tabInv (fun _ _ _ _ hu => ?_) h
  dsimp only
  repeat' split
  any_goals exact hu
  · exact sendResult_tabInv hu
  · exact setGroup_tabInv (prfAdd_tabInv hu)
  · exact sendResult_tabInv (prfAdd_tabInv hu)
  · exact sendResult_tabInv hu
  · exact setGroup_tabInv (prfAdd_tabInv hu)
  · exact sendResult_tabInv (prfAdd_tabInv hu)

theorem decodeEnd_tabInv {k : Nat} {g : Grp} {w : RWord (BitVec 12)} {span len cur count : Nat} {last err : Bool}
    {ws : List RegW} {rest : List Nat} (h : TabInv s) :
    ResTab (decodeEnd s k g w span len cur count last err ws rest) :=
  sendResult_tabInv h

theorem execDecode_tabInv {w : RWord (BitVec 12)} (h : TabInv s) : NextTab (execDecode w s) := by
  unfold execDecode
  refine issue_tabInv (fun _ _ _ _ hu => ?_) h
  dsimp only
  repeat' split
  any_goals exact hu
  any_goals exact decodeEnd_tabInv hu
  all_goals exact setGroup_tabInv hu

/-! Fetch. -/

theorem farText_tabInv {g : Grp} {pa : Nat} (h : TabInv s) : TabInv (farText s g pa).1 := by
  fun_cases farText
  · exact (agentRead_tabInv h).stall ‹_›
  · exact h
  · exact ((agentRead_tabInv h).done ‹_›).same
  · exact (agentRead_tabInv ((agentRead_tabInv h).done ‹_›)).stall ‹_›
  · exact (agentRead_tabInv h).done ‹_›
  · exact ((agentRead_tabInv ((agentRead_tabInv h).done ‹_›)).done ‹_›).same

theorem fetchWord_tabInv {k : Nat} {g : Grp} (h : TabInv s) : TabInv (fetchWord s k g).1 := by
  fun_cases fetchWord
  any_goals exact (lookup_tabInv h).leaf ‹_›
  any_goals exact noteIntegrity_tabInv ((lookup_tabInv h).leaf ‹_›)
  · exact h
  · exact (lookup_tabInv h).bad ‹_›
  · exact farText_tabInv ((lookup_tabInv h).leaf ‹_›)

theorem fetch_tabInv {k : Nat} {g : Grp} (h : TabInv s) : TabInv (fetch s k g).1 := by
  fun_cases fetch
  any_goals exact h
  · exact (fetchWord_tabInv h).fst ‹_›
  · exact fetchWord_tabInv h

/-! The memory side's own steps. -/

theorem drainDone_tabInv {id : Nat} (h : TabInv s) : TabInv (drainDone s id) :=
  tabInv_foldl (fun _ _ hu => updGroup_tabInv hu) h

theorem failAcc_tabInv {id : Nat} {key : KeyId} {pa cause va : Nat} (h : TabInv s) : TabInv (failAcc s id key pa cause va) := by
  fun_cases failAcc
  · exact h
  · exact drainDone_tabInv (updGroup_tabInv (updGroup_tabInv h))
  · exact haltKey_tabInv (drainDone_tabInv (updGroup_tabInv (updGroup_tabInv h)))
  · exact haltRise_tabInv (drainDone_tabInv (updGroup_tabInv (updGroup_tabInv h)))

theorem loadAt_tabInv {id i : Nat} {a : Acc} {p : Part} (h : TabInv s) : TabInv (loadAt s id i a p) := by
  unfold loadAt
  extract_lets
  split
  · next s1 _ e =>
    have hs1 : TabInv s1 := (pumpRead_tabInv h).done e
    extract_lets s2 s3
    have hs2 : TabInv s2 := tabInv_ite (countRead_tabInv hs1) hs1
    have hs3 : TabInv s3 := tabInv_ite (l1Fill_tabInv hs2) hs2
    exact hs3
  · exact ((pumpRead_tabInv h).stall ‹_›).same
  · exact failAcc_tabInv h

theorem partsDone_tabInv {id : Nat} {is : List Nat} (h : TabInv s) : TabInv (partsDone s id is) :=
  tabInv_foldl (fun _ _ hu => hu) h

theorem partsHold_tabInv {id : Nat} {is : List Nat} {h1 : Hold} (h : TabInv s) : TabInv (partsHold s id is h1) :=
  tabInv_foldl (fun _ _ hu => hu) h

theorem storeAt_tabInv {id : Nat} {a : Acc} {ps : Tab Part} (h : TabInv s) : TabInv (storeAt s id a ps) := by
  unfold storeAt
  split
  · exact h
  extract_lets
  split
  · exact partsDone_tabInv (countWrite_tabInv ((pumpWrites_tabInv h).done ‹_›))
  · exact partsHold_tabInv ((pumpWrites_tabInv h).stall ‹_›)
  · exact failAcc_tabInv h

theorem atomView_tabInv {v : TxView} {id : Nat} {a : Acc} {s : State} {x : Tab Part} (h : TabInv s) :
    TabInv (atomView v id a s x) := by
  fun_cases atomView
  · exact h
  · exact ((viewAtomic_tabInv h).stall ‹_›).same
  · exact failAcc_tabInv h
  · exact atomView_tabInv (((viewAtomic_tabInv h).done ‹_›).same)

theorem atomAt_tabInv {id : Nat} {a : Acc} {ps : Tab Part} (h : TabInv s) : TabInv (atomAt s id a ps) := by
  unfold atomAt
  split
  · exact h
  refine tabInv_ite (elim_tabInv h (fun _ _ => atomView_tabInv h)) ?_
  extract_lets
  split
  · exact partsHold_tabInv ((pumpRead_tabInv h).stall ‹_›)
  · exact failAcc_tabInv h
  · next s1 _ e =>
    have hs1 : TabInv s1 := (pumpRead_tabInv h).done e
    dsimp only
    split
    · exact partsHold_tabInv ((pumpWrite_tabInv hs1).stall ‹_›)
    · exact failAcc_tabInv h
    · next s2 _ e2 =>
      have hs2 : TabInv s2 := (pumpWrite_tabInv hs1).done e2
      exact partsDone_tabInv (tabInv_foldl (fun _ _ hu => hu) (countWrite_tabInv (pumpCount_tabInv hs2)))

theorem onPart_tabInv {acc part : Nat} {f : Acc → Part → State} (h : TabInv s) (hf : ∀ x0 x1, TabInv (f x0 x1)) :
    TabInv (onPart s acc part f) := by
  fun_cases onPart
  any_goals exact h
  exact hf _ _

theorem execBankAccess_tabInv {acc part : Nat} (h : TabInv s) : NextTab (execBankAccess acc part s) := by
  unfold execBankAccess
  refine event_tabInv h (onPart_tabInv h (fun _ _ => ?_))
  dsimp only
  repeat' split
  any_goals exact h
  any_goals exact loadAt_tabInv h
  any_goals exact storeAt_tabInv h
  all_goals exact atomAt_tabInv h

theorem pumpStore_tabInv {acc line : Nat} {full : Bool} (h : TabInv s) : TabInv (pumpStore s acc line full) := by
  fun_cases pumpStore
  any_goals exact h
  exact storeAt_tabInv h

theorem execPumpFullWrite_tabInv {acc line : Nat} (h : TabInv s) : NextTab (execPumpFullWrite acc line s) :=
  event_tabInv h (pumpStore_tabInv h)

theorem execPumpPartialWrite_tabInv {acc line : Nat} (h : TabInv s) : NextTab (execPumpPartialWrite acc line s) :=
  event_tabInv h (pumpStore_tabInv h)

theorem execPumpRead_tabInv {acc part : Nat} (h : TabInv s) : NextTab (execPumpRead acc part s) :=
  event_tabInv h (onPart_tabInv h (fun _ _ => tabInv_ite (loadAt_tabInv h) h))

theorem execPumpAtomic_tabInv {acc part : Nat} (h : TabInv s) : NextTab (execPumpAtomic acc part s) :=
  event_tabInv h (onPart_tabInv h (fun _ _ => tabInv_ite (atomAt_tabInv h) h))

theorem execReencryptComplete_tabInv {grp : Nat} (h : TabInv s) : NextTab (execReencryptComplete grp s) :=
  event_tabInv h (endReenc_tabInv h)

theorem endFaultWait_tabInv {k : Nat} (h : TabInv s) : TabInv (endFaultWait s k) := by
  fun_cases endFaultWait
  any_goals exact h
  exact setGroup_tabInv h

theorem respond_tabInv {acc : Nat} (h : TabInv s) : TabInv (respond s acc) := by
  fun_cases respond
  any_goals exact h
  all_goals exact endFaultWait_tabInv (tabInv_ite (acquireL1_tabInv (setGroup_tabInv h)) (setGroup_tabInv h))

theorem execMemoryResponse_tabInv {acc : Nat} (h : TabInv s) : NextTab (execMemoryResponse acc s) :=
  event_tabInv h (respond_tabInv h)

theorem storeAck_tabInv {acc : Nat} (h : TabInv s) : TabInv (storeAck s acc) := by
  fun_cases storeAck
  any_goals exact h
  exact drainDone_tabInv (updGroup_tabInv h)

theorem execStoreAck_tabInv {acc : Nat} (h : TabInv s) : NextTab (execStoreAck acc s) := event_tabInv h (storeAck_tabInv h)

theorem execWkeyLoad_tabInv {slot : Nat} (h : TabInv s) : NextTab (execWkeyLoad slot s) := event_tabInv h (tabInv_ite h h)

theorem execWkeyRekey_tabInv {slot : Nat} {x : List Nat} (h : TabInv s) : NextTab (execWkeyRekey slot x s) :=
  event_tabInv h (tabInv_ite h h)

theorem execWkeyClear_tabInv {slot : Nat} (h : TabInv s) : NextTab (execWkeyClear slot s) := event_tabInv h (tabInv_ite h h)

theorem execRekeyLine_tabInv {slot line : Nat} (h : TabInv s) : NextTab (execRekeyLine slot line s) :=
  event_tabInv h (tabInv_ite h h)

theorem execSnapshotWaitEnd_tabInv {acc : Nat} (h : TabInv s) : NextTab (execSnapshotWaitEnd acc s) := by
  unfold execSnapshotWaitEnd
  refine event_tabInv h ?_
  dsimp only
  repeat' split
  · exact h
  · refine tabInv_foldl (fun _ _ hu => ?_) h
    repeat' split
    any_goals exact loadAt_tabInv hu
    any_goals exact hu
    · exact pumpCount_tabInv (loadAt_tabInv hu)
    · exact atomAt_tabInv hu

theorem execPoolWaitEnd_tabInv {acc : Nat} (h : TabInv s) : NextTab (execPoolWaitEnd acc s) := by
  unfold execPoolWaitEnd
  refine event_tabInv h ?_
  repeat' split
  any_goals exact h
  · exact storeAt_tabInv h
  · exact atomAt_tabInv h

theorem execPoolWaitTimeout_tabInv {acc : Nat} (h : TabInv s) : NextTab (execPoolWaitTimeout acc s) := by
  unfold execPoolWaitTimeout
  refine event_tabInv h ?_
  repeat' split
  any_goals exact h
  exact failAcc_tabInv h

theorem execWaitaRegister_tabInv {acc part : Nat} (h : TabInv s) : NextTab (execWaitaRegister acc part s) := by
  unfold execWaitaRegister
  refine event_tabInv h (onPart_tabInv h (fun _ _ => tabInv_ite h ?_))
  dsimp only
  repeat' split
  any_goals exact ((pumpRead_tabInv h).done ‹_›).same
  · exact ((pumpRead_tabInv h).stall ‹_›).same
  · exact failAcc_tabInv h

theorem execWaitaDeadline_tabInv {acc part : Nat} (h : TabInv s) : NextTab (execWaitaDeadline acc part s) := by
  unfold execWaitaDeadline
  refine event_tabInv h ?_
  repeat' split
  all_goals exact h

theorem execWaitaWake_tabInv {acc : Nat} (h : TabInv s) : NextTab (execWaitaWake acc s) := by
  unfold execWaitaWake
  refine event_tabInv h ?_
  dsimp only
  repeat' split
  any_goals exact h
  · exact endFaultWait_tabInv (updGroup_tabInv (acquireL1_tabInv (setGroup_tabInv h)))
  · exact endFaultWait_tabInv (updGroup_tabInv (setGroup_tabInv h))

/-! The walk units' own steps. -/

theorem execPageWalk_tabInv {ctx die va : Nat} (h : TabInv s) : NextTab (execPageWalk ctx die va s) := by
  unfold execPageWalk
  refine event_tabInv h (tabInv_ite h ?_)
  repeat' split
  · exact (walkFill_tabInv h).leaf ‹_›
  · exact (walkFill_tabInv h).bad ‹_›
  · exact h

theorem execSetDirty_tabInv {ctx va : Nat} (h : TabInv s) : NextTab (execSetDirty ctx va s) := by
  unfold execSetDirty
  refine event_tabInv h (tabInv_ite h ?_)
  repeat' split
  any_goals exact h
  exact setDirty_tabInv h

theorem execFaultRecordWaitEnd_tabInv {ctx : Nat} (h : TabInv s) : NextTab (execFaultRecordWaitEnd ctx s) := by
  unfold execFaultRecordWaitEnd
  refine event_tabInv h ?_
  dsimp only
  repeat' split
  any_goals exact h
  exact updCtx_tabInv ((ringPush_tabInv h).some ‹_›)

theorem replayWrite_tabInv {id : Nat} {a : Acc} {g : Grp} {x : Xl} {h1 : Part} {ps : Tab Part} (h : TabInv s) :
    ReplayedTab (replayWrite s id a g x h1 ps) := by
  unfold replayWrite
  extract_lets _ _ put
  have hput : ∀ ws, ReplayedTab (put ws) := by
    intro ws
    unfold put
    extract_lets r t
    have hr : TabInv r.1 :=
      List.foldlRecOn (motive := fun r : State × List Part => TabInv r.1) _ _ h (fun _ hq _ _ => putWr_tabInv hq)
    have ht : TabInv t := tabInv_foldl (fun _ _ hu => tabInv_ite hu hu) hr
    exact tabInv_ite (updGroup_tabInv ht) ht
  split
  · exact hput _
  · exact hput _
  · split <;> exact h
  · split <;> exact h

theorem replayThread_tabInv {id : Nat} {a : Acc} {g : Grp} {h1 : Part} {ps : Tab Part} (h : TabInv s) :
    ReplayedTab (replayThread s id a g h1 ps) := by
  fun_cases replayThread
  · exact (translateOnly_tabInv h).fault ‹_›
  · exact (noteFault_tabInv ((translateOnly_tabInv h).absent ‹_›)).fst ‹_›
  · exact (translateOnly_tabInv h).absent ‹_›
  · exact tabInv_ite (dirtyFor_tabInv ((translateOnly_tabInv h).ok ‹_›)) ((translateOnly_tabInv h).ok ‹_›)
  · exact replayWrite_tabInv (tabInv_ite (dirtyFor_tabInv ((translateOnly_tabInv h).ok ‹_›)) ((translateOnly_tabInv h).ok ‹_›))

theorem replayAcc_tabInv {sel : Hold → Bool} {n : Nat} {s : State} {n1 : Nat} (h : TabInv s) : TabInv (replayAcc sel n s n1) := by
  fun_cases replayAcc
  any_goals exact h
  · exact failAcc_tabInv ((replayThread_tabInv h).fault ‹_›)
  · exact replayAcc_tabInv (((replayThread_tabInv h).ok ‹_›).same)

theorem ackEmpty_tabInv {id : Nat} (h : TabInv s) : TabInv (ackEmpty s id) := by
  fun_cases ackEmpty
  any_goals exact h
  exact storeAck_tabInv h

theorem execFltreplayReplay_tabInv {vf seq : Nat} (h : TabInv s) : NextTab (execFltreplayReplay vf seq s) := by
  unfold execFltreplayReplay
  refine event_tabInv h ?_
  extract_lets _ _ _ s2
  have hs2 : TabInv s2 := tabInv_foldl (fun _ _ hu => ackEmpty_tabInv (replayAcc_tabInv hu)) (dropRecords_tabInv h)
  exact hs2

theorem execFltreplayCancel_tabInv {vf seq : Nat} (h : TabInv s) : NextTab (execFltreplayCancel vf seq s) := by
  unfold execFltreplayCancel
  refine event_tabInv h ?_
  extract_lets _ _ _ s1 _ _ _ s2 s3 s4
  have hs2 : TabInv s2 := tabInv_foldl (fun _ _ hu => failAcc_tabInv hu) (dropRecords_tabInv h)
  have hs3 : TabInv s3 := tabInv_foldl (fun _ _ hu => haltRise_tabInv hu) hs2
  have hs4 : TabInv s4 := tabInv_foldl (fun _ _ hu => haltRise_tabInv hu) hs3
  exact tabInv_foldl (fun _ _ hu => raiseGroup_tabInv (updGroup_tabInv hu)) hs4

theorem tlbinv_tabInv {ctl : W64} {scope : Nat} (h : TabInv s) : TabInv (tlbinv s ctl scope) := tabInv_ite h h

theorem execTlbinvRange_tabInv {ctl : BitVec 64} (h : TabInv s) : NextTab (execTlbinvRange ctl s) :=
  event_tabInv h (tlbinv_tabInv h)

theorem execTlbinvVf_tabInv {ctl : BitVec 64} (h : TabInv s) : NextTab (execTlbinvVf ctl s) := event_tabInv h (tlbinv_tabInv h)

theorem execTlbinvAll_tabInv {ctl : BitVec 64} (h : TabInv s) : NextTab (execTlbinvAll ctl s) :=
  event_tabInv h (tlbinv_tabInv h)

theorem execTlbinvText_tabInv {ctl : BitVec 64} (h : TabInv s) : NextTab (execTlbinvText ctl s) :=
  event_tabInv h (tlbinv_tabInv h)

theorem execTlbinvComplete_tabInv (h : TabInv s) : NextTab (execTlbinvComplete s) := event_tabInv h (tabInv_ite h h)

/-! Engine operations as they run. -/

theorem onOp_tabInv {id : Nat} {f : EngOp → State} (h : TabInv s) (hf : ∀ x0, TabInv (f x0)) : TabInv (onOp s id f) := by
  fun_cases onOp
  any_goals exact h
  exact hf _

theorem opFail_tabInv {id cause va : Nat} {key : KeyId} {pa : Nat} (h : TabInv s) : TabInv (opFail s id cause va key pa) := by
  fun_cases opFail
  · exact h
  · exact haltKey_tabInv h
  · exact haltRise_tabInv h

theorem stallKeep_tabInv {s s1 : State} {held h1 : Hold} (h : TabInv s) : TabInv (stallKeep s s1 held h1) := by
  unfold stallKeep
  extract_lets
  split <;> exact h

theorem opEnd_tabInv {id : Nat} {o : EngOp} {rd wr : Nat} {r : ER State} (h : TabInv s) (hr : OpTab r) :
    TabInv (opEnd s id o rd wr r) := by
  fun_cases opEnd
  any_goals exact stallKeep_tabInv h
  · exact hr
  · exact opFail_tabInv h
  · exact ((noteFault_tabInv hr).fst ‹_›).same
  · exact opFail_tabInv hr
  · exact opFail_tabInv hr

theorem glbXlate_tabInv {ck : Nat} {a : Agent} {write : Bool} {u : NumxUse} {va n : Nat} (h : TabInv s) :
    ErTab (glbXlate s ck a write u va n) := by
  fun_cases glbXlate
  any_goals exact (translate_tabInv h).ok ‹_›
  · exact ((translate_tabInv h).fault ‹_›).same
  · exact (translate_tabInv h).absent ‹_›

theorem engXlate_tabInv {o : EngOp} {loc write : Bool} {u : NumxUse} {va n : Nat} (h : TabInv s) :
    ErTab (engXlate s o loc write u va n) := by
  fun_cases engXlate
  any_goals exact h
  exact glbXlate_tabInv h

theorem readRange_tabInv {owner ck : Nat} {r : PRange} {snap : Option Nat} (h : TabInv s) :
    ErTab (readRange s owner ck r snap) := by
  unfold readRange
  extract_lets
  refine List.foldlRecOn (motive := ErTab) _ _ h (fun _ hr1 _ _ => ?_)
  refine ER_bind_tabInv hr1 (fun _ _ hu => ?_)
  split
  · next e1 => exact countRead_tabInv ((agentRead_tabInv hu).done e1)
  · next e1 => exact (agentRead_tabInv hu).stall e1
  · exact hu

theorem writeRange_tabInv {owner ck : Nat} {core : Option Nat} {r : PRange} {bs : List Byte} (h : TabInv s) :
    ErTab (writeRange s owner ck core r bs) := by
  unfold writeRange
  refine ER_bind_tabInv ?_ (fun u _ hu => hu)
  refine List.foldlRecOn (motive := ErTab) _ _ h (fun q hq x _ => ER_bind_tabInv hq (fun u y hu => ?_))
  split
  · next s1 _ e =>
      have hs1 : TabInv s1 := (agentWrite_tabInv hu).done e
      exact countWrite_tabInv (elim_tabInv hs1 (fun _ _ => hs1))
  · next e => exact (agentWrite_tabInv hu).stall e
  · exact hu

theorem engRead_tabInv {o : EngOp} {loc layout : Bool} {snap : Option Nat} {va n : Nat} (h : TabInv s) :
    ErTab (engRead s o loc layout snap va n) := by
  unfold engRead
  refine List.foldlRecOn (motive := ErTab) _ _ h (fun _ hr _ _ => ?_)
  refine ER_bind_tabInv hr (fun _ _ hu => ?_)
  exact ER_bind_tabInv (engXlate_tabInv hu) (fun _ _ hu1 => ER_bind_tabInv (readRange_tabInv hu1) (fun _ _ hu2 => hu2))

theorem engWrite_tabInv {o : EngOp} {loc : Bool} {numx va n : Nat} {bs : List Byte} (h : TabInv s) :
    ErTab (engWrite s o loc numx va n bs) := by
  unfold engWrite
  refine ER_bind_tabInv ?_ (fun _ _ hu => hu)
  refine List.foldlRecOn (motive := ErTab) _ _ h (fun _ hr _ _ => ?_)
  refine ER_bind_tabInv hr (fun _ _ hu => ?_)
  exact ER_bind_tabInv (engXlate_tabInv hu) (fun _ _ hu1 => ER_bind_tabInv (writeRange_tabInv hu1) (fun _ _ hu2 => hu2))

theorem landTo_tabInv {id : Nat} {o : EngOp} {n : Nat} (h : TabInv s) : OpTab (landTo s id o n) := by
  have hput : ∀ o, TabInv (putEng s id o) := fun _ => h
  unfold landTo
  split
  · exact h
  split
  · exact h
  split
  · exact (landSectors_tabInv (hput _)).some ‹_›
  · exact h

theorem unitDone_tabInv {id : Nat} {o : EngOp} {sectors : Nat} (h : TabInv s) : OpTab (unitDone s id o sectors) :=
  landTo_tabInv h

theorem copyUnit_tabInv {id : Nat} {o : EngOp} {f t : CopyEnd} {al sn dn : Nat}
    {conv : State → List Byte → Nat → Except Nat (State × List Byte)} {sectors : Nat} (h : TabInv s)
    (hconv : ∀ u bs n, TabInv u → ExcFstTab (conv u bs n)) :
    OpTab (copyUnit s id o f t al sn dn conv sectors) := by
  fun_cases copyUnit
  any_goals exact h
  refine ER_bind_opTab (engRead_tabInv h) (fun _ _ hu => ?_)
  dsimp only
  repeat' split
  any_goals exact hu
  exact ER_bind_opTab (engWrite_tabInv ((hconv _ _ _ hu).ok ‹_›)) (fun _ _ hu => unitDone_tabInv hu)

theorem convElems_tabInv {st dt : Ty} {pol n x : Nat} (h : TabInv s) : ExcFstTab (convElems s st dt pol n x) := by
  fun_cases convElems
  any_goals exact h
  exact trivial

theorem copyStep_tabInv {id : Nat} {o : EngOp} (h : TabInv s) : OpTab (copyStep s id o) := by
  fun_cases copyStep
  · exact copyUnit_tabInv h (fun _ _ _ hu => hu)
  · exact copyUnit_tabInv h (fun _ _ _ hu => hu)
  · exact copyUnit_tabInv h (fun _ _ _ hu => convElems_tabInv hu)
  · exact h

theorem gatherStep_tabInv {id : Nat} {o : EngOp} (h : TabInv s) : OpTab (gatherStep s id o) := by
  unfold gatherStep
  refine ER_bind_opTab (engRead_tabInv h) (fun _ _ hu => ?_)
  dsimp only
  repeat' split
  any_goals exact hu
  exact ER_bind_opTab (readRange_tabInv hu) (fun _ _ hu => unitDone_tabInv (updCtx_tabInv hu))

theorem opStart_tabInv {id : Nat} {o : EngOp} (h : TabInv s) : TabInv (opStart s id o) := by
  fun_cases opStart
  any_goals exact h
  · exact updCtx_tabInv h
  · exact opEnd_tabInv h (ER_bind_opTab (engRead_tabInv h) (fun _ _ hu => updCtx_tabInv hu))

theorem execEngineOpStart_tabInv {op : Nat} (h : TabInv s) : NextTab (execEngineOpStart op s) := by
  unfold execEngineOpStart
  refine event_tabInv h ?_
  repeat' split
  any_goals exact h
  exact opStart_tabInv h

theorem execEngineLineTransfer_tabInv {op : Nat} (h : TabInv s) : NextTab (execEngineLineTransfer op s) := by
  unfold execEngineLineTransfer
  refine event_tabInv h (onOp_tabInv h (fun _ => ?_))
  repeat' split
  · exact opEnd_tabInv h (copyStep_tabInv h)
  · exact opEnd_tabInv h (copyStep_tabInv h)
  · exact opEnd_tabInv h (copyStep_tabInv h)
  · exact opEnd_tabInv h (gatherStep_tabInv h)
  · exact h

theorem execSparsityQueuePush_tabInv {op : Nat} (h : TabInv s) : NextTab (execSparsityQueuePush op s) := by
  unfold execSparsityQueuePush
  refine event_tabInv h (onOp_tabInv h (fun _ => ?_))
  dsimp only
  repeat' split
  any_goals exact h
  · exact opEnd_tabInv h h
  · exact opEnd_tabInv h (ER_bind_opTab (engRead_tabInv h) (fun _ _ hu => updCtx_tabInv hu))

theorem engRows_tabInv {o : EngOp} {row : Int} {n : Nat} (h : TabInv s) : ErTab (engRows s o row n) := by
  fun_cases engRows
  any_goals exact h
  exact ER_bind_tabInv (readRange_tabInv h) (fun _ _ hu => hu)

theorem kStep_tabInv {id : Nat} {o : EngOp} (h : TabInv s) : OpTab (kStep s id o) := by
  unfold kStep
  split
  extract_lets _ _ _ _ _ _ _ _ s1 s2 _ ra
  have hs1 : TabInv s1 := tabInv_ite (updCtx_tabInv h) h
  have hs2 : TabInv s2 := hs1
  have hra : ErTab ra := by
    unfold ra
    split
    · exact hs2
    · exact engRows_tabInv hs2
  split
  · exact h
  split
  · exact hs2
  refine ER_bind_opTab hra (fun _ _ hu => ?_)
  refine ER_bind_opTab (engRows_tabInv hu) (fun _ _ hu1 => ?_)
  extract_lets
  split
  · exact hu1
  · exact prfAdd_tabInv (updCtx_tabInv hu1)

theorem execMloopKStep_tabInv {op : Nat} (h : TabInv s) : NextTab (execMloopKStep op s) :=
  event_tabInv h (onOp_tabInv h (fun _ => tabInv_ite h (tabInv_ite (tabInv_ite h h) (opEnd_tabInv h (kStep_tabInv h)))))

theorem maccStep_tabInv {id : Nat} {o : EngOp} {w : RWord (BitVec 12)} (h : TabInv s) : OpTab (maccStep s id o w) := by
  fun_cases maccStep
  any_goals exact h
  · exact ER_bind_opTab (engWrite_tabInv h) (fun _ _ hu => hu)
  · exact setGroup_tabInv h

theorem execMaccReadout_tabInv {op : Nat} (h : TabInv s) : NextTab (execMaccReadout op s) := by
  unfold execMaccReadout
  refine event_tabInv h (onOp_tabInv h (fun _ => ?_))
  repeat' split
  · exact opEnd_tabInv h (maccStep_tabInv h)
  · exact h

theorem jobDone_tabInv {id : Nat} {o : EngOp} {prog out : Nat} (h : TabInv s) : OpTab (jobDone s id o prog out) :=
  ER_bind_opTab (engWrite_tabInv h) (fun _ _ hu => landTo_tabInv hu)

theorem srcByte_tabInv {o : EngOp} {c : Card3} {p : Nat} (h : TabInv s) : ErTab (srcByte s o c p) := by
  fun_cases srcByte
  · exact h
  · exact ER_bind_tabInv (engRead_tabInv h) (fun _ _ hu => hu)

theorem srcLeb_tabInv {o : EngOp} {c : Card3} {n : Nat} {s : State} {n1 n2 n3 : Nat} (h : TabInv s) :
    ErTab (srcLeb o c n s n1 n2 n3) := by
  fun_cases srcLeb
  · exact h
  · refine ER_bind_tabInv (srcByte_tabInv h) (fun _ _ hu => ?_)
    dsimp only
    repeat' split
    any_goals exact hu
    exact srcLeb_tabInv hu

theorem srcExt_tabInv {o : EngOp} {c : Card3} {nib p : Nat} (h : TabInv s) : ErTab (srcExt s o c nib p) := by
  fun_cases srcExt
  · exact srcLeb_tabInv h
  · exact h

theorem lzStep_tabInv {id : Nat} {o : EngOp} {c : Card3} (h : TabInv s) : OpTab (lzStep s id o c) := by
  unfold lzStep
  refine ER_bind_opTab (srcByte_tabInv h) (fun _ _ hu => ER_bind_opTab (srcExt_tabInv hu) (fun _ _ hv => ?_))
  dsimp only
  repeat' split
  · exact hv
  · refine ER_bind_opTab (srcLeb_tabInv hv) (fun _ _ hu => ER_bind_opTab ?_ (fun _ _ hv => ?_))
    · repeat' split
      · exact hu
      · exact srcExt_tabInv hu
    · repeat' split
      any_goals exact hv
      · refine ER_bind_opTab (engRead_tabInv hv) (fun _ _ hu => ER_bind_opTab (engRead_tabInv hu) (fun _ _ hv => ?_))
        exact ER_bind_opTab (engWrite_tabInv hv) (fun _ _ hw => jobDone_tabInv hw)
      · refine ER_bind_opTab (engRead_tabInv hv) (fun _ _ hu => ER_bind_opTab (engRead_tabInv hu) (fun _ _ hv => ?_))
        exact ER_bind_opTab (engWrite_tabInv hv) (fun _ _ hw => hw)

theorem jobValues_tabInv {o : EngOp} {c : Card3} {dt : Ty} {e0 n : Nat} (h : TabInv s) : ErTab (jobValues s o c dt e0 n) := by
  fun_cases jobValues
  · refine ER_bind_tabInv (engRead_tabInv h) (fun _ _ hu => ?_)
    repeat' split
    · exact hu
    · exact (convElems_tabInv hu).ok ‹_›
  · refine ER_bind_tabInv (engRead_tabInv h) (fun _ _ hu => ER_bind_tabInv (engRead_tabInv hu) (fun _ _ hv => ?_))
    dsimp only
    repeat' split
    all_goals exact hv

theorem jobStep_tabInv {id : Nat} {o : EngOp} {c : Card3} (h : TabInv s) : OpTab (jobStep s id o c) := by
  fun_cases jobStep
  · exact jobDone_tabInv h
  · exact h
  · refine ER_bind_opTab (jobValues_tabInv h) (fun _ _ hu => ER_bind_opTab (engWrite_tabInv hu) (fun _ _ hv => ?_))
    repeat' split
    · exact jobDone_tabInv hv
    · exact hv

theorem execXfmJobBlock_tabInv {op : Nat} (h : TabInv s) : NextTab (execXfmJobBlock op s) := by
  unfold execXfmJobBlock
  refine event_tabInv h (onOp_tabInv h (fun _ => ?_))
  dsimp only
  repeat' split
  · exact opEnd_tabInv h h
  · exact opEnd_tabInv h (lzStep_tabInv h)
  · exact opEnd_tabInv h (jobStep_tabInv h)
  · exact h

theorem wakeBatches_tabInv {k cls : Nat} (h : TabInv s) : TabInv (wakeBatches s k cls) := by
  fun_cases wakeBatches
  · exact h
  · exact updGroup_tabInv (updGroup_tabInv h)
  · exact updGroup_tabInv h

theorem execEngineOpComplete_tabInv {op : Nat} (h : TabInv s) : NextTab (execEngineOpComplete op s) := by
  unfold execEngineOpComplete
  refine event_tabInv h ?_
  dsimp only
  repeat' split
  any_goals exact h
  · exact endTeam_tabInv (wakeBatches_tabInv (updGroup_tabInv h))
  · exact endTeam_tabInv (updGroup_tabInv h)

/-! The package as a whole. -/

theorem bootStep_tabInv {a b : Boot} (h : TabInv s) : TabInv (bootStep s a b) := tabInv_ite h h

theorem execPowerGood_tabInv (h : TabInv s) : NextTab (execPowerGood s) := event_tabInv h (tabInv_ite (bootStep_tabInv h) h)

theorem execSelfTestDone_tabInv {pass : Bool} {unit : Nat} (h : TabInv s) : NextTab (execSelfTestDone pass unit s) :=
  event_tabInv h (tabInv_ite h (tabInv_ite (tabInv_ite (bootStep_tabInv h) (tabInv_foldl (fun _ _ hu => hu) (bootStep_tabInv h))) h))

theorem execImageReceived_tabInv (h : TabInv s) : NextTab (execImageReceived s) :=
  event_tabInv h (tabInv_ite (bootStep_tabInv h) h)

theorem execImageVerified_tabInv {image : FwImage} (h : TabInv s) : NextTab (execImageVerified image s) :=
  event_tabInv h (tabInv_ite h (tabInv_ite h h))

theorem trip_tabInv {d : Nat} (h : TabInv s) : TabInv (trip s d) :=
  tabInv_ite (tabInv_foldl (fun _ _ hu => haltRise_tabInv hu) h) (tabInv_foldl (fun _ _ hu => haltRise_tabInv hu) h)

theorem execThermalTrip_tabInv {die temp : Nat} (h : TabInv s) : NextTab (execThermalTrip die temp s) :=
  tabInv_ite h (tabInv_ite h (tabInv_ite h (trip_tabInv h)))

theorem execTripClear_tabInv {die : Nat} (h : TabInv s) : NextTab (execTripClear die s) := event_tabInv h (tabInv_ite h h)

theorem execFreeze_tabInv (h : TabInv s) : NextTab (execFreeze s) := tabInv_ite h h

theorem execThaw_tabInv {gts : Nat} (h : TabInv s) : NextTab (execThaw gts s) :=
  tabInv_ite h (tabInv_foldl (fun _ _ hu => trip_tabInv hu) (tabInv_foldl (fun _ _ hu => eventPush_tabInv hu) h))

theorem execCoreFailure_tabInv {core cause : Nat} (h : TabInv s) : NextTab (execCoreFailure core cause s) :=
  event_tabInv h (tabInv_ite h (tabInv_foldl (fun _ _ hu => haltRise_tabInv hu) h))

theorem execSoftError_tabInv {die : Nat} (h : TabInv s) : NextTab (execSoftError die s) := event_tabInv h (tabInv_ite h h)

theorem execPatrolScrub_tabInv {die line : Nat} {corrected : Bool} (h : TabInv s) :
    NextTab (execPatrolScrub die line corrected s) :=
  event_tabInv h (tabInv_ite h (tabInv_ite h (tabInv_ite h h)))

theorem execUncorrectableError_tabInv {w : ErrWord} (h : TabInv s) : NextTab (execUncorrectableError w s) := by
  unfold execUncorrectableError
  refine event_tabInv h ?_
  dsimp only
  repeat' split
  any_goals exact h
  all_goals exact updGroup_tabInv h

theorem execPackageReset_tabInv : NextTab (execPackageReset s) := ⟨List.Pairwise.nil, List.Pairwise.nil, List.Pairwise.nil⟩

theorem execStartGrant_tabInv {die : Nat} (h : TabInv s) : NextTab (execStartGrant die s) := by
  unfold execStartGrant
  refine event_tabInv h ?_
  dsimp only
  repeat' split
  all_goals exact h

theorem execVariableLatencyResult_tabInv {grp res : Nat} (h : TabInv s) : NextTab (execVariableLatencyResult grp res s) := by
  unfold execVariableLatencyResult
  refine event_tabInv h ?_
  repeat' split
  any_goals exact h
  exact setGroup_tabInv h

/-! Kernels, teams and grids. -/

theorem launchWrite_tabInv {ck va : Nat} {bs : List Byte} (h : TabInv s) : OutTab (launchWrite s ck va bs) := by
  fun_cases launchWrite
  · exact (translate_tabInv h).fault ‹_›
  · exact (translate_tabInv h).absent ‹_›
  · exact countWrite_tabInv (updCtx_tabInv ((agentWrite_tabInv ((translate_tabInv h).ok ‹_›)).done ‹_›))
  · exact updCtx_tabInv ((agentWrite_tabInv ((translate_tabInv h).ok ‹_›)).stall ‹_›)
  · exact updCtx_tabInv ((translate_tabInv h).ok ‹_›)
  · exact (translate_tabInv h).ok ‹_›
  · exact (agentWrite_tabInv ((translate_tabInv h).ok ‹_›)).stall ‹_›
  · exact noteIntegrity_tabInv ((translate_tabInv h).ok ‹_›)

theorem servePost_tabInv {p : Posted} (h : TabInv s) : TabInv (servePost s p) := by
  unfold servePost
  split
  · next s1 _ _ _ e =>
      have hs1 : TabInv s1 := (hostWrite_tabInv h).fst e
      extract_lets keep
      split
      · unfold keep
        split <;> exact hs1
      split
      · unfold keep
        split <;> exact hs1
      split
      · unfold keep
        split <;> exact h
      unfold keep
      split <;> exact h

theorem servePosted_tabInv (h : TabInv s) : TabInv (servePosted s) :=
  tabInv_ite (tabInv_foldl (fun _ _ hu => servePost_tabInv hu) h) (tabInv_foldl (fun _ _ hu => servePost_tabInv hu) h)

theorem launchWriteNow_tabInv {ck va : Nat} {bs : List Byte} (h : TabInv s) : OutTab (launchWriteNow s ck va bs) := by
  fun_cases launchWriteNow
  · exact (translate_tabInv h).fault ‹_›
  · exact (translate_tabInv h).absent ‹_›
  · exact ((translate_tabInv h).ok ‹_›).same
  · exact servePost_tabInv ((translate_tabInv h).ok ‹_›)

theorem launchRead_tabInv {ck va n : Nat} (h : TabInv s) : OutTab (launchRead s ck va n).1 := by
  fun_cases launchRead
  · exact (translate_tabInv h).fault ‹_›
  · exact (translate_tabInv h).absent ‹_›
  · exact (agentRead_tabInv ((translate_tabInv h).ok ‹_›)).done ‹_›
  · exact (agentRead_tabInv ((translate_tabInv h).ok ‹_›)).stall ‹_›
  · exact noteIntegrity_tabInv ((translate_tabInv h).ok ‹_›)

theorem writeRecord_tabInv {ck : Nat} {l ws : List W64} (h : TabInv s) : ExcTab (writeRecord s ck l ws) := by
  fun_cases writeRecord
  · exact (launchWrite_tabInv h).ok ‹_›
  · exact keepFars_tabInv h ((launchWrite_tabInv h).wait ‹_›)
  · exact haltRise_tabInv ((launchWrite_tabInv h).fault ‹_›)

theorem writeRecordNow_tabInv {ck : Nat} {l ws : List W64} (h : TabInv s) : TabInv (writeRecordNow s ck l ws) := by
  fun_cases writeRecordNow
  · exact (launchWriteNow_tabInv h).ok ‹_›
  · exact (launchWriteNow_tabInv h).wait ‹_›
  · exact haltRise_tabInv ((launchWriteNow_tabInv h).fault ‹_›)

theorem drainDoneQ_tabInv {q : Nat} (h : TabInv s) : TabInv (drainDoneQ s q) := tabInv_ite h h

theorem drainOf_tabInv {wq : Option Nat} (h : TabInv s) : TabInv (drainOf s wq) := by
  fun_cases drainOf
  · exact drainDoneQ_tabInv h
  · exact h

theorem execGridAcceptance_tabInv {req : Nat} (h : TabInv s) : NextTab (execGridAcceptance req s) := by
  unfold execGridAcceptance
  refine event_tabInv h ?_
  split
  · exact h
  split
  · exact h
  extract_lets _ s1 _ _ _ s2
  have hs1 : TabInv s1 := h
  have hs2 : TabInv s2 := tabInv_ite (updCtx_tabInv hs1) hs1
  split
  · exact h
  split
  · split
    · exact drainOf_tabInv ((writeRecord_tabInv hs1).ok ‹_›)
    · exact keepFars_tabInv h ((writeRecord_tabInv hs1).error ‹_›)
  · exact hs2.same

theorem reserveStart_tabInv {core tk : Nat} {g : Grid} (h : TabInv s) : TabInv (reserveStart s core tk g) := tabInv_ite h h

theorem placeGroups_tabInv {part ck gk tk lin : Nat} {g : Grid} {base : Nat} {x : List (Nat × Nat)} {x1 : List Nat} {s : State}
    (h : TabInv s) :
    OptTab (placeGroups part ck gk tk lin g base x x1 s) := by
  unfold placeGroups
  split
  · exact h
  · extract_lets
    split
    · split
      next s1 e =>
        have hs1 : TabInv s1 := h.snd e
        exact placeGroups_tabInv (tabInv_of hs1.groups.put hs1.teams.upd hs1.ctxs)
    · trivial
  · trivial

theorem execTeamPlacement_tabInv {grid core : Nat} {slots : List Nat} {row bar : Nat} (h : TabInv s) :
    NextTab (execTeamPlacement grid core slots row bar s) := by
  unfold execTeamPlacement
  refine event_tabInv h ?_
  split
  · exact h
  split
  · extract_lets
    split
    · exact h
    split
    next s1 e =>
      have hs1 : TabInv s1 := h.snd e
      split
      extract_lets _ s2
      have hs2 : TabInv s2 := tabInv_of hs1.groups hs1.teams.put hs1.ctxs
      split
      · exact h
      · next s3 e3 =>
        have hs3 : TabInv s3 := (placeGroups_tabInv hs2).some e3
        exact putBytes_tabInv (reserveStart_tabInv hs3)
  · exact h

theorem mapText_tabInv {vf : Nat} {c : Ctx} {page : Nat} {ptes : List W64} (h : TabInv s) :
    TabInv (mapText s vf c page ptes) := by
  unfold mapText
  refine tabInv_foldl (fun _ _ hu => ?_) h
  repeat' split
  · exact hostPut_tabInv hu
  · exact hu

theorem objRemove_tabInv {ck id : Nat} (h : TabInv s) : TabInv (objRemove s ck id) := by
  fun_cases objRemove
  · exact h
  · exact updCtx_tabInv (mapText_tabInv (tabInv_foldl (fun _ _ hu => hostPut_tabInv hu) h))

theorem objDrop_tabInv {ck id : Nat} (h : TabInv s) : TabInv (objDrop s ck id) := tabInv_ite (objRemove_tabInv h) h

theorem applyReloc_tabInv {vf base : Nat} {frames datas : List Nat} {r : (Bool × Nat × Nat) × Nat} (h : TabInv s) :
    TabInv (applyReloc s vf base frames datas r) :=
  hostPut_tabInv h

theorem loadBytes_tabInv {vf base : Nat} {file : List Byte} {frames datas : List Nat} (h : TabInv s) :
    TabInv (loadBytes s vf base file frames datas) := 
  tabInv_foldl (fun _ _ hu => hostPut_tabInv hu) (tabInv_foldl (fun _ _ hu => applyReloc_tabInv hu)
    (tabInv_foldl (fun _ _ hu => hostPut_tabInv hu) (tabInv_foldl (fun _ _ hu => hostPut_tabInv hu) h)))

theorem execObjectLoad_tabInv {ctx : Nat} {file : List (BitVec 8)} {id base : Nat} {frames : List Nat} (h : TabInv s) :
    NextTab (execObjectLoad ctx file id base frames s) := by
  unfold execObjectLoad
  refine event_tabInv h ?_
  dsimp only
  repeat' split
  any_goals exact h
  · exact updCtx_tabInv h
  · exact updCtx_tabInv (mapText_tabInv (loadBytes_tabInv h))

theorem execObjectUnload_tabInv {ctx id : Nat} (h : TabInv s) : NextTab (execObjectUnload ctx id s) :=
  event_tabInv h (objDrop_tabInv (updCtx_tabInv h))

theorem unpin_tabInv {g : Grid} (h : TabInv s) : TabInv (unpin s g) := by
  fun_cases unpin
  · exact h
  · exact updCtx_tabInv h

theorem pushDone_tabInv {g : Grid} (h : TabInv s) : TabInv (pushDone s g) := by
  unfold pushDone
  refine tabInv_ite h (tabInv_ite (haltRise_tabInv h) (tabInv_ite (haltRise_tabInv h) ?_))
  dsimp only
  repeat' split
  any_goals exact haltRise_tabInv h
  all_goals exact sendMsgs_tabInv h

theorem gridGone_tabInv {gk : Nat} {g : Grid} (h : TabInv s) : TabInv (gridGone s gk g) :=
  pushDone_tabInv (drainOf_tabInv (objDrop_tabInv (unpin_tabInv h)))

theorem closeGrid_tabInv {gk status cause : Nat} (h : TabInv s) : TabInv (closeGrid s gk status cause) := by
  fun_cases closeGrid
  · exact h
  · exact gridGone_tabInv ((writeRecord_tabInv h).ok ‹_›)
  · exact (writeRecord_tabInv h).error ‹_›

theorem closeGridNow_tabInv {gk status cause : Nat} (h : TabInv s) : TabInv (closeGridNow s gk status cause) := by
  fun_cases closeGridNow
  · exact h
  · exact gridGone_tabInv (writeRecordNow_tabInv h)

theorem execGridCompletion_tabInv {grid : Nat} (h : TabInv s) : NextTab (execGridCompletion grid s) := by
  unfold execGridCompletion
  refine event_tabInv h ?_
  dsimp only
  repeat' split
  any_goals exact h
  exact closeGrid_tabInv h

theorem execBindResolve_tabInv {ctx pa : Nat} {target : Option Nat} (h : TabInv s) :
    NextTab (execBindResolve ctx pa target s) := by
  unfold execBindResolve
  refine event_tabInv h ?_
  dsimp only
  repeat' split
  any_goals exact h
  · exact tabInv_foldl (fun _ _ hu => acquireL1_tabInv (updGroup_tabInv hu)) (updCtx_tabInv (hostPut_tabInv h))
  · exact tabInv_foldl (fun _ _ hu => raiseGroup_tabInv hu) h

/-! Contexts, saves and restores. -/

theorem execPartqEnable_tabInv {part : Nat} {w : BitVec 64} (h : TabInv s) : NextTab (execPartqEnable part w s) :=
  event_tabInv h (tabInv_ite h h)

theorem execPartqDisable_tabInv {part : Nat} {w : BitVec 64} (h : TabInv s) : NextTab (execPartqDisable part w s) :=
  event_tabInv h (tabInv_ite h h)

theorem execCtxCreate_tabInv {vf : Nat} {cmd : BitVec 64} (h : TabInv s) : NextTab (execCtxCreate vf cmd s) := by
  unfold execCtxCreate
  refine event_tabInv h (tabInv_ite h (tabInv_ite h ?_))
  dsimp only
  repeat' split
  any_goals exact h
  all_goals exact setCtx_tabInv h

theorem execTokenAccrual_tabInv {vf : Nat} (h : TabInv s) : NextTab (execTokenAccrual vf s) := event_tabInv h (tabInv_ite h h)

theorem startVf_tabInv {p v : Nat} (h : TabInv s) : TabInv (startVf s p v) := h

theorem accrueAll_tabInv (h : TabInv s) : TabInv (accrueAll s) := tabInv_foldl (fun _ _ hu => hu) h

theorem settlePart_tabInv {p : Nat} (h : TabInv s) : TabInv (settlePart s p) := by
  unfold settlePart
  dsimp only
  repeat' split
  any_goals exact h
  all_goals exact startVf_tabInv (accrueAll_tabInv h)

theorem withdrawWaits_tabInv {k : Nat} (h : TabInv s) : TabInv (withdrawWaits s k) := by
  unfold withdrawWaits
  split
  · exact h
  · extract_lets _ _ _ _ s2
    have hteams : keysRise s2.teams := by
      dsimp only [s2]
      exact keysRise.map h.teams
    have hs2 : TabInv s2 := tabInv_of h.groups.put hteams h.ctxs
    exact updCtx_tabInv hs2

theorem saveGroup_tabInv {whole : Bool} {k : Nat} (h : TabInv s) : TabInv (saveGroup whole s k) := by
  unfold saveGroup
  extract_lets s0
  have hs0 : TabInv s0 := withdrawWaits_tabInv h
  split
  · exact h
  split
  next s1 e =>
    have hs1 : TabInv s1 := hs0.snd e
    extract_lets _ s2 _ _ s3
    have hs2 : TabInv s2 := tabInv_ite (updGroup_tabInv hs1.same) hs1
    have hs3 : TabInv s3 := tabInv_of hs2.groups.del hs2.teams.upd hs2.ctxs
    exact updCtx_tabInv hs3

theorem teamAway_tabInv {tk : Nat} (h : TabInv s) : TabInv (teamAway s tk) := by
  fun_cases teamAway
  · exact h
  · exact tabInv_of h.groups h.teams.put h.ctxs

theorem takeBins_tabInv {ck : Nat} {p : Bin → Bool} (h : TabInv s) : TabInv (takeBins s ck p) :=
  tabInv_foldl (fun _ _ hu => tabInv_ite hu (wakeSpawns_tabInv (tabInv_foldl (fun _ _ hv => updCtx_tabInv hv) hu))) h

theorem saveCores_tabInv {s0 : State} {ck : Nat} {c : Ctx} (hs0 : TabInv s0) : TabInv (saveCores s0 ck c) :=
  updCtx_tabInv (takeBins_tabInv hs0)

theorem saveContext_tabInv {ck : Nat} {whole : Bool} (h : TabInv s) : TabInv (saveContext s ck whole) := by
  fun_cases saveContext
  · exact saveCores_tabInv (tabInv_foldl (fun _ _ hu => teamAway_tabInv hu) (tabInv_foldl (fun _ _ hu => saveGroup_tabInv hu) h))
  · exact tabInv_foldl (fun _ _ hu => teamAway_tabInv hu) (tabInv_foldl (fun _ _ hu => saveGroup_tabInv hu) h)

theorem teamBack_tabInv {tk : Nat} (h : TabInv s) : TabInv (teamBack s tk) := by
  fun_cases teamBack
  any_goals exact h
  all_goals exact tabInv_of h.groups h.teams.put h.ctxs

theorem parkRoute_tabInv {k : Nat} {g : Grp} {d : Nat} (h : TabInv s) : TabInv (parkRoute s k g d) :=
  tabInv_ite (setGroup_tabInv h) h

theorem resumeGroup_tabInv {k : Nat} (h : TabInv s) : TabInv (resumeGroup s k) := by
  unfold resumeGroup
  dsimp only
  repeat' split
  · exact h
  · exact tabInv_foldl (fun _ _ hu => ackEmpty_tabInv (replayAcc_tabInv hu)) (parkRoute_tabInv (acquireL1_tabInv (updGroup_tabInv h)))
  · exact tabInv_foldl (fun _ _ hu => ackEmpty_tabInv (replayAcc_tabInv hu)) (acquireL1_tabInv (updGroup_tabInv h))

theorem groupBack_tabInv {ck : Nat} {away front : Bool} {ser : Nat} (h : TabInv s) : TabInv (groupBack ck away front s ser) := by
  unfold groupBack
  split
  · exact h
  extract_lets s1
  have hs1 : TabInv s1 := tabInv_ite (teamBack_tabInv h) h
  split
  · exact hs1
  split
  · exact hs1
  split
  · exact hs1
  · extract_lets _ s3
    have hs3 : TabInv s3 := tabInv_of hs1.groups.put hs1.teams.upd hs1.ctxs
    exact updCtx_tabInv hs3

theorem placeSaved_tabInv {ck : Nat} (h : TabInv s) : TabInv (placeSaved s ck) := by
  fun_cases placeSaved
  · exact tabInv_foldl (fun _ _ hu => groupBack_tabInv hu) h
  · exact h

theorem restoreBins_tabInv {ck : Nat} (h : TabInv s) : TabInv (restoreBins s ck) := by
  fun_cases restoreBins
  · exact h
  · refine tabInv_foldl (fun _ _ hu => ?_) h
    dsimp only
    repeat' split
    · exact updCtx_tabInv hu
    · exact hu

theorem requeue_tabInv {ck : Nat} (h : TabInv s) : TabInv (requeue s ck) := by
  fun_cases requeue
  any_goals exact h
  exact restoreBins_tabInv (tabInv_foldl (fun _ _ hu => groupBack_tabInv hu) h)

theorem execRestoreStart_tabInv {part : Nat} (h : TabInv s) : NextTab (execRestoreStart part s) := by
  unfold execRestoreStart
  refine event_tabInv h (tabInv_ite h ?_)
  dsimp only
  repeat' split
  any_goals exact settlePart_tabInv h
  exact placeSaved_tabInv (setCtx_tabInv (settlePart_tabInv h))

theorem addAllow_tabInv {ck : Nat} {id : W64} (h : TabInv s) : TabInv (addAllow s ck id) := by
  fun_cases addAllow
  · exact h
  · exact wakePush_tabInv (instPut_tabInv h)

theorem restoreCores_tabInv {ck : Nat} {c : Ctx} (h : TabInv s) : TabInv (restoreCores s ck c) :=
  updCtx_tabInv (tabInv_foldl (fun _ _ hu => hu) (tabInv_foldl (fun _ _ hu => hu) h))

theorem takeSession_tabInv {ck : Nat} (h : TabInv s) : TabInv (takeSession s ck) := tabInv_ite h (eventPush_tabInv h)

theorem execRestoreComplete_tabInv {part : Nat} (h : TabInv s) : NextTab (execRestoreComplete part s) := by
  unfold execRestoreComplete
  refine event_tabInv h ?_
  dsimp only
  repeat' split
  any_goals exact h
  · exact restoreBins_tabInv h
  · exact placeSaved_tabInv h
  · refine takeSession_tabInv (tabInv_foldl (fun _ _ hu => addAllow_tabInv hu) (requeue_tabInv ?_))
    exact tabInv_foldl (fun _ _ hu => resumeGroup_tabInv hu) (restoreCores_tabInv (placeSaved_tabInv h))

theorem offSlice_tabInv {p v : Nat} (h : TabInv s) : TabInv (offSlice s p v) := by
  fun_cases offSlice
  · exact startVf_tabInv (tabInv_ite h h)
  · exact tabInv_ite h h

theorem execSliceEnd_tabInv {part : Nat} (h : TabInv s) : NextTab (execSliceEnd part s) := by
  unfold execSliceEnd
  refine event_tabInv h ?_
  dsimp only
  repeat' split
  any_goals exact h
  any_goals exact accrueAll_tabInv h
  · exact settlePart_tabInv (accrueAll_tabInv h)
  · exact setCtx_tabInv (accrueAll_tabInv h)
  · exact offSlice_tabInv (updCtx_tabInv (abandonRestore_tabInv (accrueAll_tabInv h)))
  · exact offSlice_tabInv (accrueAll_tabInv h)
  · exact offSlice_tabInv (accrueAll_tabInv h)

theorem execSaveComplete_tabInv {part : Nat} (h : TabInv s) : NextTab (execSaveComplete part s) := by
  unfold execSaveComplete
  refine event_tabInv h ?_
  split
  · exact h
  extract_lets _ s1
  have hs1 : TabInv s1 := accrueAll_tabInv (updCtx_tabInv (saveContext_tabInv h))
  split
  · exact h
  split
  · exact h
  split
  · extract_lets s2
    have hs2 : TabInv s2 := accrueAll_tabInv hs1
    split
    · split
      · exact startVf_tabInv hs2
      · exact settlePart_tabInv hs2
    · exact settlePart_tabInv hs2
  · exact tabInv_ite (startVf_tabInv hs1) (settlePart_tabInv hs1)
  · exact settlePart_tabInv hs1

theorem execCtxSwitch_tabInv {vf : Nat} {cmd : BitVec 64} (h : TabInv s) : NextTab (execCtxSwitch vf cmd s) := by
  unfold execCtxSwitch
  refine event_tabInv h (tabInv_ite h ?_)
  dsimp only
  repeat' split
  any_goals exact h
  any_goals exact settlePart_tabInv h
  exact setCtx_tabInv h

theorem writeStops_tabInv {ck : Nat} {c : Ctx} {h1 : Halt} (h : TabInv s) : TabInv (writeStops s ck c h1).1 :=
  tabInv_foldl (fun _ _ hu => devWrite_tabInv hu) (devWrite_tabInv h)

theorem emptyCtx_tabInv {ck : Nat} (h : TabInv s) : TabInv (emptyCtx s ck) := by
  fun_cases emptyCtx
  · exact h
  next s1 s2 _ =>
    have hs1 : TabInv s1 := tabInv_foldl (fun _ _ hu => closeGridNow_tabInv hu) h
    have hs2 : TabInv s2 := tabInv_of hs1.groups.filter hs1.teams.filter hs1.ctxs.del
    exact settlePart_tabInv hs2

theorem tryHalted_tabInv {p : Nat} (h : TabInv s) : TabInv (tryHalted s p) := by
  unfold tryHalted
  split
  · exact h
  split
  · exact h
  extract_lets
  split
  · exact h
  split
  next s1 n e =>
    extract_lets s2 s3
    have hs2 : TabInv s2 := updCtx_tabInv (saveContext_tabInv ((writeStops_tabInv h).fst e))
    have hs3 : TabInv s3 := eventPush_tabInv hs2
    exact tabInv_ite (emptyCtx_tabInv hs3) (settlePart_tabInv hs3)

theorem execUnitStop_tabInv {part : Nat} {unit : UnitId} (h : TabInv s) : NextTab (execUnitStop part unit s) := by
  unfold execUnitStop
  refine event_tabInv h ?_
  split
  · exact h
  split
  · exact tryHalted_tabInv h
  split
  · exact tryHalted_tabInv h
  extract_lets
  split
  · exact tryHalted_tabInv (updGroup_tabInv (withdrawWaits_tabInv (setCtx_tabInv h)))
  · exact tryHalted_tabInv (setCtx_tabInv h)

theorem execHaltLineRise_tabInv {part cause : Nat} (h : TabInv s) : NextTab (execHaltLineRise part cause s) := by
  unfold execHaltLineRise
  refine event_tabInv h ?_
  dsimp only
  repeat' split
  any_goals exact h
  exact haltRise_tabInv h

theorem execCtxHalt_tabInv {vf : Nat} {cmd : BitVec 64} (h : TabInv s) : NextTab (execCtxHalt vf cmd s) := by
  unfold execCtxHalt
  refine event_tabInv h (tabInv_ite h ?_)
  dsimp only
  repeat' split
  any_goals exact h
  exact settlePart_tabInv (haltRise_tabInv h)

theorem execCtxResume_tabInv {vf : Nat} {cmd : BitVec 64} (h : TabInv s) : NextTab (execCtxResume vf cmd s) := by
  unfold execCtxResume
  refine event_tabInv h (tabInv_ite h ?_)
  dsimp only
  repeat' split
  any_goals exact h
  exact settlePart_tabInv (resumeCtx_tabInv h)

theorem teardown_tabInv {ck : Nat} (h : TabInv s) : TabInv (teardown s ck) := by
  fun_cases teardown
  any_goals exact haltRise_tabInv (setCtx_tabInv h)
  · exact h
  · exact setCtx_tabInv h
  · exact emptyCtx_tabInv h

theorem execCtxTeardown_tabInv {vf : Nat} {cmd : BitVec 64} (h : TabInv s) : NextTab (execCtxTeardown vf cmd s) :=
  event_tabInv h (tabInv_ite h (tabInv_ite h (teardown_tabInv h)))

theorem execVfKeyLoad_tabInv {vf : Nat} (h : TabInv s) : NextTab (execVfKeyLoad vf s) := event_tabInv h (tabInv_ite h h)

theorem execVfKeyClear_tabInv {vf : Nat} (h : TabInv s) : NextTab (execVfKeyClear vf s) := event_tabInv h (tabInv_ite h h)

theorem execReclaim_tabInv {part core : Nat} (h : TabInv s) : NextTab (execReclaim part core s) := by
  unfold execReclaim
  refine event_tabInv h ?_
  dsimp only
  repeat' split
  any_goals exact h
  exact tabInv_foldl (fun _ _ hu => teamAway_tabInv hu) (takeBins_tabInv (tabInv_foldl (fun _ _ hu => saveGroup_tabInv hu) h))

theorem requeueOne_tabInv {ck : Nat} {sers : List Nat} {n n1 : Nat} {r : State × Nat} (hr : TabInv r.1) :
    OptFstTab (requeueOne ck sers n n1 r) := by
  unfold requeueOne
  split
  · exact hr
  extract_lets s11
  have hs11 : TabInv s11 := groupBack_tabInv hr
  split
  · exact hs11
  split
  · exact hs11
  split
  · exact hs11
  split
  · exact requeueOne_tabInv (saveGroup_tabInv hs11)
  · trivial

theorem requeueAll_tabInv {ck : Nat} {sers : List Nat} {r : State × Nat} (hr : TabInv r.1) :
    OptFstTab (requeueAll ck sers r) := by
  unfold requeueAll
  refine List.foldlRecOn (motive := OptFstTab) _ _ hr (fun q hq x _ => ?_)
  cases q with
  | none => trivial
  | some q => exact requeueOne_tabInv hq

theorem execReclaimComplete_tabInv {part : Nat} (h : TabInv s) : NextTab (execReclaimComplete part s) := by
  unfold execReclaimComplete
  refine event_tabInv h ?_
  dsimp only
  repeat' split
  any_goals exact h
  · exact eventPush_tabInv (restoreBins_tabInv ((requeueAll_tabInv h).some ‹_›))
  · exact eventPush_tabInv h

/-! Steps of groups that are no instruction. -/

theorem execGroupStateLoaded_tabInv {grp : Nat} (h : TabInv s) : NextTab (execGroupStateLoaded grp s) := by
  unfold execGroupStateLoaded
  refine event_tabInv h ?_
  dsimp only
  repeat' split
  any_goals exact h
  any_goals exact resumeGroup_tabInv (setGroup_tabInv h)
  all_goals exact setGroup_tabInv h

theorem selectPath_tabInv {s s1 : State} {k : Nat} {g : Grp} (h : TabInv s) (hs1 : TabInv s1) : TabInv (selectPath s s1 k g) := by
  fun_cases selectPath
  · exact (numApply_tabInv hs1 (((settlePaths_tabInv hs1).fst ‹_›).ok rfl)).ok ‹_›
  · exact raiseGroup_tabInv ((numApply_tabInv hs1 (((settlePaths_tabInv hs1).fst ‹_›).ok rfl)).error ‹_›)
  · exact memSide_tabInv h (((settlePaths_tabInv hs1).fst ‹_›).wait rfl)
  · exact raiseGroup_tabInv (memSide_tabInv h (((settlePaths_tabInv hs1).fst ‹_›).fault rfl))

theorem enterActive_tabInv {s0 : State} {k : Nat} {g : Grp} (hs0 : TabInv s0) : TabInv (enterActive s0 k g) := by
  unfold enterActive
  extract_lets s s1
  have hs : TabInv s := endYield_tabInv hs0
  have hs1 : TabInv s1 := setGroup_tabInv hs
  exact tabInv_ite hs1 (selectPath_tabInv hs hs1)

theorem execActiveSetEntry_tabInv {sched : Nat} (h : TabInv s) : NextTab (execActiveSetEntry sched s) := by
  unfold execActiveSetEntry
  refine event_tabInv h ?_
  repeat' split
  any_goals exact enterActive_tabInv h
  all_goals exact h

theorem evictFor_tabInv {s : State} {sched n n1 : Nat} (h : TabInv s) : OptTab (evictFor s sched n n1) := by
  fun_cases evictFor
  any_goals exact h
  any_goals exact trivial
  exact evictFor_tabInv (setGroup_tabInv h)

theorem execFairnessEviction_tabInv {sched : Nat} (h : TabInv s) : NextTab (execFairnessEviction sched s) := by
  unfold execFairnessEviction
  refine event_tabInv h ?_
  dsimp only
  repeat' split
  any_goals exact h
  all_goals exact elim_tabInv h (fun _ _ => enterActive_tabInv ((evictFor_tabInv h).some ‹_›))

theorem execGroupFree_tabInv {grp : Nat} (h : TabInv s) : NextTab (execGroupFree grp s) := by
  unfold execGroupFree
  refine event_tabInv h ?_
  dsimp only
  repeat' split
  any_goals exact h
  exact requeue_tabInv (endTeam_tabInv (tabInv_of h.groups.del h.teams.upd h.ctxs))

theorem execSpawnBinTimeout_tabInv {core bin : Nat} (h : TabInv s) : NextTab (execSpawnBinTimeout core bin s) := by
  unfold execSpawnBinTimeout
  refine event_tabInv h ?_
  repeat' split
  any_goals exact h
  exact fireBin_tabInv h

theorem execSpawnBinPlace_tabInv {core bin slot : Nat} (h : TabInv s) : NextTab (execSpawnBinPlace core bin slot s) := by
  unfold execSpawnBinPlace
  refine event_tabInv h ?_
  repeat' split
  any_goals exact h
  exact placeBin_tabInv h

theorem execSleepExpiry_tabInv {grp : Nat} (h : TabInv s) : NextTab (execSleepExpiry grp s) := by
  unfold execSleepExpiry
  refine event_tabInv h ?_
  dsimp only
  repeat' split
  any_goals exact h
  all_goals exact setGroup_tabInv h

/-! Queues and media engines. -/

theorem execCapdataWrite_tabInv {vf : Nat} {w : BitVec 64} (h : TabInv s) : NextTab (execCapdataWrite vf w s) := by
  unfold execCapdataWrite
  refine event_tabInv h (tabInv_ite h ?_)
  dsimp only
  repeat' split
  any_goals exact h
  exact tabInv_foldl (fun _ _ hu => wakePush_tabInv hu) (setCtx_tabInv h)

theorem execCqCreate_tabInv {vf : Nat} {w : BitVec 64} (h : TabInv s) : NextTab (execCqCreate vf w s) := by
  unfold execCqCreate
  refine event_tabInv h (tabInv_ite h ?_)
  dsimp only
  repeat' split
  any_goals exact h
  exact setCtx_tabInv h

theorem execCqDestroy_tabInv {vf : Nat} {w : BitVec 64} (h : TabInv s) : NextTab (execCqDestroy vf w s) := by
  unfold execCqDestroy
  refine event_tabInv h (tabInv_ite h ?_)
  dsimp only
  repeat' split
  any_goals exact h
  exact setCtx_tabInv h

theorem appendTo_tabInv {core q ctx : Nat} {sender : W64} {bs : List Byte} {unit : Bool} (h : TabInv s) :
    AppendTab (appendTo s core q ctx sender bs unit) := by
  fun_cases appendTo
  any_goals exact h
  exact wakePops_tabInv h

theorem updSerial_tabInv {ctx ser : Nat} {f : Grp → Grp} (h : TabInv s) : TabInv (updSerial s ctx ser f) := by
  fun_cases updSerial
  · exact updGroup_tabInv h
  · exact updCtx_tabInv h

theorem pushDoneAt_tabInv {ctx ser pc : Nat} {slot : Option Nat} (h : TabInv s) : TabInv (pushDoneAt s ctx ser pc slot) :=
  updSerial_tabInv h

theorem pushFault_tabInv {ctx k ser pc : Nat} {slot : Option Nat} {cause : Nat} (h : TabInv s) :
    TabInv (pushFault s ctx k ser pc slot cause) := by
  fun_cases pushFault
  · exact haltRise_tabInv (updGroup_tabInv (pushDoneAt_tabInv h))
  · exact haltRise_tabInv (pushDoneAt_tabInv h)

theorem sendFree_tabInv {ctx : Nat} {id : W64} (h : TabInv s) : TabInv (sendFree s ctx id) := sendMsgs_tabInv h

theorem recordPush_tabInv {q ctx : Nat} {sender : W64} {bs : List Byte} (h : TabInv s) :
    OptTab (recordPush s q ctx sender bs) := by
  fun_cases recordPush
  · exact trivial
  · exact devWrite_tabInv h

theorem execQueueAppend_tabInv {msg : Nat} (h : TabInv s) : NextTab (execQueueAppend msg s) := by
  unfold execQueueAppend
  refine event_tabInv h ?_
  split
  · exact h
  extract_lets s1
  have hs1 : TabInv s1 := h
  split
  · exact h
  split
  · split
    · exact h
    split
    · exact pushDoneAt_tabInv ((appendTo_tabInv hs1).ok ‹_›)
    · exact pushFault_tabInv ((appendTo_tabInv hs1).reject ‹_›)
  · split
    · exact settlePart_tabInv (pushDoneAt_tabInv ((recordPush_tabInv hs1).some ‹_›))
    · exact pushFault_tabInv hs1
  · extract_lets s2
    have hs2 : TabInv s2 := pushDoneAt_tabInv hs1
    exact tabInv_ite (sendFree_tabInv hs2) hs2
  · exact h

theorem freeArrives_tabInv {ctx : Nat} {id : W64} (h : TabInv s) : TabInv (freeArrives s ctx id) := by
  fun_cases freeArrives
  · exact h
  · exact addAllow_tabInv h
  · exact setCtx_tabInv h

theorem execFreeCountReturn_tabInv {msg : Nat} (h : TabInv s) : NextTab (execFreeCountReturn msg s) := by
  unfold execFreeCountReturn
  refine event_tabInv h ?_
  repeat' split
  any_goals exact h
  exact freeArrives_tabInv h

theorem settleWq_tabInv {q : Nat} (h : TabInv s) : TabInv (settleWq s q) := by
  fun_cases settleWq
  · exact settlePart_tabInv h
  · exact h

theorem setTail_tabInv {q tail : Nat} (h : TabInv s) : TabInv (setTail s q tail) := tabInv_ite h (settleWq_tabInv h)

theorem execWqdoor_tabInv {vf : Nat} {w : BitVec 64} (h : TabInv s) : NextTab (execWqdoor vf w s) :=
  event_tabInv h (tabInv_ite h (setTail_tabInv h))

theorem execWqBind_tabInv {q : Nat} {w : BitVec 64} (h : TabInv s) : NextTab (execWqBind q w s) :=
  event_tabInv h (tabInv_ite h (tabInv_ite h h))

theorem wqMove_tabInv {q : Nat} {from_ : List WqState} {new : WqState} (h : TabInv s) : TabInv (wqMove s q from_ new) :=
  tabInv_ite h h

theorem execWqPause_tabInv {q : Nat} (h : TabInv s) : NextTab (execWqPause q s) := event_tabInv h (wqMove_tabInv h)

theorem execWqResume_tabInv {q : Nat} (h : TabInv s) : NextTab (execWqResume q s) :=
  event_tabInv h (settleWq_tabInv (wqMove_tabInv h))

theorem execWqUnbind_tabInv {q : Nat} (h : TabInv s) : NextTab (execWqUnbind q s) := event_tabInv h (wqMove_tabInv h)

theorem execWqDrain_tabInv {q : Nat} (h : TabInv s) : NextTab (execWqDrain q s) :=
  event_tabInv h (tabInv_ite (settleWq_tabInv (drainDoneQ_tabInv h)) h)

theorem execWqClose_tabInv {q : Nat} (h : TabInv s) : NextTab (execWqClose q s) := event_tabInv h (wqMove_tabInv h)

theorem headRecord_tabInv {q : Nat} {w : Wq} (h : TabInv s) : TabInv (headRecord s q w).1 := by
  fun_cases headRecord
  · exact (agentRead_tabInv h).done ‹_›
  · exact keepFars_tabInv h ((agentRead_tabInv h).stall ‹_›)
  · exact h

theorem wqError_tabInv {q cause : Nat} (h : TabInv s) : TabInv (wqError s q cause) := h

theorem consume_tabInv {q : Nat} (h : TabInv s) : TabInv (consume s q) := by
  fun_cases consume
  · exact sendFree_tabInv h
  · exact h

theorem readLpb_tabInv {ck va : Nat} (h : TabInv s) : OutTab (readLpb s ck va).1 := by
  fun_cases readLpb
  · exact h
  · exact (launchRead_tabInv (((launchRead_tabInv h).fst ‹_›).ok rfl)).fst ‹_›
  · exact (launchRead_tabInv h).fst ‹_›

theorem execWqLaunchRecord_tabInv {q : Nat} (h : TabInv s) : NextTab (execWqLaunchRecord q s) := by
  unfold execWqLaunchRecord
  refine event_tabInv h ?_
  extract_lets
  split
  · exact h
  split
  · next s1 _ e =>
    have hs1 : TabInv s1 := (headRecord_tabInv h).fst e
    split
    · exact hs1
    extract_lets
    split
    · next s2 _ e2 =>
      have hs2 : TabInv s2 := ((readLpb_tabInv hs1).fst e2).ok rfl
      split
      · exact drainDoneQ_tabInv (consume_tabInv (hs2.snd ‹_›).same)
    · exact wqError_tabInv (((readLpb_tabInv hs1).fst ‹_›).fault rfl)
    · exact keepFars_tabInv hs1 (((readLpb_tabInv hs1).fst ‹_›).wait rfl)
  · exact (headRecord_tabInv h).fst ‹_›

theorem execWqSignalRecord_tabInv {q : Nat} (h : TabInv s) : NextTab (execWqSignalRecord q s) := by
  unfold execWqSignalRecord
  refine event_tabInv h (tabInv_ite h ?_)
  repeat' split
  any_goals exact (headRecord_tabInv h).fst ‹_›
  exact consume_tabInv ((headRecord_tabInv h).fst ‹_›)

theorem execSignalWrite_tabInv {q : Nat} (h : TabInv s) : NextTab (execSignalWrite q s) := by
  unfold execSignalWrite
  refine event_tabInv h ?_
  extract_lets
  split
  · exact h
  split
  · exact h
  split
  · exact drainDoneQ_tabInv (haltRise_tabInv h)
  split
  · exact drainDoneQ_tabInv ((launchWrite_tabInv h).ok ‹_›).same
  · exact keepFars_tabInv h ((launchWrite_tabInv h).wait ‹_›)
  · exact drainDoneQ_tabInv (haltRise_tabInv ((launchWrite_tabInv h).fault ‹_›))

theorem execMalformedRecord_tabInv {q : Nat} (h : TabInv s) : NextTab (execMalformedRecord q s) := by
  unfold execMalformedRecord
  refine event_tabInv h (tabInv_ite h ?_)
  repeat' split
  any_goals exact (headRecord_tabInv h).fst ‹_›
  · exact wqError_tabInv ((headRecord_tabInv h).fst ‹_›)
  · exact wqError_tabInv (noteIntegrity_tabInv ((headRecord_tabInv h).fst ‹_›))

theorem mediaRecord_tabInv {m ctx num code row : Nat} (h : TabInv s) : TabInv (mediaRecord s m ctx num code row) :=
  tabInv_ite (eventPush_tabInv h) (prfAdd_tabInv (eventPush_tabInv h))

theorem takeCard_tabInv {m op : Nat} {f : State → Card → Option Sess → State} (h : TabInv s)
    (hf : ∀ u x1 x2, TabInv u → TabInv (f u x1 x2)) :
    TabInv (takeCard s m op f) := by
  unfold takeCard
  refine tabInv_ite h ?_
  repeat' split
  · exact h
  · exact hf _ _ _ (sendFree_tabInv h)

theorem discardCard_tabInv {m : Nat} {c : Card} (h : TabInv s) : TabInv (discardCard s m c) := mediaRecord_tabInv h

theorem strayCard_tabInv {m : Nat} {c : Card} {y : Option Sess} (h : TabInv s) : TabInv (strayCard s m c y) :=
  tabInv_ite (discardCard_tabInv h) h

theorem openSess_tabInv {m : Nat} {enc : Bool} {c : Card} {y : Option Sess} (h : TabInv s) : TabInv (openSess s m enc c y) := by
  fun_cases openSess
  · exact strayCard_tabInv h
  · exact mediaRecord_tabInv h
  · exact h

theorem execMediaOpenDec_tabInv {eng : Nat} (h : TabInv s) : NextTab (execMediaOpenDec eng s) :=
  event_tabInv h (takeCard_tabInv h (fun _ _ _ hu => openSess_tabInv hu))

theorem execMediaOpenEnc_tabInv {eng : Nat} (h : TabInv s) : NextTab (execMediaOpenEnc eng s) :=
  event_tabInv h (takeCard_tabInv h (fun _ _ _ hu => openSess_tabInv hu))

theorem execMediaFrame_tabInv {eng : Nat} (h : TabInv s) : NextTab (execMediaFrame eng s) := by
  unfold execMediaFrame
  refine event_tabInv h (takeCard_tabInv h (fun _ _ _ hu => ?_))
  repeat' split
  any_goals exact strayCard_tabInv hu
  exact hu

theorem execMediaRowback_tabInv {eng : Nat} (h : TabInv s) : NextTab (execMediaRowback eng s) := by
  unfold execMediaRowback
  refine event_tabInv h (takeCard_tabInv h (fun _ _ _ hu => ?_))
  repeat' split
  any_goals exact strayCard_tabInv hu
  exact hu

theorem execMediaClose_tabInv {eng : Nat} (h : TabInv s) : NextTab (execMediaClose eng s) := by
  unfold execMediaClose
  refine event_tabInv h (takeCard_tabInv h (fun _ _ _ hu => ?_))
  repeat' split
  any_goals exact hu
  exact discardCard_tabInv hu

theorem sessFail_tabInv {m : Nat} {z : Sess} {code : Nat} (h : TabInv s) : TabInv (sessFail s m z code) :=
  tabInv_ite (mediaRecord_tabInv h) (mediaRecord_tabInv h)

theorem pushRow_tabInv {m : Nat} {z : Sess} {addr stage : Nat} {next : Sess} (h : TabInv s) :
    TabInv (pushRow s m z addr stage next) := by
  fun_cases pushRow
  any_goals exact prfAdd_tabInv ((appendTo_tabInv (instPut_tabInv h)).ok ‹_›)
  · exact sessFail_tabInv h
  · exact sessFail_tabInv h
  · exact sessFail_tabInv ((appendTo_tabInv (instPut_tabInv h)).reject ‹_›)

theorem mediaAccess_tabInv {m : Nat} {z : Sess} {a : MediaAcc} (h : TabInv s) : ErTab (mediaAccess s m z a) := by
  unfold mediaAccess
  split
  · refine List.foldlRecOn (motive := ErTab) _ _ h (fun _ hr _ _ => ?_)
    refine ER_bind_tabInv hr (fun _ _ hu => ?_)
    exact ER_bind_tabInv (glbXlate_tabInv hu) (fun _ _ hu1 => ER_bind_tabInv (readRange_tabInv hu1) (fun _ _ hu2 => hu2))
  refine ER_bind_tabInv ?_ (fun _ _ hu => hu)
  refine List.foldlRecOn (motive := ErTab) _ _ h (fun _ hr _ _ => ?_)
  refine ER_bind_tabInv hr (fun _ _ hu => ?_)
  exact ER_bind_tabInv (glbXlate_tabInv hu) (fun _ _ hu1 => ER_bind_tabInv (writeRange_tabInv hu1) (fun _ _ hu2 => hu2))

theorem mediaFault_tabInv {m : Nat} {z : Sess} {cause va : Nat} {key : KeyId} {pa : Nat} (h : TabInv s) :
    TabInv (mediaFault s m z cause va key pa) :=
  tabInv_ite (haltKey_tabInv h) (haltRise_tabInv h)

theorem rowEnd_tabInv {m : Nat} {z : Sess} {r : ER Unit} {done : State → State} (h : TabInv s) (hr : ErTab r)
    (hdone : ∀ u, TabInv u → TabInv (done u)) :
    TabInv (rowEnd s m z r done) := by
  fun_cases rowEnd
  any_goals exact stallKeep_tabInv h
  · exact hdone _ hr
  · exact mediaFault_tabInv h
  · exact ((noteFault_tabInv hr).fst ‹_›).same
  · exact mediaFault_tabInv hr
  · exact mediaFault_tabInv hr

theorem rowResult_tabInv {m : Nat} {z : Sess} {out : MediaRow} (h : TabInv s) : TabInv ((rowResult m z out).2 s) := by
  unfold rowResult
  split
  · exact pushRow_tabInv h
  · exact pushRow_tabInv h
  · exact pushRow_tabInv h
  · dsimp only
    split
    · exact sessFail_tabInv h
    · exact h

theorem execMediaRowDone_tabInv {eng sess : Nat} {out : MediaRow} (h : TabInv s) : NextTab (execMediaRowDone eng sess out s) := by
  unfold execMediaRowDone
  refine event_tabInv h ?_
  split
  · exact h
  · split
    · exact h
    · exact rowEnd_tabInv h
        (List.foldlRecOn (motive := ErTab) _ _ h (fun r hr x _ => ER_bind_tabInv hr (fun u _ hu => mediaAccess_tabInv hu)))
        (fun u hu => rowResult_tabInv hu)

theorem execBardropClear_tabInv {core : Nat} (h : TabInv s) : NextTab (execBardropClear core s) :=
  event_tabInv h (tabInv_ite h h)

/-! Links. -/

theorem sendOne_tabInv {x : Nat × Nat} (h : TabInv s) : OptTab (sendOne s x) := by
  unfold sendOne
  refine bind_optTab (fun _ _ => bind_optTab (fun _ _ => ?_))
  split
  · trivial
  · exact prfAdd_tabInv h

theorem sendAll_tabInv {x : List ((Nat × Nat) × Bool)} {x1 : List (Nat × Nat)} {s : State} (h : TabInv s) :
    TabInv (sendAll x x1 s) := by
  fun_cases sendAll
  · exact h
  · exact sendAll_tabInv h
  · exact sendAll_tabInv ((sendOne_tabInv h).some ‹_›)
  · exact sendAll_tabInv h

theorem sendRemote_tabInv (h : TabInv s) : TabInv (sendRemote s) := sendAll_tabInv h

theorem wakeLinkPushes_tabInv {was s : State} (h : TabInv s) : TabInv (wakeLinkPushes was s) := by
  unfold wakeLinkPushes
  refine tabInv_foldl (fun _ _ hu => ?_) h
  repeat' split
  any_goals exact hu
  exact wakePush_tabInv hu

theorem parkRoutes_tabInv {was s : State} (h : TabInv s) : TabInv (parkRoutes was s) := by
  unfold parkRoutes
  refine tabInv_foldl (fun _ _ hu => ?_) h
  repeat' split
  · exact parkRoute_tabInv hu
  · exact hu

theorem wakeRoutes_tabInv (h : TabInv s) : TabInv (wakeRoutes s) := tabInv_foldl (fun _ _ hu => updGroup_tabInv hu) h

theorem routesMoved_tabInv {was s : State} (h : TabInv s) : TabInv (routesMoved was s) :=
  wakeLinkPushes_tabInv (wakeRoutes_tabInv (parkRoutes_tabInv (sendRemote_tabInv (tabInv_ite h h))))

theorem moveLink_tabInv {l : Nat} {f : Link → Link} (h : TabInv s) : TabInv (moveLink s l f) := routesMoved_tabInv h

theorem peerChange_tabInv {pkg : Nat} {up : List Nat} (h : TabInv s) : TabInv (peerChange s pkg up) := routesMoved_tabInv h

theorem execLinkTrain_tabInv {link : Nat} (h : TabInv s) : NextTab (execLinkTrain link s) :=
  event_tabInv h (tabInv_ite (moveLink_tabInv h) h)

theorem execLinkDrain_tabInv {link : Nat} (h : TabInv s) : NextTab (execLinkDrain link s) :=
  event_tabInv h (tabInv_ite (moveLink_tabInv h) h)

theorem execLinkDisable_tabInv {link : Nat} (h : TabInv s) : NextTab (execLinkDisable link s) :=
  event_tabInv h (tabInv_ite (moveLink_tabInv h) h)

theorem execErrcntClear_tabInv {link : Nat} (h : TabInv s) : NextTab (execErrcntClear link s) := event_tabInv h (tabInv_ite h h)

theorem execLinkTrained_tabInv {link lanes peer : Nat} (h : TabInv s) : NextTab (execLinkTrained link lanes peer s) :=
  event_tabInv h (tabInv_ite h (tabInv_ite (moveLink_tabInv h) (moveLink_tabInv h)))

theorem execTrainingTimeout_tabInv {link : Nat} (h : TabInv s) : NextTab (execTrainingTimeout link s) :=
  event_tabInv h (tabInv_ite (moveLink_tabInv h) h)

theorem execLaneLost_tabInv {link left : Nat} (h : TabInv s) : NextTab (execLaneLost link left s) :=
  event_tabInv h (tabInv_ite h (moveLink_tabInv h))

theorem execPeerLost_tabInv {link : Nat} (h : TabInv s) : NextTab (execPeerLost link s) :=
  event_tabInv h (tabInv_ite (moveLink_tabInv h) h)

theorem unsend_tabInv {x : Nat × Nat} (h : TabInv s) : TabInv (unsend s x) := tabInv_foldl (fun _ _ hu => moveLink_tabInv hu) h

theorem farDone_tabInv {acc part : Nat} (h : TabInv s) : TabInv (farDone s acc part) := unsend_tabInv (partsDone_tabInv h)

theorem msgGone_tabInv {n : Nat} (h : TabInv s) : TabInv (msgGone s n) := by
  fun_cases msgGone
  · exact pushDoneAt_tabInv (unsend_tabInv h)
  · exact unsend_tabInv h
  · exact h

theorem linkPushFault_tabInv {n cause : Nat} (h : TabInv s) : TabInv (linkPushFault s n cause) := by
  fun_cases linkPushFault
  · exact pushFault_tabInv (unsend_tabInv h)
  · exact h

theorem farAnswered_tabInv {n : Nat} {r : FarReq} {data : BitVec 1024} (h : TabInv s) : TabInv (farAnswered s n r data) :=
  unsend_tabInv (tabInv_ite h h)

theorem farRefused_tabInv {n : Nat} {r : FarReq} {cause : Nat} (h : TabInv s) : TabInv (farRefused s n r cause) :=
  tabInv_ite (unsend_tabInv h) (unsend_tabInv h)

theorem execFlitAck_tabInv {link acc part : Nat} (h : TabInv s) : NextTab (execFlitAck link acc part s) := by
  unfold execFlitAck
  refine event_tabInv h (tabInv_ite (sendRemote_tabInv h) ?_)
  repeat' split
  · exact sendRemote_tabInv (farDone_tabInv (sendRemote_tabInv h))
  · exact sendRemote_tabInv h
  · exact sendRemote_tabInv (farAnswered_tabInv (sendRemote_tabInv h))
  · exact sendRemote_tabInv h
  · exact sendRemote_tabInv (msgGone_tabInv (sendRemote_tabInv h))

theorem partAnswered_tabInv {acc part : Nat} {a : Acc} {p : Part} {data : BitVec 1024} (h : TabInv s) :
    TabInv (partAnswered s acc part a p data) :=
  farDone_tabInv (tabInv_ite (l1Fill_tabInv h) h)

theorem farFault_tabInv {key : KeyId} {pa cause : Nat} (h : TabInv s) : TabInv (farFault s key pa cause) :=
  tabInv_ite (haltKey_tabInv h) h

theorem serveFlit_tabInv {link : Nat} {flit : Flit} (h : TabInv s) : TabInv (serveFlit s link flit).1 := by
  unfold serveFlit
  dsimp only
  repeat' split
  any_goals exact h
  · exact prfAdd_tabInv h
  · exact prfAdd_tabInv h
  · exact prfAdd_tabInv ((appendTo_tabInv h).ok ‹_›)
  · exact prfAdd_tabInv ((appendTo_tabInv h).reject ‹_›)
  · exact prfAdd_tabInv h
  · exact prfAdd_tabInv (countRead_tabInv ((pumpRead_tabInv h).done ‹_›))
  · exact (pumpRead_tabInv h).stall ‹_›
  · exact prfAdd_tabInv (farFault_tabInv h)
  · exact prfAdd_tabInv h
  · exact prfAdd_tabInv (countWrite_tabInv ((pumpWrite_tabInv h).done ‹_›))
  · exact (pumpWrite_tabInv h).stall ‹_›
  · exact prfAdd_tabInv (farFault_tabInv h)
  · exact prfAdd_tabInv h
  · exact prfAdd_tabInv (countWrite_tabInv (pumpCount_tabInv ((pumpWrite_tabInv ((pumpRead_tabInv h).done ‹_›)).done ‹_›)))
  · exact (pumpWrite_tabInv ((pumpRead_tabInv h).done ‹_›)).stall ‹_›
  · exact prfAdd_tabInv (farFault_tabInv h)
  · exact (pumpRead_tabInv h).stall ‹_›
  · exact prfAdd_tabInv (farFault_tabInv h)

theorem serveAll_tabInv {x : List (Nat × Nat × Flit)} {x1 : List (Bool × Nat)} {s : State} (h : TabInv s) :
    TabInv (serveAll x x1 s) := by
  fun_cases serveAll
  · exact h
  · exact serveAll_tabInv h
  · exact serveAll_tabInv (((serveFlit_tabInv h).fst ‹_›).same)
  · exact serveAll_tabInv ((serveFlit_tabInv h).fst ‹_›)

theorem serveInbox_tabInv (h : TabInv s) : TabInv (serveInbox s) := serveAll_tabInv h

theorem execFlitReceived_tabInv {link : Nat} {flit : Flit} (h : TabInv s) : NextTab (execFlitReceived link flit s) := by
  unfold execFlitReceived
  refine event_tabInv h (tabInv_ite h ?_)
  dsimp only
  repeat' split
  · exact sendRemote_tabInv h
  · exact sendRemote_tabInv h
  · exact sendRemote_tabInv (prfAdd_tabInv (partAnswered_tabInv (sendRemote_tabInv h)))
  · exact sendRemote_tabInv h
  · exact sendRemote_tabInv h
  · exact sendRemote_tabInv (prfAdd_tabInv (farAnswered_tabInv (sendRemote_tabInv h)))
  · exact sendRemote_tabInv h
  · exact sendRemote_tabInv (prfAdd_tabInv (failAcc_tabInv (tabInv_foldl (fun _ _ hu => unsend_tabInv hu) (sendRemote_tabInv h))))
  · exact sendRemote_tabInv h
  · exact sendRemote_tabInv (prfAdd_tabInv (farRefused_tabInv (sendRemote_tabInv h)))
  · exact sendRemote_tabInv h
  · exact sendRemote_tabInv (linkPushFault_tabInv (sendRemote_tabInv h))
  · exact sendRemote_tabInv h
  · exact prfAdd_tabInv (freeArrives_tabInv (sendRemote_tabInv h))
  · exact sendRemote_tabInv h
  · exact serveInbox_tabInv (sendRemote_tabInv h)

theorem execFlitCrcFail_tabInv {link : Nat} {vfs : List Nat} (h : TabInv s) : NextTab (execFlitCrcFail link vfs s) :=
  event_tabInv h (tabInv_ite h (moveLink_tabInv (tabInv_foldl (fun _ _ hu => prfAdd_tabInv hu) h)))

theorem routeFails_tabInv {n : Nat} (h : TabInv s) : TabInv (routeFails s n) := by
  fun_cases routeFails
  any_goals exact h
  · exact failAcc_tabInv h
  · exact farRefused_tabInv h
  · exact haltRise_tabInv h
  · exact linkPushFault_tabInv h
  · exact raiseGroup_tabInv h

theorem execRouteTimeout_tabInv {acc : Nat} (h : TabInv s) : NextTab (execRouteTimeout acc s) :=
  event_tabInv h (routeFails_tabInv h)

theorem execFunctionLevelReset_tabInv {fn : Nat} (h : TabInv s) : NextTab (execFunctionLevelReset fn s) :=
  event_tabInv h (tabInv_ite h (tabInv_foldl (fun _ _ hu => teardown_tabInv hu) h))

/-! Debug, profiling and registers. -/

theorem onSel_tabInv {die : Nat} {f : Nat → Grp → Nat → State} (h : TabInv s) (hf : ∀ x0 x1 x2, TabInv (f x0 x1 x2)) :
    TabInv (onSel s die f) := by
  unfold onSel
  refine tabInv_ite h (tabInv_ite h ?_)
  repeat' split
  any_goals exact h
  exact hf _ _ _

theorem onStopped_tabInv {die : Nat} {f : Nat → Grp → Nat → State} (h : TabInv s) (hf : ∀ x0 x1 x2, TabInv (f x0 x1 x2)) :
    TabInv (onStopped s die f) :=
  onSel_tabInv h (fun _ _ _ => tabInv_ite (hf _ _ _) h)

theorem execDbgStop_tabInv {die : Nat} (h : TabInv s) : NextTab (execDbgStop die s) :=
  onSel_tabInv h (fun _ _ _ => tabInv_ite h (tabInv_ite (setGroup_tabInv h) (setGroup_tabInv h)))

theorem stopEnds_tabInv {die st : Nat} (h : TabInv s) : TabInv (stopEnds s die st) := tabInv_ite h h

theorem execDebugStopReached_tabInv {grp : Nat} (h : TabInv s) : NextTab (execDebugStopReached grp s) := by
  unfold execDebugStopReached
  refine event_tabInv h ?_
  dsimp only
  repeat' split
  any_goals exact h
  · exact stopEnds_tabInv h
  · exact stopEnds_tabInv (setGroup_tabInv h)
  · exact stopEnds_tabInv (prfRecord_tabInv (setGroup_tabInv h))

theorem execDbgResume_tabInv {die : Nat} (h : TabInv s) : NextTab (execDbgResume die s) :=
  onStopped_tabInv h (fun _ _ _ => setGroup_tabInv h)

theorem execDbgStep_tabInv {die : Nat} (h : TabInv s) : NextTab (execDbgStep die s) := by
  refine onStopped_tabInv h (fun _ _ _ => updGroup_tabInv (tabInv_ite h ?_))
  exact selectPath_tabInv h h

theorem execDbgBken_tabInv {die : Nat} (h : TabInv s) : NextTab (execDbgBken die s) :=
  onSel_tabInv h (fun _ _ _ => setGroup_tabInv h)

theorem execDbgBkdis_tabInv {die : Nat} (h : TabInv s) : NextTab (execDbgBkdis die s) :=
  onSel_tabInv h (fun _ _ _ => setGroup_tabInv h)

theorem execDbgRead_tabInv {die : Nat} (h : TabInv s) : NextTab (execDbgRead die s) := by
  unfold execDbgRead
  refine tabInv_ite h (tabInv_ite ?_ (onStopped_tabInv h (fun _ _ _ => ?_)))
  · repeat' split
    all_goals exact h
  · repeat' split
    all_goals exact h

theorem cancelCell_tabInv {k : Nat} {c : Cell} (h : TabInv s) : TabInv (cancelCell s k c) := by
  fun_cases cancelCell
  · exact h
  · refine tabInv_foldl (fun _ _ hu => tabInv_ite (updGroup_tabInv hu) hu) ?_
    exact tabInv_foldl (fun _ _ hu => tabInv_ite (tabInv_ite (updGroup_tabInv hu) hu) hu) (setGroup_tabInv h)

theorem cancelReg_tabInv {k : Nat} {g : Grp} {c : Cell} (h : TabInv s) : TabInv (cancelReg s k g c) :=
  tabInv_foldl (fun _ _ hu => cancelCell_tabInv hu) h

theorem execDbgWrite_tabInv {die : Nat} {force : Bool} (h : TabInv s) : NextTab (execDbgWrite die force s) := by
  unfold execDbgWrite
  extract_lets
  refine onStopped_tabInv h (fun _ _ _ => ?_)
  split
  · exact h
  · exact h
  · exact h
  · split
    · exact setGroup_tabInv h
    · exact h
  · split
    · exact h
    · exact setGroup_tabInv h
  · extract_lets
    split
    · exact h
    · exact tabInv_ite (selectPath_tabInv (setGroup_tabInv h) (setGroup_tabInv h)) (setGroup_tabInv h)
  · extract_lets
    refine tabInv_ite h (tabInv_ite (tabInv_ite ?_ h) ?_)
    · exact endFaultWait_tabInv (updGroup_tabInv (cancelReg_tabInv h))
    · exact setGroup_tabInv h

theorem execDbgDrain_tabInv {die : Nat} (h : TabInv s) : NextTab (execDbgDrain die s) := by
  unfold execDbgDrain
  refine tabInv_ite (onSel_tabInv h (fun _ _ _ => h)) ?_
  dsimp only
  repeat' split
  any_goals exact h
  exact onStopped_tabInv h (fun _ _ _ => tabInv_ite h h)

theorem lockRecords_tabInv {vf : Nat} (h : TabInv s) : TabInv (lockRecords s vf) :=
  tabInv_foldl (fun _ _ hu => eventPush_tabInv hu) h

theorem execPrfctlWrite_tabInv {vf : Nat} {physical : Bool} {w : BitVec 64} (h : TabInv s) :
    NextTab (execPrfctlWrite vf physical w s) :=
  event_tabInv h (tabInv_ite h (tabInv_ite (lockRecords_tabInv h) h))

theorem execProfileSample_tabInv {vf sched : Nat} (h : TabInv s) : NextTab (execProfileSample vf sched s) := by
  unfold execProfileSample
  refine event_tabInv h (tabInv_ite h ?_)
  dsimp only
  repeat' split
  any_goals exact prfRecord_tabInv h
  exact h

theorem execPrfselWrite_tabInv {vf i : Nat} {w : BitVec 64} (h : TabInv s) : NextTab (execPrfselWrite vf i w s) :=
  event_tabInv h (tabInv_ite h h)

theorem execLcrctlWrite_tabInv {vf : Nat} {w : BitVec 64} (h : TabInv s) : NextTab (execLcrctlWrite vf w s) :=
  event_tabInv h (tabInv_ite h h)

theorem execPrfcntLowRead_tabInv {vf i : Nat} {physical : Bool} (h : TabInv s) : NextTab (execPrfcntLowRead vf i physical s) :=
  event_tabInv h (tabInv_ite h (tabInv_ite h h))

theorem idleLanes_tabInv {vf k : Nat} {g : Grp} {n : Nat} (h : TabInv s) : TabInv (idleLanes s vf k g n) := prfAdd_tabInv h

theorem idleSched_tabInv {n : Nat} {sched : Nat} (h : TabInv s) : TabInv (idleSched n s sched) := by
  unfold idleSched
  refine tabInv_foldl (fun _ _ hu => ?_) h
  repeat' split
  · exact idleLanes_tabInv hu
  · exact hu

theorem execIdleIssueCycle_tabInv {sched : Nat} (h : TabInv s) : NextTab (execIdleIssueCycle sched s) :=
  event_tabInv h (tabInv_ite (idleSched_tabInv h) h)

theorem vfWrite_tabInv {vf off : Nat} {physical : Bool} {w : W64} (h : TabInv s) : TabInv (vfWrite s vf off physical w) := by
  fun_cases vfWrite
  any_goals exact h
  all_goals exact updCtx_tabInv h

theorem wqWrite_tabInv {q off : Nat} {w : W64} (h : TabInv s) : TabInv (wqWrite s q off w) := by
  fun_cases wqWrite
  any_goals exact h
  exact setTail_tabInv h

theorem dbgRegWrite_tabInv {die off : Nat} {w : W64} (h : TabInv s) : TabInv (dbgRegWrite s die off w) := by
  fun_cases dbgRegWrite
  all_goals exact h

theorem pkgWrite_tabInv {off : Nat} {w : W64} (h : TabInv s) : TabInv (pkgWrite s off w) := by
  unfold pkgWrite
  refine tabInv_ite h (tabInv_ite (tabInv_ite h h) (tabInv_ite h (tabInv_ite ?_ (tabInv_ite (wqWrite_tabInv h) h))))
  dsimp only
  repeat' split
  all_goals exact h

theorem execRegisterWrite_tabInv {sel offset : Nat} {physical : Bool} {w : BitVec 64} (h : TabInv s) :
    NextTab (execRegisterWrite sel offset physical w s) := by
  refine tabInv_ite h (tabInv_ite (tabInv_ite (dbgRegWrite_tabInv h) h) (tabInv_ite (vfWrite_tabInv h) ?_))
  exact tabInv_ite h (tabInv_ite h (tabInv_ite (pkgWrite_tabInv (dbgRegWrite_tabInv h)) (dbgRegWrite_tabInv h)))

/-! Commits and versions. -/

theorem onPreparing_tabInv {k : Nat} {f : Grp → Tx → State} (h : TabInv s) (hf : ∀ x0 x1, TabInv (f x0 x1)) :
    TabInv (onPreparing s k f) := by
  fun_cases onPreparing
  any_goals exact h
  exact hf _ _

theorem execTxPrepare_tabInv {grp pump : Nat} (h : TabInv s) : NextTab (execTxPrepare grp pump s) := by
  refine event_tabInv h (onPreparing_tabInv h (fun _ _ => tabInv_ite h (tabInv_ite (prfAdd_tabInv (updGroup_tabInv h)) ?_)))
  refine tabInv_ite (tabInv_ite (prfAdd_tabInv (updGroup_tabInv h)) h) ?_
  exact updGroup_tabInv (tabInv_foldl (fun _ _ hu => hu) h)

theorem execTxVote_tabInv {grp pump : Nat} (h : TabInv s) : NextTab (execTxVote grp pump s) := by
  unfold execTxVote
  refine event_tabInv h (onPreparing_tabInv h (fun _ _ => ?_))
  dsimp only
  repeat' split
  any_goals exact h
  any_goals exact updGroup_tabInv h
  exact tabInv_foldl (fun _ _ hu => wakeWaits_tabInv hu) (updGroup_tabInv h)

theorem execTxCommitWrite_tabInv {grp line : Nat} (h : TabInv s) : NextTab (execTxCommitWrite grp line s) := by
  unfold execTxCommitWrite
  refine event_tabInv h (onPreparing_tabInv h (fun _ _ => ?_))
  split
  · split
    · exact h
    have hfree : TabInv (freeLine s line) := h
    extract_lets
    split
    · exact updGroup_tabInv (countWrite_tabInv ((pumpWrites_tabInv hfree).done ‹_›))
    · exact tabInv_ite h h
    · exact tabInv_ite (haltKey_tabInv (updGroup_tabInv hfree)) (haltRise_tabInv (updGroup_tabInv hfree))
  · exact h

theorem execTxCommitAck_tabInv {grp pump : Nat} (h : TabInv s) : NextTab (execTxCommitAck grp pump s) :=
  event_tabInv h (onPreparing_tabInv h (fun _ _ => tabInv_ite h (tabInv_ite (updGroup_tabInv h) (updGroup_tabInv h))))

theorem execLockRelease_tabInv {grp : Nat} (h : TabInv s) : NextTab (execLockRelease grp s) :=
  event_tabInv h (tabInv_ite h (txUnlock_tabInv h))

theorem execLwmRecompute_tabInv {die : Nat} (h : TabInv s) : NextTab (execLwmRecompute die s) :=
  event_tabInv h (tabInv_ite h (tabInv_foldl (fun _ _ hu => prfAdd_tabInv (prfAdd_tabInv (prfAdd_tabInv hu))) h))

/-! Every instruction and event. -/

theorem exec_tabInv {i : Instr} (h : TabInv s) : NextTab (exec i s) := by
  cases i <;> dsimp only [exec]
  case rdem | rdsr | jrd | iadd | isub | imul | imad | imulw | imadw | imin | imax | iabs | ineg | shl | shr |
      rot | bop | bfe | bfi | popc | clz | brev | isetp | sel | mov | movi | movih | lea | plop | isad | idot |
      shfw | xlane | pcol | bsel | matchI | rdlane | wrlane | fadd | fsub | fmul | ffma | fdot | fmin | fmax |
      fsetp | fsel | fclass | fdiv | fsqrt | frcp | frsq | fexp2 | flog2 | fsin | fcos | ftanh | fcvt | f2i |
      i2f | frnd | fscale | digits | sibrd | sibwr | sibmed | sibmean | sibdiff | fsgn => exact laneIns_tabInv h
  case aadd | amin | amax | aand | aor | axor | axch | acas | afadd | radd | rmin | rmax | rand | ror | rxor |
      rfadd => exact atomIssue_tabInv h
  case ztrap | illegalOp | falloff | textFault => exact raiseWord_tabInv h
  case nop => exact execNop_tabInv h
  case bra => exact execBra_tabInv h
  case brx => exact execBrx_tabInv h
  case brd => exact execBrd_tabInv h
  case jarm => exact execJarm_tabInv h
  case jarr => exact execJarr_tabInv h
  case call => exact execCall_tabInv h
  case callx => exact execCallx_tabInv h
  case ret => exact execRet_tabInv h
  case endI => exact execEndI_tabInv h
  case trap => exact execTrap_tabInv h
  case bkpt => exact execBkpt_tabInv h
  case bind => exact execBind_tabInv h
  case spawn => exact execSpawn_tabInv h
  case launch => exact execLaunch_tabInv h
  case yield => exact execYield_tabInv h
  case sleep => exact execSleep_tabInv h
  case mark => exact execMark_tabInv h
  case wrem => exact execWrem_tabInv h
  case wrsr => exact execWrsr_tabInv h
  case rdts => exact laneInsS_tabInv h
  case rdcnt => exact execRdcnt_tabInv h
  case emp => exact execEmp_tabInv h
  case redi => exact execRedi_tabInv h
  case scan => exact execScan_tabInv h
  case fred => exact execFred_tabInv h
  case ld => exact execLd_tabInv h
  case st => exact execSt_tabInv h
  case ldx => exact execLdx_tabInv h
  case stx => exact execStx_tabInv h
  case waita => exact execWaita_tabInv h
  case fence => exact execFence_tabInv h
  case cinv => exact execCinv_tabInv h
  case ctag => exact execCtag_tabInv h
  case pref => exact execPref_tabInv h
  case txb => exact execTxb_tabInv h
  case txc => exact execTxc_tabInv h
  case txa => exact execTxa_tabInv h
  case snappin => exact execSnappin_tabInv h
  case snaprel => exact execSnaprel_tabInv h
  case cdrain => exact execCdrain_tabInv h
  case push => exact execPush_tabInv h
  case pop => exact execPop_tabInv h
  case caprd => exact execCaprd_tabInv h
  case binit => exact execBinit_tabInv h
  case barrive => exact execBarrive_tabInv h
  case bexpect => exact execBexpect_tabInv h
  case bwaitp => exact execBwaitp_tabInv h
  case btest => exact execBtest_tabInv h
  case binval => exact execBinval_tabInv h
  case bclose => exact execBclose_tabInv h
  case bwait => exact execBwait_tabInv h
  case bpoll => exact execBpoll_tabInv h
  case qfence => exact execQfence_tabInv h
  case cpy => exact execCpy_tabInv h
  case cpyT => exact execCpyT_tabInv h
  case cpyCv => exact execCpyCv_tabInv h
  case cpyMeta => exact execCpyMeta_tabInv h
  case gather => exact execGather_tabInv h
  case mzero => exact execMzero_tabInv h
  case mloop => exact execMloop_tabInv h
  case mloopSp => exact execMloopSp_tabInv h
  case macc => exact execMacc_tabInv h
  case cbload => exact execCbload_tabInv h
  case xfmR => exact execXfmR_tabInv h
  case xfmJ => exact execXfmJ_tabInv h
  case decode => exact execDecode_tabInv h
  case powerGood => exact execPowerGood_tabInv h
  case selfTestDone => exact execSelfTestDone_tabInv h
  case imageReceived => exact execImageReceived_tabInv h
  case imageVerified => exact execImageVerified_tabInv h
  case thermalTrip => exact execThermalTrip_tabInv h
  case tripClear => exact execTripClear_tabInv h
  case freeze => exact execFreeze_tabInv h
  case thaw => exact execThaw_tabInv h
  case coreFailure => exact execCoreFailure_tabInv h
  case softError => exact execSoftError_tabInv h
  case patrolScrub => exact execPatrolScrub_tabInv h
  case uncorrectableError => exact execUncorrectableError_tabInv h
  case startGrant => exact execStartGrant_tabInv h
  case bankAccess => exact execBankAccess_tabInv h
  case pumpFullWrite => exact execPumpFullWrite_tabInv h
  case pumpPartialWrite => exact execPumpPartialWrite_tabInv h
  case pumpRead => exact execPumpRead_tabInv h
  case pumpAtomic => exact execPumpAtomic_tabInv h
  case reencryptComplete => exact execReencryptComplete_tabInv h
  case memoryResponse => exact execMemoryResponse_tabInv h
  case storeAck => exact execStoreAck_tabInv h
  case wkeyLoad => exact execWkeyLoad_tabInv h
  case wkeyRekey => exact execWkeyRekey_tabInv h
  case wkeyClear => exact execWkeyClear_tabInv h
  case rekeyLine => exact execRekeyLine_tabInv h
  case snapshotWaitEnd => exact execSnapshotWaitEnd_tabInv h
  case txPrepare => exact execTxPrepare_tabInv h
  case txVote => exact execTxVote_tabInv h
  case txCommitWrite => exact execTxCommitWrite_tabInv h
  case txCommitAck => exact execTxCommitAck_tabInv h
  case lockRelease => exact execLockRelease_tabInv h
  case lwmRecompute => exact execLwmRecompute_tabInv h
  case poolWaitTimeout => exact execPoolWaitTimeout_tabInv h
  case poolWaitEnd => exact execPoolWaitEnd_tabInv h
  case pageWalk => exact execPageWalk_tabInv h
  case setDirty => exact execSetDirty_tabInv h
  case faultRecordWaitEnd => exact execFaultRecordWaitEnd_tabInv h
  case fltreplayReplay => exact execFltreplayReplay_tabInv h
  case fltreplayCancel => exact execFltreplayCancel_tabInv h
  case tlbinvRange => exact execTlbinvRange_tabInv h
  case tlbinvVf => exact execTlbinvVf_tabInv h
  case tlbinvAll => exact execTlbinvAll_tabInv h
  case tlbinvText => exact execTlbinvText_tabInv h
  case tlbinvComplete => exact execTlbinvComplete_tabInv h
  case partqEnable => exact execPartqEnable_tabInv h
  case partqDisable => exact execPartqDisable_tabInv h
  case ctxCreate => exact execCtxCreate_tabInv h
  case ctxSwitch => exact execCtxSwitch_tabInv h
  case ctxHalt => exact execCtxHalt_tabInv h
  case ctxResume => exact execCtxResume_tabInv h
  case ctxTeardown => exact execCtxTeardown_tabInv h
  case restoreStart => exact execRestoreStart_tabInv h
  case restoreComplete => exact execRestoreComplete_tabInv h
  case sliceEnd => exact execSliceEnd_tabInv h
  case saveComplete => exact execSaveComplete_tabInv h
  case haltLineRise => exact execHaltLineRise_tabInv h
  case unitStop => exact execUnitStop_tabInv h
  case vfKeyLoad => exact execVfKeyLoad_tabInv h
  case vfKeyClear => exact execVfKeyClear_tabInv h
  case tokenAccrual => exact execTokenAccrual_tabInv h
  case reclaim => exact execReclaim_tabInv h
  case reclaimComplete => exact execReclaimComplete_tabInv h
  case objectLoad => exact execObjectLoad_tabInv h
  case objectUnload => exact execObjectUnload_tabInv h
  case gridAcceptance => exact execGridAcceptance_tabInv h
  case teamPlacement => exact execTeamPlacement_tabInv h
  case gridCompletion => exact execGridCompletion_tabInv h
  case bindResolve => exact execBindResolve_tabInv h
  case groupStateLoaded => exact execGroupStateLoaded_tabInv h
  case activeSetEntry => exact execActiveSetEntry_tabInv h
  case fairnessEviction => exact execFairnessEviction_tabInv h
  case groupFree => exact execGroupFree_tabInv h
  case spawnBinTimeout => exact execSpawnBinTimeout_tabInv h
  case spawnBinPlace => exact execSpawnBinPlace_tabInv h
  case sleepExpiry => exact execSleepExpiry_tabInv h
  case capdataWrite => exact execCapdataWrite_tabInv h
  case cqCreate => exact execCqCreate_tabInv h
  case cqDestroy => exact execCqDestroy_tabInv h
  case queueAppend => exact execQueueAppend_tabInv h
  case freeCountReturn => exact execFreeCountReturn_tabInv h
  case wqdoor => exact execWqdoor_tabInv h
  case wqBind => exact execWqBind_tabInv h
  case wqPause => exact execWqPause_tabInv h
  case wqResume => exact execWqResume_tabInv h
  case wqDrain => exact execWqDrain_tabInv h
  case wqClose => exact execWqClose_tabInv h
  case wqUnbind => exact execWqUnbind_tabInv h
  case wqLaunchRecord => exact execWqLaunchRecord_tabInv h
  case wqSignalRecord => exact execWqSignalRecord_tabInv h
  case signalWrite => exact execSignalWrite_tabInv h
  case mediaOpenDec => exact execMediaOpenDec_tabInv h
  case mediaOpenEnc => exact execMediaOpenEnc_tabInv h
  case mediaFrame => exact execMediaFrame_tabInv h
  case mediaRowback => exact execMediaRowback_tabInv h
  case mediaClose => exact execMediaClose_tabInv h
  case mediaRowDone => exact execMediaRowDone_tabInv h
  case bardropClear => exact execBardropClear_tabInv h
  case waitaRegister => exact execWaitaRegister_tabInv h
  case waitaDeadline => exact execWaitaDeadline_tabInv h
  case waitaWake => exact execWaitaWake_tabInv h
  case linkTrain => exact execLinkTrain_tabInv h
  case linkDrain => exact execLinkDrain_tabInv h
  case linkDisable => exact execLinkDisable_tabInv h
  case errcntClear => exact execErrcntClear_tabInv h
  case linkTrained => exact execLinkTrained_tabInv h
  case trainingTimeout => exact execTrainingTimeout_tabInv h
  case laneLost => exact execLaneLost_tabInv h
  case peerLost => exact execPeerLost_tabInv h
  case flitReceived => exact execFlitReceived_tabInv h
  case flitCrcFail => exact execFlitCrcFail_tabInv h
  case flitAck => exact execFlitAck_tabInv h
  case routeTimeout => exact execRouteTimeout_tabInv h
  case functionLevelReset => exact execFunctionLevelReset_tabInv h
  case engineOpStart => exact execEngineOpStart_tabInv h
  case engineLineTransfer => exact execEngineLineTransfer_tabInv h
  case sparsityQueuePush => exact execSparsityQueuePush_tabInv h
  case mloopKStep => exact execMloopKStep_tabInv h
  case maccReadout => exact execMaccReadout_tabInv h
  case xfmJobBlock => exact execXfmJobBlock_tabInv h
  case engineOpComplete => exact execEngineOpComplete_tabInv h
  case dbgStop => exact execDbgStop_tabInv h
  case debugStopReached => exact execDebugStopReached_tabInv h
  case dbgResume => exact execDbgResume_tabInv h
  case dbgStep => exact execDbgStep_tabInv h
  case dbgRead => exact execDbgRead_tabInv h
  case dbgWrite => exact execDbgWrite_tabInv h
  case dbgDrain => exact execDbgDrain_tabInv h
  case dbgBken => exact execDbgBken_tabInv h
  case dbgBkdis => exact execDbgBkdis_tabInv h
  case prfctlWrite => exact execPrfctlWrite_tabInv h
  case profileSample => exact execProfileSample_tabInv h
  case prfselWrite => exact execPrfselWrite_tabInv h
  case lcrctlWrite => exact execLcrctlWrite_tabInv h
  case prfcntLowRead => exact execPrfcntLowRead_tabInv h
  case registerWrite => exact execRegisterWrite_tabInv h
  case packageReset => exact execPackageReset_tabInv
  case malformedRecord => exact execMalformedRecord_tabInv h
  case variableLatencyResult => exact execVariableLatencyResult_tabInv h
  case idleIssueCycle => exact execIdleIssueCycle_tabInv h

/-! What moves next. -/

theorem countHalted_tabInv {n : Nat} (h : TabInv s) : TabInv (countHalted s n) := by
  refine tabInv_foldl (fun u p hu => elim_tabInv hu (fun x _ => ?_)) h
  exact hu

theorem countCycles_tabInv {n : Nat} (h : TabInv s) : TabInv (countCycles s n) :=
  countHalted_tabInv (tabInv_foldl (fun _ _ hu => idleSched_tabInv hu) h)

theorem tick_tabInv (h : TabInv s) : TabInv (tick s) := by
  unfold tick
  split
  · exact h
  · exact takeRaised_tabInv (growHalts_tabInv (servePosted_tabInv (flushBars_tabInv (countCycles_tabInv h))))

theorem hostWrites_tabInv {pa : Nat} {key : KeyId} {ver cmp : Bool} {bytes : List Byte} (h : TabInv s) :
    TabInv (hostWrites s pa key ver cmp bytes) := servePost_tabInv h

theorem entryTime_tabInv {x : Choice} (h : TabInv s) : TabInv (entryTime s x) := by
  unfold entryTime
  split
  case h_2 | h_3 => exact tabInv_ite (tick_tabInv h) h
  · exact tabInv_ite h (tick_tabInv h)
  · exact tick_tabInv h

theorem takeChoice_tabInv (h : TabInv s) : TabInv (takeChoice s).2 := by
  unfold takeChoice
  split <;> exact h

theorem idleFor_tabInv {n : Nat} (h : TabInv s) : TabInv (idleFor s n) := tabInv_ite h (countCycles_tabInv h)

theorem setL1rows_tabInv {n : Nat} (h : TabInv s) : TabInv (setL1rows s n) := tabInv_ite h h

/-! The step. -/

theorem unyield_tabInv {sched k : Nat} (h : TabInv s) : TabInv (unyield s sched k) := by
  refine tabInv_of ?_ h.teams h.ctxs
  dsimp only [unyield]
  exact h.groups.map

theorem stepIssue_tabInv {sched : Nat} (h : TabInv s) : NextTab (stepIssue s sched) := by
  unfold stepIssue
  split
  · exact h
  split
  · exact h
  next k _ _ =>
    have hs : TabInv { unyield s sched k with issued := sched :: s.issued } := unyield_tabInv h
    split
    · exact takeFault_tabInv ((fetch_tabInv hs).fst ‹_›)
    · exact ((fetch_tabInv hs).fst ‹_›).same
    · exact exec_tabInv ((fetch_tabInv hs).fst ‹_›).same

theorem stepInput_tabInv {x : Choice} (h : TabInv s) : TabInv (stepInput s x) := by
  cases x
  case write => exact hostWrites_tabInv h
  case idle => exact idleFor_tabInv h
  case l1rows => exact setL1rows_tabInv h
  case peer => exact peerChange_tabInv h
  case inbox => exact serveInbox_tabInv h
  all_goals exact h

theorem stepChoice_tabInv {c : Choice} (h : TabInv s) : NextTab (stepChoice s c) := by
  unfold stepChoice
  split
  · exact h
  split
  case h_3 | h_4 | h_5 =>
    split
    · exact h
    · exact exec_tabInv h
  · exact stepIssue_tabInv h
  · exact stepIssue_tabInv h
  · exact h
  split
  · exact h
  · exact stepInput_tabInv h

/-- What the model may do of its own accord keeps the three tables. -/
def ActTab (f : Act) : Prop := ∀ s, TabInv s → NextTab (f s)

theorem schedActs_tabInv (sched : Nat) : ∀ f ∈ schedActs sched, ActTab f := by
  simp only [schedActs, List.forall_mem_cons]
  exact ⟨fun _ h => execActiveSetEntry_tabInv h, fun _ h => execFairnessEviction_tabInv h,
    fun _ h => execIdleIssueCycle_tabInv h, nofun⟩

theorem opActs_tabInv (x : Nat × EngOp) : ∀ f ∈ opActs x, ActTab f := by
  simp only [opActs, List.forall_mem_cons]
  exact ⟨fun _ h => execEngineOpStart_tabInv h, fun _ h => execEngineLineTransfer_tabInv h,
    fun _ h => execSparsityQueuePush_tabInv h, fun _ h => execMloopKStep_tabInv h, fun _ h => execMaccReadout_tabInv h,
    fun _ h => execXfmJobBlock_tabInv h,
    fun _ h => execEngineOpComplete_tabInv h, nofun⟩

theorem msgActs_tabInv (x : Nat × Msg) : ∀ f ∈ msgActs x, ActTab f := by
  unfold msgActs
  split
  · simp only [List.forall_mem_cons]
    exact ⟨fun _ h => execFreeCountReturn_tabInv h, fun _ h => execRouteTimeout_tabInv h, nofun⟩
  · exact List.forall_mem_singleton.2 fun _ h => execRouteTimeout_tabInv h
  · exact List.forall_mem_singleton.2 fun _ h => execQueueAppend_tabInv h

theorem binActs_tabInv (s : State) (core : Nat) (x : Nat × Bin) : ∀ f ∈ binActs s core x, ActTab f := by
  unfold binActs
  extract_lets part
  split
  · split
    · exact List.forall_mem_singleton.2 fun _ h => execSpawnBinPlace_tabInv h
    · nofun
  · exact List.forall_mem_singleton.2 fun _ h => execSpawnBinTimeout_tabInv h

theorem autoPlace_tabInv (s : State) (p ck core : Nat) : ∀ f ∈ autoPlace s p ck core, ActTab f := by
  unfold autoPlace
  split
  · nofun
  · extract_lets nb rows clash
    split
    · exact List.forall_mem_singleton.2 fun _ h => execTeamPlacement_tabInv h
    · nofun

theorem partActs_tabInv (s : State) (p : Nat) (x : Part48) : ∀ f ∈ partActs s p x, ActTab f := by
  unfold partActs
  simp only [List.forall_mem_append, List.forall_mem_cons]
  refine ⟨⟨⟨⟨fun _ h => execRestoreStart_tabInv h, fun _ h => execRestoreComplete_tabInv h,
    fun _ h => execSliceEnd_tabInv h, fun _ h => execSaveComplete_tabInv h, fun _ h => execReclaimComplete_tabInv h, nofun⟩, ?_⟩, ?_⟩, ?_⟩
  · exact List.forall_mem_map.2 fun _ _ _ h => execReclaim_tabInv h
  · split
    · exact List.forall_mem_map.2 fun _ _ _ h => execUnitStop_tabInv h
    · nofun
  · split
    · split
      · exact autoPlace_tabInv s p _ _
      · nofun
    · nofun

theorem grpActs_tabInv (x : Nat × Grp) : ∀ f ∈ grpActs x, ActTab f := by
  unfold grpActs
  dsimp only
  simp only [List.forall_mem_append]
  refine ⟨⟨⟨⟨?_, ?_⟩, ?_⟩, ?_⟩, ?_⟩
  · split
    · exact List.forall_mem_singleton.2 fun _ h => execGroupStateLoaded_tabInv h
    · exact List.forall_mem_singleton.2 fun _ h => execGroupFree_tabInv h
    · exact List.forall_mem_singleton.2 fun _ h => execSleepExpiry_tabInv h
  · exact List.forall_mem_map.2 fun _ _ _ h => execVariableLatencyResult_tabInv h
  · split
    · simp only [List.forall_mem_append, List.forall_mem_flatten, List.forall_mem_map, List.forall_mem_cons]
      exact ⟨fun _ _ => ⟨fun _ h => execTxPrepare_tabInv h, fun _ h => execTxVote_tabInv h,
          fun _ h => execTxCommitAck_tabInv h, nofun⟩,
        fun _ _ _ h => execTxCommitWrite_tabInv h⟩
    · exact List.forall_mem_singleton.2 fun _ h => execLockRelease_tabInv h
  · split
    · exact List.forall_mem_singleton.2 fun _ h => execRouteTimeout_tabInv h
    · nofun
  · split
    · exact List.forall_mem_singleton.2 fun _ h => execDebugStopReached_tabInv h
    · nofun

theorem accActs_tabInv (x : Nat × Acc) : ∀ f ∈ accActs x, ActTab f := by
  unfold accActs
  dsimp only
  simp only [List.forall_mem_append, List.forall_mem_flatten, List.forall_mem_map, List.forall_mem_cons]
  refine ⟨fun p _ => ?_, fun _ h => execMemoryResponse_tabInv h, fun _ h => execStoreAck_tabInv h, fun _ h => execWaitaWake_tabInv h,
    fun _ h => execSnapshotWaitEnd_tabInv h, fun _ h => execPoolWaitEnd_tabInv h, fun _ h => execPoolWaitTimeout_tabInv h, nofun⟩
  have hroute : ActTab (execRouteTimeout x.1) := fun _ h => execRouteTimeout_tabInv h
  have hbank : ActTab (execBankAccess x.1 p.1) := fun _ h => execBankAccess_tabInv h
  split
  · exact List.forall_mem_singleton.2 hroute
  · exact List.forall_mem_cons.2 ⟨hbank, List.forall_mem_singleton.2 hroute⟩
  · split
    · exact List.forall_mem_cons.2 ⟨fun _ h => execWaitaRegister_tabInv h,
        List.forall_mem_singleton.2 fun _ h => execWaitaDeadline_tabInv h⟩
    · split
      · split
        · exact List.forall_mem_cons.2 ⟨fun _ h => execPumpFullWrite_tabInv h,
            List.forall_mem_singleton.2 fun _ h => execPumpPartialWrite_tabInv h⟩
        · split
          · exact List.forall_mem_singleton.2 fun _ h => execPumpAtomic_tabInv h
          · exact List.forall_mem_singleton.2 fun _ h => execPumpRead_tabInv h
      · exact List.forall_mem_singleton.2 hbank

theorem acts_tabInv (s : State) (scheds : List Nat) : ∀ f ∈ acts s scheds, ActTab f := by
  unfold acts
  simp only [List.forall_mem_append, List.forall_mem_flatten, List.forall_mem_map, and_assoc]
  refine ⟨?_, ?_, ?_, ?_, ?_, ?_, ?_, ?_, ?_, ?_, ?_, ?_, ?_, ?_, ?_, ?_, ?_, ?_, ?_, ?_, ?_⟩
  · exact fun x _ => schedActs_tabInv x
  · exact fun x _ => grpActs_tabInv x
  · exact fun x _ => accActs_tabInv x
  · exact fun x _ => opActs_tabInv x
  · exact fun x _ => msgActs_tabInv x
  · exact fun _ _ _ h => execGridAcceptance_tabInv h
  · exact fun _ _ _ h => execGridCompletion_tabInv h
  · exact fun p _ => partActs_tabInv s p.1 p.2
  · simp only [List.forall_mem_cons]
    exact fun _ _ => ⟨fun _ h => execWqLaunchRecord_tabInv h, fun _ h => execWqSignalRecord_tabInv h,
      fun _ h => execSignalWrite_tabInv h, fun _ h => execMalformedRecord_tabInv h, nofun⟩
  · simp only [List.forall_mem_cons]
    exact fun _ _ => ⟨fun _ h => execMediaOpenDec_tabInv h, fun _ h => execMediaOpenEnc_tabInv h, fun _ h => execMediaFrame_tabInv h,
      fun _ h => execMediaRowback_tabInv h, fun _ h => execMediaClose_tabInv h, nofun⟩
  · exact fun c _ x _ => binActs_tabInv s c.1 x
  · exact fun _ _ _ h => execFaultRecordWaitEnd_tabInv h
  · exact fun _ _ _ h => execReencryptComplete_tabInv h
  · simp only [List.forall_mem_cons]
    exact fun _ _ => ⟨fun _ h => execStartGrant_tabInv h, fun _ h => execLwmRecompute_tabInv h, nofun⟩
  · exact fun _ _ _ h => execDbgDrain_tabInv h
  · split
    · nofun
    · exact List.forall_mem_map.2 fun _ _ _ h => execStartGrant_tabInv h
  · exact fun _ _ _ h => execTrainingTimeout_tabInv h
  · exact fun _ _ _ h => execRouteTimeout_tabInv h
  · split
    · nofun
    · exact List.forall_mem_singleton.2 fun _ h => event_tabInv h (serveInbox_tabInv h)
  · exact fun _ _ _ _ _ h => execProfileSample_tabInv h
  · split
    · exact List.forall_mem_singleton.2 fun _ h => execTlbinvComplete_tabInv h
    · nofun

theorem autoTurn_tabInv {f : Act} (e : autoTurn s = .inr f) : ActTab f := by
  unfold autoTurn at e
  extract_lets scheds cs at e
  cases hq : cs[s.cycle % cs.length]? with
  | none =>
    rw [hq] at e
    cases e
    exact fun _ h => idleFor_tabInv h
  | some a =>
    rw [hq, Option.getD_some] at e
    subst e
    have hmem : Sum.inr f ∈ cs := List.mem_of_getElem? hq
    have hf : f ∈ acts s scheds := by simpa [cs] using hmem
    exact acts_tabInv s scheds f hf

theorem stepAuto_tabInv (h : TabInv s) : NextTab (stepAuto s) := by
  unfold stepAuto
  split
  · exact stepIssue_tabInv h
  · next f e => exact autoTurn_tabInv e s h

theorem step_tabInv (h : TabInv s) : NextTab (step s) := by
  unfold step
  split
  · next e => exact stepChoice_tabInv (entryTime_tabInv ((takeChoice_tabInv h).snd e))
  · next e => exact stepAuto_tabInv (tick_tabInv ((takeChoice_tabInv h).snd e))

/-- Settles O59: each table of groups, teams and contexts changes by the updates that keep its keys in order, in every function
that `step` calls. -/
theorem stepKeepsTables : Obligations.StepKeepsTables := by
  unfold Obligations.StepKeepsTables
  intro s t h e
  have hn : NextTab (step s) := step_tabInv h
  rwa [e] at hn

end Sys2Proof.Proofs.Tables

/-! # Contexts, their partitions and their groups (R178 to R187, R195, R197)

The rules about one step of the hardware that commands and events share come first: a partition settles on the VF that it runs,
a group gives up its waits and goes to the save, a context goes to the save. -/

namespace Sys2Proof.Proofs.Contexts

open Sys2Proof Sys2Proof.Machine Sys2Proof.Claims Sys2Proof.Proofs.Device

variable {s t u : State}

theorem mem_tabKeys {α : Type} {t : Tab α} {p : Nat → α → Bool} {k : Nat} {x : α} (h : tabGet t k = some x) (hp : p k x = true) :
    k ∈ tabKeys t p :=
  List.mem_map.mpr ⟨(k, x), List.mem_filter.mpr ⟨tabGet_mem h, hp⟩, rfl⟩

/-- A removal leaves the entries of the other keys. -/
theorem tabDel_eq_filter {α : Type} (t : Tab α) (i : Nat) : tabDel t i = t.filter fun e => e.1 ≠ i := by
  induction t with
  | nil => rfl
  | cons e t ih => by_cases he : e.1 = i <;> simp [tabDel, he, ih]

theorem tabDel_put {α : Type} (t : Tab α) (i : Nat) (x : α) : tabDel (tabPut t i x) i = tabDel t i := by
  induction t with
  | nil => simp [tabPut, tabDel]
  | cons e t ih =>
    rw [tabPut]
    split
    · simp [tabDel]
    · split
      · next he => simp [tabDel, he]
      · next he => simp [tabDel, ih, Ne.symm he]

theorem tabDel_none {α : Type} {t : Tab α} {i : Nat} (h : tabGet t i = none) : tabDel t i = t := by
  induction t with
  | nil => rfl
  | cons e t ih =>
    rw [tabGet_cons] at h
    split at h
    · cases h
    · next he => simp [tabDel, he, ih h]

/-! A partition settles on the VF that runs (R193, R194). -/

/-- What the choice of the VF that runs changes: neither a VF's current slot nor a halt line. -/
structure Settled (s t : State) : Prop where
  same : t = { s with parts := t.parts, vfs := t.vfs }
  vf : ∀ v, (getVf t v).cur = (getVf s v).cur ∧ (getVf t v).gsp = (getVf s v).gsp
  halt : ∀ q, (getPart t q).halt = (getPart s q).halt

theorem Settled.refl (s : State) : Settled s s := ⟨rfl, fun _ => ⟨rfl, rfl⟩, fun _ => rfl⟩

theorem Settled.trans (h1 : Settled s t) (h2 : Settled t u) : Settled s u := by
  refine ⟨h2.same.trans (by rw [h1.same]), fun v => ?_, fun q => (h2.halt q).trans (h1.halt q)⟩
  obtain ⟨hc1, hg1⟩ := h1.vf v
  obtain ⟨hc2, hg2⟩ := h2.vf v
  exact ⟨hc2.trans hc1, hg2.trans hg1⟩

theorem Settled.ctxs (h : Settled s t) : t.ctxs = s.ctxs := by rw [h.same]
theorem Settled.groups (h : Settled s t) : t.groups = s.groups := by rw [h.same]
theorem Settled.teams (h : Settled s t) : t.teams = s.teams := by rw [h.same]
theorem Settled.mem (h : Settled s t) : t.mem = s.mem := by rw [h.same]

theorem updPart_settled (s : State) (p : Nat) {f : Part48 → Part48} (hf : ∀ x, (f x).halt = x.halt) : Settled s (updPart s p f) := by
  refine ⟨rfl, fun _ => ⟨rfl, rfl⟩, fun q => ?_⟩
  rw [getPart_updPart]
  split
  · next e => rw [hf, e]
  · rfl

theorem accrue_settled (s : State) (v : Nat) : Settled s (accrue s v) := by
  refine ⟨rfl, fun w => ?_, fun _ => rfl⟩
  rw [accrue, getVf_updVf]
  split
  · next e => exact e ▸ ⟨rfl, rfl⟩
  · exact ⟨rfl, rfl⟩

theorem accrueAll_settled (s : State) : Settled s (accrueAll s) := by
  unfold accrueAll
  exact List.foldlRecOn (motive := Settled s) _ _ (.refl s) fun t h v _ => h.trans (accrue_settled t v)

theorem startVf_settled (s : State) (p v : Nat) : Settled s (startVf s p v) :=
  (accrue_settled s v).trans (updPart_settled _ p (f := fun x => { x with running := some v, sliceStart := s.gts, next := none })
    fun _ => rfl)

theorem settlePart_settled (s : State) (p : Nat) : Settled s (settlePart s p) := by
  unfold settlePart
  extract_lets s1
  have h1 : Settled s s1 := by
    unfold s1
    split
    · split
      · exact (accrue_settled s _).trans (updPart_settled _ p fun _ => rfl)
      · exact .refl s
    · exact .refl s
  clear_value s1
  split
  · exact h1
  split
  · exact h1.trans ((accrueAll_settled s1).trans (startVf_settled _ p _))
  · exact h1

/-! Groups that go to the save (R181, R186). -/

/-- What a context keeps while groups are saved. -/
structure CtxKept (c d : Ctx) : Prop where
  state : d.state = c.state
  cause : d.cause = c.cause
  teardown : d.teardown = c.teardown
  saved : ∀ n, (tabGet c.saved n).isSome = true → (tabGet d.saved n).isSome = true

theorem CtxKept.refl (c : Ctx) : CtxKept c c := ⟨rfl, rfl, rfl, fun _ h => h⟩

theorem CtxKept.trans {c d e : Ctx} (h1 : CtxKept c d) (h2 : CtxKept d e) : CtxKept c e :=
  ⟨h2.state.trans h1.state, h2.cause.trans h1.cause, h2.teardown.trans h1.teardown, fun n h => h2.saved n (h1.saved n h)⟩

/-- A part of a save: no context leaves its state, and no group comes or goes to another context. -/
structure Saves (s t : State) : Prop where
  parts : t.parts = s.parts
  ctxs : ∀ j c, tabGet s.ctxs j = some c → ∃ d, tabGet t.ctxs j = some d ∧ CtxKept c d
  groups : ∀ k h, tabGet t.groups k = some h → ∃ g, tabGet s.groups k = some g ∧ h.ctx = g.ctx

theorem Saves.of_eq (hp : t.parts = s.parts) (hc : t.ctxs = s.ctxs) (hg : t.groups = s.groups) : Saves s t :=
  ⟨hp, fun _ c h => ⟨c, hc ▸ h, .refl c⟩, fun _ g h => ⟨g, hg ▸ h, rfl⟩⟩

theorem Saves.refl (s : State) : Saves s s := .of_eq rfl rfl rfl

theorem Saves.trans (h1 : Saves s t) (h2 : Saves t u) : Saves s u := by
  refine ⟨h2.parts.trans h1.parts, fun j c hc => ?_, fun k h hu => ?_⟩
  · obtain ⟨d, hd, k1⟩ := h1.ctxs j c hc
    obtain ⟨e, he, k2⟩ := h2.ctxs j d hd
    exact ⟨e, he, k1.trans k2⟩
  · obtain ⟨h', ht, e2⟩ := h2.groups k h hu
    obtain ⟨g, hs, e1⟩ := h1.groups k h' ht
    exact ⟨g, hs, e2.trans e1⟩

theorem Saves.foldl {α : Type} {f : State → α → State} (hf : ∀ s x, Saves s (f s x)) (l : List α) (s : State) :
    Saves s (l.foldl f s) :=
  List.foldlRecOn (motive := Saves s) _ _ (.refl s) fun t h x _ => h.trans (hf t x)

theorem Saves.of_wrote (h : DeviceWrote s t) : Saves s t := by
  have e := h.same
  exact .of_eq (by rw [e]) (by rw [e]) (by rw [e])

theorem updCtx_saves (s : State) (ck : Nat) {f : Ctx → Ctx} (hf : ∀ c, CtxKept c (f c)) : Saves s (updCtx s ck f) := by
  refine ⟨rfl, fun j c hc => ?_, fun k g hg => ⟨g, hg, rfl⟩⟩
  rw [updCtx_ctxs, tabGet_upd]
  split
  · next e => exact ⟨f c, by rw [hc]; rfl, hf c⟩
  · exact ⟨c, hc, .refl c⟩

theorem updGroup_saves (s : State) (k : Nat) {f : Grp → Grp} (hf : ∀ g, (f g).ctx = g.ctx) : Saves s (updGroup s k f) := by
  refine ⟨rfl, fun j c hc => ⟨c, hc, .refl c⟩, fun j h hh => ?_⟩
  rw [updGroup_groups, tabGet_upd] at hh
  split at hh
  · next e =>
    obtain ⟨g, hg, rfl⟩ := Option.map_eq_some_iff.mp hh
    exact ⟨g, e ▸ hg, hf g⟩
  · exact ⟨h, hh, rfl⟩

/-- A group without its waits. -/
def GrpStill (g h : Grp) : Prop := h = { g with paths := h.paths, spilled := h.spilled, sb := h.sb }

theorem slotFrees_still {α : Type} (f : α → Option Nat) (l : List α) (g : Grp) : GrpStill g (l.foldl (fun g a => slotFree g (f a)) g) := by
  refine List.foldlRecOn (motive := GrpStill g) _ _ rfl fun h hh a _ => ?_
  obtain ⟨b, e⟩ := slotFree_rest h (f a)
  rw [e, GrpStill, hh]

theorem GrpStill.trans {a b c : Grp} (h1 : GrpStill a b) (h2 : GrpStill b c) : GrpStill a c := by
  rw [GrpStill, h2, h1]

theorem runnableAgain_still (g : Grp) : GrpStill g (runnableAgain g) := by
  unfold runnableAgain
  exact .trans (b := { g with paths := g.paths.map _, spilled := g.spilled.map _ }) rfl (slotFrees_still some _ _)

/-! A group gives up its waits (R186): its accesses that wait are gone, and so are its places in queues. -/

theorem withdrawWaits_groups {k : Nat} {g : Grp} (hg : tabGet s.groups k = some g) :
    ∃ h, GrpStill g h ∧ (withdrawWaits s k).groups = tabPut s.groups k h := by
  simp only [withdrawWaits, hg]
  exact ⟨_, (runnableAgain_still g).trans (slotFrees_still (fun a : Nat × Acc => a.2.slot) _ _), rfl⟩

theorem withdrawWaits_ctxs {k : Nat} {g : Grp} (hg : tabGet s.groups k = some g) :
    ∃ x : Ctx → Tab CoreCtx, (withdrawWaits s k).ctxs = tabUpd s.ctxs g.ctx fun c => { c with core := x c } := by
  simp only [withdrawWaits, hg]
  exact ⟨fun c => _, rfl⟩

theorem withdrawWaits_parts (s : State) (k : Nat) : (withdrawWaits s k).parts = s.parts := by
  unfold withdrawWaits
  split <;> rfl

theorem withdrawWaits_none {k : Nat} (hg : tabGet s.groups k = none) : withdrawWaits s k = s := by
  simp only [withdrawWaits, hg]

theorem withdrawWaits_saves (s : State) (k : Nat) : Saves s (withdrawWaits s k) := by
  cases hg : tabGet s.groups k with
  | none =>
    rw [withdrawWaits_none hg]
    exact .refl s
  | some g =>
    obtain ⟨h, hh, hgs⟩ := withdrawWaits_groups hg
    obtain ⟨x, hcs⟩ := withdrawWaits_ctxs hg
    refine ⟨withdrawWaits_parts s k, ?_, fun j i hi => ?_⟩
    · rw [hcs]
      exact (updCtx_saves s g.ctx (f := fun c => { c with core := x c }) fun _ => ⟨rfl, rfl, rfl, fun _ h => h⟩).ctxs
    · rw [hgs, tabGet_put] at hi
      split at hi
      · next e =>
        cases hi
        exact ⟨g, e ▸ hg, by rw [hh]⟩
      · exact ⟨i, hi, rfl⟩

/-! One group goes to the save (R181). A group that rewinds to its mark takes a new serial number, so it is left out. -/

theorem saveGroup_none {w : Bool} {k : Nat} (hg : tabGet s.groups k = none) : saveGroup w s k = s := by
  simp only [saveGroup, withdrawWaits_none hg, hg]

/-- Whatever the group rewinds to: it leaves its slot, and one entry joins the save of one context. -/
theorem saveGroup_shape (w : Bool) {k : Nat} {g : Grp} (hg : tabGet s.groups k = some g) :
    ∃ ck n h m f, (saveGroup w s k).ctxs = tabUpd (withdrawWaits s k).ctxs ck (fun c => { c with saved := tabPut c.saved n h }) ∧
      (saveGroup w s k).groups = tabDel s.groups k ∧ (saveGroup w s k).parts = s.parts ∧
      (saveGroup w s k).cores = (withdrawWaits s k).cores ∧
      (saveGroup w s k).teams = tabUpd (withdrawWaits s k).teams m f ∧
      (w = true ∨ rewinds g = false → ck = g.ctx ∧ n = g.serial) := by
  obtain ⟨h, hh, hgs⟩ := withdrawWaits_groups hg
  have hget : tabGet (withdrawWaits s k).groups k = some h := by rw [hgs, tabGet_put_same]
  have hplain : rewinds h = rewinds g := by rw [hh, rewinds, rewinds]
  have hctx : h.ctx = g.ctx := by rw [hh]
  have hser : h.serial = g.serial := by rw [hh]
  simp only [saveGroup, hget, fresh, hplain]
  cases hrew : !w && rewinds g
  · simp only [Bool.false_eq_true, if_false, hget, Option.getD_some]
    refine ⟨_, _, _, _, _, rfl, ?_, withdrawWaits_parts s k, rfl, rfl, fun _ => ⟨hctx, hser⟩⟩
    rw [← tabDel_put s.groups k h, ← hgs]
    rfl
  · simp only [if_true]
    refine ⟨_, _, _, _, _, rfl, ?_, withdrawWaits_parts s k, rfl, rfl, fun hw => ?_⟩
    · rw [← tabDel_put s.groups k _, ← tabUpd_put s.groups k h, ← hgs]
      rfl
    · rcases hw with hw | hw <;> simp [hw] at hrew

/-- The slot of a group that goes to the save is free. -/
theorem saveGroup_groups (w : Bool) (s : State) (k : Nat) : (saveGroup w s k).groups = tabDel s.groups k := by
  cases hg : tabGet s.groups k with
  | none => rw [saveGroup_none hg, tabDel_none hg]
  | some g =>
    obtain ⟨_, _, _, _, _, -, hgs, -⟩ := saveGroup_shape w hg
    exact hgs

theorem ctxKept_save (c : Ctx) (n : Nat) (g : Grp) : CtxKept c { c with saved := tabPut c.saved n g } := by
  refine ⟨rfl, rfl, rfl, fun m hm => ?_⟩
  rw [tabGet_put]
  split
  · rfl
  · exact hm

theorem saveGroup_saves (w : Bool) (s : State) (k : Nat) : Saves s (saveGroup w s k) := by
  cases hg : tabGet s.groups k with
  | none =>
    rw [saveGroup_none hg]
    exact .refl s
  | some g =>
    obtain ⟨ck, n, h, _, _, hcs, -, hps, -⟩ := saveGroup_shape w hg
    refine ⟨hps, ?_, fun j h hj => ?_⟩
    · rw [hcs]
      exact ((withdrawWaits_saves s k).trans (updCtx_saves _ ck fun c => ctxKept_save c n h)).ctxs
    · rw [saveGroup_groups, tabGet_del] at hj
      split at hj
      · cases hj
      · exact ⟨h, hj, rfl⟩

/-! The groups of a list go to the save. -/

theorem saveGroups_groups (w : Bool) (ks : List Nat) (s : State) :
    (ks.foldl (saveGroup w) s).groups = s.groups.filter fun e => e.1 ∉ ks := by
  induction ks generalizing s with
  | nil => simp
  | cons k ks ih =>
    rw [List.foldl_cons, ih, saveGroup_groups, tabDel_eq_filter, List.filter_filter]
    congr 1
    funext e
    simp [Bool.and_comm]

theorem saveGroups_group (w : Bool) (ks : List Nat) (s : State) (j : Nat) :
    tabGet (ks.foldl (saveGroup w) s).groups j = if j ∈ ks then none else tabGet s.groups j := by
  induction ks generalizing s with
  | nil => rfl
  | cons k ks ih =>
    rw [List.foldl_cons, ih, saveGroup_groups, tabGet_del]
    by_cases hj : j = k <;> by_cases hm : j ∈ ks <;> simp [hj, hm, eq_comm]

theorem saveGroups_saves (w : Bool) (ks : List Nat) (s : State) : Saves s (ks.foldl (saveGroup w) s) :=
  .foldl (saveGroup_saves w) ks s

theorem saveGroup_saved {w : Bool} {k : Nat} {g : Grp} {c : Ctx} (hg : tabGet s.groups k = some g) (hw : w = true ∨ rewinds g = false)
    (hc : tabGet s.ctxs g.ctx = some c) :
    ∃ d, tabGet (saveGroup w s k).ctxs g.ctx = some d ∧ (tabGet d.saved g.serial).isSome = true := by
  obtain ⟨ck, n, h, _, _, hcs, -, -, -, -, hplain⟩ := saveGroup_shape w hg
  obtain ⟨rfl, rfl⟩ := hplain hw
  obtain ⟨d, hd, -⟩ := (withdrawWaits_saves s k).ctxs _ _ hc
  refine ⟨{ d with saved := tabPut d.saved g.serial h }, ?_, ?_⟩
  · rw [hcs, tabGet_upd, if_pos rfl, hd]
    rfl
  · rw [tabGet_put_same]
    rfl

theorem saveGroups_saved {w : Bool} {ks : List Nat} {k : Nat} {g : Grp} {c : Ctx} (hk : k ∈ ks) (hg : tabGet s.groups k = some g)
    (hw : w = true ∨ rewinds g = false) (hc : tabGet s.ctxs g.ctx = some c) :
    ∃ d, tabGet (ks.foldl (saveGroup w) s).ctxs g.ctx = some d ∧ (tabGet d.saved g.serial).isSome = true := by
  induction ks generalizing s c with
  | nil => cases hk
  | cons j ks ih =>
    by_cases e : j = k
    · subst e
      obtain ⟨d, hd, hsaved⟩ := saveGroup_saved hg hw hc
      obtain ⟨d', hd', hkept⟩ := (saveGroups_saves w ks (saveGroup w s j)).ctxs _ d hd
      exact ⟨d', hd', hkept.saved _ hsaved⟩
    · obtain ⟨d, hd, -⟩ := (saveGroup_saves w s j).ctxs _ c hc
      have hk' : k ∈ ks := (List.mem_cons.mp hk).resolve_left (Ne.symm e)
      exact ih hk' (by rw [saveGroup_groups, tabGet_del, if_neg e, hg]) hd

/-! A context goes to the save (R181): its groups, then what its cores hold for it. -/

theorem wakePath_saves (s : State) (k : Nat) (p : WaitOn → Bool) (done : Bool) : Saves s (wakePath s k p done) := by
  refine updGroup_saves s k fun g => ?_
  split <;> rfl

theorem keepBin_saves (s : State) (ck core : Nat) (b : Bin) : Saves s (keepBin s ck core b) :=
  updCtx_saves s ck fun _ => ⟨rfl, rfl, rfl, fun _ h => h⟩

theorem wakeSpawns_saves (s : State) (core : Nat) : Saves s (wakeSpawns s core) :=
  .foldl (fun t k => wakePath_saves t k _ _) _ s

theorem takeBins_saves (s : State) (ck : Nat) (p : Bin → Bool) : Saves s (takeBins s ck p) := by
  refine .foldl (fun t x => ?_) s.cores s
  dsimp only
  split
  · exact .refl t
  · have hkeep : Saves t (((x.2.bins.filter fun b => p b.2).map (·.2)).foldl (fun t b => keepBin t ck x.1 b) t) :=
      .foldl (fun t b => keepBin_saves t ck x.1 b) _ _
    refine (hkeep.trans ?_).trans (wakeSpawns_saves _ _)
    exact .of_eq rfl rfl rfl

theorem saveCores_saves (s : State) (ck : Nat) (c : Ctx) : Saves s (saveCores s ck c) := by
  unfold saveCores
  extract_lets _ s0 _ _ _ _ s1
  have h1 : Saves s0 s1 := .of_eq rfl rfl rfl
  exact ((takeBins_saves s ck _).trans h1).trans (updCtx_saves s1 ck fun _ => ⟨rfl, rfl, rfl, fun _ h => h⟩)

theorem teamAway_saves (s : State) (tk : Nat) : Saves s (teamAway s tk) := by
  unfold teamAway
  split
  · exact .refl s
  · exact .of_eq rfl rfl rfl

/-- What follows the groups of a context to its save. -/
theorem saveContext_rest (s : State) (ck : Nat) (w : Bool) :
    Saves ((ctxGroups s ck).foldl (saveGroup w) s) (saveContext s ck w) := by
  unfold saveContext
  extract_lets s1 s2
  have h1 : Saves ((ctxGroups s ck).foldl (saveGroup w) s) s1 := .of_eq rfl rfl rfl
  have h2 : Saves s1 s2 := .foldl teamAway_saves _ _
  split
  · exact (h1.trans h2).trans (saveCores_saves s2 ck _)
  · exact h1.trans h2

theorem saveContext_saves (s : State) (ck : Nat) (w : Bool) : Saves s (saveContext s ck w) :=
  (saveGroups_saves w _ s).trans (saveContext_rest s ck w)

/-- After the save of a context no slot holds a group of it. -/
theorem saveContext_groups {ck k : Nat} {w : Bool} {h : Grp} (hk : tabGet (saveContext s ck w).groups k = some h) : h.ctx ≠ ck := by
  obtain ⟨g, hg, e⟩ := (saveContext_rest s ck w).groups k h hk
  rw [saveGroups_group] at hg
  split at hg
  · cases hg
  · next hno =>
    intro hck
    exact hno (mem_tabKeys hg (by simp [← e, hck]))

/-- After the save of a context that halts, each of its groups is in it by its serial number. -/
theorem saveContext_saved {ck k : Nat} {g : Grp} {c d : Ctx} (hc : tabGet s.ctxs ck = some c) (hg : tabGet s.groups k = some g)
    (hck : g.ctx = ck) (hd : tabGet (saveContext s ck true).ctxs ck = some d) : (tabGet d.saved g.serial).isSome = true := by
  subst hck
  have hk : k ∈ ctxGroups s g.ctx := mem_tabKeys hg (by simp)
  obtain ⟨d1, hd1, hsaved⟩ := saveGroups_saved hk hg (.inl rfl) hc
  obtain ⟨d2, hd2, hkept⟩ := (saveContext_rest s g.ctx true).ctxs _ d1 hd1
  rw [hd] at hd2
  cases hd2
  exact hkept.saved _ hsaved

theorem eventPush_saves (s : State) (ck kind sub a0 a1 : Nat) : Saves s (eventPush s ck kind sub a0 a1) := by
  obtain ⟨hw, r, hr, -⟩ := eventPush_rest s ck kind sub a0 a1
  have hset : Saves s { s with ctxs := (eventPush s ck kind sub a0 a1).ctxs } := by
    rw [hr]
    exact updCtx_saves s ck fun _ => ⟨rfl, rfl, rfl, fun _ h => h⟩
  exact hset.trans (.of_wrote hw)

/-! The stop of a halting context (R185, R186, R187). -/

/-- The device's writes of the header and the records change no context, group or partition. -/
theorem writeStops_wrote (s : State) (ck : Nat) (c : Ctx) (h : Halt) : DeviceWrote s (writeStops s ck c h).1 := by
  unfold writeStops
  extract_lets _ base kept s1
  have h1 : DeviceWrote s s1 := devWrite_wrote _ _ _ _
  exact List.foldlRecOn (motive := DeviceWrote s) _ _ h1 fun t ht r _ => ht.trans (devWrite_wrote _ _ _ _)

/-- A unit that has not stopped holds the halt up. -/
theorem tryHalted_waits {p : Nat} {h : Halt} {c : Ctx} {u : UnitId} (hp : (getPart s p).halt = some h) (hc : tabGet s.ctxs h.ctx = some c)
    (hu : u ∈ stopUnits s h) (hno : c.recs.any (fun r => r.unit == u) = false) : tryHalted s p = s := by
  have hdone : (stopUnits s h).all (fun u => c.recs.any fun r => r.unit == u) = false :=
    List.all_eq_false.mpr ⟨u, hu, by simp [hno]⟩
  simp [tryHalted, hp, hc, hdone]

/-- The last unit has stopped: the context goes to the save with its groups and is HALTED with its cause. -/
theorem tryHalted_done {p : Nat} {h : Halt} {c : Ctx} (hp : (getPart s p).halt = some h) (hc : tabGet s.ctxs h.ctx = some c)
    (hst : c.state = .halting) (htear : c.teardown = false)
    (hdone : (stopUnits s h).all (fun u => c.recs.any fun r => r.unit == u) = true) (hset : ctxSettled s h.ctx true = true) :
    ctxMark (tryHalted s p) h.ctx = some (.halted, c.cause) ∧ (getPart (tryHalted s p) p).halt = none ∧
      (∀ k g, tabGet (tryHalted s p).groups k = some g → g.ctx ≠ h.ctx) ∧
      ∀ y, tabGet (tryHalted s p).ctxs h.ctx = some y →
        ∀ k g, tabGet s.groups k = some g → g.ctx = h.ctx → (tabGet y.saved g.serial).isSome = true := by
  have hw := writeStops_wrote s h.ctx c h
  have ht : tryHalted s p = settlePart (eventPush (updPart (updCtx (saveContext (writeStops s h.ctx c h).1 h.ctx true) h.ctx
      fun c => { c with state := .halted, recs := [], switchTo := none }) p fun x => { x with halt := none, next := none })
      h.ctx 1 h.cause (h.gid % 2 ^ 32) (writeStops s h.ctx c h).2) p := by
    simp [tryHalted, hp, hc, hst, hdone, hset, htear]
  rw [ht]
  generalize writeStops s h.ctx c h = r at hw
  obtain ⟨s1, n⟩ := r
  dsimp only at hw ⊢
  have hc1 : tabGet s1.ctxs h.ctx = some c := by rw [hw.same, hc]
  have hg1 : s1.groups = s.groups := by rw [hw.same]
  obtain ⟨d, hd, hkept⟩ := (saveContext_saves s1 h.ctx true).ctxs _ c hc1
  have hgone := fun k g => saveContext_groups (s := s1) (ck := h.ctx) (k := k) (w := true) (h := g)
  have hsaved := fun k g hg hck => saveContext_saved (k := k) (g := g) hc1 (hg1 ▸ hg) hck hd
  generalize hs2 : saveContext s1 h.ctx true = s2 at hd hgone
  generalize hs3 : updPart (updCtx s2 h.ctx fun c => { c with state := .halted, recs := [], switchTo := none }) p
    (fun x => { x with halt := none, next := none }) = s3
  have hd3 : tabGet s3.ctxs h.ctx = some { d with state := .halted, recs := [], switchTo := none } := by
    rw [← hs3, updPart_ctxs, updCtx_ctxs, tabGet_upd, if_pos rfl, hd]
    rfl
  have hsv := eventPush_saves s3 h.ctx 1 h.cause (h.gid % 2 ^ 32) n
  obtain ⟨e, he, hkept3⟩ := hsv.ctxs _ _ hd3
  have hsettle := settlePart_settled (eventPush s3 h.ctx 1 h.cause (h.gid % 2 ^ 32) n) p
  refine ⟨?_, ?_, fun k g hk => ?_, fun y hy k g hg hck => ?_⟩
  · rw [ctxMark, hsettle.ctxs, he, Option.map_some, hkept3.state, hkept3.cause, hkept.cause]
  · rw [hsettle.halt, getPart, hsv.parts, ← getPart, ← hs3, getPart_updPart, if_pos rfl]
  · rw [hsettle.groups] at hk
    obtain ⟨g', hg', e'⟩ := hsv.groups k g hk
    rw [e']
    exact hgone k g' (by rw [← hs3] at hg'; exact hg')
  · rw [hsettle.ctxs, he] at hy
    cases hy
    exact hkept3.saved _ (hsaved k g hg hck)

/-- The number that a slot's unit stands for is the slot. -/
theorem groupUnit_slot {k : Nat} (hk : k < 512 * 96) :
    (((groupUnit k).die * 64 + (groupUnit k).core) * 4 + (groupUnit k).index) * 24 + (groupUnit k).slot = k := by
  simp only [groupUnit, dieOf, coreOf, schedOf]
  omega

theorem groupUnit_mem_stopUnits {k : Nat} {g : Grp} {h : Halt} (hg : tabGet s.groups k = some g) (hck : g.ctx = h.ctx)
    (hret : g.state ≠ .retired) : groupUnit k ∈ stopUnits s h := by
  have hk := mem_tabKeys (p := fun _ g => g.ctx == h.ctx && g.state != .retired) hg (by simp [hck, hret])
  simp only [stopUnits, List.mem_eraseDups, List.mem_append]
  exact .inl (.inl (.inl (.inl (List.mem_map_of_mem hk))))

/-- A group without a message under way has stopped. -/
theorem groupUnit_atRest {k : Nat} {g : Grp} (h : Halt) (hk : k < 512 * 96) (hg : tabGet s.groups k = some g)
    (hmsg : ∀ m ∈ s.msgs, msgOf m.2 ≠ some g.serial) : unitAtRest s h (groupUnit k) = true := by
  show (tabGet s.groups ((((groupUnit k).die * 64 + (groupUnit k).core) * 4 + (groupUnit k).index) * 24 + (groupUnit k).slot)).all _ =
    true
  rw [groupUnit_slot hk, hg, Option.all_some]
  simpa using fun a m hm e => absurd e (hmsg (a, m) hm)

theorem inState_of_mark {ck cause : Nat} {st : CtxState} (h : ctxMark t ck = some (st, cause)) :
    InState t ck st ∧ ∀ y, tabGet t.ctxs ck = some y → y.cause = cause := by
  obtain ⟨y, hy, e⟩ := Option.map_eq_some_iff.mp h
  cases e
  refine ⟨⟨y, hy, rfl⟩, fun z hz => ?_⟩
  rw [hy] at hz
  cases hz
  rfl

/-- A unit that is due and has settled its accesses adds its record, and a group stops where it is. -/
theorem exec_unitStop {p k : Nat} {h : Halt} {c : Ctx} {g : Grp} (hf : s.pkg.frozen = false) (hp : (getPart s p).halt = some h)
    (hc : tabGet s.ctxs h.ctx = some c) (hst : c.state = .halting) (hg : tabGet s.groups k = some g) (hck : g.ctx = h.ctx)
    (hret : g.state ≠ .retired) (hk : k < 512 * 96) (hmsg : ∀ m ∈ s.msgs, msgOf m.2 ≠ some g.serial)
    (hno : c.recs.any (fun r => r.unit == groupUnit k) = false) :
    exec (.unitStop p (groupUnit k)) s = .next (tryHalted (updGroup (withdrawWaits
      (setCtx s h.ctx { c with recs := c.recs ++ groupRecs s h (groupUnit k) g }) k) k
      fun g => { g with state := if g.state = .retired then .retired else .stopped }) p) := by
  have hdue : groupUnit k ∈ stopUnits s h := groupUnit_mem_stopUnits hg hck hret
  have hrest := groupUnit_atRest h hk hg hmsg
  have hcond : (decide (c.state ≠ .halting) || !(stopUnits s h).contains (groupUnit k) || c.recs.any (fun r => r.unit == groupUnit k) ||
      !unitAtRest s h (groupUnit k)) = false := by
    simp [hst, hdue, hno, hrest]
  have hown : (some g).filter (fun g => g.ctx == h.ctx) = some g := by simp [hck]
  refine (event_running hf).trans ?_
  simp only [hp, hc, hcond, Bool.false_eq_true, if_false, groupUnit_slot hk, hg, hown]
  rfl

/-- The record of a group that stops (R187), and the group as it stops (R186). -/
theorem stopped_group {k : Nat} {h : Halt} {c : Ctx} {g : Grp} (hg : tabGet s.groups k = some g) (hck : g.ctx = h.ctx)
    (hret : g.state ≠ .retired) (rs : List StopRec) :
    let t := updGroup (withdrawWaits (setCtx s h.ctx { c with recs := rs }) k) k
      fun g => { g with state := if g.state = .retired then .retired else .stopped }
    t.parts = s.parts ∧ (∃ x, tabGet t.ctxs h.ctx = some { c with recs := rs, core := x }) ∧
      (∀ j, j ≠ k → tabGet t.groups j = tabGet s.groups j) ∧
      ∃ x, tabGet t.groups k = some x ∧ x.state = .stopped ∧ x.pc = g.pc ∧ x.em = g.em ∧ x.v = g.v ∧ x.s = g.s := by
  have hg1 : tabGet (setCtx s h.ctx { c with recs := rs }).groups k = some g := hg
  obtain ⟨g1, hstill, hgs⟩ := withdrawWaits_groups hg1
  obtain ⟨x, hcs⟩ := withdrawWaits_ctxs hg1
  refine ⟨withdrawWaits_parts _ k, ⟨x { c with recs := rs }, ?_⟩, fun j hj => ?_,
    { g1 with state := .stopped }, ?_, rfl, ?_⟩
  · rw [updGroup_ctxs, hcs, hck, setCtx_ctxs, tabUpd_put, tabGet_put_same]
  · rw [updGroup_groups, hgs, tabUpd_put, tabGet_put_other _ _ (Ne.symm hj)]
    rfl
  · rw [updGroup_groups, hgs, tabUpd_put, tabGet_put_same, hstill]
    simp only [hret, if_false]
  · rw [hstill]
    exact ⟨rfl, rfl, rfl, rfl⟩

/-- Settles O41: a raised line turns RUNNING to HALTING, a stop adds the unit's record and waits for the others, and the last stop
sends the context to its save. -/
theorem haltSteps : Obligations.HaltSteps := by
  unfold Obligations.HaltSteps
  intro s p v
  refine ⟨fun hrun hst c hc hf => ?rise, fun h c k g hp hc hst hg hck hret hk hpair hmsg hno hother hf => ?stop,
    fun h c u hp hc hst htear hdone hset _ hu hf => ?last⟩
  case rise =>
    obtain ⟨y, hy, hys⟩ := hst
    obtain ⟨-, hm⟩ := haltRise_running hy (.inl hys) c noUnit 0 0 false
    refine ⟨haltRise s (v * 16 + (getVf s v).cur) c noUnit 0 0 false, ?_, inState_of_mark ((hm _).trans (if_pos rfl))⟩
    refine (event_running hf).trans ?_
    simp [hrun, hy, hys, Nat.mod_eq_of_lt hc]
  case stop =>
    have hexec := exec_unitStop hf hp hc hst hg hck hret hk hmsg hno
    obtain ⟨j, x, hj, hxck, hxret, -, hne, hxno⟩ := hother
    obtain ⟨hparts, ⟨cores, hctx⟩, hothers, hself⟩ := stopped_group (c := c) hg hck hret (c.recs ++ groupRecs s h (groupUnit k) g)
    generalize updGroup _ k _ = t at hexec hparts hctx hothers hself
    obtain ⟨r, hrec, hunit, hgid, hgts, hpc, horigin⟩ : ∃ r, groupRecs s h (groupUnit k) g = [r] ∧ r.unit = groupUnit k ∧
        r.gid = gidOf g ∧ r.gts = s.gts ∧ (g.faultPc = none → r.pc = (shownPath g).1) ∧
        r.origin = (ownOf h (groupUnit k)).isSome := by
      simp only [groupRecs, hpair, Bool.false_eq_true, if_false, List.map_cons, List.map_nil]
      exact ⟨_, rfl, rfl, rfl, rfl, fun hno => by rw [hno]; rfl, rfl⟩
    have hwaits : tryHalted t p = t := by
      have hjt : tabGet t.groups j = some x := by rw [hothers j fun e => hne (by rw [e]), hj]
      refine tryHalted_waits (by rw [getPart, hparts, ← getPart, hp]) hctx (groupUnit_mem_stopUnits hjt hxck hxret) ?_
      rw [List.any_append, hxno, hrec]
      simp [hunit, Ne.symm hne]
    rw [hwaits] at hexec
    exact ⟨t, hexec, ⟨_, hctx, hst⟩, ⟨_, r, hctx, by rw [hrec], hunit, hgid, hgts, hpc, horigin⟩, hself⟩
  case last =>
    obtain ⟨hmark, hhalt, hgone, hsaved⟩ := tryHalted_done hp hc hst htear hdone hset
    obtain ⟨hin, hcause⟩ := inState_of_mark hmark
    refine ⟨tryHalted s p, ?_, hin, hhalt, hgone, fun y hy => ⟨hcause y hy, fun k g hg hck => ?_⟩⟩
    · refine (event_running hf).trans ?_
      simp [hp, hc, hu]
    · exact Option.isSome_iff_exists.mp (hsaved y hy k g hg hck)

end Sys2Proof.Proofs.Contexts

/-! # Commands to a context (R180 to R183, R195) -/

namespace Sys2Proof.Proofs.ContextCommands

open Sys2Proof Sys2Proof.Machine Sys2Proof.Claims Sys2Proof.Proofs.Device Sys2Proof.Proofs.Contexts

variable {s t : State}

/-! What a halt request and a teardown leave of a context (R183). -/

theorem haltAtOnce_mark {ck : Nat} {c : Ctx} (hc : tabGet s.ctxs ck = some c) (cause : Nat) :
    ctxMark (haltAtOnce s ck cause) ck = some (.halted, cause) := by
  obtain ⟨-, hm⟩ := eventPush_rose (haltCause (updCtx s ck fun c => { c with state := .halted, cause := cause }) ck) ck 1 cause 0 0
  rw [haltAtOnce, hm]
  simp only [ctxMark, haltCause, updVf_ctxs, updCtx_ctxs, tabGet_upd, if_pos, hc, Option.map_some]

/-- A cause that reaches a context which is off its partition halts it at once. -/
theorem haltRise_off {ck : Nat} {c : Ctx} (hc : tabGet s.ctxs ck = some c) (hs : c.state = .loaded ∨ c.state = .saved ∨ c.state = .restoring)
    (cause : Nat) (unit : UnitId) (gid addr : Nat) (own : Bool) :
    ctxMark (haltRise s ck cause unit gid addr own) ck = some (.halted, cause) := by
  have hgone : ∃ d, tabGet (abandonRestore s ck).ctxs ck = some d := by
    obtain ⟨-, hm⟩ := abandonRestore_rose s ck
    obtain ⟨d, hd, -⟩ := Option.map_eq_some_iff.mp ((hm ck).trans (congrArg _ hc))
    exact ⟨d, hd⟩
  obtain ⟨d, hd⟩ := hgone
  rcases hs with hs | hs | hs
  · simp only [haltRise, hc, hs]
    exact haltAtOnce_mark hc cause
  · simp only [haltRise, hc, hs]
    exact haltAtOnce_mark hc cause
  · simp only [haltRise, hc, hs]
    exact haltAtOnce_mark hd cause

/-- The context under a line that rises, field by field. -/
theorem haltRise_ctx {ck : Nat} {c : Ctx} (hc : tabGet s.ctxs ck = some c) (hs : c.state = .running) (cause : Nat) (unit : UnitId)
    (gid addr : Nat) (own : Bool) :
    tabGet (haltRise s ck cause unit gid addr own).ctxs ck =
      some { c with state := .halting, cause := cause, recs := [], faults := [], poolAsks := [] } := by
  simp only [haltRise, hc, hs]
  rw [(txHalts_lineRose _ _).2]
  show tabGet (tabUpd (tabPut s.ctxs ck _) ck _) ck = _
  rw [tabUpd_put, tabGet_put_same]

/-- A context without grids leaves its slot with all that was its own. -/
theorem emptyCtx_clears {ck : Nat} {c : Ctx} (hc : tabGet s.ctxs ck = some c) (hgrids : ∀ g ∈ s.grids, g.2.ctx ≠ ck) :
    ∃ u, Settled u (emptyCtx s ck) ∧ u.ctxs = tabDel s.ctxs ck ∧ u.mem = s.mem ∧ u.groups = s.groups.filter (fun g => g.2.ctx != ck) ∧
      u.teams = s.teams.filter (fun t => t.2.ctx != ck) ∧ u.accs = s.accs.filter (fun a => a.2.ctx != ck) ∧
      u.ops = s.ops.filter (fun o => o.2.ctx != ck) := by
  have hnone : tabKeys s.grids (fun _ g => g.ctx == ck) = [] := by
    simpa [tabKeys, List.filter_eq_nil_iff] using fun k g hg => hgrids (k, g) hg
  simp only [emptyCtx, hc, hnone, List.foldl_nil]
  exact ⟨_, settlePart_settled _ _, rfl, rfl, rfl, rfl, rfl, rfl⟩

theorem refuse_create {v n : Nat} {w : W64} (hv : v < 384) (hop : cmdOp w = 1) (hslot : cmdSlot w = n) (hbusy : busyVf s v = false)
    (hbad : (tabGet s.ctxs (v * 16 + n)).isSome = true ∨ inWell s (fld w 51 7 * 128) 128 = false ∨
      ∃ desc, readDesc s v (fld w 51 7 * 128) = .ok desc ∧ descOk s v desc = false) :
    Acts (.ctxCreate v w) s (updVf s v fun x => { x with cause := fcIllegalOpnd }) := by
  refine fun hf => (event_running hf).trans ?_
  by_cases hearly : (tabGet s.ctxs (v * 16 + n)).isSome = true ∨ inWell s (fld w 51 7 * 128) 128 = false
  · simp [hop, hslot, hv.not_ge, hbusy, hearly, refuseCmd]
  · obtain ⟨desc, hdesc, hno⟩ := (or_assoc.mpr hbad).resolve_left hearly
    simp [hop, hslot, hv.not_ge, hbusy, hearly, hdesc, hno, refuseCmd]

theorem exec_ctxSwitch {v n : Nat} {w : W64} {y c : Ctx} (hf : s.pkg.frozen = false) (hv : v < 384) (hop : cmdOp w = 2)
    (hslot : cmdSlot w = n) (hbusy : busyVf s v = false) (hy : tabGet s.ctxs (v * 16 + n) = some y)
    (hys : y.state = .loaded ∨ y.state = .saved) (hc : tabGet s.ctxs (v * 16 + (getVf s v).cur) = some c) :
    exec (.ctxSwitch v w) s = .next (
      if c.state = .running then
        acceptCmd (setCtx s (v * 16 + (getVf s v).cur) { c with state := .saving, switchTo := some n }) v
      else if c.state = .halting then refuseCmd s v
      else settlePart (acceptCmd (updVf s v fun x => { x with cur := n, gsp := true }) v) (ctxPart y)) := by
  have hfit : (y.state == .loaded || y.state == .saved) = true := by simpa using hys
  refine (event_running hf).trans ?_
  simp only [hop, hslot, hbusy, hy, hfit, hc, hv.not_ge, ne_eq, not_true_eq_false, decide_false, Bool.or_self, Bool.false_eq_true,
    if_false, Bool.not_true]

theorem inEither {ck : Nat} {a b : CtxState} (h : InState s ck a ∨ InState s ck b) :
    ∃ y, tabGet s.ctxs ck = some y ∧ (y.state = a ∨ y.state = b) := by
  rcases h with ⟨y, hy, e⟩ | ⟨y, hy, e⟩
  · exact ⟨y, hy, .inl e⟩
  · exact ⟨y, hy, .inr e⟩

theorem inAny {ck : Nat} {a b c : CtxState} (h : InState s ck a ∨ InState s ck b ∨ InState s ck c) :
    ∃ y, tabGet s.ctxs ck = some y ∧ (y.state = a ∨ y.state = b ∨ y.state = c) := by
  rcases h with ⟨y, hy, e⟩ | h
  · exact ⟨y, hy, .inl e⟩
  · obtain ⟨y, hy, e⟩ := inEither h
    exact ⟨y, hy, .inr e⟩

/-- A halted context that resumes is SAVED, with an event record. -/
theorem resumeCtx_halted {ck : Nat} {c : Ctx} (hc : tabGet s.ctxs ck = some c) (hs : c.state = .halted) :
    ctxMark (resumeCtx s ck) ck = some (.saved, c.cause) ∧ (resumeCtx s ck).groups = s.groups := by
  simp only [resumeCtx, hc, hs, if_true]
  obtain ⟨hw, -⟩ := eventPush_rest (setCtx s ck { c with state := .saved }) ck 6 0 (ck % 16) 0
  obtain ⟨-, hm⟩ := eventPush_rose (setCtx s ck { c with state := .saved }) ck 6 0 (ck % 16) 0
  refine ⟨(hm ck).trans ?_, by rw [hw.same, setCtx_groups]⟩
  rw [ctxMark_setCtx, if_pos rfl]

theorem ctxCommands_holds (s : State) (v n : Nat) (w : W64) : ctxCommands s v n w := by
  intro hv
  have hvf : ¬ 384 ≤ v := hv.not_ge
  refine ⟨fun desc ⟨hop, hslot⟩ hbusy hnone hwell hdesc hok hf => ?create, fun ⟨hop, hslot⟩ hbusy hbad => ?createBad,
    fun c ⟨hop, hslot⟩ hbusy hin hc => ⟨fun hst hf => ?switchRunning, fun hst hf => ?switchHalting, fun hst hf => ?switchHalted⟩,
    fun ⟨hop, hslot⟩ hbusy hnone hf => ?switchEmpty, fun ⟨hop, hslot⟩ hin hf => ?haltRunning, fun ⟨hop, hslot⟩ hin hf => ?haltOff,
    fun ⟨hop, hslot⟩ hbusy hin hf => ?resume, fun ⟨hop, hslot⟩ hbusy hin hf => ?resumeBad,
    fun ⟨hop, hslot⟩ hin hgrids hf => ?teardown, fun ⟨hop, hslot⟩ hin hf => ?teardownRunning⟩
  case create =>
    obtain ⟨p, hp⟩ : ∃ p, (if s.ctxs.isEmpty then { s with pkg := { s.pkg with pool := fld (desc.getD 8 0) 19 16 } } else s) =
        { s with pkg := p } := by
      split
      · exact ⟨_, rfl⟩
      · exact ⟨s.pkg, rfl⟩
    have hget : tabGet (tabPut s.ctxs (v * 16 + n) (newCtx desc)) (v * 16 + n) = some (newCtx desc) := tabGet_put_same ..
    refine ⟨acceptCmd (setCtx { s with pkg := p } (v * 16 + n) (newCtx desc)) v, ?_, ⟨_, hget, rfl⟩, rfl, rfl, fun y hy => ?_,
      fun j hj => tabGet_put_other _ _ (Ne.symm hj)⟩
    · refine (event_running hf).trans ?_
      rw [← hp]
      simp [cmdOp, hop, cmdSlot, hslot, hvf, hbusy, hnone, hwell, hdesc, hok]
    · cases hget.symm.trans hy
      exact ⟨rfl, rfl, rfl⟩
  case createBad => exact refuse_create hv hop hslot hbusy hbad
  case switchRunning =>
    obtain ⟨y, hy, hys⟩ := inEither hin
    rw [exec_ctxSwitch hf hv hop hslot hbusy hy hys hc, if_pos hst]
    rfl
  case switchHalting =>
    obtain ⟨y, hy, hys⟩ := inEither hin
    rw [exec_ctxSwitch hf hv hop hslot hbusy hy hys hc, hst]
    rfl
  case switchHalted =>
    obtain ⟨y, hy, hys⟩ := inEither hin
    have hsettle := settlePart_settled (acceptCmd (updVf s v fun x => { x with cur := n, gsp := true }) v) (ctxPart y)
    obtain ⟨hcur, hgsp⟩ := hsettle.vf v
    refine ⟨_, (exec_ctxSwitch hf hv hop hslot hbusy hy hys hc).trans ?_, hcur.trans ?_, hgsp.trans ?_, hsettle.ctxs⟩
    · rw [hst]
      rfl
    · simp [acceptCmd, getVf_updVf]
    · simp [acceptCmd, getVf_updVf]
  case switchEmpty =>
    refine (event_running hf).trans ?_
    simp [cmdOp, hop, cmdSlot, hslot, hvf, hbusy, hnone, refuseCmd]
  case haltRunning =>
    obtain ⟨y, hy, hst⟩ := hin
    obtain ⟨hl, hm⟩ := haltRise_running (s := acceptCmd s v) hy (.inl hst) fcHaltReq noUnit 0 0 false
    have hsettle := settlePart_settled (haltRise (acceptCmd s v) (v * 16 + n) fcHaltReq noUnit 0 0 false) (ctxPart y)
    obtain ⟨hin, hcause⟩ := inState_of_mark ((ctxMark_congr hsettle.ctxs _).trans ((hm _).trans (if_pos rfl)))
    refine ⟨_, ?_, hin, hsettle.mem.trans hl.mem, hcause⟩
    refine (event_running hf).trans ?_
    simp [cmdOp, hop, cmdSlot, hslot, hvf, hy, hst]
  case haltOff =>
    obtain ⟨y, hy, hys⟩ := inAny hin
    have hm := haltRise_off (s := acceptCmd s v) hy hys fcHaltReq noUnit 0 0 false
    have hsettle := settlePart_settled (haltRise (acceptCmd s v) (v * 16 + n) fcHaltReq noUnit 0 0 false) (ctxPart y)
    refine ⟨_, ?_, (inState_of_mark ((ctxMark_congr hsettle.ctxs _).trans hm)).1⟩
    refine (event_running hf).trans ?_
    have hno : ¬ (y.state = .halting ∨ y.state = .halted) := by rcases hys with e | e | e <;> simp [e]
    simp [cmdOp, hop, cmdSlot, hslot, hvf, hy, hno]
  case resume =>
    obtain ⟨y, hy, hst⟩ := hin
    obtain ⟨hm, hgs⟩ := resumeCtx_halted (s := acceptCmd s v) hy hst
    have hsettle := settlePart_settled (resumeCtx (acceptCmd s v) (v * 16 + n)) (ctxPart y)
    refine ⟨_, ?_, (inState_of_mark ((ctxMark_congr hsettle.ctxs _).trans hm)).1, hsettle.groups.trans hgs⟩
    refine (event_running hf).trans ?_
    simp [cmdOp, hop, cmdSlot, hslot, hvf, hbusy, hy, hst]
  case resumeBad =>
    obtain ⟨y, hy, hst⟩ := hin
    refine (event_running hf).trans ?_
    simp [cmdOp, hop, cmdSlot, hslot, hvf, hbusy, hy, hst, refuseCmd]
  case teardown =>
    obtain ⟨y, hy, hys⟩ := inAny hin
    obtain ⟨u, hsettle, hcs, hmem, hgs, hts, has, hos⟩ := emptyCtx_clears (s := acceptCmd s v) hy hgrids
    have hteardown : teardown (acceptCmd s v) (v * 16 + n) = emptyCtx (acceptCmd s v) (v * 16 + n) := by
      have hy' : tabGet (acceptCmd s v).ctxs (v * 16 + n) = some y := hy
      rcases hys with e | e | e <;> simp [teardown, hy', e]
    refine ⟨emptyCtx (acceptCmd s v) (v * 16 + n), ?_, ?_, hsettle.mem.trans hmem, ?_, ?_, ?_, ?_, fun k g hg hck => ?_⟩
    · refine (event_running hf).trans ?_
      simp [cmdOp, hop, cmdSlot, hslot, hvf, hy, hteardown]
    · rw [hsettle.ctxs, hcs, tabGet_del, if_pos rfl]
    · rw [hsettle.groups, hgs]
      simp
    · rw [hsettle.teams, hts]
      simp
    · rw [hsettle.same]
      simp [has]
    · rw [hsettle.same]
      simp [hos]
    · rw [hsettle.groups, hgs]
      exact List.mem_filter.mpr ⟨tabGet_mem hg, by simpa using hck⟩
  case teardownRunning =>
    obtain ⟨y, hy, hst⟩ := hin
    have hget : tabGet (setCtx (acceptCmd s v) (v * 16 + n) { y with teardown := true }).ctxs (v * 16 + n) =
      some { y with teardown := true } := tabGet_put_same ..
    have hctx := haltRise_ctx hget hst fcHaltReq noUnit 0 0 false
    refine ⟨_, ?_, ⟨_, hctx, rfl⟩, fun z hz => ?_⟩
    · refine (event_running hf).trans ?_
      have hy' : tabGet (acceptCmd s v).ctxs (v * 16 + n) = some y := hy
      simp [cmdOp, hop, cmdSlot, hslot, hvf, hy, teardown, hst, hy']
    · cases hctx.symm.trans hz
      rfl

/-- Settles O40: each command in the states that R183 lists, and its refusal elsewhere. -/
theorem contextCommandSteps : Obligations.ContextCommandSteps := by
  unfold Obligations.ContextCommandSteps
  exact ctxCommands_holds

end Sys2Proof.Proofs.ContextCommands

/-! # Partitions: their words, and the reclaim of what one has lent (R178, R179, R197) -/

namespace Sys2Proof.Proofs.Quotas

open Sys2Proof Sys2Proof.Machine Sys2Proof.Claims Sys2Proof.Proofs.Device Sys2Proof.Proofs.Contexts

variable {s t : State}

theorem quotas_holds (s : State) (p : Nat) (w : W64) : quotas s p w := by
  intro hp
  have hp' : ¬ 48 ≤ p := hp.not_ge
  refine ⟨fun hw hen hf => ?take, fun hw hen hf => ?taken, fun hw hfree hf => ?drop, fun hw hen hctx hf => ?held⟩
  all_goals refine (event_running hf).trans ?_
  case take =>
    simp only [ge_iff_le, hp', decide_false, hw, hen, Bool.not_true, Bool.or_self, Bool.false_eq_true, if_false]
    congr 3
    funext x
    split <;> rfl
  case taken => simp [hen]
  case drop =>
    have hno : ((getPart s p).w0.getLsbD 0 && !(partCtxs s p).isEmpty) = false := by
      rcases hfree with e | e
      · rw [e, Bool.false_and]
      · simp [e]
    simp only [ge_iff_le, hp', decide_false, hw, hno, Bool.or_self, Bool.false_eq_true, if_false]
    rfl
  case held => simp [hen, hctx]

/-! A reclaim takes the teams that a partition borrowed off a core (R197). -/

/-- Where no bin is of the teams that leave, the cores keep theirs. -/
theorem takeBins_none {ck : Nat} {q : Bin → Bool} (h : ∀ c ∈ s.cores, ∀ b ∈ c.2.bins, q b.2 = false) : takeBins s ck q = s := by
  unfold takeBins
  refine List.foldlRecOn (motive := (· = s)) _ _ rfl fun t ht c hc => ?_
  have hnone : c.2.bins.filter (fun b => q b.2) = [] := List.filter_eq_nil_iff.mpr fun b hb => by simp [h c hc b hb]
  simp [hnone, ht]

theorem withdrawWaits_bins {k : Nat} {c : Nat × Core} (hc : c ∈ (withdrawWaits s k).cores) : ∃ d ∈ s.cores, d.2.bins = c.2.bins := by
  unfold withdrawWaits at hc
  split at hc
  · exact ⟨c, hc, rfl⟩
  · obtain ⟨d, hd, rfl⟩ := List.mem_map.mp hc
    exact ⟨d, hd, rfl⟩

theorem withdrawWaits_team {k tk : Nat} (h : (tabGet s.teams tk).isSome = true) : (tabGet (withdrawWaits s k).teams tk).isSome = true := by
  unfold withdrawWaits
  split
  · exact h
  · rw [updCtx_teams, tabGet_map]
    simpa using h

/-- The bins of the cores and the teams, through the save of one group. -/
theorem saveGroup_bins {w : Bool} {k : Nat} {c : Nat × Core} (hc : c ∈ (saveGroup w s k).cores) : ∃ d ∈ s.cores, d.2.bins = c.2.bins := by
  cases hg : tabGet s.groups k with
  | none =>
    rw [saveGroup_none hg] at hc
    exact ⟨c, hc, rfl⟩
  | some g =>
    obtain ⟨_, _, _, _, _, -, -, -, hcores, -⟩ := saveGroup_shape w hg
    exact withdrawWaits_bins (hcores ▸ hc)

theorem saveGroup_team {w : Bool} {k tk : Nat} (h : (tabGet s.teams tk).isSome = true) : (tabGet (saveGroup w s k).teams tk).isSome = true := by
  cases hg : tabGet s.groups k with
  | none =>
    rw [saveGroup_none hg]
    exact h
  | some g =>
    obtain ⟨_, _, _, m, f, -, -, -, -, hteams, -⟩ := saveGroup_shape w hg
    have hs := withdrawWaits_team (k := k) h
    rw [hteams, tabGet_upd]
    split
    · next e => simpa [e] using hs
    · exact hs

theorem saveGroups_bins {w : Bool} {ks : List Nat} {c : Nat × Core} (hc : c ∈ (ks.foldl (saveGroup w) s).cores) :
    ∃ d ∈ s.cores, d.2.bins = c.2.bins := by
  induction ks generalizing s with
  | nil => exact ⟨c, hc, rfl⟩
  | cons k ks ih =>
    obtain ⟨d, hd, e⟩ := ih hc
    obtain ⟨d', hd', e'⟩ := saveGroup_bins hd
    exact ⟨d', hd', e'.trans e⟩

theorem saveGroups_team {w : Bool} {tk : Nat} (ks : List Nat) (h : (tabGet s.teams tk).isSome = true) :
    (tabGet (ks.foldl (saveGroup w) s).teams tk).isSome = true :=
  List.foldlRecOn (motive := fun t : State => (tabGet t.teams tk).isSome = true) _ _ h fun _ ht _ _ => saveGroup_team ht

/-- A team that leaves its core is no longer borrowed, and its rows are away. -/
theorem teamAway_some {tk : Nat} (h : (tabGet s.teams tk).isSome = true) :
    ∃ y, tabGet (teamAway s tk).teams tk = some y ∧ y.borrowed = none ∧ y.away.isSome = true := by
  obtain ⟨x, hx⟩ := Option.isSome_iff_exists.mp h
  simp only [teamAway, hx]
  exact ⟨_, tabGet_put_same .., rfl, rfl⟩

theorem teamAway_rest (s : State) (tk : Nat) :
    (teamAway s tk).groups = s.groups ∧ (teamAway s tk).ctxs = s.ctxs ∧ (teamAway s tk).parts = s.parts := by
  unfold teamAway
  split <;> exact ⟨rfl, rfl, rfl⟩

/-- The groups of one team that a reclaim takes, and their serial numbers. -/
def reclaimed (s : State) (tk : Nat) : List Nat := tabKeys s.groups fun _ g => [tk].contains g.team && g.state != .retired

def reclaimedSerials (s : State) (tk : Nat) : List Nat := (reclaimed s tk).filterMap fun k => (tabGet s.groups k).map (·.serial)

theorem mem_reclaimed {tk k : Nat} {g : Grp} (hn : (s.groups.map (·.1)).Nodup) (hg : tabGet s.groups k = some g) :
    k ∈ reclaimed s tk ↔ g.team = tk ∧ g.state ≠ .retired := by
  unfold reclaimed tabKeys
  simp only [List.mem_map, List.mem_filter, Prod.exists, exists_and_right, exists_eq_right]
  constructor
  · rintro ⟨g', hmem, hp⟩
    have e := tabGet_of_mem hn hmem
    rw [hg] at e
    cases e
    simpa using hp
  · exact fun hp => ⟨g, tabGet_mem hg, by simpa using hp⟩

theorem exec_reclaim {p core tk : Nat} {x : Team} (hf : s.pkg.frozen = false)
    (htk : tabKeys s.teams (fun _ t => t.borrowed == some p && t.core == core) = [tk]) (hx : tabGet s.teams tk = some x)
    (hdue : reclaimDue s p = true) (hnone : (getPart s p).reclaim = none) (hacc : s.accs = []) (hmsg : s.msgs = [])
    (hgs : ∀ g ∈ s.groups, g.2.team = tk → g.2.ctx = x.ctx ∧ g.2.state ≠ .retired ∧ g.2.tx.state = .none ∧ g.2.mark.valid = false)
    (hn : (s.groups.map (·.1)).Nodup) :
    exec (.reclaim p core) s = .next (updPart (teamAway (takeBins (withdrawGroups ((reclaimed s tk).foldl (saveGroup false) s)
      (reclaimedSerials s tk)) x.ctx fun b => [tk].contains b.team) tk) p
      fun y => { y with reclaim := some (x.ctx, reclaimedSerials s tk, 0) }) := by
  have hsettled : (reclaimed s tk).any (fun k => (tabGet s.groups k).any fun g => !grpSettled s g) = false := by
    refine List.any_eq_false.mpr fun k hk => ?_
    cases hg : tabGet s.groups k with
    | none => simp
    | some g =>
      obtain ⟨-, -, htx, -⟩ := hgs (k, g) (tabGet_mem hg) ((mem_reclaimed hn hg).mp hk).1
      dsimp only at htx
      simp [grpSettled, htx, hacc]
  have hretired : s.groups.any (fun g => [tk].contains g.2.team && g.2.state == .retired) = false := by
    refine List.any_eq_false.mpr fun g hg => ?_
    by_cases e : g.2.team = tk
    · simp [(hgs g hg e).2.1]
    · simp [e]
  refine (event_running hf).trans ?_
  unfold reclaimedSerials
  unfold reclaimed at hsettled ⊢
  simp only [htk, List.head?_cons, Option.bind_some, hx, hdue, hnone, hmsg, hsettled, hretired, Bool.not_true, Option.isSome_none,
    List.any_nil, Bool.or_self, Bool.false_eq_true, if_false]
  rfl

theorem eventPush_ready {ck kind sub a0 a1 : Nat} {c : Ctx} (hc : tabGet s.ctxs ck = some c) (hfull : ringFull c .event = false) :
    tabGet (eventPush s ck kind sub a0 a1).ctxs ck = some { c with ev := { c.ev with head := (c.ev.head + 1) % 2 ^ 32 } } := by
  simp only [eventPush, ringPush, hc, hfull, Bool.false_eq_true, if_false, updCtx_ctxs]
  rw [(devWrite_wrote s ck _ _).same]
  simp only [tabGet_upd, if_true, hc]
  rfl

theorem eventPush_groups (s : State) (ck kind sub a0 a1 : Nat) :
    (eventPush s ck kind sub a0 a1).groups = s.groups ∧ (eventPush s ck kind sub a0 a1).parts = s.parts := by
  rw [(eventPush_rest s ck kind sub a0 a1).1.same]
  exact ⟨rfl, rfl⟩

/-- With no group to be placed again and no bin, a context that runs on its partition gets nothing back. -/
theorem restoreBins_none {ck : Nat} {c : Ctx} (hc : tabGet s.ctxs ck = some c) (hbins : c.savedBins = []) : restoreBins s ck = s := by
  simp [restoreBins, hc, hbins]

theorem exec_reclaimComplete {p ck e : Nat} {sers : List Nat} {c : Ctx} (hf : s.pkg.frozen = false)
    (hr : (getPart s p).reclaim = some (ck, sers, e)) (hc : tabGet s.ctxs ck = some c)
    (hidle : c.state ≠ .running ∨ (sers = [] ∧ c.savedBins = [])) :
    exec (.reclaimComplete p) s =
      .next (eventPush (updPart s p fun x => { x with reclaim := none }) ck 7 0 sers.length 0) := by
  have hc0 : tabGet (updPart s p fun x => { x with reclaim := none }).ctxs ck = some c := hc
  refine (event_running hf).trans ?_
  by_cases hrun : c.state = .running
  · obtain ⟨rfl, hbins⟩ := hidle.resolve_left (not_not_intro hrun)
    simp [hr, hc, hrun, requeueAll, restoreBins_none hc0 hbins]
  · simp [hr, hc, hrun]

theorem reclaims_holds (s : State) (p core : Nat) : reclaims s p core := by
  refine ⟨fun tk x htk hx hbor hcore hdue hnone hacc hmsg hgs hn hctx hbins hf => ?start, fun ck sers e c hr hc hidle hfull hf => ?complete⟩
  case start =>
    have hexec := exec_reclaim (core := core) hf htk hx hdue hnone hacc hmsg hgs hn
    generalize reclaimedSerials s tk = sers at hexec
    have hgroups := saveGroups_groups false (reclaimed s tk) s
    have hgroup := saveGroups_group false (reclaimed s tk) s
    have hteam := saveGroups_team (w := false) (reclaimed s tk) (Option.isSome_iff_exists.mpr ⟨x, hx⟩)
    have hkeep : takeBins (withdrawGroups ((reclaimed s tk).foldl (saveGroup false) s) sers) x.ctx (fun b => [tk].contains b.team) =
        withdrawGroups ((reclaimed s tk).foldl (saveGroup false) s) sers := by
      refine takeBins_none fun c hc b hb => ?_
      obtain ⟨d, hd, e⟩ := saveGroups_bins (show c ∈ ((reclaimed s tk).foldl (saveGroup false) s).cores from hc)
      simpa using hbins d hd b (e ▸ hb)
    rw [hkeep] at hexec
    obtain ⟨hag, hac, -⟩ := teamAway_rest (withdrawGroups ((reclaimed s tk).foldl (saveGroup false) s) sers) tk
    obtain ⟨y, hy, hyb, hya⟩ := teamAway_some (s := withdrawGroups ((reclaimed s tk).foldl (saveGroup false) s) sers) hteam
    refine ⟨_, hexec, ?_, fun g hg hgt => ?_, ⟨y, hy, hyb, hya⟩, fun k g hg hgt => ?_, fun k g hg hgt => ?_⟩
    · rw [getPart_updPart, if_pos rfl]
      rfl
    · rw [updPart_groups, hag] at hg
      obtain ⟨hmem, hno⟩ := List.mem_filter.mp ((congrArg (g ∈ ·) hgroups).mp hg)
      have hget := tabGet_of_mem hn hmem
      exact (of_decide_eq_true hno) ((mem_reclaimed hn hget).mpr ⟨hgt, (hgs g hmem hgt).2.1⟩)
    · obtain ⟨hgc, hret, -, hmark⟩ := hgs (k, g) (tabGet_mem hg) hgt
      dsimp only at hgc hret hmark
      obtain ⟨c, hc⟩ := Option.isSome_iff_exists.mp hctx
      obtain ⟨d, hd, hsaved⟩ := saveGroups_saved (w := false) ((mem_reclaimed hn hg).mpr ⟨hgt, hret⟩) hg
        (.inr (by simp [rewinds, hmark])) (hgc ▸ hc)
      obtain ⟨h, hh⟩ := Option.isSome_iff_exists.mp hsaved
      refine ⟨d, h, ?_, hh⟩
      rw [updPart_ctxs, hac, ← hgc]
      exact hd
    · rw [updPart_groups, hag]
      exact (hgroup k).trans ((if_neg fun hk => hgt ((mem_reclaimed hn hg).mp hk).1).trans hg)
  case complete =>
    obtain ⟨hgs, hps⟩ := eventPush_groups (updPart s p fun x => { x with reclaim := none }) ck 7 0 sers.length 0
    refine ⟨_, exec_reclaimComplete hf hr hc hidle, ?_, hgs, eventPush_ready hc hfull⟩
    rw [getPart, hps, ← getPart, getPart_updPart, if_pos rfl]

/-- Settles O39: a partition's words, and what a reclaim takes off a core and reports. -/
theorem quotaAndReclaimSteps : Obligations.QuotaAndReclaimSteps := by
  unfold Obligations.QuotaAndReclaimSteps
  exact fun s p w core => ⟨quotas_holds s p w, reclaims_holds s p core⟩

end Sys2Proof.Proofs.Quotas
